-- ==== Sys2Proof/Word.lean ====
section
/-!
DEFINITION. The word types of the Zhevaux Z2 and their plainest arithmetic (R1, R2, R12).
-/
namespace Sys2Proof

/-- A scalar register, an address, a program counter: 64 bits (R12, R21). -/
abbrev Word := BitVec 64

/-- One byte of memory. -/
abbrev Byte := BitVec 8

/-- A scalar register number s0–s31 (R155). -/
abbrev Reg := BitVec 5

/-- A region register number q0–q15 (R59). -/
abbrev QReg := BitVec 4

/-- A vector register number v0–v63 (R160). -/
abbrev VReg := BitVec 6

/-- An address register number a0–a15 of a vector context (R160). -/
abbrev AReg := BitVec 4

/-- Bits [hi:lo] of x as a natural number (Table 6.5, Bits). -/
def bitsOf (x hi lo : Nat) : Nat := x / 2 ^ lo % 2 ^ (hi + 1 - lo)

/-- The value of the low n bits of x as a two's complement number (Table 6.5, Sext). -/
def sextInt (x n : Nat) : Int :=
  let z := x % 2 ^ n
  if 2 * z < 2 ^ n then (z : Int) else (z : Int) - (2 ^ n : Nat)

/-- An exact integer stored modulo 2^64 (R167). -/
def wordOfInt (v : Int) : Word := BitVec.ofInt 64 v

end Sys2Proof
end

