-- ==== Sys2Proof/Syntax.lean ====
section
/-!
DEFINITION. The syntax: one constructor of Instr per row of the opcode table, and the operand types of its rows.
Operands that are fields of an instruction word are bit vectors of the field's width; the operands of event rows are plain
data: indices into the lists of State, and what arrives from a host, another package, the operator or a sensor.
-/
namespace Sys2Proof

/-- The five engine classes of a core (Table 1.3). -/
inductive EngineClass where
  | mat | vec | xp | cpy | row
deriving DecidableEq, Repr

/-- Word 0 of a task form beside its major and SUB (Table 7.3). -/
structure TaskHead where
  tok : Reg
  pri : BitVec 2
  rbase : QReg
  rcnt : BitVec 3
  wbase : QReg
  wcnt : BitVec 2
deriving DecidableEq, Repr

/-- Word 1 of MMD (Table 10.4). -/
structure DrainFields where
  fout : BitVec 4
  rm : BitVec 3
  sat : Bool
  rs : Bool
  cs : Bool
  bi : Bool
  rsf : Bool
  csf : Bool
  tgt : Bool
  clr : Reg
  acci : Bool
deriving DecidableEq, Repr

/-- Word 1 of ROW (Table 10.4). -/
structure RowFields where
  opk : BitVec 2
  fin : BitVec 4
  fout : BitVec 4
  rm : BitVec 3
  sat : Bool
  preg : Reg
  causal : Bool
deriving DecidableEq, Repr

/-- What reaches the network of a hierarchical barrier: the item at index idx of those in flight of this package, or an arrival, or a
configuration with its expected count, that another package sends to a GRP or SYS instance (R42, R199). -/
inductive BarArrival where
  | sent (idx : Nat)
  | outside (scope id : Nat) (who : Nat) (pl : Nat)
  | outsideCfg (scope id : Nat) (who : Nat) (expect : Nat)
deriving DecidableEq, Repr

/-- A safe point (FUNC, ORD) of a program (R306, R369). -/
structure SafePoint where
  func : BitVec 16
  ord : BitVec 16
deriving DecidableEq, Repr

/-- An entry of a breakpoint table (R362). -/
structure Breakpoint where
  sp : SafePoint
  strands : BitVec 4
  cores : List Nat
  skip : Nat
deriving DecidableEq, Repr

/-- A halt request for a partition, with the entries that the debugger writes into its breakpoint table (R362). -/
structure HaltRequest where
  part : Nat
  entries : List (Nat × Breakpoint)
deriving DecidableEq, Repr

/-- A resume of a strand of a core, with the entries that the debugger writes into the breakpoint table (R362, R363). -/
structure ResumeRequest where
  strand : Nat
  entries : List (Nat × Breakpoint)
deriving DecidableEq, Repr

/-- What another package's partition manager asks of this one for a launch whose queue is there (R27, R409): the launch's number at its
package, the identities of all its cores in rank order, what its strands start with, and the fields of its launch descriptor (Table 24.5),
sptab and cktab being the addresses of its two tables. -/
structure GuestLaunch where
  pkg : Nat
  id : Nat
  partno : Nat
  cores : List Nat
  entry : BitVec 64
  args : BitVec 64
  space : Nat
  gp : BitVec 64
  stkbase : Nat
  stksz : Nat
  sptab : Nat
  cktab : Nat
deriving DecidableEq, Repr

/-- The steps of LAUNCH_START: a launch of this package starts; a launch of another package is taken in; one of them starts, with the word of
the queue's package that every core it names is IDLE; another package says that its cores of a launch of this one are IDLE (R27, R409). -/
inductive LaunchBegin where
  | ours (id : Nat)
  | guest (l : GuestLaunch)
  | go (pkg id : Nat)
  | ready (pkg id : Nat)
deriving DecidableEq, Repr

/-- The steps of LAUNCH_COMPLETE: the strands of a launch have ended in this package; or another package reports that its strands of a
launch of this one have ended, or that a launch has failed there, with the cause (R29, R415, R420). -/
inductive LaunchFinish where
  | ours (id : Nat)
  | ended (pkg id : Nat) (failure : Option (Nat × Bool))
deriving DecidableEq, Repr

/-- Whence a fatal stop comes: a strand of a core here, or the stop of a launch that a package sends (R420). -/
inductive FatalSource where
  | core (no : Nat)
  | package (no : Nat)
deriving DecidableEq, Repr

/-- A cumulative acknowledgement of a stream: the number of the last store that has been performed, and the stores that the destination's stage 2
has refused, each by its number with the cause (R124, Table 4.4 check 7). -/
structure StreamAck where
  upTo : BitVec 32
  refused : List (BitVec 32 × Nat)
deriving DecidableEq, Repr

/-- Where a page moves: the free granule that the manager takes, by its intermediate address in the mover's memory, none when there is none; and
the package that moves it (R96). -/
structure MoveGoal where
  granule : Option Nat
  mover : Nat
deriving DecidableEq, Repr

/-- The page that the old home has sent to a mover (R96). -/
structure MovedPage where
  bytes : List Byte
  mover : Nat
deriving DecidableEq, Repr

/-- What a request arriving from another package does at its home (R94, R124). -/
inductive RemoteOp where
  | load
  | store (value : Word) (strand : Nat) (streamSeq : BitVec 32) (flush : Bool)
  /-- A flush marker of a strand's stream (R125). -/
  | marker (strand : Nat)
  | atomic (code : Nat) (x e : Word)
deriving DecidableEq, Repr

/-- A load, store or atomic of another package, performed here (R94, R470). -/
structure RemoteReq where
  pkg : Nat
  who : Nat
  seq : BitVec 16
  partno : Nat
  ipa : Nat
  size : Nat
  op : RemoteOp
deriving DecidableEq, Repr

/-- What another package answers to a load, an atomic or a fetch: a value, or the cause with which the access failed there (R94, R475). -/
inductive Reply where
  | data (value : Word)
  | failed (cause : Nat)
deriving DecidableEq, Repr

/-- An access performed at its home: entry idx of a strand's store buffer, or a request of another package (R189). -/
inductive HomeAccess where
  | buffered (core strand idx : Nat)
  | incoming (req : RemoteReq)
deriving DecidableEq, Repr

/-- A remote post as it reaches an intake (R74, R242, R243). -/
structure RemotePost where
  handle : Word
  who : Nat
  partno : Nat
  tag : BitVec 16
  seq : BitVec 32
  c0 : BitVec 32
  c1 : BitVec 32
  vals : List Word
  reads : List (BitVec 192)
  writes : List (BitVec 192)
  pl : Nat
deriving DecidableEq, Repr

/-- A reservation request at a zone's home (R341). route: the sending package and the link of each hop it has made (R465). reply: core, strand
and register number of a sender of this package. -/
structure ResvRequest where
  who : Nat
  partno : Nat
  a : Word
  b : Word
  route : List (Nat × Nat)
  reply : Option (Nat × Nat × Nat)
deriving DecidableEq, Repr

/-- A CP.R chunk at its receiver: the bytes at their offsets in the slot, and the offsets of those that carry poison (R343, R474). -/
structure CprChunk where
  resv : Word
  bytes : List (Nat × Byte)
  bad : List Nat
  who : Nat
  seq : BitVec 32
  pl : Nat
  route : List (Nat × Nat)
deriving DecidableEq, Repr

/-- A CP.R's arrival at its receiver (R343), from the copy with a post sequence on a core. -/
structure CprArrival where
  resv : Word
  who : Nat
  seq : BitVec 32
  pl : Nat
deriving DecidableEq, Repr

/-- A halo shipment's contents as it travels (R327): core is the destination's identity; cells are index vectors in the destination
buffer with their elements, and bad those that carry poison (R474). -/
structure ShipData where
  core : Nat
  grid : Nat
  step : BitVec 32
  region : Nat
  who : Nat
  esize : Nat
  shape : List Nat
  rules : List Nat
  cells : List (List Nat × Nat)
  bad : List (List Nat)
  pl : Nat
deriving DecidableEq, Repr

/-- A landing shipment: number idx of this package's shipments, or one of another package; or what another package answers to shipment idx
of this one, which has landed there or has been refused (R329, R330). -/
inductive ShipSource where
  | ours (idx : Nat)
  | outside (data : ShipData)
  | answered (idx : Nat) (landed : Bool)
deriving DecidableEq, Repr

/-- A queue table entry's fields (Table 24.2). -/
structure QueueEntry where
  state : Nat
  ring : Nat
  ldesc : Nat
  log2sz : Nat
  partno : Nat
  wdog : Nat
deriving DecidableEq, Repr

/-- What the partition manager is asked to create (R441, Table 26.5): intakes is the list of (core, intake), conns that of (connection, IP
address, UDP port). -/
structure PartRequest where
  partno : Nat
  cores : List Nat
  keyslot : Nat
  s2root : Nat
  savearea : Nat
  plimit : Nat
  tpool : List Nat
  cmap : Nat
  packages : List Nat
  /-- The identities of the partition's cores on other packages (R321). -/
  others : List Nat
  groupCores : Nat
  systemCores : Nat
  barids : BitVec 80
  intakes : List (Nat × Nat)
  queues : List (Nat × QueueEntry)
  conns : List (Nat × Nat × Nat)
  /-- Retransmission times that differ from the default, per connection, in microseconds (R399). -/
  rtos : List (Nat × Nat)
  /-- Host endpoints: number, IP address, queue pair, remote key (R401). -/
  endpoints : List (Nat × Nat × Nat × Nat)
  /-- Remap entries: number, space, vector, connection, event queue (R411). -/
  remap : List (Nat × Nat × Nat × Nat × Nat)
  /-- Entries of the breakpoint table (R362). -/
  breakpoints : List (Nat × Breakpoint)
deriving DecidableEq, Repr

/-- A received Ethernet frame, as the port sorts it (R396, R397). -/
structure Frame where
  size : Nat
  fcsOk : Bool
  plainIp : Bool
  sumsOk : Bool
  mgmtVlan : Bool
  udpPort : Nat
  srcIp : Nat
  srcPort : Nat
  hdr : BitVec 256
  payload : List Byte
deriving DecidableEq, Repr

/-- A reading of the package's sensors (R480, R481): hottest sensor of each die and coolant in 0.1 degrees, power in watts. -/
structure Sensors where
  dies : List Nat
  coolant : Nat
  power : Nat
deriving DecidableEq, Repr

/-- A firmware image: its 256-byte header and its body (Table 26.2). -/
structure FwImage where
  hdr : BitVec 2048
  body : List Byte
deriving DecidableEq, Repr

/-- The values Marten fixes at step 3 of the boot (Table 26.4). -/
structure BootValues where
  mac : Nat
  ip4 : Nat
  ip6 : Nat
  mgmtVlan : Nat
  eqtPort : Nat
  notifyPages : List Nat
  notifySummary : Nat
  faultRings : List Nat
  spaceTable : Nat
  nspaces : Nat
  pkg : Nat
  ngroups : Nat
  linkRecords : Nat
  queueTable : Nat
  remapTable : Nat
deriving DecidableEq, Repr

/-- What a package reset finds: the fuses, the flash, and the outcomes of the trainings (Table 26.1); for each of the 96 links, the width
it trains to and its far end, as a package and a link number, where it is cabled. -/
structure BootInput where
  uds : List Byte
  rootHashes : List (BitVec 512 × Bool)
  minSvn : List Nat
  copyA : FwImage
  copyB : FwImage
  service : FwImage
  phy : FwImage
  config : List Byte
  configSvn : Nat
  configOk : Bool
  values : BootValues
  memoryOk : Bool
  linkWidths : List Nat
  linkPeers : List (Option (Nat × Nat))
  cabledPkg : Nat
deriving DecidableEq, Repr

/-- Where a load puts what it places: the base that the loader chooses, the address of the SAFEPOINT and CKPT tables, the physical
address of the launch descriptor, and the stack regions (R309, R407). -/
structure LoadPlace where
  base : Nat
  tables : Nat
  ldesc : Nat
  stkbase : Nat
  stksz : Nat
deriving DecidableEq, Repr

/-- One constructor per row of the opcode table: 263 instructions of the two instruction sets, then the part's events
(steps that no word encodes), each with the operands that name where it happens and what comes in from outside. -/
inductive Instr where
  /-- Writes the 64-bit sum of a and b to d (R171). -/
  | add (d a b : Reg)
  /-- Writes a minus b to d (R171). -/
  | sub (d a b : Reg)
  /-- Writes the bitwise AND of a and b to d (R171). -/
  | and (d a b : Reg)
  /-- Writes the bitwise OR of a and b to d (R171). -/
  | or (d a b : Reg)
  /-- Writes the bitwise XOR of a and b to d (R171). -/
  | xor (d a b : Reg)
  /-- Writes a AND NOT b to d (R171). -/
  | andn (d a b : Reg)
  /-- Shifts a left by the low 6 bits of b (R171). -/
  | sll (d a b : Reg)
  /-- Shifts a right logically by the low 6 bits of b (R171). -/
  | srl (d a b : Reg)
  /-- Shifts a right arithmetically by the low 6 bits of b (R171). -/
  | sra (d a b : Reg)
  /-- Rotates a right by the low 6 bits of b (R171). -/
  | ror (d a b : Reg)
  /-- Writes 1 when a is less than b as signed values, else 0 (R171). -/
  | slt (d a b : Reg)
  /-- Writes 1 when a is less than b as natural values, else 0 (R171). -/
  | sltn (d a b : Reg)
  /-- Writes the signed minimum of a and b (R171). -/
  | min (d a b : Reg)
  /-- Writes the signed maximum of a and b (R171). -/
  | max (d a b : Reg)
  /-- Writes the natural minimum of a and b (R171). -/
  | minn (d a b : Reg)
  /-- Writes the natural maximum of a and b (R171). -/
  | maxn (d a b : Reg)
  /-- Writes the low 64 bits of the product of a and b (R171). -/
  | mul (d a b : Reg)
  /-- Writes the high 64 bits of the signed product (R171). -/
  | mulh (d a b : Reg)
  /-- Writes the high 64 bits of the natural product (R171). -/
  | mulhn (d a b : Reg)
  /-- Signed division rounding toward zero, with defined results for zero and overflow (R174). -/
  | div (d a b : Reg)
  /-- Natural division, all ones for a zero divisor (R174). -/
  | divn (d a b : Reg)
  /-- Signed remainder with the sign of the dividend (R174). -/
  | rem (d a b : Reg)
  /-- Natural remainder, a for a zero divisor (R174). -/
  | remn (d a b : Reg)
  /-- Counts leading zero bits of a (R171). -/
  | clz (d a : Reg)
  /-- Counts trailing zero bits of a (R171). -/
  | ctz (d a : Reg)
  /-- Counts the one bits of a (R171). -/
  | popc (d a : Reg)
  /-- Reverses the bit order of a (R171). -/
  | brev (d a : Reg)
  /-- Reverses the byte order of a (R171). -/
  | bswap (d a : Reg)
  /-- Writes the low 64 bits of the carry-less product of a and b (R173). -/
  | clmul (d a b : Reg)
  /-- Writes the high 64 bits of the carry-less product of a and b (R173). -/
  | clmulh (d a b : Reg)
  /-- Adds the low 32 bits and sign-extends the result (R171). -/
  | addw (d a b : Reg)
  /-- Subtracts the low 32 bits and sign-extends the result (R171). -/
  | subw (d a b : Reg)
  /-- 32-bit left shift, sign-extended (R171). -/
  | sllw (d a b : Reg)
  /-- 32-bit logical right shift, sign-extended (R171). -/
  | srlw (d a b : Reg)
  /-- 32-bit arithmetic right shift, sign-extended (R171). -/
  | sraw (d a b : Reg)
  /-- Sign-extends a from the width held in b (R175). -/
  | exts (d a b : Reg)
  /-- Zero-extends a from the width held in b (R175). -/
  | extz (d a b : Reg)
  /-- Writes 1 when a equals b (R171). -/
  | seq (d a b : Reg)
  /-- Writes 1 when a differs from b (R171). -/
  | sne (d a b : Reg)
  /-- Adds the sign-extended immediate to a (R176). -/
  | addi (d a : Reg) (imm : BitVec 16)
  /-- ANDs a with the sign-extended immediate (R176). -/
  | andi (d a : Reg) (imm : BitVec 16)
  /-- ORs a with the sign-extended immediate (R176). -/
  | ori (d a : Reg) (imm : BitVec 16)
  /-- XORs a with the sign-extended immediate (R176). -/
  | xori (d a : Reg) (imm : BitVec 16)
  /-- Signed compare of a with the immediate (R176). -/
  | slti (d a : Reg) (imm : BitVec 16)
  /-- Natural compare of a with the sign-extended immediate (R176). -/
  | sltni (d a : Reg) (imm : BitVec 16)
  /-- Shifts a left by an immediate amount (R177). -/
  | slli (d a : Reg) (n : BitVec 6)
  /-- Shifts a right logically by an immediate amount (R177). -/
  | srli (d a : Reg) (n : BitVec 6)
  /-- Shifts a right arithmetically by an immediate amount (R177). -/
  | srai (d a : Reg) (n : BitVec 6)
  /-- Rotates a right by an immediate amount (R177). -/
  | rori (d a : Reg) (n : BitVec 6)
  /-- Loads the immediate into bits 31:16, sign-extended, clearing bits 15:0 (R178). -/
  | lih (d : Reg) (imm : BitVec 16)
  /-- Writes the address of the word plus four times the immediate (R178). -/
  | addpc (d : Reg) (imm : BitVec 16)
  /-- Branches when a equals b (R180). -/
  | beq (a b : Reg) (off : BitVec 16)
  /-- Branches when a differs from b (R180). -/
  | bne (a b : Reg) (off : BitVec 16)
  /-- Branches when a is signed-less than b (R180). -/
  | blt (a b : Reg) (off : BitVec 16)
  /-- Branches when a is signed-greater or equal to b (R180). -/
  | bge (a b : Reg) (off : BitVec 16)
  /-- Branches when a is naturally less than b (R180). -/
  | bltn (a b : Reg) (off : BitVec 16)
  /-- Branches when a is naturally greater or equal to b (R180). -/
  | bgen (a b : Reg) (off : BitVec 16)
  /-- Jumps by a 21-bit word offset and writes the return address (R181). -/
  | jal (d : Reg) (off : BitVec 21)
  /-- Jumps to a plus the immediate with bits 1:0 cleared and writes the return address (R182). -/
  | jalr (d a : Reg) (imm : BitVec 16)
  /-- Loads one byte, sign-extended (R185). -/
  | ldI8 (d a : Reg) (imm : BitVec 12)
  /-- Loads two bytes, sign-extended (R185). -/
  | ldI16 (d a : Reg) (imm : BitVec 12)
  /-- Loads four bytes, sign-extended (R185). -/
  | ldI32 (d a : Reg) (imm : BitVec 12)
  /-- Loads eight bytes (R185). -/
  | ld64 (d a : Reg) (imm : BitVec 12)
  /-- Loads one byte, zero-extended (R185). -/
  | ldN8 (d a : Reg) (imm : BitVec 12)
  /-- Loads two bytes, zero-extended (R185). -/
  | ldN16 (d a : Reg) (imm : BitVec 12)
  /-- Loads four bytes, zero-extended (R185). -/
  | ldN32 (d a : Reg) (imm : BitVec 12)
  /-- Stores the low byte of d (R185). -/
  | st8 (d a : Reg) (imm : BitVec 12)
  /-- Stores the low two bytes of d (R185). -/
  | st16 (d a : Reg) (imm : BitVec 12)
  /-- Stores the low four bytes of d (R185). -/
  | st32 (d a : Reg) (imm : BitVec 12)
  /-- Stores eight bytes of d (R185). -/
  | st64 (d a : Reg) (imm : BitVec 12)
  /-- Stores eight bytes with the flush bit, bringing the stream acknowledgement forward (R126). -/
  | st64F (d a : Reg) (imm : BitVec 12)
  /-- Atomic add at the home, returning the old value (R192). -/
  | atomAdd (d a b : Reg) (ar : Bool) (scope : BitVec 3) (wide : Bool)
  /-- Atomic AND, returning the old value (R192). -/
  | atomAnd (d a b : Reg) (ar : Bool) (scope : BitVec 3) (wide : Bool)
  /-- Atomic OR, returning the old value (R192). -/
  | atomOr (d a b : Reg) (ar : Bool) (scope : BitVec 3) (wide : Bool)
  /-- Atomic XOR, returning the old value (R192). -/
  | atomXor (d a b : Reg) (ar : Bool) (scope : BitVec 3) (wide : Bool)
  /-- Atomic exchange, returning the old value (R192). -/
  | atomXchg (d a b : Reg) (ar : Bool) (scope : BitVec 3) (wide : Bool)
  /-- Atomic compare-and-swap against the value in d (R192). -/
  | atomCas (d a b : Reg) (ar : Bool) (scope : BitVec 3) (wide : Bool)
  /-- Atomic signed minimum (R192). -/
  | atomMin (d a b : Reg) (ar : Bool) (scope : BitVec 3) (wide : Bool)
  /-- Atomic signed maximum (R192). -/
  | atomMax (d a b : Reg) (ar : Bool) (scope : BitVec 3) (wide : Bool)
  /-- Atomic natural minimum (R192). -/
  | atomMinn (d a b : Reg) (ar : Bool) (scope : BitVec 3) (wide : Bool)
  /-- Atomic natural maximum (R192). -/
  | atomMaxn (d a b : Reg) (ar : Bool) (scope : BitVec 3) (wide : Bool)
  /-- Atomic F32 add under RNE (R193). -/
  | atomFadd (d a b : Reg) (ar : Bool) (scope : BitVec 3)
  /-- Atomic F32 minimumNumber (R193). -/
  | atomFmin (d a b : Reg) (ar : Bool) (scope : BitVec 3)
  /-- Atomic F32 maximumNumber (R193). -/
  | atomFmax (d a b : Reg) (ar : Bool) (scope : BitVec 3)
  /-- Atomic increment that wraps to zero at the bound (R192). -/
  | atomIncw (d a b : Reg) (ar : Bool) (scope : BitVec 3) (wide : Bool)
  /-- Atomic add performed only when the sum stays within the bound in d (R192). -/
  | atomAddb (d a b : Reg) (ar : Bool) (scope : BitVec 3) (wide : Bool)
  /-- Orders earlier loads before every later access (R112). -/
  | fenceAcq (scope : BitVec 3)
  /-- Orders every earlier access before later stores, waiting for streams at GRP and SYS (R112). -/
  | fenceRel (scope : BitVec 3)
  /-- Acquire and release fence together (R112). -/
  | fenceAr (scope : BitVec 3)
  /-- Full fence placed in the total order of its scope instance (R112). -/
  | fenceSc (scope : BitVec 3)
  /-- Orders accesses of path p before accesses of path q (R121). -/
  | fenceX (scope p q : BitVec 3)
  /-- Records an arrival at a hierarchical barrier after the release condition holds (R43). -/
  | barArv (scope : BitVec 3) (id : BitVec 4)
  /-- Waits until the barrier's phase differs from the remembered one and writes a status (R43). -/
  | barWait (d : Reg) (scope : BitVec 3) (id : BitVec 4)
  /-- Arrives at a hierarchical barrier and then waits (R43). -/
  | barSync (d : Reg) (scope : BitVec 3) (id : BitVec 4)
  /-- Sets the expected count and discards pending arrivals, leaving the phase (R45). -/
  | barCfg (d a : Reg) (scope : BitVec 3) (id : BitVec 4)
  /-- Initialises a transaction barrier object and sets its tags (R204). -/
  | tbInit (d a b : Reg) (scope : BitVec 3)
  /-- Adds expected bytes to a transaction barrier (R204). -/
  | tbExpect (d a b : Reg)
  /-- Expects bytes and arrives at a transaction barrier as a release (R204). -/
  | tbArv (d a b : Reg)
  /-- Waits until the barrier phase changes, it fails or it stops being live (R206). -/
  | tbWait (d a b : Reg)
  /-- Reads the barrier phase or failure without waiting (R207). -/
  | tbTest (d a : Reg)
  /-- Clears the barrier's tags and wakes waiters with ESTALE (R204). -/
  | tbInval (d a : Reg)
  /-- Appends a named arriver to a transaction barrier (R204). -/
  | tbName (d a b : Reg)
  /-- Waits for a token and copies its status (R212). -/
  | tkWait (d a : Reg)
  /-- Writes 1 if a token is pending, else its status (R212). -/
  | tkTest (d a : Reg)
  /-- Annotates the next task with a wait on a token (R483). -/
  | tkAfter (a : Reg)
  /-- Annotates the next task with a wait on a transaction barrier phase (R483). -/
  | tbAfter (a b : Reg)
  /-- Reads a buffer descriptor and defines a buffer table entry (R215). -/
  | bufDef (d a b : Reg)
  /-- Makes a buffer table entry undefined after its tasks retire (R215). -/
  | bufUndef (d a : Reg)
  /-- Sets buffer, mode, E and step of a region register (R216). -/
  | rgnB (q : QReg) (a b : Reg)
  /-- Sets the four offsets of a region register (R216). -/
  | rgnO (q : QReg) (a : Reg)
  /-- Sets the four extents of a region register (R216). -/
  | rgnE (q : QReg) (a : Reg)
  /-- Clears a region register (R216). -/
  | rgnClr (q : QReg)
  /-- Posts a matrix multiply-accumulate task (R224). -/
  | mm (h : TaskHead) (fa fb : BitVec 4)
  /-- Posts an accumulator drain task with scales, bias, clamp or add port (R225). -/
  | mmd (h : TaskHead) (f : DrainFields)
  /-- Posts an accumulator clear task (R226). -/
  | mmz (h : TaskHead)
  /-- Posts a tile transpose task (R227). -/
  | xp (h : TaskHead)
  /-- Posts a SOFTMAX, RMSNORM or LNORM row task (R229). -/
  | row (h : TaskHead) (f : RowFields)
  /-- Posts a vector block run in one vector context (R231). -/
  | vrun (h : TaskHead) (ent arg : Reg)
  /-- Posts a tensor-map copy task (R235). -/
  | cp (h : TaskHead) (map bar : Reg)
  /-- Posts a windowed copy task that zero-fills out-of-bounds elements (R235). -/
  | cpW (h : TaskHead) (map bar : Reg)
  /-- Posts a gather copy task through an index operand (R235). -/
  | cpG (h : TaskHead) (map bar : Reg)
  /-- Posts a scatter copy task through an index operand (R235). -/
  | cpS (h : TaskHead) (map bar : Reg)
  /-- Posts a fill task writing a pattern (R235). -/
  | cpF (h : TaskHead) (map bar : Reg)
  /-- Posts a copy into a reserved landing slot on another core (R240). -/
  | cpR (h : TaskHead) (map res : Reg)
  /-- Posts a task that carries another task to a remote intake queue (R243). -/
  | taskRpost (h : TaskHead) (hreg dreg tgr : Reg)
  /-- Posts a task that takes the report of a tagged remote task (R244). -/
  | taskRstat (h : TaskHead) (tgr : Reg)
  /-- Defines a landing zone and returns its handle (R339). -/
  | lzDef (d a b : Reg)
  /-- Sends a slot reservation request to a zone's home (R341). -/
  | lzResv (d a b : Reg)
  /-- Frees a landing slot and re-initialises its barrier (R346). -/
  | lzRel (d a b : Reg)
  /-- Reads a slot record, counts or the zone handle (R347). -/
  | lzStat (d a b : Reg)
  /-- Fails open slots and makes the zone undefined (R348). -/
  | lzUndef (d a : Reg)
  /-- Defines a grid table entry from a descriptor and core map (R321). -/
  | gridDef (d a b : Reg)
  /-- Sets the boundary rule of one face (R322). -/
  | gridBc (d a b : Reg)
  /-- Declares a step and places a marker in the grid entry (R323). -/
  | gridStep (d a b : Reg)
  /-- Reads stamps, state or counts of a grid entry (R324). -/
  | gridStat (d a b : Reg)
  /-- Makes a grid entry undefined after its tasks retire (R325). -/
  | gridUndef (d a : Reg)
  /-- Traps with cause ECALL and EVAL a (R283). -/
  | ecall (a : Reg)
  /-- Traps with cause TRAP when a is non-zero (R283). -/
  | trap (a b : Reg)
  /-- Reads a system register (R285). -/
  | sysr (d : Reg) (num : BitVec 12)
  /-- Writes a system register (R285). -/
  | sysw (num : BitVec 12) (a : Reg)
  /-- Starts an IDLE strand of the same core (R288). -/
  | spawn (d a b : Reg)
  /-- Waits for masked events and takes them from EVPEND (R289). -/
  | waitev (d a : Reg)
  /-- Allocates a run of accumulator banks to the partition (R290). -/
  | accAlloc (d a : Reg)
  /-- Returns a run of held accumulator banks (R290). -/
  | accFree (d a b : Reg)
  /-- Backs a sparse page with a zeroed granule from the tile pool (R291). -/
  | memCommit (d a : Reg)
  /-- Returns a sparse page's granule to the tile pool (R291). -/
  | memDecommit (d a : Reg)
  /-- Writes a MARK trace record when tracing is enabled (R292). -/
  | traceMark (a b : Reg)
  /-- Returns PLEN, closes the step and opens the next (R292). -/
  | stepEnd (d a : Reg)
  /-- Loads a sign-extended 32-bit immediate (R179). -/
  | li (d : Reg) (imm : BitVec 32)
  /-- Places a 32-bit immediate above the low half of a (R179). -/
  | lihi (d a : Reg) (imm : BitVec 32)
  /-- Adds a sign-extended 32-bit immediate to a (R179). -/
  | addl (d a : Reg) (imm : BitVec 32)
  /-- Jumps by a 32-bit word offset and writes the return address (R179). -/
  | jall (d : Reg) (imm : BitVec 32)
  /-- A strand or vector context reaches issue with a word that fails the fetch or encoding checks of Table 7.1, raising ILLEGAL, XLATE or PROTECT or failing its VRUN (R153). -/
  | illegalWord (inContext : Bool) (word : Word)
  /-- Lane-wise integer add (R253). -/
  | vadd (vd va vb : VReg) (ty : BitVec 4) (m : Bool)
  /-- Lane-wise integer subtract (R253). -/
  | vsub (vd va vb : VReg) (ty : BitVec 4) (m : Bool)
  /-- Lane-wise integer multiply, low half (R253). -/
  | vmul (vd va vb : VReg) (ty : BitVec 4) (m : Bool)
  /-- Lane-wise integer multiply, high half (R253). -/
  | vmulh (vd va vb : VReg) (ty : BitVec 4) (m : Bool)
  /-- Lane-wise integer multiply-add (R253). -/
  | vmad (vd va vb vc : VReg) (ty : BitVec 4) (m : Bool)
  /-- Lane-wise integer minimum (R253). -/
  | vmin (vd va vb : VReg) (ty : BitVec 4) (m : Bool)
  /-- Lane-wise integer maximum (R253). -/
  | vmax (vd va vb : VReg) (ty : BitVec 4) (m : Bool)
  /-- Lane-wise absolute value, optionally saturating (R253). -/
  | vabs (vd va : VReg) (ty : BitVec 4) (sat m : Bool)
  /-- Lane-wise negation, optionally saturating (R253). -/
  | vneg (vd va : VReg) (ty : BitVec 4) (sat m : Bool)
  /-- Lane-wise AND (R253). -/
  | vand (vd va vb : VReg) (ty : BitVec 4) (m : Bool)
  /-- Lane-wise OR (R253). -/
  | vor (vd va vb : VReg) (ty : BitVec 4) (m : Bool)
  /-- Lane-wise XOR (R253). -/
  | vxor (vd va vb : VReg) (ty : BitVec 4) (m : Bool)
  /-- Lane-wise complement (R253). -/
  | vnot (vd va : VReg) (ty : BitVec 4) (m : Bool)
  /-- Lane-wise left shift by a register amount (R254). -/
  | vsll (vd va vb : VReg) (ty : BitVec 4) (m : Bool)
  /-- Lane-wise left shift by an immediate amount (R254). -/
  | vsllImm (vd va : VReg) (k : BitVec 5) (ty : BitVec 4) (m : Bool)
  /-- Lane-wise logical right shift by a register amount (R254). -/
  | vsrl (vd va vb : VReg) (ty : BitVec 4) (m : Bool)
  /-- Lane-wise logical right shift by an immediate amount (R254). -/
  | vsrlImm (vd va : VReg) (k : BitVec 5) (ty : BitVec 4) (m : Bool)
  /-- Lane-wise arithmetic right shift by a register amount (R254). -/
  | vsra (vd va vb : VReg) (ty : BitVec 4) (m : Bool)
  /-- Lane-wise arithmetic right shift by an immediate amount (R254). -/
  | vsraImm (vd va : VReg) (k : BitVec 5) (ty : BitVec 4) (m : Bool)
  /-- Lane-wise saturating add (R253). -/
  | vadds (vd va vb : VReg) (ty : BitVec 4) (m : Bool)
  /-- Lane-wise saturating subtract (R253). -/
  | vsubs (vd va vb : VReg) (ty : BitVec 4) (m : Bool)
  /-- Lane-wise rounding average (R253). -/
  | vavg (vd va vb : VReg) (ty : BitVec 4) (m : Bool)
  /-- Lane-wise leading zero count (R253). -/
  | vclz (vd va : VReg) (ty : BitVec 4) (m : Bool)
  /-- Lane-wise population count (R253). -/
  | vpopc (vd va : VReg) (ty : BitVec 4) (m : Bool)
  /-- Lane-wise carry-less product, low half (R257). -/
  | vclmul (vd va vb : VReg) (ty : BitVec 4) (m : Bool)
  /-- Lane-wise carry-less product, high half (R257). -/
  | vclmulh (vd va vb : VReg) (ty : BitVec 4) (m : Bool)
  /-- Widening exact multiply into a register pair (R255). -/
  | vmulw (vd va vb : VReg) (ty ty2 : BitVec 4) (m : Bool)
  /-- Widening exact add into a register pair (R255). -/
  | vaddw (vd va vb : VReg) (ty ty2 : BitVec 4) (m : Bool)
  /-- Four-way 8-bit dot product accumulated into 32-bit lanes (R256). -/
  | vdot4 (vd va vb vc : VReg) (ty ty2 : BitVec 4) (sat m : Bool)
  /-- Lane-wise floating-point add (R258). -/
  | vfadd (vd va vb : VReg) (ty : BitVec 4) (rm : BitVec 3) (sat m : Bool)
  /-- Lane-wise floating-point subtract (R258). -/
  | vfsub (vd va vb : VReg) (ty : BitVec 4) (rm : BitVec 3) (sat m : Bool)
  /-- Lane-wise floating-point multiply (R258). -/
  | vfmul (vd va vb : VReg) (ty : BitVec 4) (rm : BitVec 3) (sat m : Bool)
  /-- Fused multiply-add with one rounding (R258). -/
  | vfma (vd va vb vc : VReg) (ty : BitVec 4) (rm : BitVec 3) (sat m : Bool)
  /-- Fused multiply-subtract with one rounding (R258). -/
  | vfms (vd va vb vc : VReg) (ty : BitVec 4) (rm : BitVec 3) (sat m : Bool)
  /-- Fused negative multiply-add with one rounding (R258). -/
  | vfnma (vd va vb vc : VReg) (ty : BitVec 4) (rm : BitVec 3) (sat m : Bool)
  /-- IEEE minimum, NaN-propagating (R259). -/
  | vfmin (vd va vb : VReg) (ty : BitVec 4) (m : Bool)
  /-- IEEE maximum, NaN-propagating (R259). -/
  | vfmax (vd va vb : VReg) (ty : BitVec 4) (m : Bool)
  /-- IEEE minimumNumber (R259). -/
  | vfminp (vd va vb : VReg) (ty : BitVec 4) (m : Bool)
  /-- IEEE maximumNumber (R259). -/
  | vfmaxp (vd va vb : VReg) (ty : BitVec 4) (m : Bool)
  /-- Clears the sign bit of each lane (R260). -/
  | vfabs (vd va : VReg) (ty : BitVec 4) (m : Bool)
  /-- Inverts the sign bit of each lane (R260). -/
  | vfneg (vd va : VReg) (ty : BitVec 4) (m : Bool)
  /-- Copies the sign bit of vb into va's lanes (R260). -/
  | vfcpys (vd va vb : VReg) (ty : BitVec 4) (m : Bool)
  /-- Correctly rounded division (R262). -/
  | vfdiv (vd va vb : VReg) (ty : BitVec 4) (rm : BitVec 3) (sat m : Bool)
  /-- Correctly rounded square root (R262). -/
  | vfsqrt (vd va : VReg) (ty : BitVec 4) (rm : BitVec 3) (sat m : Bool)
  /-- Correctly rounded power of two (R262). -/
  | vexp2 (vd va : VReg) (ty : BitVec 4) (rm : BitVec 3) (sat m : Bool)
  /-- Correctly rounded base-2 logarithm (R262). -/
  | vlog2 (vd va : VReg) (ty : BitVec 4) (rm : BitVec 3) (sat m : Bool)
  /-- Correctly rounded reciprocal (R262). -/
  | vrcp (vd va : VReg) (ty : BitVec 4) (rm : BitVec 3) (sat m : Bool)
  /-- Correctly rounded reciprocal square root (R262). -/
  | vrsqrt (vd va : VReg) (ty : BitVec 4) (rm : BitVec 3) (sat m : Bool)
  /-- Correctly rounded sin(pi x) (R262). -/
  | vsinpi (vd va : VReg) (ty : BitVec 4) (rm : BitVec 3) (sat m : Bool)
  /-- Correctly rounded cos(pi x) (R262). -/
  | vcospi (vd va : VReg) (ty : BitVec 4) (rm : BitVec 3) (sat m : Bool)
  /-- Rounds each lane to an integral value (R261). -/
  | vfrnd (vd va : VReg) (ty : BitVec 4) (rm : BitVec 3) (m : Bool)
  /-- Writes a one-hot class of each lane (R261). -/
  | vfclass (vd va : VReg) (ty : BitVec 4) (m : Bool)
  /-- Multiplies each lane by a power of two (R261). -/
  | vfscale (vd va vb : VReg) (ty : BitVec 4) (rm : BitVec 3) (sat m : Bool)
  /-- Converts between types of equal width (R264). -/
  | vcvt (vd va : VReg) (ty ty2 : BitVec 4) (rm : BitVec 3) (sat m : Bool)
  /-- Widening conversion into a register group (R264). -/
  | vcvtw (vd va : VReg) (ty ty2 : BitVec 4) (rm : BitVec 3) (sat m : Bool)
  /-- Narrowing conversion from a register group (R264). -/
  | vcvtn (vd va : VReg) (ty ty2 : BitVec 4) (rm : BitVec 3) (sat m : Bool)
  /-- Pushes a mask from a lane-wise comparison (R268). -/
  | vcmp (va vb : VReg) (ty : BitVec 4) (pred : BitVec 3) (m : Bool)
  /-- Pushes a mask of non-zero lanes (R267). -/
  | mpush (va : VReg) (ty : BitVec 4) (m : Bool)
  /-- Inverts the top mask entry (R267). -/
  | minv (ty : BitVec 4)
  /-- Counts set bits of the top mask into an address register (R267). -/
  | mcnt (ad : AReg) (ty : BitVec 4)
  /-- Finds the first set bit of the top mask (R267). -/
  | mfirst (ad : AReg) (ty : BitVec 4)
  /-- Pushes a mask read from scratchpad (R267). -/
  | mld (abase aidx : AReg) (imm : BitVec 16)
  /-- Writes the top mask to scratchpad (R267). -/
  | mst (abase aidx : AReg) (imm : BitVec 16)
  /-- Broadcasts one lane of va (R269). -/
  | vbcast (vd va : VReg) (ty : BitVec 4) (m : Bool) (imm : BitVec 16)
  /-- Broadcasts an address register value (R269). -/
  | vsplat (vd : VReg) (an : AReg) (ty : BitVec 4) (m : Bool)
  /-- Permutes lanes by an index register (R269). -/
  | vshuf (vd va vb : VReg) (ty : BitVec 4) (m : Bool)
  /-- Rotates lanes by an immediate (R269). -/
  | vrot (vd va : VReg) (ty : BitVec 4) (m : Bool) (imm : BitVec 16)
  /-- Slides lanes across two registers (R269). -/
  | vslide (vd va vb : VReg) (ty : BitVec 4) (m : Bool) (imm : BitVec 16)
  /-- Interleaves two registers into a pair (R269). -/
  | vzip (vd va vb : VReg) (ty : BitVec 4)
  /-- De-interleaves a register pair (R269). -/
  | vuzp (vd va : VReg) (ty : BitVec 4)
  /-- Packs active lanes and writes their count (R270). -/
  | vcmprs (vd va : VReg) (an : AReg) (ty : BitVec 4)
  /-- Expands elements into active lanes (R270). -/
  | vexpnd (vd va : VReg) (ty : BitVec 4)
  /-- Writes the prefix count of active lanes (R270). -/
  | viota (vd : VReg) (ty : BitVec 4)
  /-- Selects lanes of va or vb by the top mask (R269). -/
  | vsel (vd va vb : VReg) (ty : BitVec 4)
  /-- Copies a register (R269). -/
  | vmov (vd va : VReg) (ty : BitVec 4) (m : Bool)
  /-- Exact integer sum reduction (R271). -/
  | vrsum (vd va : VReg) (ty : BitVec 4) (sat m : Bool)
  /-- Integer maximum reduction (R271). -/
  | vrmax (vd va : VReg) (ty : BitVec 4) (m : Bool)
  /-- Integer minimum reduction (R271). -/
  | vrmin (vd va : VReg) (ty : BitVec 4) (m : Bool)
  /-- XOR reduction (R271). -/
  | vrxor (vd va : VReg) (ty : BitVec 4) (m : Bool)
  /-- Floating-point pairwise-tree sum reduction (R147). -/
  | vrfsum (vd va : VReg) (ty : BitVec 4) (rm : BitVec 3) (sat m : Bool)
  /-- Floating-point maximum reduction (R271). -/
  | vrfmax (vd va : VReg) (ty : BitVec 4) (m : Bool)
  /-- Loads a contiguous vector from own scratchpad (R274). -/
  | vld (vd : VReg) (abase aidx : AReg) (ty layout : BitVec 4) (m : Bool) (imm : BitVec 16)
  /-- Stores a contiguous vector to own scratchpad (R274). -/
  | vst (vd : VReg) (abase aidx : AReg) (ty layout : BitVec 4) (m : Bool) (imm : BitVec 16)
  /-- Strided vector load (R274). -/
  | vlds (vd : VReg) (abase aidx : AReg) (ty layout : BitVec 4) (m : Bool) (imm : BitVec 16)
  /-- Strided vector store (R274). -/
  | vsts (vd : VReg) (abase aidx : AReg) (ty layout : BitVec 4) (m : Bool) (imm : BitVec 16)
  /-- Indexed vector gather (R274). -/
  | vgath (vd : VReg) (abase aidx : AReg) (ty layout : BitVec 4) (m : Bool) (vi : VReg)
  /-- Indexed vector scatter (R275). -/
  | vscat (vd : VReg) (abase aidx : AReg) (ty layout : BitVec 4) (m : Bool) (vi : VReg)
  /-- Loads one element into every lane (R274). -/
  | vldb (vd : VReg) (abase aidx : AReg) (ty layout : BitVec 4) (m : Bool) (imm : BitVec 16)
  /-- Loads an address register with a sign-extended immediate (R278). -/
  | ali (ad : AReg) (imm : BitVec 32)
  /-- Adds two address registers (R278). -/
  | aadd (ad aa ab : AReg)
  /-- Adds an immediate to an address register (R278). -/
  | aaddi (ad aa : AReg) (imm : BitVec 32)
  /-- Multiplies two address registers (R278). -/
  | amul (ad aa ab : AReg)
  /-- Shifts an address register left (R278). -/
  | ashl (ad aa : AReg) (n : BitVec 6)
  /-- Moves one vector element into an address register (R277). -/
  | amovv (ad : AReg) (va : VReg) (ty : BitVec 4) (imm : BitVec 16)
  /-- Decrements an address register and branches while non-zero (R278). -/
  | vloop (ad : AReg) (off : BitVec 32)
  /-- Unconditional vector branch (R278). -/
  | vj (off : BitVec 32)
  /-- Skips words when the top mask has no bit set (R278). -/
  | vbz (off : BitVec 32)
  /-- Skips words when the top mask has a bit set (R278). -/
  | vbnz (off : BitVec 32)
  /-- Branches when two address registers differ (R278). -/
  | abne (aa ab : AReg) (off : BitVec 32)
  /-- Fails the VRUN with VEC_TRAP (R278). -/
  | vtrap (code : BitVec 32)
  /-- Returns from a trap handler to EPC and clears INTRAP (R284). -/
  | eret
  /-- Marks a safe point and counts it in SPCNT (R287). -/
  | safept
  /-- Drains the strand's tasks and stands as a checkpoint, parking if pre-emption is pending (R50). -/
  | ckpt
  /-- Drains the strand's tasks and makes it IDLE, or raises ACC_LEAK (R33). -/
  | endStrand
  /-- Lets the other running strands issue before this one again (R288). -/
  | yield
  /-- Moves a SUPER-mode strand to STOPPED (R288). -/
  | halt
  /-- Pops two masks and pushes their AND (R267). -/
  | mand
  /-- Pops two masks and pushes their OR (R267). -/
  | mor
  /-- Pops two masks and pushes u AND NOT t (R267). -/
  | mandn
  /-- Pops the top mask (R267). -/
  | mpop
  /-- Ends the vector block; the VRUN completes once its stores are performed (R231). -/
  | vend
  /-- A write to a system register without behaviour of its own, field by field under R4 (R285). -/
  | registerWrite (core strand : Nat) (num : BitVec 12) (value : Word)
  /-- A write to EVSET sets events of a target strand as a release (R289). -/
  | evset (core : Nat) (value : Word)
  /-- A write to TRCTL sets trace control and resets TRHEAD to 0 (R365). -/
  | trctlWrite (core strand : Nat) (value : Word)
  /-- A write to TRBASE sets the ring address and resets TRHEAD to 0 (R365). -/
  | trbaseWrite (core strand : Nat) (value : Word)
  /-- Fails every task of each named strand with WATCHDOG (R286). -/
  | corectlFlush (core : Nat) (mask : BitVec 4)
  /-- Fails every admitted remote task in the window with WATCHDOG (R286). -/
  | corectlFlushin (core : Nat)
  /-- Stops named strands with a fatal WATCHDOG stop (R286). -/
  | corectlStop (core : Nat) (mask : BitVec 4)
  /-- Drains and resets named STOPPED strands to IDLE (R286). -/
  | corectlReset (core : Nat) (mask : BitVec 4)
  /-- TIMER reaches 0 and sets event 11 of its strand (R289). -/
  | timerExpiry (core strand : Nat)
  /-- A freed window entry is granted round-robin to a waiting claimant (R36). -/
  | windowGrant (core : Nat)
  /-- A posted task's last wait clears and it enters READY, recording its last arriver (R66). -/
  | taskReady (core : Nat) (seq : BitVec 32)
  /-- A free engine instance takes the highest-class oldest ready task (R38). -/
  | taskIssue (core : Nat) (cls : EngineClass) (unit : Nat)
  /-- A ready task rises one priority class after 2,048 cycles in READY (R39). -/
  | taskAging (core : Nat) (seq : BitVec 32)
  /-- An engine finishes a task; its writes release dependants, generations change and the task retires (R41). -/
  | taskComplete (core : Nat) (seq : BitVec 32)
  /-- Consumers of a failed task fail with PRODUCER_FAILED, one dependence level per cycle (R40). -/
  | producerFailed (core : Nat) (seq : BitVec 32)
  /-- A task's stale limit passes under FAULT and it fails (R73). -/
  | stampStaleLimit (core : Nat) (seq : BitVec 32)
  /-- Once every strand of the named cores is IDLE, strand 0 of each starts at the entry (R27). -/
  | launchStart (launch : LaunchBegin)
  /-- All strands of a launch end and its completion record is written (R29). -/
  | launchComplete (launch : LaunchFinish)
  /-- A load or atomic value returns and its destination stops being pending (R168). -/
  | loadReturn (core strand idx : Nat) (data : Reply)
  /-- A cumulative stream acknowledgement arrives for remote stores (R124). -/
  | remoteStoreAck (core strand pkg : Nat) (ack : StreamAck)
  /-- An arrival reaches a hierarchical barrier; on the E-th the phase advances and waiters are released (R42). -/
  | barrierArrival (arr : BarArrival)
  /-- A 4 KiB copy chunk is performed and credited to its barrier (R104). -/
  | copyChunkDone (core : Nat) (seq : BitVec 32)
  /-- The reply to a copy's barrier arrival returns and the copy task completes or fails (R237). -/
  | copyArrivalReply (core : Nat) (seq : BitVec 32) (code : Int)
  /-- A resolvable translation fault or migration wait is recorded in a fault ring and holds its access (R101). -/
  | resolvableFault (idx : Nat)
  /-- A fault held for a busy ring slot is recorded once the slot frees (R419). -/
  | heldFaultRecord (die : Nat)
  /-- A RETRY disposition retranslates the held access or resumes the suspended task (R418). -/
  | dispRetry (die slot : Nat)
  /-- A REFUSE disposition fails the held access with XLATE (R418). -/
  | dispRefuse (die slot : Nat)
  /-- A MIGRATE page's access counter passes its threshold and the move begins (R96), here or at another package, of a page that this one maps. -/
  | migrationStart (space : Nat) (page : Nat) (goal : MoveGoal)
  /-- A page move ends, leaves are rewritten and waiting accesses proceed (R96). -/
  | migrationComplete (space : Nat) (page : Nat) (moved : MovedPage)
  /-- A remote post reaches an intake and is refused, busy or accepted (R77). -/
  | remotePostArrival (post : RemotePost)
  /-- A busy remote post is sent again after 1,024 cycles (R77). -/
  | remotePostRetry (core : Nat) (seq : BitVec 32)
  /-- An intake entry is admitted into the window round-robin (R78). -/
  | intakeAdmit (core : Nat)
  /-- A tagged remote task's status arrives in the report table, or RPFAIL rises (R244). -/
  | remoteReport (core : Nat) (tag : Option (BitVec 16)) (status : Int)
  /-- A reservation request is performed on the zone's slot map at the home (R341). -/
  | lzResvRequest (req : ResvRequest)
  /-- The answer to a reservation arrives and is written to d (R341). -/
  | lzResvAnswer (core strand idx : Nat) (answer : Word)
  /-- A CP.R chunk is checked, written and credited at the receiving slot (R343). -/
  | cprChunkArrival (chunk : CprChunk)
  /-- A CP.R's arrival completes the slot's phase or fails the slot (R343). -/
  | cprArrival (arr : CprArrival)
  /-- A failed sending copy's report fails its slot with the copy's code (R342). -/
  | cprFailureReport (resv : Word) (code : Nat)
  /-- A slot's lease passes and the slot fails with ESTALE (R345). -/
  | slotLeaseExpiry (core zone slot : Nat)
  /-- A grid marker retires, declaring the step and starting fills and shipments (R323). -/
  | gridMarkerRetire (core grid : Nat)
  /-- A destination's declared step reaches a source halo engine (R328). -/
  | declaredStepArrival (core grid : Nat) (who : Nat) (declared : BitVec 32) (nf : Nat)
  /-- A shipment's credit is met and it starts reading source cells (R328). -/
  | haloShipmentCredit (idx : Nat)
  /-- A shipment reads its last cell and goes to FLIGHT, releasing held writers (R329). -/
  | haloShipmentRead (idx : Nat)
  /-- A shipment is written at the destination and stamps its region, or is refused (R329). -/
  | haloShipmentLand (src : ShipSource)
  /-- A CONSTANT or OPEN fill completes and stamps its region, or is refused (R329). -/
  | haloFillLand (idx : Nat)
  /-- A failure notice reaches a grid entry and makes it FAILED (R331). -/
  | gridFailureNotice (core grid : Nat) (regions : List Nat)
  /-- A strand reaches a matching safe point and stops for debug (R363). -/
  | breakpointStop (core strand entry : Nat)
  /-- A step request stops one strand at its next safe point (R362). -/
  | debugStepRequest (core strand : Nat)
  /-- A halt request stops every strand at its next safe point (R362). -/
  | debugHaltRequest (request : HaltRequest)
  /-- The debug block is reloaded and the stopped strand resumes (R363). -/
  | debugResume (core : Nat) (request : ResumeRequest)
  /-- A sample period passes and a SAMPLE record follows at the next safe point (R365). -/
  | traceSample (core strand : Nat)
  /-- The partition manager asks a partition to park at checkpoints (R51). -/
  | preemptRequest (part : Nat)
  /-- The pre-emption limit passes and the partition is stopped (R52). -/
  | preemptLimit (part : Nat)
  /-- Every strand parked, the partition's state is written to its save area (R424). -/
  | partitionSave (part : Nat)
  /-- A saved partition is restored and all its strands return to RUN together (R426). -/
  | partitionResume (part : Nat)
  /-- A partition is drained, every item reported and its cores reset (R427). -/
  | partitionStop (part : Nat)
  /-- A stop word request with ACT 1 stops the named partition (R454). -/
  | partitionStopRequest (svc : Nat)
  /-- The partition manager creates a partition on a package (R441). -/
  | partitionCreate (req : PartRequest)
  /-- The partition manager releases a partition and destroys its key (R442). -/
  | partitionRelease (part : Nat)
  /-- After a fatal stop the partition manager stops the launch, fails its tasks and edges and completes it (R420). -/
  | fatalStop (source : FatalSource) (no : Nat)
  /-- An invalidation word request with KIND 1 invalidates one space (R444). -/
  | invalidateSpace (svc : Nat)
  /-- An invalidation word request with KIND 2 invalidates one partition (R444). -/
  | invalidatePartition (svc : Nat)
  /-- An invalidation word request with KIND 3 invalidates every entry (R444). -/
  | invalidateAll (svc : Nat)
  /-- The loader checks, relocates and writes an image into a partition (R309). -/
  | imageLoad (part space : Nat) (at_ : LoadPlace) (file : List Byte)
  /-- An Ethernet frame arrives and is dropped or sorted to Marten, EQT or RoCE (R396). -/
  | frameReceive (frame : Frame)
  /-- A host WRITE message writes device memory and is answered by RESP (R400). -/
  | eqtWrite (conn : Nat) (hdr : BitVec 256) (payload : List Byte)
  /-- A host FADD message performs an acquire-release fetch-add and returns the old value (R400). -/
  | eqtFadd (conn : Nat) (hdr : BitVec 256) (payload : List Byte)
  /-- A host READ message returns device memory bytes in a RESP (R400). -/
  | eqtRead (conn : Nat) (hdr : BitVec 256) (payload : List Byte)
  /-- A host NOTIFY sets a queue's notify summary bit and wakes its service core (R405). -/
  | eqtNotify (conn : Nat) (hdr : BitVec 256) (payload : List Byte)
  /-- An ACK arrives and frees acknowledged messages (R399). -/
  | eqtAck (conn : Nat) (hdr : BitVec 256)
  /-- A NACK arrives and the gap it names is resent (R399). -/
  | eqtNack (conn : Nat) (hdr : BitVec 256)
  /-- A message's retransmission time passes and it is resent, the connection going DOWN after 16 (R399). -/
  | eqtRetransmit (conn : Nat) (seq : BitVec 32)
  /-- 2 µs after a delivery an ACK is sent (R399). -/
  | eqtAckTimer (conn : Nat)
  /-- A RoCE response or acknowledgement completes a HOST access (R402). -/
  | rdmaResponse (idx : Nat) (data : List Byte)
  /-- An inbound RoCE request is answered with a remote access error (R401). -/
  | rdmaInboundRequest (endpoint : Nat)
  /-- A write to a notify line sets the summary bit and wakes the service core (R405). -/
  | notifyLineWrite (phys : Nat)
  /-- The partition manager opens a queue, clearing its ring header and slot bytes (R403). -/
  | queueOpen (queue : Nat) (entry : QueueEntry)
  /-- The intake reads the next whole packet of a queue, checks it and advances RIDX (R406). -/
  | queuePacketRead (queue : Nat)
  /-- A NOP packet completes at once (R409). -/
  | packetNop (idx : Nat)
  /-- A LAUNCH packet starts the listed cores (R409). -/
  | packetLaunch (idx : Nat)
  /-- A COPY packet is performed by the queue copy unit (R409). -/
  | packetCopy (idx : Nat)
  /-- An EVENT packet sends an EVENT message through the remap table (R409). -/
  | packetEvent (idx : Nat)
  /-- A packet's work ends and its completion record is written (R410). -/
  | packetComplete (idx : Nat)
  /-- A queue's watchdog budget runs out and the queue becomes STALLED (R429). -/
  | queueWatchdogExpiry (queue : Nat)
  /-- Setting GO in an event port checks and sends an EVENT message (R446). -/
  | eventPortSend (svc : Nat)
  /-- A flit with a bad CRC triggers a replay from the sender (R463). -/
  | flitCrcError (link : Nat)
  /-- A link goes DOWN and both ends stop using it and reroute (R464). -/
  | linkDown (link : Nat)
  /-- A link's lane or wavelength count changes between UP and DEGRADED (R464). -/
  | linkWidthChange (link width : Nat)
  /-- Every 100 ms a DOWN link is trained again (R464). -/
  | linkRetrain (link : Nat)
  /-- Training ends and the link becomes UP, DEGRADED or DOWN (R464). -/
  | linkTrainingDone (link width : Nat)
  /-- News of a link failure reaches a package, which rebuilds routes and fails affected slots and copies (R469). -/
  | linkFailureNews (pkg link : Nat)
  /-- Marten takes a link out of new use at the operator's request (R471). -/
  | linkDisable (link : Nat)
  /-- Packets bound to a disabled link finish and it becomes DISABLED (R471). -/
  | linkDisableDrained (link : Nat)
  /-- Marten starts training a disabled link (R471). -/
  | linkEnable (link : Nat)
  /-- A request without response for 50 µs is resent, failing with LINK_FAILED after 8 (R470). -/
  | requestResend (idx : Nat)
  /-- A packet without a route for 200 µs fails its access with LINK_FAILED (R470). -/
  | noRouteTimeout (idx : Nat)
  /-- Marten updates the link records every 10 µs (R472). -/
  | linkRecordUpdate
  /-- A link's round trip is measured every 100 µs (R472). -/
  | rttMeasure (link ns : Nat)
  /-- Marten returns link records on a management request (R472). -/
  | linkRecordRequest
  /-- Marten scrubs HBM and second-tier lines, poisoning uncorrectable ones (R477). -/
  | memoryScrub (line : Nat)
  /-- Each scratchpad is scrubbed through free bank slots every 100 ms (R477). -/
  | scratchpadScrub (core word : Nat)
  /-- Every 512 cycles the die's activity forecast register is written (R478). -/
  | forecastUpdate (die : Nat)
  /-- Every 1 µs the power manager chooses the core clock (R479). -/
  | clockSelect (sensors : Sensors)
  /-- Measured power above its limits drops the clock to 1.00 GHz (R480). -/
  | powerTrip (power : Nat)
  /-- The operator sets the power cap over the management VLAN (R480). -/
  | capSet (watts : Nat)
  /-- A die above 100 °C has the clock lowered step by step (R481). -/
  | thermalThrottle (sensors : Sensors)
  /-- At 115 °C Marten stops every job partition and removes power (R481). -/
  | thermalShutdown (sensors : Sensors)
  /-- Marten returns the telemetry record (R482). -/
  | telemetryRequest
  /-- Package reset runs the boot sequence through to accepting partitions (R432). -/
  | packageReset (boot : BootInput)
  /-- Marten builds and signs an attestation report for a nonce (R436). -/
  | attestationRequest (nonce : BitVec 256)
  /-- A store, atomic or remote request, local or arriving from another package, is performed at its location's home and enters the die views in order (R189). -/
  | accessPerformedAtHome (acc : HomeAccess)
  /-- A result still within its latency is written and its destination stops being pending, as for DIV, remote SYSR, MEM.COMMIT after its leaf write, and vector latencies (R168). -/
  | pendingResultWritten (core strand idx : Nat)
  /-- The refused, busy or accepted answer to a remote post reaches the sending core, writing the RPOST token or returning the task to READY (R77). -/
  | postAnswerArrival (core : Nat) (seq : BitVec 32) (code : Int)
  /-- The RoCE transport gives up on a host endpoint that does not answer, and the HOST access fails with LINK_FAILED (R97). -/
  | rdmaTransportGiveUp (endpoint : Nat)
deriving DecidableEq, Repr

end Sys2Proof
end

