-- ==== Sys2Proof/WellFormed.lean ====
section
/-!
DEFINITION. When an instruction is well-formed: the field rules of chapters 7, 10, 11 and 12 on its operands. An event row has no
word and is never well-formed as an instruction.
-/
namespace Sys2Proof

/-- Why a word is no instruction (R153, R158, R161). -/
inductive Illegal where
  /-- A major opcode that no table allocates (R157, R162). -/
  | major
  /-- A member code that no table allocates (R158). -/
  | member
  /-- A reserved field that is not zero (R155, R161). -/
  | field
  /-- A scope 6 or 7 (R9). -/
  | scope
  /-- A path that no strand directs: q = 6 or 7 in FENCE.X (R121). -/
  | path
  /-- A system register number that is not allocated (R285). -/
  | systemRegister
  /-- Operand counts that the command does not take (R156, R219). -/
  | counts
  /-- A region list beyond q15 or too long (R156). -/
  | regionList
  /-- Type codes that the entry does not accept (R161). -/
  | types
  /-- A rounding mode 5 to 7 (R136). -/
  | rounding
  /-- A layout 3 to 15 (R161). -/
  | layout
  /-- A register number that is not a multiple of its group (R161). -/
  | alignment
  /-- A lane number at or beyond the lane count (R269, R277). -/
  | lane
  /-- A shift amount at or beyond the lane width (R254). -/
  | amount
  /-- A predicate that VCMP does not have (R163, R268). -/
  | predicate
  /-- A register or field value that the entry forbids (R218, R225, R228, R277). -/
  | operand
  /-- An event row: no word encodes it. -/
  | event
deriving DecidableEq, Repr

/-- A check: nothing when it holds. -/
def need (ok : Bool) (e : Illegal) : Option Illegal := if ok then none else some e

/-- The first check that fails. -/
def firstOf : List (Option Illegal) → Option Illegal
  | [] => none
  | none :: l => firstOf l
  | some e :: _ => some e

/-- Scopes 0 CORE to 5 SYS (R9). -/
def scopeOk (scope : BitVec 3) : Bool := scope != 6 && scope != 7

/-- The system register numbers of Table 13.3 below the remote window. -/
def sysBase (n : Nat) : Bool :=
  n ≤ 5 ∨ (8 ≤ n ∧ n ≤ 0x0C) ∨ (0x10 ≤ n ∧ n ≤ 0x15) ∨ (0x18 ≤ n ∧ n ≤ 0x1A) ∨ (0x1C ≤ n ∧ n ≤ 0x1E) ∨
    (0x20 ≤ n ∧ n ≤ 0x29) ∨ n = 0x100 ∨ n = 0x101

/-- The system register numbers of Table 13.3, the remote window included (R285). -/
def sysAllocated (n : Nat) : Bool := sysBase n || (0x400 ≤ n && n < 0x800 && sysBase (n - 0x400))

/-- The region lists of a task form (R156). -/
def TaskHead.listsOk (h : TaskHead) : Bool :=
  h.rcnt.toNat ≤ 4 ∧ h.wcnt.toNat ≤ 2 ∧ (h.rcnt = 0 ∨ h.rbase.toNat + h.rcnt.toNat ≤ 16) ∧
    (h.wcnt = 0 ∨ h.wbase.toNat + h.wcnt.toNat ≤ 16)

/-- The counts that Table 10.3 fixes. -/
def TaskHead.counts (h : TaskHead) (r w : Nat) : Bool := h.rcnt.toNat == r && h.wcnt.toNat == w

/-- The type pairs of MM (Table 10.5). -/
def mmPair (fa fb : Nat) : Bool :=
  ((fa = 11 ∨ fa = 12) ∧ (fb = 11 ∨ fb = 12)) ∨ (fa = 10 ∧ fb = 10) ∨ (fa = 9 ∧ fb = 9) ∨ (fa = 13 ∧ fb = 13) ∨
    ((fa = 0 ∨ fa = 3) ∧ (fb = 0 ∨ fb = 3))

/-- Word 1 of MMD (Table 10.4). -/
def DrainFields.problem (f : DrainFields) : Option Illegal :=
  firstOf [need (f.fout != 15) .types, need (decide (f.rm.toNat ≤ 4)) .rounding, need (f.rs || !f.rsf) .operand,
    need (f.cs || !f.csf) .operand, need (!f.tgt || (f.fout == 8 && !f.sat)) .operand]

/-- Word 1 of ROW (Table 10.4). -/
def RowFields.problem (f : RowFields) : Option Illegal :=
  firstOf [need (f.opk != 3) .member, need (decide (8 ≤ f.fin.toNat ∧ f.fin.toNat ≤ 10)) .types,
    need (decide (8 ≤ f.fout.toNat ∧ f.fout.toNat ≤ 12)) .types, need (decide (f.rm.toNat ≤ 4)) .rounding,
    need (!f.causal || (f.opk == 0 && f.preg != 0)) .operand]

/-- The width in bits of a vector type (Table 6.1). -/
def tyBits (ty : Nat) : Nat :=
  match ty with
  | 0 => 8 | 1 => 16 | 2 => 32 | 3 => 4 | 4 => 8 | 5 => 16 | 6 => 32 | 7 => 4
  | 8 => 32 | 9 => 16 | 10 => 16 | 11 => 8 | 12 => 8 | 13 => 4 | 14 => 8 | _ => 64

/-- Elements of a type in a vector register (Table 11.1). -/
def lanes (ty : Nat) : Nat := 4096 / tyBits ty

/-- The types F32, F16 and BF16. -/
def floatTy (ty : Nat) : Bool := 8 ≤ ty ∧ ty ≤ 10

/-- The type pairs of VMULW and VADDW (R255). -/
def widePair (ty ty2 : Nat) : Bool :=
  (ty = 0 ∧ ty2 = 3) ∨ (ty = 1 ∧ ty2 = 0) ∨ (ty = 2 ∧ ty2 = 1) ∨ (ty = 4 ∧ ty2 = 7) ∨ (ty = 5 ∧ ty2 = 4) ∨ (ty = 6 ∧ ty2 = 5)

/-- Whether one width is 2 or 4 times another (R263). -/
def ratioOk (wide narrow : Nat) : Bool := wide = 2 * narrow ∨ wide = 4 * narrow

/-- Index registers of VGATH and VSCAT (R272). -/
def indexRegs (ty : Nat) : Nat := if tyBits ty = 64 then 1 else lanes ty / 128

/-- The first field rule that an instruction breaks. -/
def Instr.problem : Instr → Option Illegal
  | .add _ _ _ => none
  | .sub _ _ _ => none
  | .and _ _ _ => none
  | .or _ _ _ => none
  | .xor _ _ _ => none
  | .andn _ _ _ => none
  | .sll _ _ _ => none
  | .srl _ _ _ => none
  | .sra _ _ _ => none
  | .ror _ _ _ => none
  | .slt _ _ _ => none
  | .sltn _ _ _ => none
  | .min _ _ _ => none
  | .max _ _ _ => none
  | .minn _ _ _ => none
  | .maxn _ _ _ => none
  | .mul _ _ _ => none
  | .mulh _ _ _ => none
  | .mulhn _ _ _ => none
  | .div _ _ _ => none
  | .divn _ _ _ => none
  | .rem _ _ _ => none
  | .remn _ _ _ => none
  | .clz _ _ => none
  | .ctz _ _ => none
  | .popc _ _ => none
  | .brev _ _ => none
  | .bswap _ _ => none
  | .clmul _ _ _ => none
  | .clmulh _ _ _ => none
  | .addw _ _ _ => none
  | .subw _ _ _ => none
  | .sllw _ _ _ => none
  | .srlw _ _ _ => none
  | .sraw _ _ _ => none
  | .exts _ _ _ => none
  | .extz _ _ _ => none
  | .seq _ _ _ => none
  | .sne _ _ _ => none
  | .addi _ _ _ => none
  | .andi _ _ _ => none
  | .ori _ _ _ => none
  | .xori _ _ _ => none
  | .slti _ _ _ => none
  | .sltni _ _ _ => none
  | .slli _ _ _ => none
  | .srli _ _ _ => none
  | .srai _ _ _ => none
  | .rori _ _ _ => none
  | .lih _ _ => none
  | .addpc _ _ => none
  | .beq _ _ _ => none
  | .bne _ _ _ => none
  | .blt _ _ _ => none
  | .bge _ _ _ => none
  | .bltn _ _ _ => none
  | .bgen _ _ _ => none
  | .jal _ _ => none
  | .jalr _ _ _ => none
  | .ldI8 _ _ _ => none
  | .ldI16 _ _ _ => none
  | .ldI32 _ _ _ => none
  | .ld64 _ _ _ => none
  | .ldN8 _ _ _ => none
  | .ldN16 _ _ _ => none
  | .ldN32 _ _ _ => none
  | .st8 _ _ _ => none
  | .st16 _ _ _ => none
  | .st32 _ _ _ => none
  | .st64 _ _ _ => none
  | .st64F _ _ _ => none
  | .atomAdd _ _ _ _ scope _ => need (scopeOk scope) .scope
  | .atomAnd _ _ _ _ scope _ => need (scopeOk scope) .scope
  | .atomOr _ _ _ _ scope _ => need (scopeOk scope) .scope
  | .atomXor _ _ _ _ scope _ => need (scopeOk scope) .scope
  | .atomXchg _ _ _ _ scope _ => need (scopeOk scope) .scope
  | .atomCas _ _ _ _ scope _ => need (scopeOk scope) .scope
  | .atomMin _ _ _ _ scope _ => need (scopeOk scope) .scope
  | .atomMax _ _ _ _ scope _ => need (scopeOk scope) .scope
  | .atomMinn _ _ _ _ scope _ => need (scopeOk scope) .scope
  | .atomMaxn _ _ _ _ scope _ => need (scopeOk scope) .scope
  | .atomFadd _ _ _ _ scope => need (scopeOk scope) .scope
  | .atomFmin _ _ _ _ scope => need (scopeOk scope) .scope
  | .atomFmax _ _ _ _ scope => need (scopeOk scope) .scope
  | .atomIncw _ _ _ _ scope _ => need (scopeOk scope) .scope
  | .atomAddb _ _ _ _ scope _ => need (scopeOk scope) .scope
  | .fenceAcq scope => need (scopeOk scope) .scope
  | .fenceRel scope => need (scopeOk scope) .scope
  | .fenceAr scope => need (scopeOk scope) .scope
  | .fenceSc scope => need (scopeOk scope) .scope
  | .fenceX scope _ q => firstOf [need (scopeOk scope) .scope, need (q != 6 && q != 7) .path]
  | .barArv scope _ => need (scopeOk scope) .scope
  | .barWait _ scope _ => need (scopeOk scope) .scope
  | .barSync _ scope _ => need (scopeOk scope) .scope
  | .barCfg _ _ scope _ => need (scopeOk scope) .scope
  | .tbInit _ _ _ scope => need (scopeOk scope) .scope
  | .tbExpect _ _ _ => none
  | .tbArv _ _ _ => none
  | .tbWait _ _ _ => none
  | .tbTest _ _ => none
  | .tbInval _ _ => none
  | .tbName _ _ _ => none
  | .tkWait _ _ => none
  | .tkTest _ _ => none
  | .tkAfter _ => none
  | .tbAfter _ _ => none
  | .bufDef _ _ _ => none
  | .bufUndef _ _ => none
  | .rgnB _ _ _ => none
  | .rgnO _ _ => none
  | .rgnE _ _ => none
  | .rgnClr _ => none
  | .mm h fa fb => firstOf [need (h.counts 2 1) .counts, need h.listsOk .regionList, need (mmPair fa.toNat fb.toNat) .types]
  | .mmd h f => firstOf [need (h.counts (1 + f.rs.toNat + f.cs.toNat + f.bi.toNat) 1) .counts, need h.listsOk .regionList, f.problem]
  | .mmz h => firstOf [need (h.counts 0 1) .counts, need h.listsOk .regionList]
  | .xp h => firstOf [need (h.counts 1 1) .counts, need h.listsOk .regionList]
  | .row h f => firstOf [need (h.counts (f.opk.toNat + 1) 1) .counts, need h.listsOk .regionList, f.problem]
  | .vrun h _ _ => need h.listsOk .regionList
  | .cp h _ _ => firstOf [need (h.counts 1 1) .counts, need h.listsOk .regionList]
  | .cpW h _ _ => firstOf [need (h.counts 1 1) .counts, need h.listsOk .regionList]
  | .cpG h _ _ => firstOf [need (h.counts 2 1) .counts, need h.listsOk .regionList]
  | .cpS h _ _ => firstOf [need (h.counts 2 1) .counts, need h.listsOk .regionList]
  | .cpF h _ _ => firstOf [need (h.counts 0 1) .counts, need h.listsOk .regionList]
  | .cpR h _ _ => firstOf [need (h.counts 1 0) .counts, need h.listsOk .regionList]
  | .taskRpost h _ _ _ => need h.listsOk .regionList
  | .taskRstat h tgr => firstOf [need (h.counts 0 0) .counts, need h.listsOk .regionList, need (tgr != 0) .operand]
  | .lzDef _ _ _ => none
  | .lzResv _ _ _ => none
  | .lzRel _ _ _ => none
  | .lzStat _ _ _ => none
  | .lzUndef _ _ => none
  | .gridDef _ _ _ => none
  | .gridBc _ _ _ => none
  | .gridStep _ _ _ => none
  | .gridStat _ _ _ => none
  | .gridUndef _ _ => none
  | .ecall _ => none
  | .trap _ _ => none
  | .eret => none
  | .sysr _ num => need (sysAllocated num.toNat) .systemRegister
  | .sysw num _ => need (sysAllocated num.toNat) .systemRegister
  | .safept => none
  | .ckpt => none
  | .spawn _ _ _ => none
  | .endStrand => none
  | .yield => none
  | .halt => none
  | .waitev _ _ => none
  | .accAlloc _ _ => none
  | .accFree _ _ _ => none
  | .memCommit _ _ => none
  | .memDecommit _ _ => none
  | .traceMark _ _ => none
  | .stepEnd _ _ => none
  | .li _ _ => none
  | .lihi _ _ _ => none
  | .addl _ _ _ => none
  | .jall _ _ => none
  | .vadd _ _ _ ty _ => need (decide (ty.toNat < 8)) .types
  | .vsub _ _ _ ty _ => need (decide (ty.toNat < 8)) .types
  | .vmul _ _ _ ty _ => need (decide (ty.toNat < 8)) .types
  | .vmulh _ _ _ ty _ => need (decide (ty.toNat < 8)) .types
  | .vmad _ _ _ _ ty _ => need (decide (ty.toNat < 8)) .types
  | .vmin _ _ _ ty _ => need (decide (ty.toNat < 8)) .types
  | .vmax _ _ _ ty _ => need (decide (ty.toNat < 8)) .types
  | .vabs _ _ ty _ _ => need (decide (ty.toNat < 4)) .types
  | .vneg _ _ ty _ _ => need (decide (ty.toNat < 4)) .types
  | .vand _ _ _ _ _ => none
  | .vor _ _ _ _ _ => none
  | .vxor _ _ _ _ _ => none
  | .vnot _ _ _ _ => none
  | .vsll _ _ _ ty _ => need (decide (ty.toNat < 8)) .types
  | .vsllImm _ _ k ty _ => firstOf [need (decide (ty.toNat < 8)) .types, need (decide (k.toNat < tyBits ty.toNat)) .amount]
  | .vsrl _ _ _ ty _ => need (decide (ty.toNat < 8)) .types
  | .vsrlImm _ _ k ty _ => firstOf [need (decide (ty.toNat < 8)) .types, need (decide (k.toNat < tyBits ty.toNat)) .amount]
  | .vsra _ _ _ ty _ => need (decide (ty.toNat < 8)) .types
  | .vsraImm _ _ k ty _ => firstOf [need (decide (ty.toNat < 8)) .types, need (decide (k.toNat < tyBits ty.toNat)) .amount]
  | .vadds _ _ _ ty _ => need (decide (ty.toNat < 8)) .types
  | .vsubs _ _ _ ty _ => need (decide (ty.toNat < 8)) .types
  | .vavg _ _ _ ty _ => need (decide (ty.toNat < 8)) .types
  | .vclz _ _ ty _ => need (decide (ty.toNat < 8)) .types
  | .vpopc _ _ ty _ => need (decide (ty.toNat < 8)) .types
  | .vclmul _ _ _ ty _ => need (decide (ty.toNat = 15)) .types
  | .vclmulh _ _ _ ty _ => need (decide (ty.toNat = 15)) .types
  | .vmulw vd _ _ ty ty2 _ => firstOf [need (decide (widePair ty.toNat ty2.toNat)) .types, need (decide (vd.toNat % 2 = 0)) .alignment]
  | .vaddw vd _ _ ty ty2 _ => firstOf [need (decide (widePair ty.toNat ty2.toNat)) .types, need (decide (vd.toNat % 2 = 0)) .alignment]
  | .vdot4 _ _ _ _ ty ty2 _ _ => need (decide ((ty.toNat = 2 ∧ ty2.toNat = 0) ∨ (ty.toNat = 6 ∧ ty2.toNat = 4))) .types
  | .vfadd _ _ _ ty rm _ _ => firstOf [need (decide (floatTy ty.toNat)) .types, need (decide (rm.toNat ≤ 4)) .rounding]
  | .vfsub _ _ _ ty rm _ _ => firstOf [need (decide (floatTy ty.toNat)) .types, need (decide (rm.toNat ≤ 4)) .rounding]
  | .vfmul _ _ _ ty rm _ _ => firstOf [need (decide (floatTy ty.toNat)) .types, need (decide (rm.toNat ≤ 4)) .rounding]
  | .vfma _ _ _ _ ty rm _ _ => firstOf [need (decide (floatTy ty.toNat)) .types, need (decide (rm.toNat ≤ 4)) .rounding]
  | .vfms _ _ _ _ ty rm _ _ => firstOf [need (decide (floatTy ty.toNat)) .types, need (decide (rm.toNat ≤ 4)) .rounding]
  | .vfnma _ _ _ _ ty rm _ _ => firstOf [need (decide (floatTy ty.toNat)) .types, need (decide (rm.toNat ≤ 4)) .rounding]
  | .vfmin _ _ _ ty _ => need (decide (floatTy ty.toNat)) .types
  | .vfmax _ _ _ ty _ => need (decide (floatTy ty.toNat)) .types
  | .vfminp _ _ _ ty _ => need (decide (floatTy ty.toNat)) .types
  | .vfmaxp _ _ _ ty _ => need (decide (floatTy ty.toNat)) .types
  | .vfabs _ _ ty _ => need (decide (8 ≤ ty.toNat ∧ ty.toNat ≤ 13)) .types
  | .vfneg _ _ ty _ => need (decide (8 ≤ ty.toNat ∧ ty.toNat ≤ 13)) .types
  | .vfcpys _ _ _ ty _ => need (decide (8 ≤ ty.toNat ∧ ty.toNat ≤ 13)) .types
  | .vfdiv _ _ _ ty rm _ _ => firstOf [need (decide (floatTy ty.toNat)) .types, need (decide (rm.toNat ≤ 4)) .rounding]
  | .vfsqrt _ _ ty rm _ _ => firstOf [need (decide (floatTy ty.toNat)) .types, need (decide (rm.toNat ≤ 4)) .rounding]
  | .vexp2 _ _ ty rm _ _ => firstOf [need (decide (floatTy ty.toNat)) .types, need (decide (rm.toNat ≤ 4)) .rounding]
  | .vlog2 _ _ ty rm _ _ => firstOf [need (decide (floatTy ty.toNat)) .types, need (decide (rm.toNat ≤ 4)) .rounding]
  | .vrcp _ _ ty rm _ _ => firstOf [need (decide (floatTy ty.toNat)) .types, need (decide (rm.toNat ≤ 4)) .rounding]
  | .vrsqrt _ _ ty rm _ _ => firstOf [need (decide (floatTy ty.toNat)) .types, need (decide (rm.toNat ≤ 4)) .rounding]
  | .vsinpi _ _ ty rm _ _ => firstOf [need (decide (floatTy ty.toNat)) .types, need (decide (rm.toNat ≤ 4)) .rounding]
  | .vcospi _ _ ty rm _ _ => firstOf [need (decide (floatTy ty.toNat)) .types, need (decide (rm.toNat ≤ 4)) .rounding]
  | .vfrnd _ _ ty rm _ => firstOf [need (decide (floatTy ty.toNat)) .types, need (decide (rm.toNat ≤ 4)) .rounding]
  | .vfclass _ _ ty _ => need (decide (floatTy ty.toNat)) .types
  | .vfscale _ _ _ ty rm _ _ => firstOf [need (decide (floatTy ty.toNat)) .types, need (decide (rm.toNat ≤ 4)) .rounding]
  | .vcvt _ _ ty ty2 rm _ _ => firstOf [need (decide (ty.toNat ≤ 14 ∧ ty2.toNat ≤ 14 ∧ tyBits ty.toNat = tyBits ty2.toNat)) .types, need (decide (rm.toNat ≤ 4)) .rounding]
  | .vcvtw vd _ ty ty2 rm _ _ => firstOf [need (decide (ty.toNat ≤ 14 ∧ ty2.toNat ≤ 14 ∧ ratioOk (tyBits ty.toNat) (tyBits ty2.toNat))) .types, need (decide (rm.toNat ≤ 4)) .rounding, need (decide (vd.toNat % (tyBits ty.toNat / tyBits ty2.toNat) = 0)) .alignment]
  | .vcvtn _ va ty ty2 rm _ _ => firstOf [need (decide (ty.toNat ≤ 14 ∧ ty2.toNat ≤ 14 ∧ ratioOk (tyBits ty2.toNat) (tyBits ty.toNat))) .types, need (decide (rm.toNat ≤ 4)) .rounding, need (decide (va.toNat % (tyBits ty2.toNat / tyBits ty.toNat) = 0)) .alignment]
  | .vcmp _ _ ty pred _ => firstOf [need (decide (ty.toNat ≤ 14)) .types, need (decide (pred.toNat ≤ 5 ∨ (pred.toNat = 6 ∧ 8 ≤ ty.toNat))) .predicate]
  | .mpush _ _ _ => none
  | .minv _ => none
  | .mand => none
  | .mor => none
  | .mandn => none
  | .mpop => none
  | .mcnt _ _ => none
  | .mfirst _ _ => none
  | .mld _ _ _ => none
  | .mst _ _ _ => none
  | .vbcast _ _ ty _ imm => need (decide (imm.toNat < lanes ty.toNat)) .lane
  | .vsplat _ _ _ _ => none
  | .vshuf _ _ _ _ _ => none
  | .vrot _ _ ty _ imm => need (decide (imm.toNat < lanes ty.toNat)) .lane
  | .vslide _ _ _ ty _ imm => need (decide (imm.toNat ≤ lanes ty.toNat)) .lane
  | .vzip vd _ _ _ => need (decide (vd.toNat % 2 = 0)) .alignment
  | .vuzp vd va _ => need (decide (vd.toNat % 2 = 0 ∧ va.toNat % 2 = 0)) .alignment
  | .vcmprs _ _ _ _ => none
  | .vexpnd _ _ _ => none
  | .viota _ ty => need (decide (ty.toNat < 8)) .types
  | .vsel _ _ _ _ => none
  | .vmov _ _ _ _ => none
  | .vrsum _ _ ty _ _ => need (decide (ty.toNat < 8)) .types
  | .vrmax _ _ ty _ => need (decide (ty.toNat < 8)) .types
  | .vrmin _ _ ty _ => need (decide (ty.toNat < 8)) .types
  | .vrxor _ _ _ _ => none
  | .vrfsum _ _ ty rm _ _ => firstOf [need (decide (floatTy ty.toNat)) .types, need (decide (rm.toNat ≤ 4)) .rounding]
  | .vrfmax _ _ ty _ => need (decide (floatTy ty.toNat)) .types
  | .vld _ _ _ _ layout _ _ => need (decide (layout.toNat ≤ 2)) .layout
  | .vst _ _ _ _ layout _ _ => need (decide (layout.toNat ≤ 2)) .layout
  | .vlds _ _ _ ty layout _ _ => firstOf [need (decide (tyBits ty.toNat ≠ 4)) .types, need (decide (layout.toNat ≤ 2)) .layout]
  | .vsts _ _ _ ty layout _ _ => firstOf [need (decide (tyBits ty.toNat ≠ 4)) .types, need (decide (layout.toNat ≤ 2)) .layout]
  | .vgath _ _ _ ty layout _ vi => firstOf [need (decide (tyBits ty.toNat ≠ 4)) .types, need (decide (layout.toNat ≤ 2)) .layout, need (decide (vi.toNat % indexRegs ty.toNat = 0)) .alignment]
  | .vscat _ _ _ ty layout _ vi => firstOf [need (decide (tyBits ty.toNat ≠ 4)) .types, need (decide (layout.toNat ≤ 2)) .layout, need (decide (vi.toNat % indexRegs ty.toNat = 0)) .alignment]
  | .vldb _ _ _ ty layout _ _ => firstOf [need (decide (tyBits ty.toNat ≠ 4)) .types, need (decide (layout.toNat ≤ 2)) .layout]
  | .ali _ _ => none
  | .aadd _ _ _ => none
  | .aaddi _ _ _ => none
  | .amul _ _ _ => none
  | .ashl _ _ _ => none
  | .amovv _ _ ty imm => need (decide (imm.toNat < lanes ty.toNat)) .lane
  | .vloop ad _ => need (ad != 0) .operand
  | .vj _ => none
  | .vbz _ => none
  | .vbnz _ => none
  | .abne _ _ _ => none
  | .vend => none
  | .vtrap _ => none
  | .registerWrite .. => some .event
  | .evset .. => some .event
  | .trctlWrite .. => some .event
  | .trbaseWrite .. => some .event
  | .corectlFlush .. => some .event
  | .corectlFlushin .. => some .event
  | .corectlStop .. => some .event
  | .corectlReset .. => some .event
  | .timerExpiry .. => some .event
  | .windowGrant .. => some .event
  | .taskReady .. => some .event
  | .taskIssue .. => some .event
  | .taskAging .. => some .event
  | .taskComplete .. => some .event
  | .producerFailed .. => some .event
  | .stampStaleLimit .. => some .event
  | .launchStart .. => some .event
  | .launchComplete .. => some .event
  | .loadReturn .. => some .event
  | .remoteStoreAck .. => some .event
  | .barrierArrival .. => some .event
  | .copyChunkDone .. => some .event
  | .copyArrivalReply .. => some .event
  | .resolvableFault .. => some .event
  | .heldFaultRecord .. => some .event
  | .dispRetry .. => some .event
  | .dispRefuse .. => some .event
  | .migrationStart .. => some .event
  | .migrationComplete .. => some .event
  | .remotePostArrival .. => some .event
  | .remotePostRetry .. => some .event
  | .intakeAdmit .. => some .event
  | .remoteReport .. => some .event
  | .lzResvRequest .. => some .event
  | .lzResvAnswer .. => some .event
  | .cprChunkArrival .. => some .event
  | .cprArrival .. => some .event
  | .cprFailureReport .. => some .event
  | .slotLeaseExpiry .. => some .event
  | .gridMarkerRetire .. => some .event
  | .declaredStepArrival .. => some .event
  | .haloShipmentCredit .. => some .event
  | .haloShipmentRead .. => some .event
  | .haloShipmentLand .. => some .event
  | .haloFillLand .. => some .event
  | .gridFailureNotice .. => some .event
  | .breakpointStop .. => some .event
  | .debugStepRequest .. => some .event
  | .debugHaltRequest .. => some .event
  | .debugResume .. => some .event
  | .traceSample .. => some .event
  | .preemptRequest .. => some .event
  | .preemptLimit .. => some .event
  | .partitionSave .. => some .event
  | .partitionResume .. => some .event
  | .partitionStop .. => some .event
  | .partitionStopRequest .. => some .event
  | .partitionCreate .. => some .event
  | .partitionRelease .. => some .event
  | .fatalStop .. => some .event
  | .invalidateSpace .. => some .event
  | .invalidatePartition .. => some .event
  | .invalidateAll .. => some .event
  | .imageLoad .. => some .event
  | .frameReceive .. => some .event
  | .eqtWrite .. => some .event
  | .eqtFadd .. => some .event
  | .eqtRead .. => some .event
  | .eqtNotify .. => some .event
  | .eqtAck .. => some .event
  | .eqtNack .. => some .event
  | .eqtRetransmit .. => some .event
  | .eqtAckTimer .. => some .event
  | .rdmaResponse .. => some .event
  | .rdmaInboundRequest .. => some .event
  | .notifyLineWrite .. => some .event
  | .queueOpen .. => some .event
  | .queuePacketRead .. => some .event
  | .packetNop .. => some .event
  | .packetLaunch .. => some .event
  | .packetCopy .. => some .event
  | .packetEvent .. => some .event
  | .packetComplete .. => some .event
  | .queueWatchdogExpiry .. => some .event
  | .eventPortSend .. => some .event
  | .flitCrcError .. => some .event
  | .linkDown .. => some .event
  | .linkWidthChange .. => some .event
  | .linkRetrain .. => some .event
  | .linkTrainingDone .. => some .event
  | .linkFailureNews .. => some .event
  | .linkDisable .. => some .event
  | .linkDisableDrained .. => some .event
  | .linkEnable .. => some .event
  | .requestResend .. => some .event
  | .noRouteTimeout .. => some .event
  | .linkRecordUpdate => some .event
  | .rttMeasure .. => some .event
  | .linkRecordRequest => some .event
  | .memoryScrub .. => some .event
  | .scratchpadScrub .. => some .event
  | .forecastUpdate .. => some .event
  | .clockSelect .. => some .event
  | .powerTrip .. => some .event
  | .capSet .. => some .event
  | .thermalThrottle .. => some .event
  | .thermalShutdown .. => some .event
  | .telemetryRequest => some .event
  | .packageReset .. => some .event
  | .attestationRequest .. => some .event
  | .illegalWord .. => some .event
  | .accessPerformedAtHome .. => some .event
  | .pendingResultWritten .. => some .event
  | .postAnswerArrival .. => some .event
  | .rdmaTransportGiveUp .. => some .event

/-- Whether an instruction is one that a word can encode. -/
def Instr.wellFormed (i : Instr) : Bool := i.problem.isNone

/-- Whether a row is an event of the part: a step that no word encodes. The rows REGISTER_WRITE to CORECTL_RESET are parts of what SYSW
does, and ILLEGAL_WORD of what a unit does that has fetched such a word: they are no steps of their own. -/
def Instr.isEvent : Instr → Bool
  | .timerExpiry .. => true
  | .windowGrant .. => true
  | .taskReady .. => true
  | .taskIssue .. => true
  | .taskAging .. => true
  | .taskComplete .. => true
  | .producerFailed .. => true
  | .stampStaleLimit .. => true
  | .launchStart .. => true
  | .launchComplete .. => true
  | .loadReturn .. => true
  | .remoteStoreAck .. => true
  | .barrierArrival .. => true
  | .copyChunkDone .. => true
  | .copyArrivalReply .. => true
  | .resolvableFault .. => true
  | .heldFaultRecord .. => true
  | .dispRetry .. => true
  | .dispRefuse .. => true
  | .migrationStart .. => true
  | .migrationComplete .. => true
  | .remotePostArrival .. => true
  | .remotePostRetry .. => true
  | .intakeAdmit .. => true
  | .remoteReport .. => true
  | .lzResvRequest .. => true
  | .lzResvAnswer .. => true
  | .cprChunkArrival .. => true
  | .cprArrival .. => true
  | .cprFailureReport .. => true
  | .slotLeaseExpiry .. => true
  | .gridMarkerRetire .. => true
  | .declaredStepArrival .. => true
  | .haloShipmentCredit .. => true
  | .haloShipmentRead .. => true
  | .haloShipmentLand .. => true
  | .haloFillLand .. => true
  | .gridFailureNotice .. => true
  | .breakpointStop .. => true
  | .debugStepRequest .. => true
  | .debugHaltRequest .. => true
  | .debugResume .. => true
  | .traceSample .. => true
  | .preemptRequest .. => true
  | .preemptLimit .. => true
  | .partitionSave .. => true
  | .partitionResume .. => true
  | .partitionStop .. => true
  | .partitionStopRequest .. => true
  | .partitionCreate .. => true
  | .partitionRelease .. => true
  | .fatalStop .. => true
  | .invalidateSpace .. => true
  | .invalidatePartition .. => true
  | .invalidateAll .. => true
  | .imageLoad .. => true
  | .frameReceive .. => true
  | .eqtWrite .. => true
  | .eqtFadd .. => true
  | .eqtRead .. => true
  | .eqtNotify .. => true
  | .eqtAck .. => true
  | .eqtNack .. => true
  | .eqtRetransmit .. => true
  | .eqtAckTimer .. => true
  | .rdmaResponse .. => true
  | .rdmaInboundRequest .. => true
  | .notifyLineWrite .. => true
  | .queueOpen .. => true
  | .queuePacketRead .. => true
  | .packetNop .. => true
  | .packetLaunch .. => true
  | .packetCopy .. => true
  | .packetEvent .. => true
  | .packetComplete .. => true
  | .queueWatchdogExpiry .. => true
  | .eventPortSend .. => true
  | .flitCrcError .. => true
  | .linkDown .. => true
  | .linkWidthChange .. => true
  | .linkRetrain .. => true
  | .linkTrainingDone .. => true
  | .linkFailureNews .. => true
  | .linkDisable .. => true
  | .linkDisableDrained .. => true
  | .linkEnable .. => true
  | .requestResend .. => true
  | .noRouteTimeout .. => true
  | .linkRecordUpdate .. => true
  | .rttMeasure .. => true
  | .linkRecordRequest .. => true
  | .memoryScrub .. => true
  | .scratchpadScrub .. => true
  | .forecastUpdate .. => true
  | .clockSelect .. => true
  | .powerTrip .. => true
  | .capSet .. => true
  | .thermalThrottle .. => true
  | .thermalShutdown .. => true
  | .telemetryRequest .. => true
  | .packageReset .. => true
  | .attestationRequest .. => true
  | .accessPerformedAtHome .. => true
  | .pendingResultWritten .. => true
  | .postAnswerArrival .. => true
  | .rdmaTransportGiveUp .. => true
  | _ => false

end Sys2Proof
end

