-- ==== Sys2Proof/Decode.lean ====
section
/-!
DEFINITION. Decoding of control-core and vector words, rejecting by name, and the encoder, both written from Tables 7.2 to 7.8
and 10.4. A word is a number: bit 0 is the least significant bit of the first 32-bit word, and the second word of an L or T form
counts on from bit 32.
-/
namespace Sys2Proof

/-! ## Fields -/

/-- Bit i of a word. -/
def bit (w i : Nat) : Bool := w / 2 ^ i % 2 == 1

/-- The fields d, a and b of the control-core formats (Table 7.2). -/
def fD (w : Nat) : Reg := BitVec.ofNat 5 (w / 2 ^ 21)
def fA (w : Nat) : Reg := BitVec.ofNat 5 (w / 2 ^ 16)
def fB (w : Nat) : Reg := BitVec.ofNat 5 (w / 2 ^ 11)
def fImm (w : Nat) : BitVec 16 := BitVec.ofNat 16 w
def fImm12 (w : Nat) : BitVec 12 := BitVec.ofNat 12 (w / 2 ^ 4)

/-- A vector register field and a four-bit field of a vector word (Table 7.7). -/
def gV (w lo : Nat) : VReg := BitVec.ofNat 6 (w / 2 ^ lo)
def gT (w lo : Nat) : BitVec 4 := BitVec.ofNat 4 (w / 2 ^ lo)

/-- Word 0 of a task form (Table 7.3). -/
def TaskHead.decode (w : Nat) : TaskHead :=
  ⟨BitVec.ofNat 5 (w / 2 ^ 18), BitVec.ofNat 2 (w / 2 ^ 16), BitVec.ofNat 4 (w / 2 ^ 12), BitVec.ofNat 3 (w / 2 ^ 9),
    BitVec.ofNat 4 (w / 2 ^ 5), BitVec.ofNat 2 (w / 2 ^ 3)⟩

/-- Word 1 of MMD (Table 10.4). -/
def DrainFields.decode (w : Nat) : DrainFields :=
  ⟨BitVec.ofNat 4 (w / 2 ^ 28), BitVec.ofNat 3 (w / 2 ^ 25), bit w 24, bit w 23, bit w 22, bit w 21, bit w 20, bit w 19,
    bit w 18, BitVec.ofNat 5 (w / 2 ^ 13), bit w 12⟩

/-- Word 1 of ROW (Table 10.4). -/
def RowFields.decode (w : Nat) : RowFields :=
  ⟨BitVec.ofNat 2 (w / 2 ^ 30), BitVec.ofNat 4 (w / 2 ^ 26), BitVec.ofNat 4 (w / 2 ^ 22), BitVec.ofNat 3 (w / 2 ^ 19), bit w 18,
    BitVec.ofNat 5 (w / 2 ^ 13), bit w 12⟩

/-! ## The instruction that a word's fields give -/

/-- Major 0x01: Table 7.6. -/
def readInteger (w : Nat) : Except Illegal Instr :=
  match w % 2 ^ 11 with
  | 0 => .ok (.add (fD w) (fA w) (fB w))
  | 1 => .ok (.sub (fD w) (fA w) (fB w))
  | 2 => .ok (.and (fD w) (fA w) (fB w))
  | 3 => .ok (.or (fD w) (fA w) (fB w))
  | 4 => .ok (.xor (fD w) (fA w) (fB w))
  | 5 => .ok (.andn (fD w) (fA w) (fB w))
  | 6 => .ok (.sll (fD w) (fA w) (fB w))
  | 7 => .ok (.srl (fD w) (fA w) (fB w))
  | 8 => .ok (.sra (fD w) (fA w) (fB w))
  | 9 => .ok (.ror (fD w) (fA w) (fB w))
  | 10 => .ok (.slt (fD w) (fA w) (fB w))
  | 11 => .ok (.sltn (fD w) (fA w) (fB w))
  | 12 => .ok (.min (fD w) (fA w) (fB w))
  | 13 => .ok (.max (fD w) (fA w) (fB w))
  | 14 => .ok (.minn (fD w) (fA w) (fB w))
  | 15 => .ok (.maxn (fD w) (fA w) (fB w))
  | 16 => .ok (.mul (fD w) (fA w) (fB w))
  | 17 => .ok (.mulh (fD w) (fA w) (fB w))
  | 18 => .ok (.mulhn (fD w) (fA w) (fB w))
  | 19 => .ok (.div (fD w) (fA w) (fB w))
  | 20 => .ok (.divn (fD w) (fA w) (fB w))
  | 21 => .ok (.rem (fD w) (fA w) (fB w))
  | 22 => .ok (.remn (fD w) (fA w) (fB w))
  | 23 => .ok (.clz (fD w) (fA w))
  | 24 => .ok (.ctz (fD w) (fA w))
  | 25 => .ok (.popc (fD w) (fA w))
  | 26 => .ok (.brev (fD w) (fA w))
  | 27 => .ok (.bswap (fD w) (fA w))
  | 28 => .ok (.clmul (fD w) (fA w) (fB w))
  | 29 => .ok (.clmulh (fD w) (fA w) (fB w))
  | 30 => .ok (.addw (fD w) (fA w) (fB w))
  | 31 => .ok (.subw (fD w) (fA w) (fB w))
  | 32 => .ok (.sllw (fD w) (fA w) (fB w))
  | 33 => .ok (.srlw (fD w) (fA w) (fB w))
  | 34 => .ok (.sraw (fD w) (fA w) (fB w))
  | 35 => .ok (.exts (fD w) (fA w) (fB w))
  | 36 => .ok (.extz (fD w) (fA w) (fB w))
  | 37 => .ok (.seq (fD w) (fA w) (fB w))
  | 38 => .ok (.sne (fD w) (fA w) (fB w))
  | _ => .error .member

/-- Major 0x08: the shifts by an immediate amount. -/
def readShift (w : Nat) : Except Illegal Instr :=
  match w / 2 ^ 14 % 4 with
  | 0 => .ok (.slli (fD w) (fA w) (BitVec.ofNat 6 w))
  | 1 => .ok (.srli (fD w) (fA w) (BitVec.ofNat 6 w))
  | 2 => .ok (.srai (fD w) (fA w) (BitVec.ofNat 6 w))
  | 3 => .ok (.rori (fD w) (fA w) (BitVec.ofNat 6 w))
  | _ => .error .member

/-- Major 0x18: loads. -/
def readLoad (w : Nat) : Except Illegal Instr :=
  match w % 16 with
  | 0 => .ok (.ldI8 (fD w) (fA w) (fImm12 w))
  | 1 => .ok (.ldI16 (fD w) (fA w) (fImm12 w))
  | 2 => .ok (.ldI32 (fD w) (fA w) (fImm12 w))
  | 3 => .ok (.ld64 (fD w) (fA w) (fImm12 w))
  | 4 => .ok (.ldN8 (fD w) (fA w) (fImm12 w))
  | 5 => .ok (.ldN16 (fD w) (fA w) (fImm12 w))
  | 6 => .ok (.ldN32 (fD w) (fA w) (fImm12 w))
  | _ => .error .member

/-- Major 0x19: stores. -/
def readStore (w : Nat) : Except Illegal Instr :=
  match w % 16 with
  | 0 => .ok (.st8 (fD w) (fA w) (fImm12 w))
  | 1 => .ok (.st16 (fD w) (fA w) (fImm12 w))
  | 2 => .ok (.st32 (fD w) (fA w) (fImm12 w))
  | 3 => .ok (.st64 (fD w) (fA w) (fImm12 w))
  | 11 => .ok (.st64F (fD w) (fA w) (fImm12 w))
  | _ => .error .member

/-- Major 0x20: atomics. -/
def readAtomic (w : Nat) : Except Illegal Instr :=
  match w % 16 with
  | 0 => .ok (.atomAdd (fD w) (fA w) (fB w) (bit w 9) (BitVec.ofNat 3 (w / 2 ^ 6)) (bit w 4))
  | 1 => .ok (.atomAnd (fD w) (fA w) (fB w) (bit w 9) (BitVec.ofNat 3 (w / 2 ^ 6)) (bit w 4))
  | 2 => .ok (.atomOr (fD w) (fA w) (fB w) (bit w 9) (BitVec.ofNat 3 (w / 2 ^ 6)) (bit w 4))
  | 3 => .ok (.atomXor (fD w) (fA w) (fB w) (bit w 9) (BitVec.ofNat 3 (w / 2 ^ 6)) (bit w 4))
  | 4 => .ok (.atomXchg (fD w) (fA w) (fB w) (bit w 9) (BitVec.ofNat 3 (w / 2 ^ 6)) (bit w 4))
  | 5 => .ok (.atomCas (fD w) (fA w) (fB w) (bit w 9) (BitVec.ofNat 3 (w / 2 ^ 6)) (bit w 4))
  | 6 => .ok (.atomMin (fD w) (fA w) (fB w) (bit w 9) (BitVec.ofNat 3 (w / 2 ^ 6)) (bit w 4))
  | 7 => .ok (.atomMax (fD w) (fA w) (fB w) (bit w 9) (BitVec.ofNat 3 (w / 2 ^ 6)) (bit w 4))
  | 8 => .ok (.atomMinn (fD w) (fA w) (fB w) (bit w 9) (BitVec.ofNat 3 (w / 2 ^ 6)) (bit w 4))
  | 9 => .ok (.atomMaxn (fD w) (fA w) (fB w) (bit w 9) (BitVec.ofNat 3 (w / 2 ^ 6)) (bit w 4))
  | 10 => .ok (.atomFadd (fD w) (fA w) (fB w) (bit w 9) (BitVec.ofNat 3 (w / 2 ^ 6)))
  | 11 => .ok (.atomFmin (fD w) (fA w) (fB w) (bit w 9) (BitVec.ofNat 3 (w / 2 ^ 6)))
  | 12 => .ok (.atomFmax (fD w) (fA w) (fB w) (bit w 9) (BitVec.ofNat 3 (w / 2 ^ 6)))
  | 13 => .ok (.atomIncw (fD w) (fA w) (fB w) (bit w 9) (BitVec.ofNat 3 (w / 2 ^ 6)) (bit w 4))
  | 14 => .ok (.atomAddb (fD w) (fA w) (fB w) (bit w 9) (BitVec.ofNat 3 (w / 2 ^ 6)) (bit w 4))
  | _ => .error .member

/-- Major 0x21: fences. -/
def readFence (w : Nat) : Except Illegal Instr :=
  match w / 2 ^ 20 % 8 with
  | 0 => .ok (.fenceAcq (BitVec.ofNat 3 (w / 2 ^ 23)))
  | 1 => .ok (.fenceRel (BitVec.ofNat 3 (w / 2 ^ 23)))
  | 2 => .ok (.fenceAr (BitVec.ofNat 3 (w / 2 ^ 23)))
  | 3 => .ok (.fenceSc (BitVec.ofNat 3 (w / 2 ^ 23)))
  | 4 => .ok (.fenceX (BitVec.ofNat 3 (w / 2 ^ 23)) (BitVec.ofNat 3 (w / 2 ^ 17)) (BitVec.ofNat 3 (w / 2 ^ 14)))
  | _ => .error .member

/-- Major 0x22: hierarchical barriers. -/
def readBarrier (w : Nat) : Except Illegal Instr :=
  match w % 4 with
  | 0 => .ok (.barArv (BitVec.ofNat 3 (w / 2 ^ 8)) (BitVec.ofNat 4 (w / 2 ^ 4)))
  | 1 => .ok (.barWait (fD w) (BitVec.ofNat 3 (w / 2 ^ 8)) (BitVec.ofNat 4 (w / 2 ^ 4)))
  | 2 => .ok (.barSync (fD w) (BitVec.ofNat 3 (w / 2 ^ 8)) (BitVec.ofNat 4 (w / 2 ^ 4)))
  | 3 => .ok (.barCfg (fD w) (fA w) (BitVec.ofNat 3 (w / 2 ^ 8)) (BitVec.ofNat 4 (w / 2 ^ 4)))
  | _ => .error .member

/-- Major 0x23: transaction barriers. -/
def readTb (w : Nat) : Except Illegal Instr :=
  match w % 8 with
  | 0 => .ok (.tbInit (fD w) (fA w) (fB w) (BitVec.ofNat 3 (w / 2 ^ 8)))
  | 1 => .ok (.tbExpect (fD w) (fA w) (fB w))
  | 2 => .ok (.tbArv (fD w) (fA w) (fB w))
  | 3 => .ok (.tbWait (fD w) (fA w) (fB w))
  | 4 => .ok (.tbTest (fD w) (fA w))
  | 5 => .ok (.tbInval (fD w) (fA w))
  | 6 => .ok (.tbName (fD w) (fA w) (fB w))
  | _ => .error .member

/-- Major 0x24: tokens and wait annotations. -/
def readToken (w : Nat) : Except Illegal Instr :=
  match w % 4 with
  | 0 => .ok (.tkWait (fD w) (fA w))
  | 1 => .ok (.tkTest (fD w) (fA w))
  | 2 => .ok (.tkAfter (fA w))
  | 3 => .ok (.tbAfter (fA w) (fB w))
  | _ => .error .member

/-- Major 0x28: buffers and regions. -/
def readBuffer (w : Nat) : Except Illegal Instr :=
  match w % 2 ^ 11 with
  | 0 => .ok (.bufDef (fD w) (fA w) (fB w))
  | 1 => .ok (.bufUndef (fD w) (fA w))
  | 2 => .ok (.rgnB (BitVec.ofNat 4 (w / 2 ^ 21)) (fA w) (fB w))
  | 3 => .ok (.rgnO (BitVec.ofNat 4 (w / 2 ^ 21)) (fA w))
  | 4 => .ok (.rgnE (BitVec.ofNat 4 (w / 2 ^ 21)) (fA w))
  | 5 => .ok (.rgnClr (BitVec.ofNat 4 (w / 2 ^ 21)))
  | _ => .error .member

/-- Major 0x29: matrix tasks. -/
def readMatrix (w w1 : Nat) : Except Illegal Instr :=
  match w / 2 ^ 23 % 8 with
  | 0 => .ok (.mm (TaskHead.decode w) (BitVec.ofNat 4 (w1 / 2 ^ 28)) (BitVec.ofNat 4 (w1 / 2 ^ 24)))
  | 1 => .ok (.mmd (TaskHead.decode w) (DrainFields.decode w1))
  | 2 => .ok (.mmz (TaskHead.decode w))
  | _ => .error .member

/-- Major 0x2A: transpose, row and vector tasks. -/
def readEngine (w w1 : Nat) : Except Illegal Instr :=
  match w / 2 ^ 23 % 8 with
  | 0 => .ok (.xp (TaskHead.decode w))
  | 1 => .ok (.row (TaskHead.decode w) (RowFields.decode w1))
  | 2 => .ok (.vrun (TaskHead.decode w) (BitVec.ofNat 5 (w1 / 2 ^ 27)) (BitVec.ofNat 5 (w1 / 2 ^ 22)))
  | _ => .error .member

/-- Major 0x2B: copies. -/
def readCopy (w w1 : Nat) : Except Illegal Instr :=
  match w / 2 ^ 23 % 8 with
  | 0 => .ok (.cp (TaskHead.decode w) (BitVec.ofNat 5 (w1 / 2 ^ 27)) (BitVec.ofNat 5 (w1 / 2 ^ 22)))
  | 1 => .ok (.cpW (TaskHead.decode w) (BitVec.ofNat 5 (w1 / 2 ^ 27)) (BitVec.ofNat 5 (w1 / 2 ^ 22)))
  | 2 => .ok (.cpG (TaskHead.decode w) (BitVec.ofNat 5 (w1 / 2 ^ 27)) (BitVec.ofNat 5 (w1 / 2 ^ 22)))
  | 3 => .ok (.cpS (TaskHead.decode w) (BitVec.ofNat 5 (w1 / 2 ^ 27)) (BitVec.ofNat 5 (w1 / 2 ^ 22)))
  | 4 => .ok (.cpF (TaskHead.decode w) (BitVec.ofNat 5 (w1 / 2 ^ 27)) (BitVec.ofNat 5 (w1 / 2 ^ 22)))
  | 5 => .ok (.cpR (TaskHead.decode w) (BitVec.ofNat 5 (w1 / 2 ^ 27)) (BitVec.ofNat 5 (w1 / 2 ^ 17)))
  | _ => .error .member

/-- Major 0x2C: remote posting. -/
def readPost (w w1 : Nat) : Except Illegal Instr :=
  match w / 2 ^ 23 % 8 with
  | 0 => .ok (.taskRpost (TaskHead.decode w) (BitVec.ofNat 5 (w1 / 2 ^ 27)) (BitVec.ofNat 5 (w1 / 2 ^ 22)) (BitVec.ofNat 5 (w1 / 2 ^ 17)))
  | 1 => .ok (.taskRstat (TaskHead.decode w) (BitVec.ofNat 5 (w1 / 2 ^ 27)))
  | _ => .error .member

/-- Major 0x2D: landing zones. -/
def readLanding (w : Nat) : Except Illegal Instr :=
  match w % 2 ^ 11 with
  | 0 => .ok (.lzDef (fD w) (fA w) (fB w))
  | 1 => .ok (.lzResv (fD w) (fA w) (fB w))
  | 2 => .ok (.lzRel (fD w) (fA w) (fB w))
  | 3 => .ok (.lzStat (fD w) (fA w) (fB w))
  | 4 => .ok (.lzUndef (fD w) (fA w))
  | _ => .error .member

/-- Major 0x2E: grids. -/
def readGrid (w : Nat) : Except Illegal Instr :=
  match w % 2 ^ 11 with
  | 0 => .ok (.gridDef (fD w) (fA w) (fB w))
  | 1 => .ok (.gridBc (fD w) (fA w) (fB w))
  | 2 => .ok (.gridStep (fD w) (fA w) (fB w))
  | 3 => .ok (.gridStat (fD w) (fA w) (fB w))
  | 4 => .ok (.gridUndef (fD w) (fA w))
  | _ => .error .member

/-- Major 0x30: system and strand control. -/
def readSystem (w : Nat) : Except Illegal Instr :=
  match w % 16 with
  | 0 => .ok (.ecall (fA w))
  | 1 => .ok (.trap (fA w) (fB w))
  | 2 => .ok (.eret)
  | 3 => .ok (.sysr (fD w) (BitVec.ofNat 12 (w / 2 ^ 4)))
  | 4 => .ok (.sysw (BitVec.ofNat 12 (w / 2 ^ 4)) (fA w))
  | 5 => .ok (.safept)
  | 6 => .ok (.ckpt)
  | 7 => .ok (.spawn (fD w) (fA w) (fB w))
  | 8 => .ok (.endStrand)
  | 9 => .ok (.yield)
  | 10 => .ok (.halt)
  | 11 => .ok (.waitev (fD w) (fA w))
  | _ => .error .member

/-- Major 0x31: accumulator, tile, trace and step. -/
def readTile (w : Nat) : Except Illegal Instr :=
  match w % 2 ^ 11 with
  | 0 => .ok (.accAlloc (fD w) (fA w))
  | 1 => .ok (.accFree (fD w) (fA w) (fB w))
  | 2 => .ok (.memCommit (fD w) (fA w))
  | 3 => .ok (.memDecommit (fD w) (fA w))
  | 4 => .ok (.traceMark (fA w) (fB w))
  | 5 => .ok (.stepEnd (fD w) (fA w))
  | _ => .error .member

/-- Major 0x3E: long forms. -/
def readLong (w w1 : Nat) : Except Illegal Instr :=
  match w % 2 ^ 16 with
  | 0 => .ok (.li (fD w) (BitVec.ofNat 32 w1))
  | 1 => .ok (.lihi (fD w) (fA w) (BitVec.ofNat 32 w1))
  | 2 => .ok (.addl (fD w) (fA w) (BitVec.ofNat 32 w1))
  | 3 => .ok (.jall (fD w) (BitVec.ofNat 32 w1))
  | _ => .error .member

/-- The instruction that the fields of a control-core word give by Tables 7.4 to 7.6 (w1: its second word). -/
def readControl (w w1 : Nat) : Except Illegal Instr :=
  match w / 2 ^ 26 with
  | 0x01 => readInteger w
  | 0x02 => .ok (.addi (fD w) (fA w) (fImm w))
  | 0x03 => .ok (.andi (fD w) (fA w) (fImm w))
  | 0x04 => .ok (.ori (fD w) (fA w) (fImm w))
  | 0x05 => .ok (.xori (fD w) (fA w) (fImm w))
  | 0x06 => .ok (.slti (fD w) (fA w) (fImm w))
  | 0x07 => .ok (.sltni (fD w) (fA w) (fImm w))
  | 0x08 => readShift w
  | 0x09 => .ok (.lih (fD w) (fImm w))
  | 0x0A => .ok (.addpc (fD w) (fImm w))
  | 0x10 => .ok (.beq (fD w) (fA w) (fImm w))
  | 0x11 => .ok (.bne (fD w) (fA w) (fImm w))
  | 0x12 => .ok (.blt (fD w) (fA w) (fImm w))
  | 0x13 => .ok (.bge (fD w) (fA w) (fImm w))
  | 0x14 => .ok (.bltn (fD w) (fA w) (fImm w))
  | 0x15 => .ok (.bgen (fD w) (fA w) (fImm w))
  | 0x16 => .ok (.jal (fD w) (BitVec.ofNat 21 w))
  | 0x17 => .ok (.jalr (fD w) (fA w) (fImm w))
  | 0x18 => readLoad w
  | 0x19 => readStore w
  | 0x20 => readAtomic w
  | 0x21 => readFence w
  | 0x22 => readBarrier w
  | 0x23 => readTb w
  | 0x24 => readToken w
  | 0x28 => readBuffer w
  | 0x29 => readMatrix w w1
  | 0x2A => readEngine w w1
  | 0x2B => readCopy w w1
  | 0x2C => readPost w w1
  | 0x2D => readLanding w
  | 0x2E => readGrid w
  | 0x30 => readSystem w
  | 0x31 => readTile w
  | 0x3E => readLong w w1
  | _ => .error .major

/-- Majors 0x01–0x1A: integer, logic and carry-less members. -/
def readInt (w : Nat) : Except Illegal Instr :=
  match w / 2 ^ 56 with
  | 0x01 => .ok (.vadd (gV w 50) (gV w 44) (gV w 38) (gT w 28) (bit w 19))
  | 0x02 => .ok (.vsub (gV w 50) (gV w 44) (gV w 38) (gT w 28) (bit w 19))
  | 0x03 => .ok (.vmul (gV w 50) (gV w 44) (gV w 38) (gT w 28) (bit w 19))
  | 0x04 => .ok (.vmulh (gV w 50) (gV w 44) (gV w 38) (gT w 28) (bit w 19))
  | 0x05 => .ok (.vmad (gV w 50) (gV w 44) (gV w 38) (gV w 32) (gT w 28) (bit w 19))
  | 0x06 => .ok (.vmin (gV w 50) (gV w 44) (gV w 38) (gT w 28) (bit w 19))
  | 0x07 => .ok (.vmax (gV w 50) (gV w 44) (gV w 38) (gT w 28) (bit w 19))
  | 0x08 => .ok (.vabs (gV w 50) (gV w 44) (gT w 28) (bit w 20) (bit w 19))
  | 0x09 => .ok (.vneg (gV w 50) (gV w 44) (gT w 28) (bit w 20) (bit w 19))
  | 0x0A => .ok (.vand (gV w 50) (gV w 44) (gV w 38) (gT w 28) (bit w 19))
  | 0x0B => .ok (.vor (gV w 50) (gV w 44) (gV w 38) (gT w 28) (bit w 19))
  | 0x0C => .ok (.vxor (gV w 50) (gV w 44) (gV w 38) (gT w 28) (bit w 19))
  | 0x0D => .ok (.vnot (gV w 50) (gV w 44) (gT w 28) (bit w 19))
  | 0x0E => .ok (if bit w 15 then .vsllImm (gV w 50) (gV w 44) (BitVec.ofNat 5 w) (gT w 28) (bit w 19) else .vsll (gV w 50) (gV w 44) (gV w 38) (gT w 28) (bit w 19))
  | 0x0F => .ok (if bit w 15 then .vsrlImm (gV w 50) (gV w 44) (BitVec.ofNat 5 w) (gT w 28) (bit w 19) else .vsrl (gV w 50) (gV w 44) (gV w 38) (gT w 28) (bit w 19))
  | 0x10 => .ok (if bit w 15 then .vsraImm (gV w 50) (gV w 44) (BitVec.ofNat 5 w) (gT w 28) (bit w 19) else .vsra (gV w 50) (gV w 44) (gV w 38) (gT w 28) (bit w 19))
  | 0x11 => .ok (.vadds (gV w 50) (gV w 44) (gV w 38) (gT w 28) (bit w 19))
  | 0x12 => .ok (.vsubs (gV w 50) (gV w 44) (gV w 38) (gT w 28) (bit w 19))
  | 0x13 => .ok (.vavg (gV w 50) (gV w 44) (gV w 38) (gT w 28) (bit w 19))
  | 0x14 => .ok (.vclz (gV w 50) (gV w 44) (gT w 28) (bit w 19))
  | 0x15 => .ok (.vpopc (gV w 50) (gV w 44) (gT w 28) (bit w 19))
  | 0x16 => .ok (.vclmul (gV w 50) (gV w 44) (gV w 38) (gT w 28) (bit w 19))
  | 0x17 => .ok (.vclmulh (gV w 50) (gV w 44) (gV w 38) (gT w 28) (bit w 19))
  | 0x18 => .ok (.vmulw (gV w 50) (gV w 44) (gV w 38) (gT w 28) (gT w 24) (bit w 19))
  | 0x19 => .ok (.vaddw (gV w 50) (gV w 44) (gV w 38) (gT w 28) (gT w 24) (bit w 19))
  | 0x1A => .ok (.vdot4 (gV w 50) (gV w 44) (gV w 38) (gV w 32) (gT w 28) (gT w 24) (bit w 20) (bit w 19))
  | _ => .error .major

/-- Majors 0x20–0x42: floating-point members and conversions. -/
def readFloat (w : Nat) : Except Illegal Instr :=
  match w / 2 ^ 56 with
  | 0x20 => .ok (.vfadd (gV w 50) (gV w 44) (gV w 38) (gT w 28) (BitVec.ofNat 3 (w / 2 ^ 21)) (bit w 20) (bit w 19))
  | 0x21 => .ok (.vfsub (gV w 50) (gV w 44) (gV w 38) (gT w 28) (BitVec.ofNat 3 (w / 2 ^ 21)) (bit w 20) (bit w 19))
  | 0x22 => .ok (.vfmul (gV w 50) (gV w 44) (gV w 38) (gT w 28) (BitVec.ofNat 3 (w / 2 ^ 21)) (bit w 20) (bit w 19))
  | 0x23 => .ok (.vfma (gV w 50) (gV w 44) (gV w 38) (gV w 32) (gT w 28) (BitVec.ofNat 3 (w / 2 ^ 21)) (bit w 20) (bit w 19))
  | 0x24 => .ok (.vfms (gV w 50) (gV w 44) (gV w 38) (gV w 32) (gT w 28) (BitVec.ofNat 3 (w / 2 ^ 21)) (bit w 20) (bit w 19))
  | 0x25 => .ok (.vfnma (gV w 50) (gV w 44) (gV w 38) (gV w 32) (gT w 28) (BitVec.ofNat 3 (w / 2 ^ 21)) (bit w 20) (bit w 19))
  | 0x26 => .ok (.vfmin (gV w 50) (gV w 44) (gV w 38) (gT w 28) (bit w 19))
  | 0x27 => .ok (.vfmax (gV w 50) (gV w 44) (gV w 38) (gT w 28) (bit w 19))
  | 0x28 => .ok (.vfminp (gV w 50) (gV w 44) (gV w 38) (gT w 28) (bit w 19))
  | 0x29 => .ok (.vfmaxp (gV w 50) (gV w 44) (gV w 38) (gT w 28) (bit w 19))
  | 0x2A => .ok (.vfabs (gV w 50) (gV w 44) (gT w 28) (bit w 19))
  | 0x2B => .ok (.vfneg (gV w 50) (gV w 44) (gT w 28) (bit w 19))
  | 0x2C => .ok (.vfcpys (gV w 50) (gV w 44) (gV w 38) (gT w 28) (bit w 19))
  | 0x2D => .ok (.vfdiv (gV w 50) (gV w 44) (gV w 38) (gT w 28) (BitVec.ofNat 3 (w / 2 ^ 21)) (bit w 20) (bit w 19))
  | 0x2E => .ok (.vfsqrt (gV w 50) (gV w 44) (gT w 28) (BitVec.ofNat 3 (w / 2 ^ 21)) (bit w 20) (bit w 19))
  | 0x2F => .ok (.vexp2 (gV w 50) (gV w 44) (gT w 28) (BitVec.ofNat 3 (w / 2 ^ 21)) (bit w 20) (bit w 19))
  | 0x30 => .ok (.vlog2 (gV w 50) (gV w 44) (gT w 28) (BitVec.ofNat 3 (w / 2 ^ 21)) (bit w 20) (bit w 19))
  | 0x31 => .ok (.vrcp (gV w 50) (gV w 44) (gT w 28) (BitVec.ofNat 3 (w / 2 ^ 21)) (bit w 20) (bit w 19))
  | 0x32 => .ok (.vrsqrt (gV w 50) (gV w 44) (gT w 28) (BitVec.ofNat 3 (w / 2 ^ 21)) (bit w 20) (bit w 19))
  | 0x33 => .ok (.vsinpi (gV w 50) (gV w 44) (gT w 28) (BitVec.ofNat 3 (w / 2 ^ 21)) (bit w 20) (bit w 19))
  | 0x34 => .ok (.vcospi (gV w 50) (gV w 44) (gT w 28) (BitVec.ofNat 3 (w / 2 ^ 21)) (bit w 20) (bit w 19))
  | 0x35 => .ok (.vfrnd (gV w 50) (gV w 44) (gT w 28) (BitVec.ofNat 3 (w / 2 ^ 21)) (bit w 19))
  | 0x36 => .ok (.vfclass (gV w 50) (gV w 44) (gT w 28) (bit w 19))
  | 0x37 => .ok (.vfscale (gV w 50) (gV w 44) (gV w 38) (gT w 28) (BitVec.ofNat 3 (w / 2 ^ 21)) (bit w 20) (bit w 19))
  | 0x40 => .ok (.vcvt (gV w 50) (gV w 44) (gT w 28) (gT w 24) (BitVec.ofNat 3 (w / 2 ^ 21)) (bit w 20) (bit w 19))
  | 0x41 => .ok (.vcvtw (gV w 50) (gV w 44) (gT w 28) (gT w 24) (BitVec.ofNat 3 (w / 2 ^ 21)) (bit w 20) (bit w 19))
  | 0x42 => .ok (.vcvtn (gV w 50) (gV w 44) (gT w 28) (gT w 24) (BitVec.ofNat 3 (w / 2 ^ 21)) (bit w 20) (bit w 19))
  | _ => .error .major

/-- Majors 0x50–0x5A: mask members. -/
def readMask (w : Nat) : Except Illegal Instr :=
  match w / 2 ^ 56 with
  | 0x50 => .ok (.vcmp (gV w 44) (gV w 38) (gT w 28) (BitVec.ofNat 3 (w / 2 ^ 16)) (bit w 19))
  | 0x51 => .ok (.mpush (gV w 44) (gT w 28) (bit w 19))
  | 0x52 => .ok (.minv (gT w 28))
  | 0x53 => .ok (.mand)
  | 0x54 => .ok (.mor)
  | 0x55 => .ok (.mandn)
  | 0x56 => .ok (.mpop)
  | 0x57 => .ok (.mcnt (gT w 50) (gT w 28))
  | 0x58 => .ok (.mfirst (gT w 50) (gT w 28))
  | 0x59 => .ok (.mld (gT w 46) (gT w 42) (BitVec.ofNat 16 w))
  | 0x5A => .ok (.mst (gT w 46) (gT w 42) (BitVec.ofNat 16 w))
  | _ => .error .major

/-- Majors 0x60–0x75: permutes and reductions. -/
def readMove (w : Nat) : Except Illegal Instr :=
  match w / 2 ^ 56 with
  | 0x60 => .ok (.vbcast (gV w 50) (gV w 44) (gT w 28) (bit w 19) (BitVec.ofNat 16 w))
  | 0x61 => .ok (.vsplat (gV w 50) (gT w 44) (gT w 28) (bit w 19))
  | 0x62 => .ok (.vshuf (gV w 50) (gV w 44) (gV w 38) (gT w 28) (bit w 19))
  | 0x63 => .ok (.vrot (gV w 50) (gV w 44) (gT w 28) (bit w 19) (BitVec.ofNat 16 w))
  | 0x64 => .ok (.vslide (gV w 50) (gV w 44) (gV w 38) (gT w 28) (bit w 19) (BitVec.ofNat 16 w))
  | 0x65 => .ok (.vzip (gV w 50) (gV w 44) (gV w 38) (gT w 28))
  | 0x66 => .ok (.vuzp (gV w 50) (gV w 44) (gT w 28))
  | 0x67 => .ok (.vcmprs (gV w 50) (gV w 44) (gT w 38) (gT w 28))
  | 0x68 => .ok (.vexpnd (gV w 50) (gV w 44) (gT w 28))
  | 0x69 => .ok (.viota (gV w 50) (gT w 28))
  | 0x6A => .ok (.vsel (gV w 50) (gV w 44) (gV w 38) (gT w 28))
  | 0x6B => .ok (.vmov (gV w 50) (gV w 44) (gT w 28) (bit w 19))
  | 0x70 => .ok (.vrsum (gV w 50) (gV w 44) (gT w 28) (bit w 20) (bit w 19))
  | 0x71 => .ok (.vrmax (gV w 50) (gV w 44) (gT w 28) (bit w 19))
  | 0x72 => .ok (.vrmin (gV w 50) (gV w 44) (gT w 28) (bit w 19))
  | 0x73 => .ok (.vrxor (gV w 50) (gV w 44) (gT w 28) (bit w 19))
  | 0x74 => .ok (.vrfsum (gV w 50) (gV w 44) (gT w 28) (BitVec.ofNat 3 (w / 2 ^ 21)) (bit w 20) (bit w 19))
  | 0x75 => .ok (.vrfmax (gV w 50) (gV w 44) (gT w 28) (bit w 19))
  | _ => .error .major

/-- Majors 0x80–0x92: memory members and address registers. -/
def readMem (w : Nat) : Except Illegal Instr :=
  match w / 2 ^ 56 with
  | 0x80 => .ok (.vld (gV w 50) (gT w 46) (gT w 42) (gT w 28) (gT w 24) (bit w 19) (BitVec.ofNat 16 w))
  | 0x81 => .ok (.vst (gV w 50) (gT w 46) (gT w 42) (gT w 28) (gT w 24) (bit w 19) (BitVec.ofNat 16 w))
  | 0x82 => .ok (.vlds (gV w 50) (gT w 46) (gT w 42) (gT w 28) (gT w 24) (bit w 19) (BitVec.ofNat 16 w))
  | 0x83 => .ok (.vsts (gV w 50) (gT w 46) (gT w 42) (gT w 28) (gT w 24) (bit w 19) (BitVec.ofNat 16 w))
  | 0x84 => .ok (.vgath (gV w 50) (gT w 46) (gT w 42) (gT w 28) (gT w 24) (bit w 19) (BitVec.ofNat 6 w))
  | 0x85 => .ok (.vscat (gV w 50) (gT w 46) (gT w 42) (gT w 28) (gT w 24) (bit w 19) (BitVec.ofNat 6 w))
  | 0x86 => .ok (.vldb (gV w 50) (gT w 46) (gT w 42) (gT w 28) (gT w 24) (bit w 19) (BitVec.ofNat 16 w))
  | 0x90 => .ok (.ali (gT w 52) (BitVec.ofNat 32 w))
  | 0x91 => .ok (.aadd (gT w 52) (gT w 48) (gT w 44))
  | 0x92 => .ok (.aaddi (gT w 52) (gT w 48) (BitVec.ofNat 32 w))
  | _ => .error .major

/-- Majors 0x93–0x9C: AMUL, ASHL, AMOVV and the control members. Lean compiles no term that
builds a constructor standing this late in Instr, so this has no compiled code; runVectorCode stands in for it. -/
noncomputable def readSteer (w : Nat) : Except Illegal Instr :=
  if w / 2 ^ 56 = 0x93 then .ok (.amul (gT w 52) (gT w 48) (gT w 44))
  else if w / 2 ^ 56 = 0x94 then .ok (.ashl (gT w 52) (gT w 48) (BitVec.ofNat 6 w))
  else if w / 2 ^ 56 = 0x95 then .ok (.amovv (gT w 50) (gV w 44) (gT w 28) (BitVec.ofNat 16 w))
  else if w / 2 ^ 56 = 0x96 then .ok (.vloop (gT w 52) (BitVec.ofNat 32 w))
  else if w / 2 ^ 56 = 0x97 then .ok (.vj (BitVec.ofNat 32 w))
  else if w / 2 ^ 56 = 0x98 then .ok (.vbz (BitVec.ofNat 32 w))
  else if w / 2 ^ 56 = 0x99 then .ok (.vbnz (BitVec.ofNat 32 w))
  else if w / 2 ^ 56 = 0x9A then .ok (.abne (gT w 48) (gT w 44) (BitVec.ofNat 32 w))
  else if w / 2 ^ 56 = 0x9B then .ok (.vend)
  else if w / 2 ^ 56 = 0x9C then .ok (.vtrap (BitVec.ofNat 32 w))
  else .error .major

/-- The instruction that the fields of a vector word below major 0x93 give. -/
def readLane (w : Nat) : Except Illegal Instr :=
  if w / 2 ^ 56 < 0x20 then readInt w
  else if w / 2 ^ 56 < 0x50 then readFloat w
  else if w / 2 ^ 56 < 0x60 then readMask w
  else if w / 2 ^ 56 < 0x80 then readMove w
  else readMem w

/-- The instruction that the fields of a vector word give by Table 7.8. -/
noncomputable def readVector (w : Nat) : Except Illegal Instr :=
  if 0x93 ≤ w / 2 ^ 56 then readSteer w else readLane w

/-! ## The encoder -/

/-- Format A of Table 7.2; func may carry member, scope and size. -/
def wordA (op : Nat) (d a b : Reg) (func : Nat) : Nat :=
  op * 2 ^ 26 + d.toNat * 2 ^ 21 + a.toNat * 2 ^ 16 + b.toNat * 2 ^ 11 + func

/-- Formats I and B of Table 7.2. -/
def wordI (op : Nat) (d a : Reg) (imm : Nat) : Nat := op * 2 ^ 26 + d.toNat * 2 ^ 21 + a.toNat * 2 ^ 16 + imm

/-- Format M of Table 7.2. -/
def wordM (op : Nat) (d a : Reg) (imm : BitVec 12) (w : Nat) : Nat :=
  op * 2 ^ 26 + d.toNat * 2 ^ 21 + a.toNat * 2 ^ 16 + imm.toNat * 2 ^ 4 + w

/-- Format J of Table 7.2. -/
def wordJ (op : Nat) (d : Reg) (off : BitVec 21) : Nat := op * 2 ^ 26 + d.toNat * 2 ^ 21 + off.toNat

/-- Format F of Table 7.2. -/
def wordF (scope : BitVec 3) (kind : Nat) (p q : BitVec 3) : Nat :=
  0x21 * 2 ^ 26 + scope.toNat * 2 ^ 23 + kind * 2 ^ 20 + p.toNat * 2 ^ 17 + q.toNat * 2 ^ 14

/-- Format L of Table 7.2. -/
def wordL (d a : Reg) (func : Nat) (imm : BitVec 32) : Nat :=
  0x3E * 2 ^ 26 + d.toNat * 2 ^ 21 + a.toNat * 2 ^ 16 + func + imm.toNat * 2 ^ 32

/-- SYSR and SYSW: the register number is b × 128 + func[10:4] (Table 7.5). -/
def wordN (op : Nat) (d a : Reg) (num : BitVec 12) (member : Nat) : Nat :=
  op * 2 ^ 26 + d.toNat * 2 ^ 21 + a.toNat * 2 ^ 16 + num.toNat * 2 ^ 4 + member

/-- func of an atomic (Table 7.5). -/
def atomFunc (code : Nat) (wide : Bool) (scope : BitVec 3) (ar : Bool) : Nat :=
  ar.toNat * 2 ^ 9 + scope.toNat * 2 ^ 6 + wide.toNat * 2 ^ 4 + code

/-- Format T: word 0 of Table 7.3 and word 1. -/
def wordT (op sub : Nat) (h : TaskHead) (w1 : Nat) : Nat :=
  op * 2 ^ 26 + sub * 2 ^ 23 + h.tok.toNat * 2 ^ 18 + h.pri.toNat * 2 ^ 16 + h.rbase.toNat * 2 ^ 12 + h.rcnt.toNat * 2 ^ 9 +
    h.wbase.toNat * 2 ^ 5 + h.wcnt.toNat * 2 ^ 3 + w1 * 2 ^ 32

/-- Format VA of Table 7.7; low carries sub and imm16. -/
def wordVA (major : Nat) (vd va vb vc : VReg) (ty ty2 : BitVec 4) (rm : BitVec 3) (sat m : Bool) (low : Nat) : Nat :=
  major * 2 ^ 56 + vd.toNat * 2 ^ 50 + va.toNat * 2 ^ 44 + vb.toNat * 2 ^ 38 + vc.toNat * 2 ^ 32 + ty.toNat * 2 ^ 28 +
    ty2.toNat * 2 ^ 24 + rm.toNat * 2 ^ 21 + sat.toNat * 2 ^ 20 + m.toNat * 2 ^ 19 + low

/-- Format VM of Table 7.7. -/
def wordVM (major : Nat) (vd : VReg) (abase aidx : AReg) (ty layout : BitVec 4) (m : Bool) (imm : Nat) : Nat :=
  major * 2 ^ 56 + vd.toNat * 2 ^ 50 + abase.toNat * 2 ^ 46 + aidx.toNat * 2 ^ 42 + ty.toNat * 2 ^ 28 +
    layout.toNat * 2 ^ 24 + m.toNat * 2 ^ 19 + imm

/-- Format VC of Table 7.7. -/
def wordVC (major : Nat) (ad aa ab : AReg) (imm : Nat) : Nat :=
  major * 2 ^ 56 + ad.toNat * 2 ^ 52 + aa.toNat * 2 ^ 48 + ab.toNat * 2 ^ 44 + imm

/-- Word 1 of MMD. -/
def DrainFields.encode (f : DrainFields) : Nat :=
  f.fout.toNat * 2 ^ 28 + f.rm.toNat * 2 ^ 25 + f.sat.toNat * 2 ^ 24 + f.rs.toNat * 2 ^ 23 + f.cs.toNat * 2 ^ 22 +
    f.bi.toNat * 2 ^ 21 + f.rsf.toNat * 2 ^ 20 + f.csf.toNat * 2 ^ 19 + f.tgt.toNat * 2 ^ 18 + f.clr.toNat * 2 ^ 13 +
    f.acci.toNat * 2 ^ 12

/-- Word 1 of ROW. -/
def RowFields.encode (f : RowFields) : Nat :=
  f.opk.toNat * 2 ^ 30 + f.fin.toNat * 2 ^ 26 + f.fout.toNat * 2 ^ 22 + f.rm.toNat * 2 ^ 19 + f.sat.toNat * 2 ^ 18 +
    f.preg.toNat * 2 ^ 13 + f.causal.toNat * 2 ^ 12

/-- The word of a well-formed instruction; an event row has none and gives 0. -/
def Instr.encode : Instr → Nat
  | .add d a b => wordA 0x01 d a b 0
  | .sub d a b => wordA 0x01 d a b 1
  | .and d a b => wordA 0x01 d a b 2
  | .or d a b => wordA 0x01 d a b 3
  | .xor d a b => wordA 0x01 d a b 4
  | .andn d a b => wordA 0x01 d a b 5
  | .sll d a b => wordA 0x01 d a b 6
  | .srl d a b => wordA 0x01 d a b 7
  | .sra d a b => wordA 0x01 d a b 8
  | .ror d a b => wordA 0x01 d a b 9
  | .slt d a b => wordA 0x01 d a b 10
  | .sltn d a b => wordA 0x01 d a b 11
  | .min d a b => wordA 0x01 d a b 12
  | .max d a b => wordA 0x01 d a b 13
  | .minn d a b => wordA 0x01 d a b 14
  | .maxn d a b => wordA 0x01 d a b 15
  | .mul d a b => wordA 0x01 d a b 16
  | .mulh d a b => wordA 0x01 d a b 17
  | .mulhn d a b => wordA 0x01 d a b 18
  | .div d a b => wordA 0x01 d a b 19
  | .divn d a b => wordA 0x01 d a b 20
  | .rem d a b => wordA 0x01 d a b 21
  | .remn d a b => wordA 0x01 d a b 22
  | .clz d a => wordA 0x01 d a 0 23
  | .ctz d a => wordA 0x01 d a 0 24
  | .popc d a => wordA 0x01 d a 0 25
  | .brev d a => wordA 0x01 d a 0 26
  | .bswap d a => wordA 0x01 d a 0 27
  | .clmul d a b => wordA 0x01 d a b 28
  | .clmulh d a b => wordA 0x01 d a b 29
  | .addw d a b => wordA 0x01 d a b 30
  | .subw d a b => wordA 0x01 d a b 31
  | .sllw d a b => wordA 0x01 d a b 32
  | .srlw d a b => wordA 0x01 d a b 33
  | .sraw d a b => wordA 0x01 d a b 34
  | .exts d a b => wordA 0x01 d a b 35
  | .extz d a b => wordA 0x01 d a b 36
  | .seq d a b => wordA 0x01 d a b 37
  | .sne d a b => wordA 0x01 d a b 38
  | .addi d a imm => wordI 0x2 d a imm.toNat
  | .andi d a imm => wordI 0x3 d a imm.toNat
  | .ori d a imm => wordI 0x4 d a imm.toNat
  | .xori d a imm => wordI 0x5 d a imm.toNat
  | .slti d a imm => wordI 0x6 d a imm.toNat
  | .sltni d a imm => wordI 0x7 d a imm.toNat
  | .slli d a n => wordI 0x08 d a (0 * 2 ^ 14 + n.toNat)
  | .srli d a n => wordI 0x08 d a (1 * 2 ^ 14 + n.toNat)
  | .srai d a n => wordI 0x08 d a (2 * 2 ^ 14 + n.toNat)
  | .rori d a n => wordI 0x08 d a (3 * 2 ^ 14 + n.toNat)
  | .lih d imm => wordI 0x09 d 0 imm.toNat
  | .addpc d imm => wordI 0x0A d 0 imm.toNat
  | .beq a b off => wordI 0x10 a b off.toNat
  | .bne a b off => wordI 0x11 a b off.toNat
  | .blt a b off => wordI 0x12 a b off.toNat
  | .bge a b off => wordI 0x13 a b off.toNat
  | .bltn a b off => wordI 0x14 a b off.toNat
  | .bgen a b off => wordI 0x15 a b off.toNat
  | .jal d off => wordJ 0x16 d off
  | .jalr d a imm => wordI 0x17 d a imm.toNat
  | .ldI8 d a imm => wordM 0x18 d a imm 0
  | .ldI16 d a imm => wordM 0x18 d a imm 1
  | .ldI32 d a imm => wordM 0x18 d a imm 2
  | .ld64 d a imm => wordM 0x18 d a imm 3
  | .ldN8 d a imm => wordM 0x18 d a imm 4
  | .ldN16 d a imm => wordM 0x18 d a imm 5
  | .ldN32 d a imm => wordM 0x18 d a imm 6
  | .st8 d a imm => wordM 0x19 d a imm 0
  | .st16 d a imm => wordM 0x19 d a imm 1
  | .st32 d a imm => wordM 0x19 d a imm 2
  | .st64 d a imm => wordM 0x19 d a imm 3
  | .st64F d a imm => wordM 0x19 d a imm 11
  | .atomAdd d a b ar scope wide => wordA 0x20 d a b (atomFunc 0 wide scope ar)
  | .atomAnd d a b ar scope wide => wordA 0x20 d a b (atomFunc 1 wide scope ar)
  | .atomOr d a b ar scope wide => wordA 0x20 d a b (atomFunc 2 wide scope ar)
  | .atomXor d a b ar scope wide => wordA 0x20 d a b (atomFunc 3 wide scope ar)
  | .atomXchg d a b ar scope wide => wordA 0x20 d a b (atomFunc 4 wide scope ar)
  | .atomCas d a b ar scope wide => wordA 0x20 d a b (atomFunc 5 wide scope ar)
  | .atomMin d a b ar scope wide => wordA 0x20 d a b (atomFunc 6 wide scope ar)
  | .atomMax d a b ar scope wide => wordA 0x20 d a b (atomFunc 7 wide scope ar)
  | .atomMinn d a b ar scope wide => wordA 0x20 d a b (atomFunc 8 wide scope ar)
  | .atomMaxn d a b ar scope wide => wordA 0x20 d a b (atomFunc 9 wide scope ar)
  | .atomFadd d a b ar scope => wordA 0x20 d a b (atomFunc 10 false scope ar)
  | .atomFmin d a b ar scope => wordA 0x20 d a b (atomFunc 11 false scope ar)
  | .atomFmax d a b ar scope => wordA 0x20 d a b (atomFunc 12 false scope ar)
  | .atomIncw d a b ar scope wide => wordA 0x20 d a b (atomFunc 13 wide scope ar)
  | .atomAddb d a b ar scope wide => wordA 0x20 d a b (atomFunc 14 wide scope ar)
  | .fenceAcq scope => wordF scope 0 0 0
  | .fenceRel scope => wordF scope 1 0 0
  | .fenceAr scope => wordF scope 2 0 0
  | .fenceSc scope => wordF scope 3 0 0
  | .fenceX scope p q => wordF scope 4 p q
  | .barArv scope id => wordA 0x22 0 0 0 (scope.toNat * 2 ^ 8 + id.toNat * 2 ^ 4 + 0)
  | .barWait d scope id => wordA 0x22 d 0 0 (scope.toNat * 2 ^ 8 + id.toNat * 2 ^ 4 + 1)
  | .barSync d scope id => wordA 0x22 d 0 0 (scope.toNat * 2 ^ 8 + id.toNat * 2 ^ 4 + 2)
  | .barCfg d a scope id => wordA 0x22 d a 0 (scope.toNat * 2 ^ 8 + id.toNat * 2 ^ 4 + 3)
  | .tbInit d a b scope => wordA 0x23 d a b (scope.toNat * 2 ^ 8)
  | .tbExpect d a b => wordA 0x23 d a b 1
  | .tbArv d a b => wordA 0x23 d a b 2
  | .tbWait d a b => wordA 0x23 d a b 3
  | .tbTest d a => wordA 0x23 d a 0 4
  | .tbInval d a => wordA 0x23 d a 0 5
  | .tbName d a b => wordA 0x23 d a b 6
  | .tkWait d a => wordA 0x24 d a 0 0
  | .tkTest d a => wordA 0x24 d a 0 1
  | .tkAfter a => wordA 0x24 0 a 0 2
  | .tbAfter a b => wordA 0x24 0 a b 3
  | .bufDef d a b => wordA 0x28 d a b 0
  | .bufUndef d a => wordA 0x28 d a 0 1
  | .rgnB q a b => wordA 0x28 (q.setWidth 5) a b 2
  | .rgnO q a => wordA 0x28 (q.setWidth 5) a 0 3
  | .rgnE q a => wordA 0x28 (q.setWidth 5) a 0 4
  | .rgnClr q => wordA 0x28 (q.setWidth 5) 0 0 5
  | .mm h fa fb => wordT 0x29 0 h (fa.toNat * 2 ^ 28 + fb.toNat * 2 ^ 24)
  | .mmd h f => wordT 0x29 1 h (f.encode)
  | .mmz h => wordT 0x29 2 h (0)
  | .xp h => wordT 0x2a 0 h (0)
  | .row h f => wordT 0x2a 1 h (f.encode)
  | .vrun h ent arg => wordT 0x2a 2 h (ent.toNat * 2 ^ 27 + arg.toNat * 2 ^ 22)
  | .cp h map bar => wordT 0x2b 0 h (map.toNat * 2 ^ 27 + bar.toNat * 2 ^ 22)
  | .cpW h map bar => wordT 0x2b 1 h (map.toNat * 2 ^ 27 + bar.toNat * 2 ^ 22)
  | .cpG h map bar => wordT 0x2b 2 h (map.toNat * 2 ^ 27 + bar.toNat * 2 ^ 22)
  | .cpS h map bar => wordT 0x2b 3 h (map.toNat * 2 ^ 27 + bar.toNat * 2 ^ 22)
  | .cpF h map bar => wordT 0x2b 4 h (map.toNat * 2 ^ 27 + bar.toNat * 2 ^ 22)
  | .cpR h map res => wordT 0x2b 5 h (map.toNat * 2 ^ 27 + res.toNat * 2 ^ 17)
  | .taskRpost h hreg dreg tgr => wordT 0x2c 0 h (hreg.toNat * 2 ^ 27 + dreg.toNat * 2 ^ 22 + tgr.toNat * 2 ^ 17)
  | .taskRstat h tgr => wordT 0x2c 1 h (tgr.toNat * 2 ^ 27)
  | .lzDef d a b => wordA 0x2D d a b 0
  | .lzResv d a b => wordA 0x2D d a b 1
  | .lzRel d a b => wordA 0x2D d a b 2
  | .lzStat d a b => wordA 0x2D d a b 3
  | .lzUndef d a => wordA 0x2D d a 0 4
  | .gridDef d a b => wordA 0x2E d a b 0
  | .gridBc d a b => wordA 0x2E d a b 1
  | .gridStep d a b => wordA 0x2E d a b 2
  | .gridStat d a b => wordA 0x2E d a b 3
  | .gridUndef d a => wordA 0x2E d a 0 4
  | .ecall a => wordA 0x30 0 a 0 0
  | .trap a b => wordA 0x30 0 a b 1
  | .eret => wordA 0x30 0 0 0 2
  | .sysr d num => wordN 0x30 d 0 num 3
  | .sysw num a => wordN 0x30 0 a num 4
  | .safept => wordA 0x30 0 0 0 5
  | .ckpt => wordA 0x30 0 0 0 6
  | .spawn d a b => wordA 0x30 d a b 7
  | .endStrand => wordA 0x30 0 0 0 8
  | .yield => wordA 0x30 0 0 0 9
  | .halt => wordA 0x30 0 0 0 10
  | .waitev d a => wordA 0x30 d a 0 11
  | .accAlloc d a => wordA 0x31 d a 0 0
  | .accFree d a b => wordA 0x31 d a b 1
  | .memCommit d a => wordA 0x31 d a 0 2
  | .memDecommit d a => wordA 0x31 d a 0 3
  | .traceMark a b => wordA 0x31 0 a b 4
  | .stepEnd d a => wordA 0x31 d a 0 5
  | .li d imm => wordL d 0 0 imm
  | .lihi d a imm => wordL d a 1 imm
  | .addl d a imm => wordL d a 2 imm
  | .jall d imm => wordL d 0 3 imm
  | .vadd vd va vb ty m => wordVA 0x1 vd va vb 0 ty 0 0 false m 0
  | .vsub vd va vb ty m => wordVA 0x2 vd va vb 0 ty 0 0 false m 0
  | .vmul vd va vb ty m => wordVA 0x3 vd va vb 0 ty 0 0 false m 0
  | .vmulh vd va vb ty m => wordVA 0x4 vd va vb 0 ty 0 0 false m 0
  | .vmad vd va vb vc ty m => wordVA 0x5 vd va vb vc ty 0 0 false m 0
  | .vmin vd va vb ty m => wordVA 0x6 vd va vb 0 ty 0 0 false m 0
  | .vmax vd va vb ty m => wordVA 0x7 vd va vb 0 ty 0 0 false m 0
  | .vabs vd va ty sat m => wordVA 0x8 vd va 0 0 ty 0 0 sat m 0
  | .vneg vd va ty sat m => wordVA 0x9 vd va 0 0 ty 0 0 sat m 0
  | .vand vd va vb ty m => wordVA 0xa vd va vb 0 ty 0 0 false m 0
  | .vor vd va vb ty m => wordVA 0xb vd va vb 0 ty 0 0 false m 0
  | .vxor vd va vb ty m => wordVA 0xc vd va vb 0 ty 0 0 false m 0
  | .vnot vd va ty m => wordVA 0xd vd va 0 0 ty 0 0 false m 0
  | .vsll vd va vb ty m => wordVA 0xe vd va vb 0 ty 0 0 false m 0
  | .vsllImm vd va k ty m => wordVA 0xe vd va 0 0 ty 0 0 false m (0x8000 + k.toNat)
  | .vsrl vd va vb ty m => wordVA 0xf vd va vb 0 ty 0 0 false m 0
  | .vsrlImm vd va k ty m => wordVA 0xf vd va 0 0 ty 0 0 false m (0x8000 + k.toNat)
  | .vsra vd va vb ty m => wordVA 0x10 vd va vb 0 ty 0 0 false m 0
  | .vsraImm vd va k ty m => wordVA 0x10 vd va 0 0 ty 0 0 false m (0x8000 + k.toNat)
  | .vadds vd va vb ty m => wordVA 0x11 vd va vb 0 ty 0 0 false m 0
  | .vsubs vd va vb ty m => wordVA 0x12 vd va vb 0 ty 0 0 false m 0
  | .vavg vd va vb ty m => wordVA 0x13 vd va vb 0 ty 0 0 false m 0
  | .vclz vd va ty m => wordVA 0x14 vd va 0 0 ty 0 0 false m 0
  | .vpopc vd va ty m => wordVA 0x15 vd va 0 0 ty 0 0 false m 0
  | .vclmul vd va vb ty m => wordVA 0x16 vd va vb 0 ty 0 0 false m 0
  | .vclmulh vd va vb ty m => wordVA 0x17 vd va vb 0 ty 0 0 false m 0
  | .vmulw vd va vb ty ty2 m => wordVA 0x18 vd va vb 0 ty ty2 0 false m 0
  | .vaddw vd va vb ty ty2 m => wordVA 0x19 vd va vb 0 ty ty2 0 false m 0
  | .vdot4 vd va vb vc ty ty2 sat m => wordVA 0x1a vd va vb vc ty ty2 0 sat m 0
  | .vfadd vd va vb ty rm sat m => wordVA 0x20 vd va vb 0 ty 0 rm sat m 0
  | .vfsub vd va vb ty rm sat m => wordVA 0x21 vd va vb 0 ty 0 rm sat m 0
  | .vfmul vd va vb ty rm sat m => wordVA 0x22 vd va vb 0 ty 0 rm sat m 0
  | .vfma vd va vb vc ty rm sat m => wordVA 0x23 vd va vb vc ty 0 rm sat m 0
  | .vfms vd va vb vc ty rm sat m => wordVA 0x24 vd va vb vc ty 0 rm sat m 0
  | .vfnma vd va vb vc ty rm sat m => wordVA 0x25 vd va vb vc ty 0 rm sat m 0
  | .vfmin vd va vb ty m => wordVA 0x26 vd va vb 0 ty 0 0 false m 0
  | .vfmax vd va vb ty m => wordVA 0x27 vd va vb 0 ty 0 0 false m 0
  | .vfminp vd va vb ty m => wordVA 0x28 vd va vb 0 ty 0 0 false m 0
  | .vfmaxp vd va vb ty m => wordVA 0x29 vd va vb 0 ty 0 0 false m 0
  | .vfabs vd va ty m => wordVA 0x2a vd va 0 0 ty 0 0 false m 0
  | .vfneg vd va ty m => wordVA 0x2b vd va 0 0 ty 0 0 false m 0
  | .vfcpys vd va vb ty m => wordVA 0x2c vd va vb 0 ty 0 0 false m 0
  | .vfdiv vd va vb ty rm sat m => wordVA 0x2d vd va vb 0 ty 0 rm sat m 0
  | .vfsqrt vd va ty rm sat m => wordVA 0x2e vd va 0 0 ty 0 rm sat m 0
  | .vexp2 vd va ty rm sat m => wordVA 0x2f vd va 0 0 ty 0 rm sat m 0
  | .vlog2 vd va ty rm sat m => wordVA 0x30 vd va 0 0 ty 0 rm sat m 0
  | .vrcp vd va ty rm sat m => wordVA 0x31 vd va 0 0 ty 0 rm sat m 0
  | .vrsqrt vd va ty rm sat m => wordVA 0x32 vd va 0 0 ty 0 rm sat m 0
  | .vsinpi vd va ty rm sat m => wordVA 0x33 vd va 0 0 ty 0 rm sat m 0
  | .vcospi vd va ty rm sat m => wordVA 0x34 vd va 0 0 ty 0 rm sat m 0
  | .vfrnd vd va ty rm m => wordVA 0x35 vd va 0 0 ty 0 rm false m 0
  | .vfclass vd va ty m => wordVA 0x36 vd va 0 0 ty 0 0 false m 0
  | .vfscale vd va vb ty rm sat m => wordVA 0x37 vd va vb 0 ty 0 rm sat m 0
  | .vcvt vd va ty ty2 rm sat m => wordVA 0x40 vd va 0 0 ty ty2 rm sat m 0
  | .vcvtw vd va ty ty2 rm sat m => wordVA 0x41 vd va 0 0 ty ty2 rm sat m 0
  | .vcvtn vd va ty ty2 rm sat m => wordVA 0x42 vd va 0 0 ty ty2 rm sat m 0
  | .vcmp va vb ty pred m => wordVA 0x50 0 va vb 0 ty 0 0 false m (pred.toNat * 2 ^ 16)
  | .mpush va ty m => wordVA 0x51 0 va 0 0 ty 0 0 false m 0
  | .minv ty => wordVA 0x52 0 0 0 0 ty 0 0 false false 0
  | .mand => wordVA 0x53 0 0 0 0 0 0 0 false false 0
  | .mor => wordVA 0x54 0 0 0 0 0 0 0 false false 0
  | .mandn => wordVA 0x55 0 0 0 0 0 0 0 false false 0
  | .mpop => wordVA 0x56 0 0 0 0 0 0 0 false false 0
  | .mcnt ad ty => wordVA 0x57 (ad.setWidth 6) 0 0 0 ty 0 0 false false 0
  | .mfirst ad ty => wordVA 0x58 (ad.setWidth 6) 0 0 0 ty 0 0 false false 0
  | .mld abase aidx imm => wordVM 0x59 0 abase aidx 0 0 false imm.toNat
  | .mst abase aidx imm => wordVM 0x5a 0 abase aidx 0 0 false imm.toNat
  | .vbcast vd va ty m imm => wordVA 0x60 vd va 0 0 ty 0 0 false m imm.toNat
  | .vsplat vd an ty m => wordVA 0x61 vd (an.setWidth 6) 0 0 ty 0 0 false m 0
  | .vshuf vd va vb ty m => wordVA 0x62 vd va vb 0 ty 0 0 false m 0
  | .vrot vd va ty m imm => wordVA 0x63 vd va 0 0 ty 0 0 false m imm.toNat
  | .vslide vd va vb ty m imm => wordVA 0x64 vd va vb 0 ty 0 0 false m imm.toNat
  | .vzip vd va vb ty => wordVA 0x65 vd va vb 0 ty 0 0 false false 0
  | .vuzp vd va ty => wordVA 0x66 vd va 0 0 ty 0 0 false false 0
  | .vcmprs vd va an ty => wordVA 0x67 vd va (an.setWidth 6) 0 ty 0 0 false false 0
  | .vexpnd vd va ty => wordVA 0x68 vd va 0 0 ty 0 0 false false 0
  | .viota vd ty => wordVA 0x69 vd 0 0 0 ty 0 0 false false 0
  | .vsel vd va vb ty => wordVA 0x6a vd va vb 0 ty 0 0 false false 0
  | .vmov vd va ty m => wordVA 0x6b vd va 0 0 ty 0 0 false m 0
  | .vrsum vd va ty sat m => wordVA 0x70 vd va 0 0 ty 0 0 sat m 0
  | .vrmax vd va ty m => wordVA 0x71 vd va 0 0 ty 0 0 false m 0
  | .vrmin vd va ty m => wordVA 0x72 vd va 0 0 ty 0 0 false m 0
  | .vrxor vd va ty m => wordVA 0x73 vd va 0 0 ty 0 0 false m 0
  | .vrfsum vd va ty rm sat m => wordVA 0x74 vd va 0 0 ty 0 rm sat m 0
  | .vrfmax vd va ty m => wordVA 0x75 vd va 0 0 ty 0 0 false m 0
  | .vld vd abase aidx ty layout m imm => wordVM 0x80 vd abase aidx ty layout m imm.toNat
  | .vst vd abase aidx ty layout m imm => wordVM 0x81 vd abase aidx ty layout m imm.toNat
  | .vlds vd abase aidx ty layout m imm => wordVM 0x82 vd abase aidx ty layout m imm.toNat
  | .vsts vd abase aidx ty layout m imm => wordVM 0x83 vd abase aidx ty layout m imm.toNat
  | .vgath vd abase aidx ty layout m vi => wordVM 0x84 vd abase aidx ty layout m vi.toNat
  | .vscat vd abase aidx ty layout m vi => wordVM 0x85 vd abase aidx ty layout m vi.toNat
  | .vldb vd abase aidx ty layout m imm => wordVM 0x86 vd abase aidx ty layout m imm.toNat
  | .ali ad imm => wordVC 0x90 ad 0 0 imm.toNat
  | .aadd ad aa ab => wordVC 0x91 ad aa ab 0
  | .aaddi ad aa imm => wordVC 0x92 ad aa 0 imm.toNat
  | .amul ad aa ab => wordVC 0x93 ad aa ab 0
  | .ashl ad aa n => wordVC 0x94 ad aa 0 n.toNat
  | .amovv ad va ty imm => wordVA 0x95 (ad.setWidth 6) va 0 0 ty 0 0 false false imm.toNat
  | .vloop ad off => wordVC 0x96 ad 0 0 off.toNat
  | .vj off => wordVC 0x97 0 0 0 off.toNat
  | .vbz off => wordVC 0x98 0 0 0 off.toNat
  | .vbnz off => wordVC 0x99 0 0 0 off.toNat
  | .abne aa ab off => wordVC 0x9a 0 aa ab off.toNat
  | .vend => wordVC 0x9b 0 0 0 0
  | .vtrap code => wordVC 0x9c 0 0 0 code.toNat
  | .registerWrite .. => 0
  | .evset .. => 0
  | .trctlWrite .. => 0
  | .trbaseWrite .. => 0
  | .corectlFlush .. => 0
  | .corectlFlushin .. => 0
  | .corectlStop .. => 0
  | .corectlReset .. => 0
  | .timerExpiry .. => 0
  | .windowGrant .. => 0
  | .taskReady .. => 0
  | .taskIssue .. => 0
  | .taskAging .. => 0
  | .taskComplete .. => 0
  | .producerFailed .. => 0
  | .stampStaleLimit .. => 0
  | .launchStart .. => 0
  | .launchComplete .. => 0
  | .loadReturn .. => 0
  | .remoteStoreAck .. => 0
  | .barrierArrival .. => 0
  | .copyChunkDone .. => 0
  | .copyArrivalReply .. => 0
  | .resolvableFault .. => 0
  | .heldFaultRecord .. => 0
  | .dispRetry .. => 0
  | .dispRefuse .. => 0
  | .migrationStart .. => 0
  | .migrationComplete .. => 0
  | .remotePostArrival .. => 0
  | .remotePostRetry .. => 0
  | .intakeAdmit .. => 0
  | .remoteReport .. => 0
  | .lzResvRequest .. => 0
  | .lzResvAnswer .. => 0
  | .cprChunkArrival .. => 0
  | .cprArrival .. => 0
  | .cprFailureReport .. => 0
  | .slotLeaseExpiry .. => 0
  | .gridMarkerRetire .. => 0
  | .declaredStepArrival .. => 0
  | .haloShipmentCredit .. => 0
  | .haloShipmentRead .. => 0
  | .haloShipmentLand .. => 0
  | .haloFillLand .. => 0
  | .gridFailureNotice .. => 0
  | .breakpointStop .. => 0
  | .debugStepRequest .. => 0
  | .debugHaltRequest .. => 0
  | .debugResume .. => 0
  | .traceSample .. => 0
  | .preemptRequest .. => 0
  | .preemptLimit .. => 0
  | .partitionSave .. => 0
  | .partitionResume .. => 0
  | .partitionStop .. => 0
  | .partitionStopRequest .. => 0
  | .partitionCreate .. => 0
  | .partitionRelease .. => 0
  | .fatalStop .. => 0
  | .invalidateSpace .. => 0
  | .invalidatePartition .. => 0
  | .invalidateAll .. => 0
  | .imageLoad .. => 0
  | .frameReceive .. => 0
  | .eqtWrite .. => 0
  | .eqtFadd .. => 0
  | .eqtRead .. => 0
  | .eqtNotify .. => 0
  | .eqtAck .. => 0
  | .eqtNack .. => 0
  | .eqtRetransmit .. => 0
  | .eqtAckTimer .. => 0
  | .rdmaResponse .. => 0
  | .rdmaInboundRequest .. => 0
  | .notifyLineWrite .. => 0
  | .queueOpen .. => 0
  | .queuePacketRead .. => 0
  | .packetNop .. => 0
  | .packetLaunch .. => 0
  | .packetCopy .. => 0
  | .packetEvent .. => 0
  | .packetComplete .. => 0
  | .queueWatchdogExpiry .. => 0
  | .eventPortSend .. => 0
  | .flitCrcError .. => 0
  | .linkDown .. => 0
  | .linkWidthChange .. => 0
  | .linkRetrain .. => 0
  | .linkTrainingDone .. => 0
  | .linkFailureNews .. => 0
  | .linkDisable .. => 0
  | .linkDisableDrained .. => 0
  | .linkEnable .. => 0
  | .requestResend .. => 0
  | .noRouteTimeout .. => 0
  | .linkRecordUpdate => 0
  | .rttMeasure .. => 0
  | .linkRecordRequest => 0
  | .memoryScrub .. => 0
  | .scratchpadScrub .. => 0
  | .forecastUpdate .. => 0
  | .clockSelect .. => 0
  | .powerTrip .. => 0
  | .capSet .. => 0
  | .thermalThrottle .. => 0
  | .thermalShutdown .. => 0
  | .telemetryRequest => 0
  | .packageReset .. => 0
  | .attestationRequest .. => 0
  | .illegalWord .. => 0
  | .accessPerformedAtHome .. => 0
  | .pendingResultWritten .. => 0
  | .postAnswerArrival .. => 0
  | .rdmaTransportGiveUp .. => 0

/-- The length of an instruction in bytes (R149, R151); 0 for an event row. -/
def Instr.size : Instr → Nat
  | .add .. => 4
  | .sub .. => 4
  | .and .. => 4
  | .or .. => 4
  | .xor .. => 4
  | .andn .. => 4
  | .sll .. => 4
  | .srl .. => 4
  | .sra .. => 4
  | .ror .. => 4
  | .slt .. => 4
  | .sltn .. => 4
  | .min .. => 4
  | .max .. => 4
  | .minn .. => 4
  | .maxn .. => 4
  | .mul .. => 4
  | .mulh .. => 4
  | .mulhn .. => 4
  | .div .. => 4
  | .divn .. => 4
  | .rem .. => 4
  | .remn .. => 4
  | .clz .. => 4
  | .ctz .. => 4
  | .popc .. => 4
  | .brev .. => 4
  | .bswap .. => 4
  | .clmul .. => 4
  | .clmulh .. => 4
  | .addw .. => 4
  | .subw .. => 4
  | .sllw .. => 4
  | .srlw .. => 4
  | .sraw .. => 4
  | .exts .. => 4
  | .extz .. => 4
  | .seq .. => 4
  | .sne .. => 4
  | .addi .. => 4
  | .andi .. => 4
  | .ori .. => 4
  | .xori .. => 4
  | .slti .. => 4
  | .sltni .. => 4
  | .slli .. => 4
  | .srli .. => 4
  | .srai .. => 4
  | .rori .. => 4
  | .lih .. => 4
  | .addpc .. => 4
  | .beq .. => 4
  | .bne .. => 4
  | .blt .. => 4
  | .bge .. => 4
  | .bltn .. => 4
  | .bgen .. => 4
  | .jal .. => 4
  | .jalr .. => 4
  | .ldI8 .. => 4
  | .ldI16 .. => 4
  | .ldI32 .. => 4
  | .ld64 .. => 4
  | .ldN8 .. => 4
  | .ldN16 .. => 4
  | .ldN32 .. => 4
  | .st8 .. => 4
  | .st16 .. => 4
  | .st32 .. => 4
  | .st64 .. => 4
  | .st64F .. => 4
  | .atomAdd .. => 4
  | .atomAnd .. => 4
  | .atomOr .. => 4
  | .atomXor .. => 4
  | .atomXchg .. => 4
  | .atomCas .. => 4
  | .atomMin .. => 4
  | .atomMax .. => 4
  | .atomMinn .. => 4
  | .atomMaxn .. => 4
  | .atomFadd .. => 4
  | .atomFmin .. => 4
  | .atomFmax .. => 4
  | .atomIncw .. => 4
  | .atomAddb .. => 4
  | .fenceAcq .. => 4
  | .fenceRel .. => 4
  | .fenceAr .. => 4
  | .fenceSc .. => 4
  | .fenceX .. => 4
  | .barArv .. => 4
  | .barWait .. => 4
  | .barSync .. => 4
  | .barCfg .. => 4
  | .tbInit .. => 4
  | .tbExpect .. => 4
  | .tbArv .. => 4
  | .tbWait .. => 4
  | .tbTest .. => 4
  | .tbInval .. => 4
  | .tbName .. => 4
  | .tkWait .. => 4
  | .tkTest .. => 4
  | .tkAfter .. => 4
  | .tbAfter .. => 4
  | .bufDef .. => 4
  | .bufUndef .. => 4
  | .rgnB .. => 4
  | .rgnO .. => 4
  | .rgnE .. => 4
  | .rgnClr .. => 4
  | .mm .. => 8
  | .mmd .. => 8
  | .mmz .. => 8
  | .xp .. => 8
  | .row .. => 8
  | .vrun .. => 8
  | .cp .. => 8
  | .cpW .. => 8
  | .cpG .. => 8
  | .cpS .. => 8
  | .cpF .. => 8
  | .cpR .. => 8
  | .taskRpost .. => 8
  | .taskRstat .. => 8
  | .lzDef .. => 4
  | .lzResv .. => 4
  | .lzRel .. => 4
  | .lzStat .. => 4
  | .lzUndef .. => 4
  | .gridDef .. => 4
  | .gridBc .. => 4
  | .gridStep .. => 4
  | .gridStat .. => 4
  | .gridUndef .. => 4
  | .ecall .. => 4
  | .trap .. => 4
  | .eret => 4
  | .sysr .. => 4
  | .sysw .. => 4
  | .safept => 4
  | .ckpt => 4
  | .spawn .. => 4
  | .endStrand => 4
  | .yield => 4
  | .halt => 4
  | .waitev .. => 4
  | .accAlloc .. => 4
  | .accFree .. => 4
  | .memCommit .. => 4
  | .memDecommit .. => 4
  | .traceMark .. => 4
  | .stepEnd .. => 4
  | .li .. => 8
  | .lihi .. => 8
  | .addl .. => 8
  | .jall .. => 8
  | .vadd .. => 8
  | .vsub .. => 8
  | .vmul .. => 8
  | .vmulh .. => 8
  | .vmad .. => 8
  | .vmin .. => 8
  | .vmax .. => 8
  | .vabs .. => 8
  | .vneg .. => 8
  | .vand .. => 8
  | .vor .. => 8
  | .vxor .. => 8
  | .vnot .. => 8
  | .vsll .. => 8
  | .vsllImm .. => 8
  | .vsrl .. => 8
  | .vsrlImm .. => 8
  | .vsra .. => 8
  | .vsraImm .. => 8
  | .vadds .. => 8
  | .vsubs .. => 8
  | .vavg .. => 8
  | .vclz .. => 8
  | .vpopc .. => 8
  | .vclmul .. => 8
  | .vclmulh .. => 8
  | .vmulw .. => 8
  | .vaddw .. => 8
  | .vdot4 .. => 8
  | .vfadd .. => 8
  | .vfsub .. => 8
  | .vfmul .. => 8
  | .vfma .. => 8
  | .vfms .. => 8
  | .vfnma .. => 8
  | .vfmin .. => 8
  | .vfmax .. => 8
  | .vfminp .. => 8
  | .vfmaxp .. => 8
  | .vfabs .. => 8
  | .vfneg .. => 8
  | .vfcpys .. => 8
  | .vfdiv .. => 8
  | .vfsqrt .. => 8
  | .vexp2 .. => 8
  | .vlog2 .. => 8
  | .vrcp .. => 8
  | .vrsqrt .. => 8
  | .vsinpi .. => 8
  | .vcospi .. => 8
  | .vfrnd .. => 8
  | .vfclass .. => 8
  | .vfscale .. => 8
  | .vcvt .. => 8
  | .vcvtw .. => 8
  | .vcvtn .. => 8
  | .vcmp .. => 8
  | .mpush .. => 8
  | .minv .. => 8
  | .mand => 8
  | .mor => 8
  | .mandn => 8
  | .mpop => 8
  | .mcnt .. => 8
  | .mfirst .. => 8
  | .mld .. => 8
  | .mst .. => 8
  | .vbcast .. => 8
  | .vsplat .. => 8
  | .vshuf .. => 8
  | .vrot .. => 8
  | .vslide .. => 8
  | .vzip .. => 8
  | .vuzp .. => 8
  | .vcmprs .. => 8
  | .vexpnd .. => 8
  | .viota .. => 8
  | .vsel .. => 8
  | .vmov .. => 8
  | .vrsum .. => 8
  | .vrmax .. => 8
  | .vrmin .. => 8
  | .vrxor .. => 8
  | .vrfsum .. => 8
  | .vrfmax .. => 8
  | .vld .. => 8
  | .vst .. => 8
  | .vlds .. => 8
  | .vsts .. => 8
  | .vgath .. => 8
  | .vscat .. => 8
  | .vldb .. => 8
  | .ali .. => 8
  | .aadd .. => 8
  | .aaddi .. => 8
  | .amul .. => 8
  | .ashl .. => 8
  | .amovv .. => 8
  | .vloop .. => 8
  | .vj .. => 8
  | .vbz .. => 8
  | .vbnz .. => 8
  | .abne .. => 8
  | .vend => 8
  | .vtrap .. => 8
  | .registerWrite .. => 0
  | .evset .. => 0
  | .trctlWrite .. => 0
  | .trbaseWrite .. => 0
  | .corectlFlush .. => 0
  | .corectlFlushin .. => 0
  | .corectlStop .. => 0
  | .corectlReset .. => 0
  | .timerExpiry .. => 0
  | .windowGrant .. => 0
  | .taskReady .. => 0
  | .taskIssue .. => 0
  | .taskAging .. => 0
  | .taskComplete .. => 0
  | .producerFailed .. => 0
  | .stampStaleLimit .. => 0
  | .launchStart .. => 0
  | .launchComplete .. => 0
  | .loadReturn .. => 0
  | .remoteStoreAck .. => 0
  | .barrierArrival .. => 0
  | .copyChunkDone .. => 0
  | .copyArrivalReply .. => 0
  | .resolvableFault .. => 0
  | .heldFaultRecord .. => 0
  | .dispRetry .. => 0
  | .dispRefuse .. => 0
  | .migrationStart .. => 0
  | .migrationComplete .. => 0
  | .remotePostArrival .. => 0
  | .remotePostRetry .. => 0
  | .intakeAdmit .. => 0
  | .remoteReport .. => 0
  | .lzResvRequest .. => 0
  | .lzResvAnswer .. => 0
  | .cprChunkArrival .. => 0
  | .cprArrival .. => 0
  | .cprFailureReport .. => 0
  | .slotLeaseExpiry .. => 0
  | .gridMarkerRetire .. => 0
  | .declaredStepArrival .. => 0
  | .haloShipmentCredit .. => 0
  | .haloShipmentRead .. => 0
  | .haloShipmentLand .. => 0
  | .haloFillLand .. => 0
  | .gridFailureNotice .. => 0
  | .breakpointStop .. => 0
  | .debugStepRequest .. => 0
  | .debugHaltRequest .. => 0
  | .debugResume .. => 0
  | .traceSample .. => 0
  | .preemptRequest .. => 0
  | .preemptLimit .. => 0
  | .partitionSave .. => 0
  | .partitionResume .. => 0
  | .partitionStop .. => 0
  | .partitionStopRequest .. => 0
  | .partitionCreate .. => 0
  | .partitionRelease .. => 0
  | .fatalStop .. => 0
  | .invalidateSpace .. => 0
  | .invalidatePartition .. => 0
  | .invalidateAll .. => 0
  | .imageLoad .. => 0
  | .frameReceive .. => 0
  | .eqtWrite .. => 0
  | .eqtFadd .. => 0
  | .eqtRead .. => 0
  | .eqtNotify .. => 0
  | .eqtAck .. => 0
  | .eqtNack .. => 0
  | .eqtRetransmit .. => 0
  | .eqtAckTimer .. => 0
  | .rdmaResponse .. => 0
  | .rdmaInboundRequest .. => 0
  | .notifyLineWrite .. => 0
  | .queueOpen .. => 0
  | .queuePacketRead .. => 0
  | .packetNop .. => 0
  | .packetLaunch .. => 0
  | .packetCopy .. => 0
  | .packetEvent .. => 0
  | .packetComplete .. => 0
  | .queueWatchdogExpiry .. => 0
  | .eventPortSend .. => 0
  | .flitCrcError .. => 0
  | .linkDown .. => 0
  | .linkWidthChange .. => 0
  | .linkRetrain .. => 0
  | .linkTrainingDone .. => 0
  | .linkFailureNews .. => 0
  | .linkDisable .. => 0
  | .linkDisableDrained .. => 0
  | .linkEnable .. => 0
  | .requestResend .. => 0
  | .noRouteTimeout .. => 0
  | .linkRecordUpdate => 0
  | .rttMeasure .. => 0
  | .linkRecordRequest => 0
  | .memoryScrub .. => 0
  | .scratchpadScrub .. => 0
  | .forecastUpdate .. => 0
  | .clockSelect .. => 0
  | .powerTrip .. => 0
  | .capSet .. => 0
  | .thermalThrottle .. => 0
  | .thermalShutdown .. => 0
  | .telemetryRequest => 0
  | .packageReset .. => 0
  | .attestationRequest .. => 0
  | .illegalWord .. => 0
  | .accessPerformedAtHome .. => 0
  | .pendingResultWritten .. => 0
  | .postAnswerArrival .. => 0
  | .rdmaTransportGiveUp .. => 0

/-! ## Decoding -/

/-- Whether an instruction is one of the vector set, whose words a context runs; the rest are control-core instructions (R149, R151). -/
def Instr.isVector : Instr → Bool
  | .vadd .. => true
  | .vsub .. => true
  | .vmul .. => true
  | .vmulh .. => true
  | .vmad .. => true
  | .vmin .. => true
  | .vmax .. => true
  | .vabs .. => true
  | .vneg .. => true
  | .vand .. => true
  | .vor .. => true
  | .vxor .. => true
  | .vnot .. => true
  | .vsll .. => true
  | .vsllImm .. => true
  | .vsrl .. => true
  | .vsrlImm .. => true
  | .vsra .. => true
  | .vsraImm .. => true
  | .vadds .. => true
  | .vsubs .. => true
  | .vavg .. => true
  | .vclz .. => true
  | .vpopc .. => true
  | .vclmul .. => true
  | .vclmulh .. => true
  | .vmulw .. => true
  | .vaddw .. => true
  | .vdot4 .. => true
  | .vfadd .. => true
  | .vfsub .. => true
  | .vfmul .. => true
  | .vfma .. => true
  | .vfms .. => true
  | .vfnma .. => true
  | .vfmin .. => true
  | .vfmax .. => true
  | .vfminp .. => true
  | .vfmaxp .. => true
  | .vfabs .. => true
  | .vfneg .. => true
  | .vfcpys .. => true
  | .vfdiv .. => true
  | .vfsqrt .. => true
  | .vexp2 .. => true
  | .vlog2 .. => true
  | .vrcp .. => true
  | .vrsqrt .. => true
  | .vsinpi .. => true
  | .vcospi .. => true
  | .vfrnd .. => true
  | .vfclass .. => true
  | .vfscale .. => true
  | .vcvt .. => true
  | .vcvtw .. => true
  | .vcvtn .. => true
  | .vcmp .. => true
  | .mpush .. => true
  | .minv .. => true
  | .mcnt .. => true
  | .mfirst .. => true
  | .mld .. => true
  | .mst .. => true
  | .vbcast .. => true
  | .vsplat .. => true
  | .vshuf .. => true
  | .vrot .. => true
  | .vslide .. => true
  | .vzip .. => true
  | .vuzp .. => true
  | .vcmprs .. => true
  | .vexpnd .. => true
  | .viota .. => true
  | .vsel .. => true
  | .vmov .. => true
  | .vrsum .. => true
  | .vrmax .. => true
  | .vrmin .. => true
  | .vrxor .. => true
  | .vrfsum .. => true
  | .vrfmax .. => true
  | .vld .. => true
  | .vst .. => true
  | .vlds .. => true
  | .vsts .. => true
  | .vgath .. => true
  | .vscat .. => true
  | .vldb .. => true
  | .ali .. => true
  | .aadd .. => true
  | .aaddi .. => true
  | .amul .. => true
  | .ashl .. => true
  | .amovv .. => true
  | .vloop .. => true
  | .vj .. => true
  | .vbz .. => true
  | .vbnz .. => true
  | .abne .. => true
  | .vtrap .. => true
  | .mand .. => true
  | .mor .. => true
  | .mandn .. => true
  | .mpop .. => true
  | .vend => true
  | _ => false

/-- What a word is: an instruction, or illegal for a named reason. -/
inductive Decoded where
  | instr (i : Instr)
  | illegal (e : Illegal)
deriving DecidableEq, Repr

/-- The instruction, when there is one. -/
def Decoded.toOption : Decoded → Option Instr
  | .instr i => some i
  | .illegal _ => none


/-- A word decodes to the instruction that its fields give, when that instruction breaks no field rule and every reserved field
of the word is zero, that is, when the word is the instruction's encoding. -/
def accept (w : Nat) : Except Illegal Instr → Decoded
  | .error e => .illegal e
  | .ok i =>
    match i.problem with
    | some e => .illegal e
    | none => if i.encode = w then .instr i else .illegal .field

/-- Whether a first word begins an instruction of two words: formats L and T (R149). -/
def isLongWord (w0 : Nat) : Bool := (0x29 ≤ w0 / 2 ^ 26 ∧ w0 / 2 ^ 26 ≤ 0x2C) ∨ w0 / 2 ^ 26 = 0x3E

/-- Decoding of a control-core instruction from its first word and the word after it (R149, R153). -/
def decodeControl (w0 w1 : Nat) : Decoded :=
  accept (if isLongWord w0 then w0 + w1 * 2 ^ 32 else w0) (readControl w0 w1)

/-- Decoding of a vector word (R151, R161). -/
noncomputable def decodeVector (w : Nat) : Decoded := accept w (readVector w)

/-- The instruction that this decoder reads from an instruction of nbits bits, with zero words after them. A 64-bit word whose
low half begins an L or T form is one of the control core; every other 64-bit word is a vector word. -/
noncomputable def decodeTableWord (nbits w : Nat) : Option Instr :=
  if nbits ≤ 32 ∨ isLongWord (w % 2 ^ 32) then (decodeControl (w % 2 ^ 32) (w / 2 ^ 32 % 2 ^ 32)).toOption
  else (decodeVector (w % 2 ^ 64)).toOption

end Sys2Proof
end

