-- ==== Sys2Proof/Config.lean ====
section
/-!
DEFINITION. What is fixed for the machine, and the FREE VALUES: opaque constants with no body, so that no proof can see
them and a claim holds whatever they are. Each is named in the assumption log.
-/
namespace Sys2Proof

/-- The unit that moves in a step: a strand, a vector context, or the part itself in an event row. -/
inductive Turn where
  | strand (core strand : Nat)
  | ctx (core ctx : Nat)
  | event (e : Instr)
deriving DecidableEq, Repr

/-- What a cache takes in: a translation of a die, or a 64-byte line of a data cache, of an instruction cache, or of the
instruction bytes of a vector context. -/
inductive Fill where
  | translation (die space page : Nat)
  | data (core line : Nat)
  | code (core line : Nat)
  | block (core ctx line : Nat)
deriving DecidableEq, Repr

namespace Config

/-- FREE: which unit moves in the step after the one numbered n, and with which input from outside (log 1). -/
opaque nextTurn : Nat → Option Turn

/-- FREE: the core cycles that pass in the step numbered n (log 2). -/
opaque elapsed : Nat → Nat

/-- FREE: the lines and translations that caches take in before the step numbered n (log 3). -/
opaque fills : Nat → List Fill

/-- FREE: how many results of the residue-checked units mismatch next, found after the step numbered n (log 13). -/
opaque residueFaults : Nat → Nat

/-- FREE: units of memory in which a soft error arises after the step numbered n, true for an uncorrectable one (log 13). -/
opaque softErrors : Nat → List (Nat × Bool)

/-- FREE: a byte that a copy or a queue packet reads at another package or a host, in the step numbered n, at an offset in the
place numbered p (log 14). -/
opaque remoteByte : Nat → Nat → Nat → Byte

/-- FREE: whether the lookup of the step numbered n, for the line or page at an address, is served by a held copy (log 3). -/
opaque cacheHit : Nat → Nat → Bool

/-- FREE: whether the load returned in the step numbered n was performed only then, and not already at its issue (log 4). -/
opaque loadLate : Nat → Bool

/-- FREE: whether an element of a copy, in the step numbered n, reads a byte of an address as it was before an earlier element of the
same walk wrote it (R239; log 16). -/
opaque readsOld : Nat → Nat → Bool

/-- FREE: the byte at an address that a race leaves, or that memory under a destroyed key reads as, in the step numbered n
(log 5). -/
opaque raceByte : Nat → Nat → Byte

/-- FREE: a value that the spec uses in the step numbered n and does not state: EVAL and the completion record's value where a cause
has none, and s2 of a strand that no launch descriptor covers (log 19). -/
opaque unstated : Nat → BitVec 64

/-- FREE: whether, at the end of the step numbered n, the late write numbered w reaches a reader: 0 to 3 the view of a die, 4 + c the data
cache of core c, 264 + c the engines of core c (R108, R120, R121; log 53). -/
opaque reaches : Nat → Nat → Nat → Bool

/-- FREE: whether what another package sends, as it is served in the step numbered n, is ordered after the late write numbered w, by the stamp of
its packet (R120; log 53). -/
opaque stamped : Nat → Nat → Bool

/-- FREE: the bits that the random generator of Marten delivers in the step numbered n (log 6). -/
opaque random : Nat → BitVec 512

/-- FREE: what the links carry in the step numbered n, which the model does not follow: the choice among routes equal in all it holds, and
the amounts that the link records count, by a number that says which (R465, R472; log 32). -/
opaque traffic : Nat → Nat → Nat

/-- FREE: the correctly rounded result of a transcendental function where the model's interval evaluation has not
decided it; arguments: function code, operand bits, type code, rounding mode (log 8). -/
opaque transcendental : Nat → Nat → Nat → Nat → Nat

end Config
end Sys2Proof
end

