-- ==== Sys2Proof/Machine/State.lean ====
section
/-!
DEFINITION. The state of one package: everything the spec gives the machine, as plain data. Each field says in brackets its
width, its reset value and the rule that names it. A field marked "model" is the model's own and not the spec's.
-/
namespace Sys2Proof.Machine

/-- Why the machine stops with a fault: nothing does. Every fault that the spec describes is a trap, a failed task, a status
or a recorded fault, and each of these is a next state. -/
inductive Fault : Type
deriving DecidableEq, Repr

/-- Why a step has no meaning. -/
inductive Refusal where
  /-- An instruction of the opcode table whose meaning this model does not have yet; raised by Dispatch alone; safe. -/
  | notModelled (mnemonic : String)
deriving DecidableEq, Repr

/-- The five strand states (Table 2.2). -/
inductive StrandState where
  | idle | run | wait | parked | stopped
deriving DecidableEq, Repr

/-- The party whose update cleared a wait (R371): core identity, access path, post sequence or code, path length. -/
structure Arriver where
  who : Nat
  path : Nat
  seq : Nat
  pl : Nat
  /-- model: CYCLE when the update was made, from which transit within the package counts. -/
  when_ : Nat
deriving DecidableEq, Repr

/-- Where an access goes after translation (Table 4.3): a byte of this package's memory, an intermediate address at a peer
package, or an address of a host endpoint. -/
inductive Dest where
  | here (key : Nat)
  | peer (pkg ipa : Nat)
  | host (endpoint addr : Nat)
deriving DecidableEq, Repr

/-- What an SCL access does (R184, R192). -/
inductive AccOp where
  | load (reg : Reg) (signed : Bool)
  | store (value : Word) (flush : Bool)
  | atomic (code : Nat) (reg : Reg) (x e : Word) (ar : Bool) (scope : Nat)
deriving DecidableEq, Repr

/-- An SCL access as its instruction made it: the address of the instruction, the virtual address, the size in bytes. -/
structure Acc where
  pc : Word
  va : Nat
  size : Nat
  op : AccOp
deriving DecidableEq, Repr

/-- A store or atomic that its strand has issued and that has not been performed at its home (R109, R189): dest is none while
a fault of its translation is open (R101), whose number fault gives; sent says that it has left for another package or a host;
streamSeq numbers a remote store in its stream (R124); behind names the faults that held earlier loads of the strand as it was issued. -/
structure Buffered where
  acc : Acc
  dest : Option Dest
  fault : Option Nat
  sent : Bool
  streamSeq : BitVec 32
  behind : List Nat
  /-- model: the late writes that are ordered before it (R116). -/
  clock : List Nat
  /-- model: CYCLE and the step in which it was issued, for stores of two strands in one cycle (R189). -/
  issued : Nat × Nat
deriving DecidableEq, Repr

/-- Why a scalar register is pending (R31, R168, R210). -/
inductive PendKind where
  /-- A token: the post sequence of the task that writes it. -/
  | token (seq : BitVec 32)
  /-- A load or atomic that has not returned: where its bytes lie, and whether it may still be performed at its return. -/
  | load (acc : Acc) (dest : Dest) (late : Bool)
  /-- An atomic in the strand's buffer. -/
  | queued
  /-- A request to another package or a host, by its number. -/
  | request (id : Nat)
  /-- An access held by an open fault, by the fault's number. -/
  | fault (fid : Nat) (acc : Acc)
  /-- A reservation whose answer is outstanding (R341). -/
  | resv
  /-- A result within its latency (Table 8.1). -/
  | latency
  /-- A result of the divider (R168). -/
  | divider
deriving DecidableEq, Repr

/-- A pending register. -/
structure Pend where
  reg : Reg
  kind : PendKind
deriving DecidableEq, Repr

/-- What a strand remembers of a hierarchical barrier (R199). -/
structure BarMem where
  scope : Nat
  id : Nat
  phase : BitVec 32
  arrived : Bool
deriving DecidableEq, Repr

/-- A stream of remote stores to one package (R124): stores sent, stores acknowledged, and stores that a flush marker covers (R125). -/
structure Stream where
  pkg : Nat
  sent : BitVec 32
  acked : BitVec 32
  marked : BitVec 32
  lost : Bool
deriving DecidableEq, Repr

/-- The trap and system registers of a strand (Table 13.3). -/
structure StrandSys where
  /-- [5 bits; 0; Table 13.3 0x000] FFLAGS: the sticky floating-point flags. -/
  fflags : BitVec 5
  /-- [20 bits; 0; Table 13.3 0x004] SPACEID. -/
  spaceid : BitVec 20
  /-- [64 bits; 0; Table 13.3 0x008] TVEC. -/
  tvec : Word
  /-- [64 bits; 0; Table 13.3 0x009] EPC. -/
  epc : Word
  /-- [64 bits; 0; Table 13.4] ECAUSE. -/
  ecause : Word
  /-- [64 bits; 0; R283] EVAL. -/
  eval : Word
  /-- [1 bit; 0; R282] INTRAP, ESTAT[0]. -/
  intrap : Bool
  /-- [1 bit; 0; R14] the mode, ESTAT[1]: true is SUPER. -/
  super : Bool
  /-- [16 bits; 0; R289] EVPEND. -/
  evpend : BitVec 16
  /-- [64 bits; 0; Table 13.3 0x012] TIMER. -/
  timer : Word
  /-- [64 bits; 0; R287] SPCNT. -/
  spcnt : Word
  /-- [32 bits; 0; R370] PLEN. -/
  plen : Nat
  /-- [32 bits; 0; R292] SPSTEP. -/
  spstep : BitVec 32
  /-- [64 bits; 0; Table 19.2] TRCTL. -/
  trctl : Word
  /-- [64 bits; 0; R365] TRBASE. -/
  trbase : Word
  /-- [64 bits; 0; R365] TRHEAD. -/
  trhead : Word
deriving DecidableEq, Repr

/-- What a strand holds for its debugger and its trace ring (R362 to R372). -/
structure StrandTrace where
  /-- [32 bits; 0; R372] the step open on the strand. -/
  stepOpen : BitVec 32
  /-- [32 bits; none passed; R369] the last safe point passed. -/
  safePoint : Option SafePoint
  /-- [1 bit; 0; R287] model: the instruction at pc has added its safe-point count and is waiting. -/
  counted : Bool
  /-- [1 bit; 0; R363] model: the strand has been resumed from the stop at the instruction at pc. -/
  passed : Bool
  /-- [1 bit; 0; R362] a step request stands. -/
  stepReq : Bool
  /-- [2 bits and an index; none; R363] the debug stop the strand stands at: kind of Table 19.4, entry index. -/
  debugStop : Option (Nat × Nat)
  /-- [32 bits; 0; R363] model: the registers that were pending as the strand stopped, whose writers write them as usual. -/
  stopPend : BitVec 32
  /-- [1 bit; 0; Table 19.4] a sample period has passed. -/
  sampleDue : Bool
  /-- [64 bits; 0; Table 19.2] cycles since the last sample period ended. -/
  sampleCycles : Nat
  /-- [64 bits; 0; R367] records dropped because their slots did not translate. -/
  dropped : Nat
  /-- [1 bit; 0; R366] the ring is full and takes no record. -/
  full : Bool
  /-- [in flight; 0; R366] records whose word 0 has left for another package or a host and has not been performed there. -/
  inFlight : Nat
deriving DecidableEq, Repr

/-- A GRID.STEP marker (R323): its step, the writers it waits for, whether one failed, and the path length it carries. -/
structure Marker where
  step : BitVec 32
  waits : List (BitVec 32)
  failed : Bool
  pl : Nat
deriving DecidableEq, Repr

/-- Grid entry states (R316). -/
inductive GridState where
  | undefined | active | failed
deriving DecidableEq, Repr

/-- A grid entry (R316, Table 16.1). -/
structure Grid where
  st : GridState
  dims : Nat
  n : List Nat
  t : List Nat
  coord : List Nat
  depth : Nat
  rad : Nat
  cm1 : Nat
  fields : List Nat
  rules : List Nat
  consts : List Word
  /-- Core identities read from the core map: tile coordinates and identity (R321). -/
  peers : List (List Nat × Nat)
  declared : BitVec 32
  accepted : BitVec 32
  markers : List Marker
  code : Nat
  /-- Declared steps that have reached this die's halo engine: destination core, declared step, field-buffer count (R328). -/
  peerSteps : List (Nat × BitVec 32 × Nat)
  tileIndex : Nat
  raw : BitVec 1024
deriving DecidableEq, Repr

/-- A strand (R12, R30). -/
structure Strand where
  /-- [3 bits; IDLE; Table 2.2] its state. -/
  state : StrandState
  /-- [4 bits; 0; Table 13.5] REASON of its wait. -/
  reason : Nat
  /-- [56 bits; 0; Table 13.5] OBJ of its wait. -/
  obj : Nat
  /-- [64 bits; DESIGN CHOICE 0 (log 10); R12] the program counter. -/
  pc : Word
  /-- [32 × 64 bits; DESIGN CHOICE 0 (log 10); R12] s0–s31; s0 is never written. -/
  regs : Vector Word 32
  /-- [16 × 192 bits; 0; Table 3.2] q0–q15. -/
  rgn : Vector (BitVec 192) 16
  /-- [one entry per pending register; empty; R168, R210] the scalar scoreboard. -/
  pend : List Pend
  /-- [in flight; empty; R109] stores issued and not performed. -/
  stores : List Buffered
  /-- [per peer package; empty; R124] the streams of remote stores. -/
  streams : List Stream
  /-- [in flight; empty; R101] deferred refusals to raise at the next instruction boundary: cause, ECAUSE bits, EVAL. -/
  deferred : List (Nat × Nat × Word)
  /-- [register number; none; R483] the token annotation. -/
  annTok : Option Reg
  /-- [address and phase; none; R483] the barrier annotation. -/
  annBar : Option (Word × BitVec 8)
  /-- [per scope and id; empty; R199] barriers arrived at. -/
  barMem : List BarMem
  /-- [1 bit; 0; R43, R113] model: the first part of the instruction at pc is done: a BAR.SYNC has made its arrival, an acquire-release atomic
  has been issued; it waits for the rest. -/
  arrived : Bool
  /-- [1 bit; 0; R188, R203] model: the tags that the instruction at pc reads have been read. -/
  tagsRead : Bool
  /-- [in flight; empty; R116] model: the late writes that the strand has made, and that its loads have returned or its waits have met. -/
  wrote : List Nat
  read : List Nat
  /-- [in flight; empty; R116] model: the late writes that are ordered before the strand's later stores. -/
  after : List Nat
  /-- [in flight; empty; R121] model: the late writes of the copies whose completion the strand has observed. -/
  observed : List Nat
  /-- [1 bit; 0; R57] model: the definition instruction at pc is pending on a buffer entry. -/
  defining : Bool
  /-- [one entry; none; R321] model: the entry that the GRID.DEF at pc has read and that waits to be defined. -/
  gridWait : Option Grid
  /-- [64 bits; 0; R370] cycles since the present wait began. -/
  waited : Nat
  /-- [identity; none; R29] the launch the strand belongs to. -/
  launch : Option Nat
  /-- [4 bits; 0; R288] after YIELD, the strands of the core that were in RUN and have not issued since, as a mask. -/
  yields : BitVec 4
  /-- [cycle; 0; R288] CYCLE from which a strand that has yielded is chosen again in any case. -/
  yieldTill : Nat
  /-- [cause, value, address; none; R282] how the strand stopped, when a fatal trap or CORECTL.STOP stopped it. -/
  stopCause : Option (Nat × Word × Word)
  /-- [key, phase, code; none; R206] the object and phase that the TB.WAIT at pc waits for, and its status once the object has stopped
  being live. -/
  tbWait : Option (Nat × BitVec 8 × Option Nat)
  /-- [cycle; 0; R169] CYCLE before which the strand is not chosen, after a taken branch or jump. -/
  hold : Nat
  /-- [per event bit; none; R371] the latest setter of each event of EVPEND. -/
  evSetter : List (Nat × Arriver)
  /-- [per register; none; R371] the task that wrote each token register, as long as the register holds what it wrote: its arrival. -/
  tokArriver : List (Reg × Arriver)
  /-- [—; none; R371] the task of the strand that retired last. -/
  lastDone : Option Arriver
  /-- [program-visible registers; 0; Table 13.3] its system registers. -/
  sys : StrandSys
  /-- [see StrandTrace; R362 to R372] its debug and trace state. -/
  tr : StrandTrace
deriving DecidableEq, Repr

/-- A generation of a tile (R67, Table 3.3). -/
inductive GenState where
  | waiting | writing | valid | failed | dead
deriving DecidableEq, Repr

/-- A generation: its number in posting order, slot, state, last writer, tasks bound to it, stamp, and whether it is live. -/
structure Gen where
  num : Nat
  slot : Nat
  st : GenState
  writer : Option (BitVec 32)
  bound : List (BitVec 32)
  stamp : BitVec 32
  live : Bool
deriving DecidableEq, Repr

/-- A tile entry (R56): the generations in posting order (one, in slot 0, on a buffer that is stamped and not renamed), and
whether a grid has made the region FAILED (R331). -/
structure Tile where
  gens : List Gen
  stampFailed : Bool
  setter : Option Arriver
deriving DecidableEq, Repr

/-- A buffer table entry (Table 3.1). esize4 is the element size in half bytes; extents, strides and tiles are per dimension. -/
structure Buf where
  base : Nat
  rank : Nat
  esize4 : Nat
  ext : List Nat
  stride : List Nat
  layout : Nat
  tile : List Nat
  versions : Nat
  vstride : Nat
  policy : Nat
  stale : Nat
  aliasGroup : Nat
  /-- The grid entry that names the buffer, its halo width H and its spatial dimensions (R318). -/
  grid : Option (Nat × Nat × Nat)
  tiles : List Tile
  raw : BitVec 512
deriving DecidableEq, Repr

/-- The states of a task in the window (Table 2.3); COMPLETE and FAILED tasks have retired. -/
inductive TaskState where
  | posted | ready | issued | suspended
deriving DecidableEq, Repr

/-- An operand of a task: its position, its region register, and for each tile the number of the generation bound or given. -/
structure Operand where
  pos : Nat
  rgn : BitVec 192
  binds : List (Nat × Nat)
deriving DecidableEq, Repr

/-- The task that a T-form word carries, with the values of the registers it names (R218). -/
inductive Cmd where
  | mm (fa fb : Nat)
  | mmd (f : DrainFields) (clr : Word)
  | mmz
  | xp
  | row (f : RowFields) (preg : Word)
  | vrun (ent arg : Word)
  | cp (map : Word) (bar : Option Word)
  | cpW (map : Word) (bar : Option Word)
  | cpG (map : Word) (bar : Option Word)
  | cpS (map : Word) (bar : Option Word)
  | cpF (map : Word) (bar : Option Word)
  | cpR (map res : Word)
  | rpost (handle desc : Word) (tag : Option Word) (rcnt wcnt : Nat)
  | rstat (tag : BitVec 16)
deriving DecidableEq, Repr

/-- Who posted a task: a strand of the core, or a sender of another core through an intake (with its tag). -/
inductive Owner where
  | strand (k : Nat)
  | remote (who : Nat) (tag : BitVec 16)
deriving DecidableEq, Repr

/-- A task in the window (R34). -/
structure Task where
  /-- [32 bits; —; R35] post sequence. -/
  seq : BitVec 32
  /-- [—; —; R36] whose entry it holds. -/
  owner : Owner
  /-- [launch; —; R415] the launch of the posting strand. -/
  launch : Option Nat
  /-- [5 bits; —; Table 7.3] token register, 0 for none. -/
  tok : Reg
  /-- [2 bits; —; R37] class at posting. -/
  pri : Nat
  /-- [2 bits; —; R39] class risen to. -/
  cls : Nat
  cmd : Cmd
  ops : List Operand
  state : TaskState
  /-- [per older task; —; R65] tasks it depends on by region. -/
  deps : List (BitVec 32)
  /-- [32 bits; none; R483] the task whose token it waits on, and the register. -/
  tokWait : Option (BitVec 32 × Reg)
  /-- [address and phase; none; R483] the barrier it waits on, by its memory key, and how the wait ended once the object has stopped being live:
  0, or the cause with which the task fails. -/
  barWait : Option (Nat × BitVec 8 × Option Nat)
  /-- [cycles; 0; R73] cycles spent with stamp waits as its only unmet waits. -/
  staleCount : Nat
  /-- [cycles; 0; R39] cycles in READY since the class last rose. -/
  age : Nat
  /-- [cycles; 0; R372] cycles of its present wait, in POSTED or in READY. -/
  waited : Nat
  /-- [32 bits; —; R370] path length. -/
  pl : Nat
  /-- [instance number; none; R38] the engine instance that holds it. -/
  inst : Option Nat
  /-- [1,024 bits; none; R234] the tensor map it read. -/
  map : Option (BitVec 1024)
  /-- [chunk number; 0; R104] chunks done and credited. -/
  chunks : Nat
  /-- [key of an object; none; R232] the barrier it credits, once its address has passed the checks of R232. -/
  bar : Option Nat
  /-- [1 bit; 0; R238] a CP.R has read its reservation. -/
  resvRead : Bool
  /-- [1 bit; 0; R237] its arrival has been sent. -/
  arrivalSent : Bool
  /-- [code; none; R237] the reply to its arrival, as it comes back. -/
  reply : Option Int
  /-- [fault number; none; R102] the fault it is suspended on. -/
  fault : Option Nat
  /-- [0–2; 0; R94, R97, R104] model: how far a copy's chunk has gone: not begun, its reads of other places asked for, its writes there sent;
  the numbers of the requests that have not been answered are in State.reqs. -/
  stage : Nat
  /-- [step number; 0; R97] model: the step as which the free values of the bytes that it reads at other places are. -/
  readTick : Nat
  /-- [bytes; empty; R239] model: the bytes that its walk has written where it may still read, as they were before, with their poison markers. -/
  olds : List (Nat × Byte × Bool)
  /-- [code; none; R72] the outcome of its stamp waits at the first test that decided it: 0 for met, or a cause. -/
  stamped : Option Nat
  /-- [post sequence; none; R244] the TASK.RPOST that reserved the report entry which a TASK.RSTAT found at posting. -/
  report : Option (BitVec 32)
  /-- [1 bit; 0; R103] a VRUN has stored to a read-write operand that is not renamed. -/
  stored : Bool
  /-- [cycles; 0; R77] cycles until a busy post is sent again. -/
  retry : Nat
  /-- [1 bit; 0; R77] the post has been sent and awaits its answer. -/
  sent : Bool
  /-- [hops; none; R350] the sending package and the link of each hop of a CP.R's bound route. -/
  route : List (Nat × Nat)
  /-- [32 bits; —; R372] the step open on the posting strand. -/
  step : BitVec 32
  /-- [32 bits; —; R369] the posting strand's last safe point. -/
  safePoint : Option SafePoint
  /-- [1 bit; 0; R40] a task it depends on has failed, and it is about to fail with PRODUCER_FAILED. -/
  doomed : Bool
  /-- [—; the posting strand; R371] its last arriver and the edge kind. -/
  arriver : Arriver × Nat
deriving DecidableEq, Repr

/-- A vector context (R231): fields of Table 1.5 and of the VRUN it runs. -/
structure Ctx where
  /-- [32 bits; none; R231] the VRUN it runs. -/
  task : Option (BitVec 32)
  /-- [64 bits; DESIGN CHOICE 0 (log 10); R231] program counter. -/
  pc : Word
  /-- [64 × 4,096 bits; 0; R443] v0–v63. -/
  v : Vector (BitVec 4096) 64
  /-- [16 × 64 bits; DESIGN CHOICE 0 (log 10); R231] a0–a15. -/
  a : Vector Word 16
  /-- [16 × 1,024 bits; empty; R265] the mask stack, top first. -/
  masks : List (BitVec 1024)
  /-- [5 bits; 0; R135] the context's flags. -/
  flags : BitVec 5
  /-- [lines; empty; R152] instruction lines held since the VRUN started. -/
  code : List (Nat × List Byte)
  /-- [32 bits; 0; R278] the code that the last VTRAP recorded. -/
  trapCode : BitVec 32
deriving DecidableEq, Repr

/-- The states of a landing slot (Table 17.4). -/
inductive SlotState where
  | free | reserved | landing | full | failed
deriving DecidableEq, Repr

/-- A landing slot (R341, Table 17.5). -/
structure Slot where
  st : SlotState
  gen : Nat
  rbytes : Nat
  rcvd : Nat
  step : Option (BitVec 32)
  lease : Nat
  sender : Nat
  /-- The hops that its request (RESERVED) or its last chunk (LANDING) came in over (R350). -/
  route : List (Nat × Nat)
  code : Nat
deriving DecidableEq, Repr

/-- A zone entry (R336, Table 17.1): ZGEN survives LZ.UNDEF. -/
structure Zone where
  active : Bool
  zgen : Nat
  base : Nat
  bars : Nat
  slotsz : Nat
  scope : Nat
  sbuf : Option Nat
  lease : Nat
  slots : List Slot
  raw : BitVec 512
deriving DecidableEq, Repr

/-- Intake states (Table 3.7). -/
inductive IntakeState where
  | closed | open | swapped
deriving DecidableEq, Repr

/-- An intake queue (R75): its entries, then its overflow ring while SWAPPED. -/
structure Intake where
  st : IntakeState
  gen : Nat
  entries : List RemotePost
deriving DecidableEq, Repr

/-- An entry of the report table (R244): a tag, the task that reserved it, and the report when it has arrived. -/
structure Report where
  tag : BitVec 16
  by_ : BitVec 32
  status : Option Int
deriving DecidableEq, Repr

/-- A core: 0–255 are compute cores, 256 + n is service core n (R8). -/
structure Core where
  /-- [16 bits; 0; Table 13.3 0x003] PARTNO. -/
  partno : Nat
  /-- [1 bit; 0; R80] its scratchpad is frozen. -/
  frozen : Bool
  /-- [1 bit; 1; R443] it has been zeroed since its last owner. -/
  zeroed : Bool
  /-- [4 strands; IDLE; R12]. -/
  strands : Vector Strand 4
  /-- [256 entries; undefined; R54] the buffer table, defined entries by number. -/
  bufs : List (Nat × Buf)
  /-- [256 bits; none; R57] entries whose definition is pending, with the strand that defines them. -/
  defining : List (Nat × Nat)
  /-- [32 bits; DESIGN CHOICE 0 (log 10); R35] the next post sequence. -/
  nextSeq : BitVec 32
  /-- [128 entries; empty; R15] the task window, oldest first. -/
  window : List Task
  /-- [claimant; DESIGN CHOICE 4 (log 10); R36] the claimant last granted an entry: a strand, or 4 for intake. -/
  lastGrant : Nat
  /-- [claimant; none; R36] freed entries granted to waiting claimants and not yet taken, each with the task whose retirement freed it. -/
  granted : List (Nat × Arriver)
  /-- [per engine instance; none; Table 19.5] the task whose completion last freed it. -/
  engineDone : List (EngineClass × Nat × Arriver)
  /-- [—; none; Table 19.5] the task that retired last. -/
  lastRetired : Arriver
  /-- [generation counter; 0; R68] model: the number of the next generation. -/
  nextGen : Nat
  /-- [16 entries; UNDEFINED, ZGEN DESIGN CHOICE 0 (log 10); R336] the zone table. -/
  zones : Vector Zone 16
  /-- [4 entries; UNDEFINED; R316] the grid table. -/
  grids : Vector Grid 4
  /-- [32 bits, saturating; 0; Table 16.5 selector 68] shipments and fills refused at this core. -/
  refusedHere : Nat
  /-- [32 bits, saturating; 0; Table 16.5 selector 68] shipments of this core refused elsewhere. -/
  refusedThere : Nat
  /-- [4 queues; CLOSED, GEN DESIGN CHOICE 0 (log 10); R75] the intakes. -/
  intakes : Vector Intake 4
  /-- [2 bits; DESIGN CHOICE 3 (log 10); R78] the intake last served. -/
  lastIntake : Nat
  /-- [64 entries; empty; R244] the report table. -/
  reports : List Report
  /-- [64 bits; 0; Table 13.3 0x018] RPFAIL. -/
  rpfail : Word
  /-- [512 bits; 0; R290] the accumulator banks held. -/
  held : BitVec 512
  /-- [16 contexts; empty; R15]. -/
  ctxs : Vector Ctx 16
  /-- [64 bits; 0; Table 13.6] RSEL. -/
  rsel : Word
  /-- [16 KiB of 64-byte lines; empty; R13] the data cache: the lines held, by key divided by 64. A held line has the bytes that the die's readers
  see, but for the writes that State.late says have not reached this cache. -/
  dcache : List Nat
  /-- [64 KiB of lines; empty; R13] the instruction cache. -/
  icache : List (Nat × List Byte)
  /-- [64 records; empty; R367] trace records held while a page moves: strand, record. -/
  traceHeld : List (Nat × BitVec 256)
  /-- [counter; 0; R367] records dropped beyond 64. -/
  traceLost : Nat
  /-- [2 bits; DESIGN CHOICE 3 (log 10); R12] the strand that issued last. -/
  lastStrand : Nat
  /-- [4 bits; DESIGN CHOICE 15 (log 10); R15] the vector context that issued last. -/
  lastCtx : Nat
deriving DecidableEq, Repr

/-- A hierarchical barrier instance (R42): the instance number is the core, quad, die, package, group, or 0 for SYS. -/
structure Bar where
  scope : Nat
  inst : Nat
  id : Nat
  expect : Nat
  count : Nat
  phase : BitVec 32
  failed : Option Nat
  last : Arriver
  /-- model: the late writes that the arrivals of the last phase completed and of the present one have released (R114). -/
  seen : List Nat
  coming : List Nat
deriving DecidableEq, Repr

/-- An arrival, or a configuration with its expected count, on its way to a barrier (R42, R199). -/
structure Arrival where
  scope : Nat
  inst : Nat
  id : Nat
  by_ : Arriver
  expect : Option Nat
  /-- model: the late writes that it releases (R114). -/
  seen : List Nat
  /-- The core and strand that remember the phase, when they are of this package. -/
  src : Option (Nat × Nat)
deriving DecidableEq, Repr

/-- What a request outside the package does (R94, R97, R124). -/
inductive ReqKind where
  | load | atomic | fetch | resv | rdmaRead | rdmaWrite | rdmaFadd | copyRead | copyWrite | shipment
deriving DecidableEq, Repr

/-- Whom the response to a request serves: a strand, a copy task of the core, a message of an EQT connection, a packet's copy or completion
record, a halo shipment by its number, a load of an image into a partition. -/
inductive ReqUser where
  | strand
  | task (seq : BitVec 32)
  | host (conn : Nat)
  | packet (queue index : Nat)
  | shipment (num : Nat)
  | load (part : Nat)
deriving DecidableEq, Repr

/-- A request that awaits its response (R470, R402). -/
structure Req where
  id : Nat
  core : Nat
  strand : Nat
  kind : ReqKind
  dest : Dest
  acc : Acc
  seq : BitVec 16
  resends : Nat
  sentAt : Nat
  /-- The page's mode is CACHED, and no store of the die has met the line since (R95). -/
  cached : Bool
  user : ReqUser
  /-- The strand's own stores in flight that a load follows, or the bytes of this package that a host's READ has read beside: offset and byte
  (R109, R400). For a host's WRITE, the bytes that it writes in this package once those elsewhere have been performed: key and byte. -/
  own : List (Nat × Byte)
deriving DecidableEq, Repr

/-- Who waits for a resolvable fault (R101, R102, R400, R409). -/
inductive Holder where
  | scl (core strand : Nat) (acc : Acc)
  | fetch (core strand : Nat)
  | task (core : Nat) (seq : BitVec 32)
  | host (conn : Nat) (hdr : BitVec 256) (payload : List Byte)
  | packet (queue index : Nat)
  | incoming (req : RemoteReq)
deriving DecidableEq, Repr

/-- An open resolvable fault (R416, Table 25.2): recNo is the index of its record once it is written, and disp the first disposition to
reach it (R418), 0 for none. -/
structure OpenFault where
  fid : Nat
  die : Nat
  holder : Holder
  va : Nat
  ipa : Nat
  space : Nat
  partno : Nat
  path : Nat
  acc : Nat
  kind : Nat
  level : Nat
  recNo : Option Nat
  disp : Nat
deriving DecidableEq, Repr

/-- Shipment states (Table 16.6); terminal shipments are dropped. A fill is held apart, in State.fills. -/
inductive ShipState where
  | credit | reading | flight | notice
deriving DecidableEq, Repr

/-- A halo shipment of this package (R327): its source entry, its destination, and once read its contents. -/
structure Shipment where
  core : Nat
  grid : Nat
  step : BitVec 32
  dst : Nat
  region : Nat
  st : ShipState
  pl : Nat
  /-- The source's copy of the face rules when its marker retired (R322). -/
  rules : List Nat
  data : Option ShipData
  /-- model: its number, and the step in which it went to its present state, for the order of R335. -/
  num : Nat
  since : Nat
deriving DecidableEq, Repr

/-- Partition states (Table 26.5). -/
inductive PartState where
  | creating | active | saved | releasing
deriving DecidableEq, Repr

/-- A partition record and what the partition manager keeps beside it (R439, Table 26.5, R362). -/
structure Partition where
  no : Nat
  st : PartState
  cores : List Nat
  keyslot : Nat
  s2root : Nat
  savearea : Nat
  plimit : Nat
  /-- The packages that hold cores of the partition (R94). -/
  packages : List Nat
  /-- The identities of the partition's cores on other packages (R321). -/
  others : List Nat
  /-- [32 bits; 0; R98] granules granted and left in the tile pool: intermediate addresses (log 23). -/
  tpool : List Nat
  cmap : Nat
  barids : BitVec 80
  /-- [cycle; none; R51] when a pre-emption request was issued. -/
  preempt : Option Nat
  /-- [1 bit; 0; R364] a pre-emption request is held by debug stops. -/
  preemptHeld : Bool
  /-- [16 entries; empty; R362] the breakpoint table. -/
  breakpoints : List (Nat × Breakpoint)
  /-- [per core and strand; none; R362] strands still to stop under a halt request. -/
  haltReq : List (Nat × Nat)
  /-- [32 bits; —; R441] cores of the partition in the package's group, and in the system. -/
  groupCores : Nat
  systemCores : Nat
  /-- [intakes; —; R441] the intakes opened: core and number. -/
  intakes : List (Nat × Nat)
  /-- [per core; none; R424] model: the cores as the save left them, while SAVED. -/
  saved : List (Nat × Core)
  /-- [in flight; empty; R334] the CREDIT shipments that the save kept. -/
  savedShips : List Shipment
  /-- [CORE barriers; none; Table 25.8] the CORE barriers of its cores, while SAVED. -/
  savedBars : List Bar
  /-- [tag bits; none; R53] barriers inside live ranges, with true for slot barriers, while SAVED. -/
  savedLive : List (Nat × Bool)
deriving DecidableEq, Repr

/-- Queue states (Table 25.11) are the codes of Table 24.2: 0 CLOSED, 1 OPEN, 2 STALLED, 3 DRAINING. -/
structure Queue where
  no : Nat
  entry : QueueEntry
  /-- [counter; 0; R429] the budget counter, in cycles. -/
  budget : Nat
  /-- [counter; 0; R404] cycles for which a claimed index has been held unwritten. -/
  unwritten : Nat
deriving DecidableEq, Repr

/-- A packet that the intake has read and that has not completed (R406): its queue, index, words and progress. -/
structure Packet where
  queue : Nat
  index : Nat
  bits : BitVec 512
  /-- The cores that a LAUNCH names, in rank order. -/
  cores : List Nat
  started : Bool
  /-- Bytes of a COPY performed (R409). -/
  done : Nat
  /-- model: the stage of the COPY's chunk, as Task.stage (R409); 3 once its completion record is on its way to another package or a host
  (R410). -/
  stage : Nat
  /-- The partition that SPACE gave when the packet was read, and its level-1 table (R413). -/
  spaceOf : Nat × Nat
  /-- The launch that a LAUNCH packet started. -/
  launch : Option Nat
  /-- Its status once its work has ended. -/
  status : Option Int
  /-- An EVENT message that awaits its acknowledgement: connection and sequence number. -/
  event : Option (Nat × BitVec 32)
  fault : Option Nat
deriving DecidableEq, Repr

/-- A record of a CKPT table (R307): the address of the CKPT, live registers, live scratchpad ranges (offset, length) and runs
of banks (base, count). -/
structure CkptRecord where
  addr : Nat
  slive : BitVec 32
  qlive : BitVec 16
  ranges : List (Nat × Nat)
  runs : List (Nat × Nat)
deriving DecidableEq, Repr

/-- The failure of a launch (R415, R420): the cause, whether a fatal trap gave it, and then its value and the address at which it resumes
(R282). -/
structure Failure where
  cause : Nat
  fatal : Bool
  val : Word
  resume : Word
deriving DecidableEq, Repr

/-- Where the cores of a launch that lie on another package stand (R27, R29). -/
inductive AwayState where
  | asked | ready | running | ended
deriving DecidableEq, Repr

/-- A launch (R27): its cores in rank order, and where it stands. -/
structure Launch where
  id : Nat
  partno : Nat
  queue : Nat
  packet : Nat
  cores : List Nat
  ncores : Nat
  entry : Word
  args : Word
  space : Nat
  /-- The launch descriptor (Table 24.5): GP, STKBASE, STKSZ, and the two tables it names. -/
  gp : Word
  stkbase : Nat
  stksz : Nat
  sptab : List (Nat × SafePoint)
  cktab : List CkptRecord
  started : Bool
  /-- The first failure (R415, R420). -/
  failure : Option Failure
  /-- A fatal stop of the launch is under way (R420). -/
  stopping : Bool
  /-- The package whose queue the launch is of, and its number there, when it is another package's (R409). -/
  home : Option (Nat × Nat)
  /-- The other packages that hold cores of it, and how their parts stand (R27, R29). -/
  away : List (Nat × AwayState)
deriving DecidableEq, Repr

/-- A message for the outside: a header and its payload (R398), or what another unit sends. -/
inductive OutMsg where
  /-- EQT message of a connection. -/
  | eqt (conn : Nat) (hdr : BitVec 256) (payload : List Byte)
  /-- A request to another package: kind, address, sender, sequence. -/
  | request (r : Req)
  /-- A store of a stream to another package (R124). -/
  | streamStore (core strand pkg ipa size : Nat) (value : Word) (seq : BitVec 32) (flush : Bool)
  /-- A flush marker of a stream (R125). -/
  | flushMarker (core strand pkg : Nat)
  /-- The response to a request of another package. -/
  | response (pkg who : Nat) (seq : BitVec 16) (value : Word) (ok : Bool)
  /-- A cumulative acknowledgement of a stream of another package. -/
  | streamAck (pkg who strand : Nat) (acked : BitVec 32)
  /-- An RDMA message to a host endpoint (R401). -/
  | rdma (endpoint : Nat) (r : Req)
  /-- A remote access error answered to an inbound RoCE request. -/
  | rdmaError (endpoint : Nat)
  /-- A post, its answer, and a report (R77, R244, R245). -/
  | post (p : RemotePost) (seq : BitVec 32)
  | postAnswer (who : Nat) (seq : BitVec 32) (code : Int)
  | report (who : Nat) (tag : Option (BitVec 16)) (status : Int)
  /-- A reservation request and an answer (R341). -/
  | resvRequest (r : ResvRequest)
  | resvAnswer (r : ResvRequest) (answer : Word)
  /-- CP.R chunks, arrivals, their replies and failure reports (R343, R238). -/
  | chunk (c : CprChunk)
  | cprArrival (a : CprArrival)
  | cprReply (who : Nat) (seq : BitVec 32) (code : Int)
  | cprFailure (resv : Word) (code : Nat)
  /-- A halo shipment, a failure notice and a declared step (R327, R331, R328). -/
  | shipment (d : ShipData)
  | notice (core grid : Nat) (regions : List Nat)
  | declared (who core grid : Nat) (step : BitVec 32) (nf : Nat)
  /-- Bytes that a copy, a host write or a record writes at another package or a host endpoint, under a request's number (R97, R236). -/
  | copyWrite (id core : Nat) (cells : List (Dest × List Byte))
  /-- A request of another package for a page that has moved on, sent to its new home in the forwarded class (R96, R128). -/
  | forward (pkg : Nat) (r : RemoteReq)
  /-- An arrival at a GRP or SYS barrier (R42). -/
  | arrival (a : Arrival)
  /-- A launch of cores of another package, through its partition manager: taken in, started once every core is IDLE, and stopped (R27, R409,
  R420). -/
  | launch (pkg : Nat) (l : GuestLaunch)
  | launchGo (pkg id : Nat)
  | launchStop (pkg id : Nat)
  /-- This package's cores of another package's launch are IDLE; its strands have ended, or it has failed here (R29, R420). -/
  | launchReady (pkg id : Nat)
  | launchEnded (pkg id : Nat) (failure : Option (Nat × Bool))
  /-- What has become of another package's shipment here (R330): its source core and grid, step and region, true for landed. -/
  | shipmentAnswer (d : ShipData) (landed : Bool)
  /-- A configuration of a GRP or SYS barrier (R199). -/
  | barConfig (a : Arrival)
  /-- What the loader reports: a partition, and the error record, empty on success (R309). -/
  | loaded (part : Nat) (record : List Byte)
  /-- What Marten answers on the management VLAN (R436, R472, R482). -/
  | management (bytes : List Byte)
deriving DecidableEq, Repr

/-- An EQT message that its sender has not seen acknowledged (R399). -/
structure Unacked where
  seq : BitVec 32
  hdr : BitVec 256
  payload : List Byte
  sentAt : Nat
  resends : Nat
deriving DecidableEq, Repr

/-- Connection states (R397). -/
inductive ConnState where
  | closed | open | down
deriving DecidableEq, Repr

/-- An EQT connection (R397, R399). -/
structure Conn where
  st : ConnState
  ip : Nat
  port : Nat
  partno : Nat
  rxNext : BitVec 32
  txNext : BitVec 32
  rxHeld : List (BitVec 32 × BitVec 256 × List Byte)
  unacked : List Unacked
  sinceAck : Nat
  ackDue : Option Nat
  rto : Nat
  fault : Option Nat
deriving DecidableEq, Repr

/-- A host endpoint of RoCE (R401). -/
structure Endpoint where
  valid : Bool
  ip : Nat
  qp : Nat
  rkey : Nat
  partno : Nat
  up : Bool
deriving DecidableEq, Repr

/-- An entry of the event remap table (R411). -/
structure Remap where
  no : Nat
  space : Nat
  vec : Nat
  conn : Nat
  eq : Nat
deriving DecidableEq, Repr

/-- A fill of a slab region by the halo engine (R327): value is the constant's pattern, none for an OPEN region. -/
structure HaloFill where
  core : Nat
  grid : Nat
  step : BitVec 32
  region : Nat
  pl : Nat
  value : Option Word
deriving DecidableEq, Repr

/-- Link states (Table 29.1). -/
inductive LinkState where
  | absent | training | up | degraded | down | disabled
deriving DecidableEq, Repr

/-- A link and its record (Table 29.4). -/
structure Link where
  st : LinkState
  kind : Nat
  width : Nat
  peer : Nat
  peerLink : Nat
  tx : Nat
  rx : Nat
  replay : Nat
  crcErr : Nat
  downs : Nat
  rttNs : Nat
  qPeak : Nat
  divert : Nat
  drop : Nat
  /-- DISABLE has been accepted and packets bound to the link still cross it (R471). -/
  disabling : Bool
  /-- Consecutive replays of one flit (R464). -/
  inRow : Nat
deriving DecidableEq, Repr

/-- The result of an atomic of another package, kept to answer a duplicate (R470). -/
structure AtomRecord where
  who : Nat
  seq : BitVec 16
  value : Word
deriving DecidableEq, Repr

/-- A page being moved (R96): the granule taken and the package that moves the page; home is its intermediate page with the partition,
where its bytes lie in this package. -/
structure Moving where
  space : Nat
  page : Nat
  granule : Nat
  mover : Nat
  home : Option (Nat × Nat)
deriving DecidableEq, Repr

/-- A page that has moved away from this package: the partition and the intermediate page here, and the package and intermediate page where
its requests are forwarded (R96). -/
structure Moved where
  partno : Nat
  page : Nat
  pkg : Nat
  dest : Nat
deriving DecidableEq, Repr

/-- An access counter of a MIGRATE leaf (R96). -/
structure MigCount where
  space : Nat
  page : Nat
  count : Nat
deriving DecidableEq, Repr

/-- A held translation of a die (R413). Stage 1: the space, the 64 KiB page, the leaf's bits and level, and the partition whose
stage 2 applies. Stage 2 is held with space 2^20 + the partition, the intermediate page, and the physical page in leaf. -/
structure TlbEntry where
  die : Nat
  space : Nat
  page : Nat
  leaf : Nat
  level : Nat
  partno : Nat
deriving DecidableEq, Repr

/-- The path of a late write: SCL, CPY or HOST of Table 1.4, another package's strand with the number of its store (R124). -/
inductive Writer where
  | scl (core : Nat)
  | cpy (core : Nat) (seq : BitVec 32)
  | host (conn : Nat)
  | stream (who strand : Nat) (seq : BitVec 32)
  | outside
deriving DecidableEq, Repr

/-- A write that has been performed at its home and has not reached every reader (R108, R111, R120, R121): the bytes it replaced, by their
keys; the dies whose view it has not entered; the cores whose data cache holds its line as it was; the cores whose engines may still read
its bytes as they were; and the late writes that must enter a die's view before it. -/
structure Late where
  id : Nat
  cells : List (Nat × Byte)
  dies : List Nat
  caches : List Nat
  engines : List Nat
  clock : List Nat
  by_ : Writer
deriving DecidableEq, Repr

/-- Held bytes of a CACHED page in a die's caches (R95): the key of the place (destKey), the size, the value. -/
structure RemoteWord where
  die : Nat
  key : Nat
  size : Nat
  value : Word
deriving DecidableEq, Repr

/-- Marten (R432 to R437). -/
structure Marten where
  /-- [steps 0–8; 0; Table 26.1] the boot step reached; 8 accepts partition requests. -/
  bootStep : Nat
  /-- [4 × 512 bits; 0; R434] M0–M3. -/
  m : List (List Byte)
  /-- [32 bytes; DESIGN CHOICE none (log 10); R435] seeds of the identity and attestation keys. -/
  idSeed : List Byte
  attSeed : List Byte
  /-- [32 bytes; none; R435] the attestation public key. -/
  attKey : List Byte
  /-- [64 bytes; none; R435] the endorsement. -/
  endorsement : List Byte
  /-- [64 bits; 0; R436] reports built. -/
  count : Nat
  /-- [4 × 32 bits; 0; Table 26.3] SVN of the accepted images and of the configuration block. -/
  svn : List Nat
  /-- [per key slot; slot 0; R440] key slots in use and their keys. -/
  keys : List (Nat × BitVec 512)
  /-- [Table 26.4; 0; R437] the values fixed at boot. -/
  values : BootValues
deriving DecidableEq, Repr

/-- Telemetry, power and clock (Tables 30.3 and 30.5, R478 to R481). -/
structure Power where
  cecnt : Nat
  uecnt : Nat
  rescnt : Nat
  pstop : Nat
  tmax : Nat
  tcool : Nat
  freq : Nat
  cap : Nat
  pwr : Nat
  /-- [4 × 64 bits; 0; Table 30.3] the forecast registers. -/
  forecast : List (BitVec 64)
  /-- [1 bit; 0; R480] the clock rises step by step after a trip. -/
  tripped : Bool
  /-- [4 bits; 0; R481] dies above their thermal limit that have not fallen below 97 °C. -/
  hot : List Nat
  /-- [1 bit; 1; R481] the C-dies and memory have power. -/
  on : Bool
deriving DecidableEq, Repr

/-- A breakpoint-free count of dropped frames and messages (R396 to R398). -/
structure Drops where
  frames : Nat
  messages : Nat
  events : Nat
deriving DecidableEq, Repr

/-- The unit that moves in the present step: a strand of a core, or a context of a core. -/
structure Cursor where
  core : Fin 260
  strand : Fin 4
  ctx : Fin 16
deriving DecidableEq, Repr

/-- A stage-1 leaf as the walk found it (Table 24.8): the bits, the level, 2 or 3, the partition whose stage 2 applies, and
where the entry lies. -/
structure Leaf where
  bits : Nat
  level : Nat
  partno : Nat
  place : Nat
deriving DecidableEq, Repr

/-- The outcome of stage 2: a physical address, an invalid entry at a level, or an output in a reserved range. -/
inductive Stage2 where
  | pa (a : Nat)
  | invalid (level : Nat)
  | reserved
deriving DecidableEq, Repr

/-- The outcome of stage 1: a leaf, an immediate failure, or an open fault (KIND, LEVEL, IPA). -/
inductive Stage1 where
  | leaf (l : Leaf)
  | fail (cause : Nat)
  | open (kind level ipa : Nat)
deriving DecidableEq, Repr

/-- The outcome of a translation (Table 4.4). -/
inductive Trans where
  /-- The access goes to a place; mode is the code of Table 4.3, or 8 for a scratchpad. -/
  | to (dest : Dest) (mode : Nat)
  /-- A page with C = 0: reads give zeros (R98). -/
  | zero
  /-- An immediate failure. -/
  | fail (cause : Nat)
  /-- A resolvable fault or a migration wait: KIND, LEVEL and IPA of Table 25.2. -/
  | open (kind level ipa : Nat)
deriving DecidableEq, Repr

/-- The state of the package. -/
structure State where
  /-- [256 compute and 4 service cores; R14] -/
  cores : Vector Core 260
  /-- [bytes; nothing listed, DESIGN CHOICE an unlisted byte reads 0 (log 11); R90] device memory at its physical address,
  core w's scratchpad from 2^42 + w × 2^21, core w's accumulator banks from 2^43 + w × 2^20. -/
  mem : List Host.Cell
  /-- [views; empty; R108, R120] model: the writes that have not reached every reader, in the order in which they were performed at their homes.
  mem holds what the homes hold. -/
  late : List Late
  /-- [counter; 0; R108] model: the number of the next late write. -/
  nextLate : Nat
  /-- [per transaction barrier and phase; empty; R114] model: the late writes that its updates have released, by the object's key × 256 + PHASE. -/
  barSeen : List (Nat × List Nat)
  /-- [per scope of a FENCE.SC; empty; R117] model: the late writes that precede the last FENCE.SC of a scope. -/
  scSeen : List (Nat × List Nat)
  /-- [tag bits; none; R200] the keys of live transaction barriers, with true for slot barriers (R339). -/
  live : List (Nat × Bool)
  /-- [—; none; R371] model: per key of a transaction barrier, CYCLE of the last completion of a phase, and the post sequence or code of
  the last update's party. -/
  barTimes : List (Nat × Nat × Nat)
  /-- [marker per unit of Table 30.1; none; R474] poisoned units: the key of an 8-byte word divided by 8, or of a 4-byte accumulator
  value divided by 4. -/
  poison : List Nat
  /-- [—; none; R473] model: latent soft errors (unit, true for one that is uncorrectable), until an access finds them. -/
  softErrors : List (Nat × Bool)
  /-- [—; 0; R476] model: residue checks that the next arithmetic results fail. -/
  residue : Nat
  /-- [per instance; default; R42] barriers of every scope that differ from their configuration at assignment. -/
  bars : List Bar
  /-- [in flight; empty; R42] arrivals. -/
  arrivals : List Arrival
  /-- [in flight; empty; R470] requests to other packages and hosts. -/
  reqs : List Req
  /-- [counter; 0; R470] model: the number of the next request. -/
  nextReq : Nat
  /-- [per core and package; empty; R470] 16-bit sequence numbers of requests. -/
  reqSeqs : List (Nat × Nat × BitVec 16)
  /-- [1,024 per source core; empty; R470] recorded results of remote atomics. -/
  atomLog : List AtomRecord
  /-- [per stream; empty; R124] stores performed for streams of other packages: sender, strand, the last one's number and the last number
  acknowledged. -/
  inStreams : List (Nat × Nat × BitVec 32 × BitVec 32)
  /-- [—; empty; R101] open resolvable faults. -/
  faults : List OpenFault
  /-- [counter; 0; R416] model: the number of the next fault. -/
  nextFault : Nat
  /-- [4 × 64 bits; 0; Table 25.2] FID: faults recorded by each die. -/
  fids : List Nat
  /-- [per partition; empty; R439] partition records. -/
  parts : List Partition
  /-- [1,024 entries; CLOSED; R403] queue table entries that are not CLOSED. -/
  queues : List Queue
  /-- [in flight; empty; R406] packets read and not completed. -/
  packets : List Packet
  /-- [in flight; empty; R27] launches. -/
  launches : List Launch
  /-- [counter; 0; R27] model: the number of the next launch. -/
  nextLaunch : Nat
  /-- [256 entries; CLOSED; R397] EQT connections that are not CLOSED. -/
  conns : List (Nat × Conn)
  /-- [256 entries; invalid; R401] host endpoints. -/
  endpoints : List (Nat × Endpoint)
  /-- [4,096 entries; invalid; R411] the remap table. -/
  remap : List Remap
  /-- [in flight; empty; R327] shipments, and model: the number of the next one. -/
  ships : List Shipment
  nextShip : Nat
  /-- [in flight; empty; R327] fills. -/
  fills : List HaloFill
  /-- [96 links; ABSENT; R464] -/
  links : List Link
  /-- [—; empty; R96] pages being moved, and pages that have moved to another package. -/
  moving : List Moving
  moved : List Moved
  /-- [32 bits each; 0; R96] access counters of MIGRATE leaves. -/
  migCounts : List MigCount
  /-- [—; empty; R413] translations that dies hold. -/
  tlb : List TlbEntry
  /-- [4 MiB per die; empty; R95] words of CACHED pages that dies hold. -/
  rline : List RemoteWord
  /-- [Marten; boot not begun; R432] -/
  marten : Marten
  /-- [telemetry, power, clock; R478 to R482] -/
  power : Power
  /-- [counters; 0; R396] dropped frames, messages and events. -/
  drops : Drops
  /-- [per service core; none; R446] EVENT messages sent from event ports and not acknowledged: service core, connection, sequence. -/
  ports : List (Nat × Nat × BitVec 32)
  /-- [in flight; empty; R405] notify lines written whose summary bit is not yet set: physical addresses. -/
  notified : List Nat
  /-- [routes; empty; R469] links of other packages that are known to be out of use: package, link. -/
  news : List (Nat × Nat)
  /-- [in flight; empty; R397] model: what the package has sent to the outside, oldest first. -/
  outbox : List OutMsg
  /-- [64 bits; 0; Table 13.3 0x005] CYCLE: cycles since package reset, on one clock. -/
  now : Nat
  /-- [counter; 0] model: steps taken; the free values are functions of it (log 1). -/
  tick : Nat
  /-- [—; the package reset] model: the unit that moves next (log 1). -/
  turn : Option Turn
  /-- [—; core 0] model: the unit that moves in the present step. -/
  at_ : Cursor
  /-- [64 bits; 0; R283] model: the word the unit has fetched. -/
  ir : Word
deriving DecidableEq, Repr

/-- A strand at reset: IDLE (R30). -/
def Strand.reset : Strand where
  state := .idle
  reason := 0
  obj := 0
  pc := 0
  regs := Vector.replicate 32 0
  rgn := Vector.replicate 16 0
  pend := []
  stores := []
  streams := []
  deferred := []
  annTok := none
  annBar := none
  barMem := []
  arrived := false
  tagsRead := false
  wrote := []
  read := []
  after := []
  observed := []
  defining := false
  gridWait := none
  waited := 0
  launch := none
  yields := 0
  yieldTill := 0
  stopCause := none
  tbWait := none
  hold := 0
  evSetter := []
  tokArriver := []
  sys :=
    { fflags := 0, spaceid := 0, tvec := 0, epc := 0, ecause := 0, eval := 0, intrap := false, super := false, evpend := 0, timer := 0, spcnt := 0,
      plen := 0, spstep := 0, trctl := 0, trbase := 0, trhead := 0 }
  lastDone := none
  tr :=
    { stepOpen := 0, safePoint := none, counted := false, passed := false, stepReq := false, debugStop := none, stopPend := 0, sampleDue := false,
      sampleCycles := 0, dropped := 0, full := false, inFlight := 0 }

/-- An UNDEFINED zone (R336). -/
def Zone.reset : Zone := ⟨false, 0, 0, 0, 0, 0, none, 0, [], 0⟩

/-- An UNDEFINED grid entry (R316). -/
def Grid.reset : Grid :=
  { st := .undefined, dims := 0, n := [], t := [], coord := [], depth := 0, rad := 0, cm1 := 0, fields := [], rules := [], consts := [], peers := [],
    declared := 0xFFFFFFFF, accepted := 0xFFFFFFFF, markers := [], code := 0, peerSteps := [], tileIndex := 0, raw := 0 }

/-- A free vector context, zeroed (R443). -/
def Ctx.reset : Ctx := ⟨none, 0, Vector.replicate 64 0, Vector.replicate 16 0, [], 0, [], 0⟩

/-- A core at reset: in no partition, zeroed (R443), every table undefined (R54, R316, R336). -/
def Core.reset : Core where
  partno := 0
  frozen := false
  zeroed := true
  strands := Vector.replicate 4 Strand.reset
  bufs := []
  defining := []
  nextSeq := 0
  window := []
  lastGrant := 4
  granted := []
  engineDone := []
  lastRetired := ⟨0, 0, 0, 0, 0⟩
  nextGen := 0
  zones := Vector.replicate 16 Zone.reset
  grids := Vector.replicate 4 Grid.reset
  refusedHere := 0
  refusedThere := 0
  intakes := Vector.replicate 4 ⟨.closed, 0, []⟩
  lastIntake := 3
  reports := []
  rpfail := 0
  held := 0
  ctxs := Vector.replicate 16 Ctx.reset
  rsel := 0
  dcache := []
  icache := []
  traceHeld := []
  traceLost := 0
  lastStrand := 3
  lastCtx := 15

/-- The values of Table 26.4 before step 3 of the boot fixes them. -/
def BootValues.reset : BootValues := ⟨0, 0, 0, 0, 0, [], 0, [], 0, 0, 0, 0, 0, 0, 0⟩

/-- A link at reset: not cabled, as far as Marten knows (R464, Table 29.4). -/
def Link.reset : Link :=
  { st := .absent, kind := 0, width := 0, peer := 0, peerLink := 0, tx := 0, rx := 0, replay := 0, crcErr := 0, downs := 0, rttNs := 0, qPeak := 0,
    divert := 0, drop := 0, disabling := false, inRow := 0 }

/-- Marten at reset: boot not begun, M0–M3 zero (R434). -/
def Marten.reset : Marten where
  bootStep := 0
  m := List.replicate 4 (List.replicate 64 0)
  idSeed := []
  attSeed := []
  attKey := []
  endorsement := []
  count := 0
  svn := [0, 0, 0, 0]
  keys := []
  values := BootValues.reset

/-- Telemetry at reset (Table 30.5): FREQ 2,100 and CAP 3,200. -/
def Power.reset : Power := ⟨0, 0, 0, 0, 0, 0, 2100, 3200, 0, [0, 0, 0, 0], false, [], true⟩

/-- The machine right after package reset, before Marten's boot (R432): every unit at its reset value, no partition, every
strand IDLE. Which unit moves first is free. -/
def State.reset : State where
  cores := Vector.replicate 260 Core.reset
  mem := []
  late := []
  nextLate := 0
  barSeen := []
  scSeen := []
  live := []
  barTimes := []
  poison := []
  softErrors := []
  residue := 0
  bars := []
  arrivals := []
  reqs := []
  nextReq := 0
  reqSeqs := []
  atomLog := []
  inStreams := []
  faults := []
  nextFault := 0
  fids := [0, 0, 0, 0]
  parts := []
  queues := []
  packets := []
  launches := []
  nextLaunch := 0
  conns := []
  endpoints := []
  remap := []
  ships := []
  nextShip := 0
  fills := []
  links := List.replicate 96 Link.reset
  moving := []
  moved := []
  migCounts := []
  tlb := []
  rline := []
  marten := Marten.reset
  power := Power.reset
  drops := ⟨0, 0, 0⟩
  ports := []
  notified := []
  news := []
  outbox := []
  now := 0
  tick := 0
  turn := none
  at_ := ⟨0, 0, 0⟩
  ir := 0

end Sys2Proof.Machine
end

