-- ==== Sys2Proof/Machine/Ops.lean ====
section
/-!
DEFINITION. The named operations over the state: cores, strands and registers, bytes of memory, poison, transaction-barrier
objects, waits, taking a trap and returning from one.
-/
namespace Sys2Proof.Machine

/-- What a meaning answers. -/
abbrev Out := Host.Outcome State Fault Refusal

/-! ## Cause codes (Table 13.8) -/
namespace Cause
abbrev illegal : Nat := 1
abbrev priv : Nat := 2
abbrev misalign : Nat := 3
abbrev xlate : Nat := 4
abbrev protect : Nat := 5
abbrev barrierStore : Nat := 6
abbrev ecall : Nat := 7
abbrev trap : Nat := 8
abbrev accLeak : Nat := 9
abbrev maskstack : Nat := 10
abbrev vecTrap : Nat := 11
abbrev bankgrp : Nat := 12
abbrev regionInvalid : Nat := 13
abbrev regionEscape : Nat := 14
abbrev tmapInvalid : Nat := 15
abbrev stampAhead : Nat := 16
abbrev stampStale : Nat := 17
abbrev producerFailed : Nat := 18
abbrev tbOverrun : Nat := 19
abbrev estale : Nat := 20
abbrev linkFailed : Nat := 21
abbrev poison : Nat := 22
abbrev watchdog : Nat := 23
abbrev partStopped : Nat := 24
end Cause

/-- A failure code as a register holds it: the cause code negated (R202, R293). -/
def negCode (c : Nat) : Word := wordOfInt (-(c : Int))

/-- −1, the result of an instruction that refuses its operands. -/
def minusOne : Word := wordOfInt (-1)

/-! ## Cores and strands -/

/-- Core c of the package; an absent core reads as an unowned one. -/
def State.core (s : State) (c : Nat) : Core := if h : c < 260 then s.cores[c] else Core.reset

/-- The state with core c replaced. -/
def State.setCore (s : State) (c : Nat) (x : Core) : State :=
  if h : c < 260 then { s with cores := s.cores.set c x } else s

/-- The state with core c changed by f. -/
def State.modCore (s : State) (c : Nat) (f : Core → Core) : State := s.setCore c (f (s.core c))

/-- Strand k of a core. -/
def Core.strand (x : Core) (k : Nat) : Strand := if h : k < 4 then x.strands[k] else Strand.reset

/-- The core with strand k replaced. -/
def Core.setStrand (x : Core) (k : Nat) (t : Strand) : Core :=
  if h : k < 4 then { x with strands := x.strands.set k t } else x

/-- The core with strand k changed by f. -/
def Core.modStrand (x : Core) (k : Nat) (f : Strand → Strand) : Core := x.setStrand k (f (x.strand k))

/-- Strand k of core c. -/
def State.strand (s : State) (c k : Nat) : Strand := (s.core c).strand k

/-- The state with strand k of core c changed by f. -/
def State.modStrand (s : State) (c k : Nat) (f : Strand → Strand) : State := s.modCore c fun x => x.modStrand k f

/-- The number of the core that moves. -/
def State.myCore (s : State) : Nat := s.at_.core.val

/-- The number of the strand that moves. -/
def State.myStrand (s : State) : Nat := s.at_.strand.val

/-- The strand that moves. -/
def State.me (s : State) : Strand := s.strand s.myCore s.myStrand

/-- The state with the strand that moves changed by f. -/
def State.modMe (s : State) (f : Strand → Strand) : State := s.modStrand s.myCore s.myStrand f

/-- The core that moves. -/
def State.here (s : State) : Core := s.core s.myCore

/-- Whether a core number is that of a service core (R8). -/
def isService (c : Nat) : Bool := 256 ≤ c

/-- The identity of core c of this package: R8's core identity, or the service identity of a service core. -/
def State.identity (s : State) (c : Nat) : Nat :=
  if isService c then 2 ^ 23 + s.marten.values.pkg * 256 + (c - 256) else s.marten.values.pkg * 256 + c

/-- The number within this package of the core with an identity, if it is a compute core of this package (R8). -/
def State.coreOfIdentity (s : State) (ident : Nat) : Option Nat :=
  if ident < 2 ^ 23 ∧ ident / 256 = s.marten.values.pkg then some (ident % 256) else none

/-- The C-die of a core; a service core counts to the die of its number (R416; log 12). -/
def dieOf (c : Nat) : Nat := if isService c then c - 256 else c / 64

/-- The number of the instance of a scope that contains a core (Table 1.2). -/
def State.instOf (s : State) (c scope : Nat) : Nat :=
  match scope with
  | 0 => c
  | 1 => c / 4
  | 2 => dieOf c
  | 3 => s.marten.values.pkg
  | 4 => s.marten.values.pkg / 32
  | _ => 0

/-! ## Scalar registers (R12, R167) -/

/-- The value of a scalar register: s0 reads as zero. -/
def Strand.reg (t : Strand) (r : Reg) : Word := if r = 0 then 0 else t.regs[r.toNat]'(r.isLt)

/-- Writing a scalar register: a write to s0 is discarded. A task's token that stood in the register is there no longer (R371). -/
def Strand.setReg (t : Strand) (r : Reg) (v : Word) : Strand :=
  if r = 0 then t else { t with regs := t.regs.set r.toNat v r.isLt, tokArriver := t.tokArriver.filter (·.1 != r) }

/-- Whether a register is pending; s0 is never pending (R167). -/
def Strand.pending (t : Strand) (r : Reg) : Bool := r != 0 && t.pend.any fun p => p.reg == r

/-- Whether a mark awaits a load or an atomic. -/
def PendKind.isAccess : PendKind → Bool
  | .load _ _ _ => true
  | .request _ => true
  | .fault _ _ => true
  | .queued => true
  | _ => false

/-- Marking a register pending. s0 has only the marks of accesses that are under way, which fences wait for, and of the divider, which the
next division waits for. -/
def Strand.mark (t : Strand) (r : Reg) (k : PendKind) : Strand :=
  if r = 0 ∧ !k.isAccess ∧ k ≠ .divider then t else { t with pend := t.pend ++ [⟨r, k⟩] }

/-- The post sequence of the task that writes a register, when the register is pending as a token. -/
def Strand.tokenOf (t : Strand) (r : Reg) : Option (BitVec 32) :=
  t.pend.findSome? fun p => if p.reg == r then (match p.kind with | .token q => some q | _ => none) else none

/-- The value of a scalar register of the strand that moves. -/
def State.reg (s : State) (r : Reg) : Word := s.me.reg r

/-- The state after the strand that moves has written a register. -/
def State.setReg (s : State) (r : Reg) (v : Word) : State := s.modMe fun t => t.setReg r v

/-- The state after the strand that moves has written a register whose result is still within its latency (R168). -/
def State.setLater (s : State) (r : Reg) (v : Word) (k : PendKind) : State := s.modMe fun t => (t.setReg r v).mark r k

/-- An instruction has completed: the strand is in RUN and stands n bytes further (R149). -/
def Strand.finish (t : Strand) (n : Nat) : Strand :=
  { t with pc := t.pc + BitVec.ofNat 64 n, state := .run, reason := 0, obj := 0, waited := 0, arrived := false,
           tagsRead := false, defining := false, gridWait := none, tbWait := none, tr := { t.tr with counted := false, passed := false } }

/-- The instruction of the strand that moves has completed, and the next one stands n bytes further. -/
def State.finish (s : State) (n : Nat) : State := s.modMe fun t => t.finish n

/-- A branch, jump or return: the next instruction stands at a target (R180 to R183), and the strand that issues it in cycle T issues
again no earlier than in T + 3 (R169). -/
def State.jump (s : State) (target : Word) : State :=
  s.modMe fun t => { t.finish 0 with pc := target, hold := s.now + 3 }

/-- The strand that moves goes to WAIT for a reason of Table 13.5; its instruction has no effect yet (R31). -/
def State.waitFor (s : State) (reason obj : Nat) : State :=
  s.modMe fun t => { t with state := .wait, reason := reason, obj := obj,
                            waited := if t.state == .wait && t.reason == reason then t.waited else 0 }

/-! ## Region registers (R59) -/

/-- The value of a region register. -/
def Strand.rgnAt (t : Strand) (q : QReg) : BitVec 192 := t.rgn[q.toNat]'(q.isLt)

/-- Writing a region register; its reserved bits read as zero (Table 3.2). -/
def Strand.setRgn (t : Strand) (q : QReg) (v : BitVec 192) : Strand :=
  { t with rgn := t.rgn.set q.toNat (BitVec.ofNat 192 (v.toNat % 2 ^ 171)) q.isLt }

/-! ## Bytes of memory -/

/-- What an address of memory that nothing lists reads as (log 11). -/
def Memory.unlisted : Byte := 0

/-- The byte at a key. -/
def Memory.get : List Host.Cell → Nat → Byte
  | [], _ => Memory.unlisted
  | (a, b) :: m, k => if a = k then b else if k < a then Memory.unlisted else Memory.get m k

/-- Writing one byte; the canonical form is kept. -/
def Memory.set : List Host.Cell → Nat → Byte → List Host.Cell
  | [], k, b => if b = Memory.unlisted then [] else [(k, b)]
  | (a, x) :: m, k, b =>
    if k < a then (if b = Memory.unlisted then (a, x) :: m else (k, b) :: (a, x) :: m)
    else if k = a then (if b = Memory.unlisted then m else (k, b) :: m)
    else (a, x) :: Memory.set m k b

/-- Every key of m is above k. -/
def Memory.above (k : Nat) : List Host.Cell → Bool
  | [] => true
  | (a, _) :: m => decide (k < a) && Memory.above k m

/-- The canonical form: keys strictly rising, and no entry equal to what an unlisted address reads as. -/
def Memory.wf : List Host.Cell → Bool
  | [] => true
  | (a, b) :: m => Memory.above a m && decide (b ≠ Memory.unlisted) && Memory.wf m

/-- Writing bytes at a key and the keys after it. -/
def Memory.setBytes : List Host.Cell → Nat → List Byte → List Host.Cell
  | m, _, [] => m
  | m, k, b :: bs => Memory.setBytes (Memory.set m k b) (k + 1) bs

/-- The key of the first byte of a core's scratchpad. -/
def spBase (w : Nat) : Nat := 2 ^ 42 + w * 2 ^ 21

/-- The key of the first byte of a core's accumulator banks (R88). -/
def accBase (w : Nat) : Nat := 2 ^ 43 + w * 2 ^ 20

/-- Whether a key lies in device memory. -/
def isDevice (k : Nat) : Bool := k < 2 ^ 42

/-- Whether a key lies in a scratchpad. -/
def isScratch (k : Nat) : Bool := 2 ^ 42 ≤ k ∧ k < 2 ^ 43

/-- The core whose scratchpad holds a key. -/
def scratchCore (k : Nat) : Nat := (k - 2 ^ 42) / 2 ^ 21

/-- The byte at a key. -/
def State.byte (s : State) (k : Nat) : Byte := Memory.get s.mem k

/-- n bytes from a key. -/
def State.bytes (s : State) (k n : Nat) : List Byte := (List.range n).map fun i => s.byte (k + i)

/-- A little-endian value (R2). -/
def leNat : List Byte → Nat
  | [] => 0
  | b :: bs => b.toNat + 256 * leNat bs

/-- The n bytes of a value, little-endian (R2). -/
def leBytes : Nat → Nat → List Byte
  | 0, _ => []
  | n + 1, v => BitVec.ofNat 8 v :: leBytes n (v / 256)

/-- The little-endian value of n bytes at a key. -/
def State.readNat (s : State) (k n : Nat) : Nat := leNat (s.bytes k n)

/-- The size of the protection unit at a key (Table 30.1): an 8-byte word, or a 4-byte accumulator value. -/
def unitAt (k : Nat) : Nat := if k < 2 ^ 43 then 8 else 4

/-- The units that n bytes from k touch, each as its key divided by its size. -/
def wordsOf (k n : Nat) : List Nat :=
  let u := unitAt k
  if n = 0 then [] else (List.range ((k + n - 1) / u - k / u + 1)).map (k / u + ·)

/-- Whether any unit that n bytes from k touch is poisoned (R474). -/
def State.poisoned (s : State) (k n : Nat) : Bool := (wordsOf k n).any fun w => s.poison.contains w

/-- The poison markers after a write of n bytes at k: a unit wholly covered is cleared (R474). -/
def clearPoison (p : List Nat) (k n : Nat) : List Nat :=
  let u := unitAt k
  p.filter fun w => ¬ (decide (w < 2 ^ 40) = decide (u = 8) ∧ k ≤ u * w ∧ u * w + u ≤ k + n)

/-! ## Homes and views (R107, R108, R119, R120) -/

/-- The die of a location's home (R107): the C-die that owns the HBM4E stack, the C-die of the second tier's bits [13:12], the die of the
core that holds the scratchpad or the bank. -/
def homeDie (k : Nat) : Nat :=
  if k < 2 ^ 40 then bitsOf k 14 12 / 2
  else if k < 2 ^ 42 then bitsOf k 13 12
  else if k < 2 ^ 43 then dieOf (scratchCore k)
  else dieOf ((k - 2 ^ 43) / 2 ^ 20)

/-- Whether the instance of a scope that contains core c contains the home of a key (R115). -/
def homeIn (c scope k : Nat) : Bool :=
  match scope with
  | 0 => isScratch k && scratchCore k == c
  | 1 => isScratch k && scratchCore k / 4 == c / 4
  | 2 => homeDie k == dieOf c
  | _ => true

/-- Who reads: a strand of a core, by way of its data cache, or an engine of a core. -/
inductive Reader where
  | scl (core : Nat)
  | engine (core : Nat)
deriving DecidableEq, Repr

/-- Whether a late write touches n bytes from a key. -/
def Late.touches (w : Late) (k n : Nat) : Bool := w.cells.any fun c => k ≤ c.1 && c.1 < k + n

/-- Whether two late writes share a byte. -/
def Late.meets (w x : Late) : Bool := w.cells.any fun c => x.cells.any fun d => d.1 == c.1

/-- Whether a late write has not reached a reader. -/
def Late.lags (w : Late) : Reader → Bool
  | .scl c => w.dies.contains (dieOf c) || w.caches.contains c
  | .engine c => w.dies.contains (dieOf c) || w.engines.contains c

/-- Whether a write has reached every reader. -/
def Late.settled (w : Late) : Bool := w.dies.isEmpty && w.caches.isEmpty && w.engines.isEmpty

/-- The byte at a key as a reader sees it: as it was before the first write to it that has not reached the reader. -/
def State.seenByte (s : State) (r : Reader) (k : Nat) : Byte :=
  match s.late.findSome? fun w => if w.lags r then w.cells.find? (·.1 == k) else none with
  | some c => c.2
  | none => s.byte k

/-- The little-endian value of n bytes at a key as a reader sees them. -/
def State.seenNat (s : State) (r : Reader) (k n : Nat) : Nat := leNat ((List.range n).map fun i => s.seenByte r (k + i))

/-- The late writes that enter a die's view when those of a kind do: the writes they count, and older writes to their bytes (R119, R120). -/
def lateClosure (late : List Late) (want : Late → Bool) : List Late :=
  late.reverse.foldl (fun acc w => if want w || acc.any (fun x => x.clock.contains w.id || x.meets w) then w :: acc else acc) []

/-- The late writes without those that have reached every reader and follow none that has not: what they release is complete (R116). -/
def dropSettled (late : List Late) : List Late :=
  late.foldl (fun kept w => if w.settled && !w.clock.any (fun i => kept.any (·.id == i)) then kept else kept ++ [w]) []

/-- The state with its late writes changed; those that are late no more are dropped. -/
def State.modLate (s : State) (f : Late → Late) : State :=
  if s.late.isEmpty then s else { s with late := dropSettled (s.late.map f) }

/-- Late writes of a kind enter the views of dies, with all that must enter before them. A write that another has replaced there is held
by no data cache of the die. -/
def State.enterDies (s : State) (ds : List Nat) (want : Late → Bool) : State :=
  if s.late.isEmpty then s
  else
    let ws := lateClosure s.late want
    let replaced (w : Late) : Bool := ws.any fun x => decide (w.id < x.id) && x.meets w
    s.modLate fun w =>
      if ws.any (·.id == w.id) then
        { w with dies := w.dies.filter (!ds.contains ·),
                 caches := if replaced w then w.caches.filter (fun c => !ds.contains (dieOf c)) else w.caches }
      else w

/-- The late writes that touch n bytes from a key reach every reader, as a write of the part's own units to them does. -/
def State.settleOver (s : State) (k n : Nat) : State :=
  (s.enterDies [0, 1, 2, 3] (·.touches k n)).modLate fun w => if w.touches k n then { w with caches := [], engines := [] } else w

/-- The late writes that a write of one party to n bytes from a key must follow enter the view of its die: for SCL stores its data caches
too, for engines what the engines of the core read. -/
def State.settleFor (s : State) (by_ : Writer) (die k n : Nat) : State :=
  (s.enterDies [die] (·.touches k n)).modLate fun w =>
    if w.touches k n then
      match by_ with
      | .cpy c _ => { w with engines := w.engines.filter (· != c) }
      | .host _ => w
      | .outside => w
      | .scl _ => { w with caches := w.caches.filter fun c => dieOf c != die }
      | .stream _ _ _ => { w with caches := w.caches.filter fun c => dieOf c != die }
    else w

/-- The cores whose data caches keep a line as it was when a party writes to it: copies and hosts leave held lines as they are (R121). -/
def State.staleCaches (s : State) (by_ : Writer) (k : Nat) : List Nat :=
  let held : List Nat := (List.range 260).filter fun c => (s.core c).dcache.contains (k / 64)
  match by_ with
  | .cpy _ _ => held
  | .host _ => held
  | .outside => held
  | .scl _ => []
  | .stream _ _ _ => []

/-- The cores whose engines may still read bytes of a scratchpad as they were: that of the scratchpad, unless its own copy engine writes
(R111, R121, R315). -/
def staleEngines (by_ : Writer) (k : Nat) : List Nat :=
  let w := scratchCore k
  match by_ with
  | .cpy c _ => if c = w then [] else [w]
  | .host _ => []
  | .outside => [w]
  | .scl _ => [w]
  | .stream _ _ _ => [w]

/-- The dies whose view a write to a key has not entered as it is performed at its home: all but that of its writer (R108). -/
def staleDies (die k : Nat) : List Nat := if isDevice k then [0, 1, 2, 3].filter (· != die) else []

/-- The number that stands for the die of a writer outside the C-dies: its write may be late for every die. -/
def noDie : Nat := 4

/-- A write to keys of one 64-byte line is performed at its home: it enters the view of its die, and is late for the other readers. -/
def State.noteLate (s : State) (by_ : Writer) (die : Nat) (clock ks : List Nat) : State :=
  match ks with
  | [] => s
  | k :: _ =>
    let s := ks.foldl (fun s k => s.settleFor by_ die k 1) s
    let w : Late := { id := s.nextLate, cells := ks.map fun k => (k, s.byte k), dies := staleDies die k,
                      caches := if isDevice k then s.staleCaches by_ k else [],
                      engines := if isScratch k then staleEngines by_ k else [],
                      clock := clock.filter fun i => s.late.any (·.id == i), by_ := by_ }
    if w.settled && w.clock.isEmpty then s else { s with late := s.late ++ [w], nextLate := s.nextLate + 1 }

/-- The lines of a list of keys, each with its keys. -/
def byLine (ks : List Nat) : List (List Nat) :=
  ((ks.map (· / 64)).eraseDups).map fun l => ks.filter fun k => k / 64 == l

/-- The notify lines among n bytes from a device key (R405): every line of a notify page that the bytes touch. -/
def State.notifyLines (s : State) (k n : Nat) : List Nat :=
  if isDevice k ∧ n ≠ 0 ∧ s.marten.values.notifyPages.any (fun p => p < k + n ∧ k < p + 4096) then
    ((List.range ((k + n - 1) / 64 - k / 64 + 1)).map fun i => (k / 64 + i) * 64).filter fun l =>
      s.marten.values.notifyPages.any fun p => p ≤ l && l < p + 4096
  else []

/-- The places of the event ports (R446). -/
def State.portBases (s : State) : List Nat := s.marten.values.faultRings.map (· + 16384)

/-- Whether the link records stand at their place, which Marten fixes at boot (R472). -/
def State.hasRecords (s : State) : Bool := 6 ≤ s.marten.bootStep

/-- Whether a write changes nothing at a key (R4): every field of a fault record but DISP (Table 25.2), an event port while its GO is 1 and its
RESULT at all times (R446), and the link records (Table 29.4). -/
def State.portHolds (s : State) (k : Nat) : Bool :=
  (s.marten.values.faultRings.any fun p => p ≤ k && k < p + 16384 && (k - p) % 64 < 56) ||
  (s.portBases.any fun p => p ≤ k && k < p + 64 && ((s.byte (p + 33)).toNat % 2 = 1 || k = p + 38 || k = p + 39)) ||
  (s.hasRecords && s.marten.values.linkRecords ≤ k && k < s.marten.values.linkRecords + 6144)

/-- Whether n bytes from a key touch a fault ring, an event port or the link records. -/
def State.touchesPort (s : State) (k n : Nat) : Bool :=
  (s.marten.values.faultRings.any fun p => p < k + n && k < p + 16448) ||
  (s.hasRecords && s.marten.values.linkRecords < k + n && k < s.marten.values.linkRecords + 6144)

/-- The first disposition to reach the record of an open fault stands (R418). -/
def OpenFault.latch (f : OpenFault) (s : State) : OpenFault :=
  match f.recNo with
  | some i => if f.disp = 0 then { f with disp := s.readNat (s.marten.values.faultRings.getD f.die 0 + 64 * (i % 256) + 56) 8 } else f
  | none => f

/-- Dispositions are taken as they are written. -/
def State.latchDisp (s : State) : State :=
  if s.faults.isEmpty then s else { s with faults := s.faults.map fun f => f.latch s }

/-- The cells of a list of writes that change memory. -/
def State.freeCells (s : State) (l : List (Nat × Byte)) : List (Nat × Byte) := l.filter fun c => !s.portHolds c.1

/-- Bytes stored from a key; those of a unit's fields as it allows (R4, R446). -/
def State.storeBytes (s : State) (k : Nat) (bs : List Byte) : List Host.Cell :=
  if s.touchesPort k bs.length then
    (s.freeCells (bs.mapIdx fun i b => (k + i, b))).foldl (fun m c => Memory.set m c.1 c.2) s.mem
  else Memory.setBytes s.mem k bs

/-- A write of n bytes at a key, performed at their home, that leaves memory as given: the poison markers, notify lines and dispositions follow (R474,
R405, R418). -/
def State.putMem (s : State) (k n : Nat) (mem : List Host.Cell) : State :=
  ({ s with mem := mem, poison := clearPoison s.poison k n, notified := s.notified ++ s.notifyLines k n } : State).latchDisp

/-- Bytes at a key, performed at their home. -/
def State.putBytes (s : State) (k : Nat) (bs : List Byte) : State := s.putMem k bs.length (s.storeBytes k bs)

/-- Writing bytes at a key so that every reader sees them at once, as the part's own units do. -/
def State.writeBytes (s : State) (k : Nat) (bs : List Byte) : State := (s.settleOver k bs.length).putBytes k bs

/-- Writing bytes of one 64-byte line at a key as a party on a die does: they are late for the other readers (R108). -/
def State.lateBytes (s : State) (by_ : Writer) (die : Nat) (clock : List Nat) (k : Nat) (bs : List Byte) : State :=
  (s.noteLate by_ die clock ((List.range bs.length).map (k + ·))).putBytes k bs

/-- Writing an n-byte value at a key. -/
def State.writeNat (s : State) (k n v : Nat) : State := s.writeBytes k (leBytes n v)

/-- Bytes put at their keys, each with whether its source was poisoned: a word that takes a poisoned byte is poisoned, and else a word
wholly covered is cleared (R474). -/
def State.putMarked (s : State) (cells : List (Nat × Byte × Bool)) : State :=
  let cells := cells.filter fun x => !(s.touchesPort x.1 1 && s.portHolds x.1)
  let mem := cells.foldl (fun m x => Memory.set m x.1 x.2.1) s.mem
  let bad := ((cells.filter fun x => x.2.2).map fun x => x.1 / 8).eraseDups
  let covered (w : Nat) : Bool := (List.range 8).all fun i => cells.any fun x => x.1 == 8 * w + i
  let lines := cells.flatMap fun x => s.notifyLines x.1 1
  ({ s with mem := mem, poison := (s.poison.filter fun w => !covered w && !bad.contains w) ++ bad,
            notified := s.notified ++ lines.eraseDups } : State).latchDisp

/-- The same bytes so that every reader sees them at once, as the halo engine writes (R329). -/
def State.writeCells (s : State) (cells : List (Nat × Byte × Bool)) : State :=
  ((cells.foldl (fun s x => s.settleOver x.1 1) s)).putMarked cells

/-- A copy's or a host's bytes written at their keys, line by line late for the readers they have not reached (R108, R121). -/
def State.writeMarked (s : State) (by_ : Writer) (die : Nat) (clock : List Nat) (cells : List (Nat × Byte × Bool)) : State :=
  ((byLine (cells.map (·.1)).eraseDups).foldl (fun s ks => s.noteLate by_ die clock ks) s).putMarked cells

/-- n bytes from a key become zero, and poison among them goes. -/
def State.zeroRange (s : State) (k n : Nat) : State :=
  let s := s.settleOver k n
  { s with mem := s.mem.filter fun c => !(k ≤ c.1 && c.1 < k + n), poison := clearPoison s.poison k n,
           softErrors := s.softErrors.filter fun e => !(wordsOf k n).contains e.1 }

/-- Markers of units that the n bytes at each of a list of keys cover together are cleared: the stores of one engine task or of one
vector instruction are one write (R474). -/
def State.coverClear (s : State) (ks : List Nat) (n : Nat) : State :=
  if s.poison.isEmpty then s
  else
    let covered (k : Nat) : Bool := ks.any fun a => a ≤ k && k < a + n
    { s with poison := s.poison.filter fun w =>
        let u := if w < 2 ^ 40 then 8 else 4
        !((List.range u).all fun i => covered (u * w + i)) }

/-- The keys of the whole bytes that elements of a size at places (key, half) begin or fill: a byte of two 4-bit elements is whole when
both are there. -/
def wholeBytes (esize4 : Nat) (ps : List (Nat × Nat)) : List Nat :=
  if esize4 = 1 then (ps.filter fun p => p.2 = 0 && ps.contains (p.1, 1)).map (·.1) else ps.map (·.1)

/-- A message in the outbox is taken from it, where it is there. -/
def State.takeOut (s : State) (m : OutMsg) : Option State :=
  if s.outbox.contains m then some { s with outbox := s.outbox.erase m } else none

/-- A latent soft error that an access of n bytes at k finds: corrected and counted, or its unit poisoned and counted
(R473). Accesses of every path go through this. -/
def State.detect (s : State) (k n : Nat) : State :=
  let found := s.softErrors.filter fun e => (wordsOf k n).contains e.1
  let bad := (found.filter (·.2)).map (·.1)
  let good := found.filter (fun e => !e.2)
  if found.isEmpty then s else
  { s with softErrors := s.softErrors.filter (fun e => !(wordsOf k n).contains e.1),
           poison := s.poison ++ bad,
           power := { s.power with cecnt := s.power.cecnt + good.length, uecnt := min (s.power.uecnt + bad.length) (2 ^ 32 - 1) } }

/-- Latent soft errors under a list of places of n bytes are found (R473). -/
def State.scan (s : State) (ks : List Nat) (n : Nat) : State :=
  if s.softErrors.isEmpty then s else ks.foldl (fun s k => s.detect k n) s

/-! ## Transaction-barrier objects (Table 9.6) -/

/-- Whether the object at a key is live (R200). -/
def State.isLive (s : State) (key : Nat) : Bool := s.live.any fun l => l.1 == key

/-- Whether any byte of n from k belongs to a live object. -/
def State.tagged (s : State) (k n : Nat) : Bool := s.live.any fun l => l.1 < k + n ∧ k < l.1 + 32

/-- Whether the object at a key is a slot barrier (R339, R349). -/
def State.isSlotBar (s : State) (key : Nat) : Bool := s.live.any fun l => l.1 == key && l.2

/-- The 256 bits of the object at a key. -/
def State.tb (s : State) (key : Nat) : Nat := s.readNat key 32

/-- x with its bits [hi:lo] replaced by the low bits of v. -/
def putBits (x hi lo v : Nat) : Nat :=
  x % 2 ^ lo + (v % 2 ^ (hi + 1 - lo)) * 2 ^ lo + x / 2 ^ (hi + 1) * 2 ^ (hi + 1)

def tbPhase (x : Nat) : Nat := bitsOf x 47 40
def tbStatus (x : Nat) : Nat := bitsOf x 49 48
def tbScope (x : Nat) : Nat := bitsOf x 52 50
def tbNamed (x : Nat) : Nat := bitsOf x 55 53
def tbFcode (x : Nat) : Nat := bitsOf x 63 56
def tbPlen (x : Nat) : Nat := bitsOf x 95 64
def tbLastp (x : Nat) : Nat := bitsOf x 98 96
def tbLastid (x : Nat) : Nat := bitsOf x 127 105
def tbExp (x : Nat) : Nat := bitsOf x 191 174
def tbParr (x : Nat) : Nat := bitsOf x 255 238
def tbPbytes (x : Nat) : Int := sextInt x 40

/-- NAME j of the object (Table 9.6). -/
def tbName (x j : Nat) : Nat :=
  match j with
  | 0 => bitsOf x 150 128
  | 1 => bitsOf x 173 151
  | 2 => bitsOf x 214 192
  | _ => bitsOf x 237 215

/-- The object with NAME j set. -/
def tbSetName (x j v : Nat) : Nat :=
  match j with
  | 0 => putBits x 150 128 v
  | 1 => putBits x 173 151 v
  | 2 => putBits x 214 192 v
  | _ => putBits x 237 215 v

/-- The bits that TB.INIT gives an object (Table 9.6): EXP and PARR, the scope, all else zero. -/
def tbFresh (exp scope : Nat) : Nat := exp * 2 ^ 238 + exp * 2 ^ 174 + scope * 2 ^ 50

/-- Storing the bits of an object. Only TB instructions, the copy engine and the partition manager do this (R201). -/
def State.putTb (s : State) (key x : Nat) : State := s.writeNat key 32 x

/-- The object at a key becomes live with the given bits (R204). -/
def State.tbInit (s : State) (key exp scope : Nat) (slot : Bool) : State :=
  let s := s.putTb key (tbFresh exp scope)
  { s with live := s.live.filter (·.1 != key) ++ [(key, slot)] }

/-- The status of waiting on an object against a phase: none while the wait goes on (R206). -/
def State.tbStatusAt (s : State) (k : Nat) (phase : BitVec 8) : Option Nat :=
  if !s.isLive k then some Cause.estale
  else
    let x := s.tb k
    if tbStatus x = 1 then some (tbFcode x)
    else if tbPhase x ≠ phase.toNat then some 0 else none

/-- A TB.WAIT that waits on an object as it stops being live takes its status now, ESTALE where the wait goes on (R206). -/
def State.wakeStrand (s : State) (key : Nat) (t : Strand) : Strand :=
  match t.tbWait with
  | some (k, ph, none) => if k = key then { t with tbWait := some (k, ph, some ((s.tbStatusAt k ph).getD Cause.estale)) } else t
  | _ => t

/-- How a task's wait on an object has ended: 0, or the cause with which the task fails, none while it goes on (R483, R79). -/
def State.barVerdict (s : State) (k : Nat) (phase : BitVec 8) : Option Nat :=
  if !s.isLive k then some Cause.estale
  else match s.tbStatusAt k phase with
    | some 0 => some 0
    | some _ => some Cause.producerFailed
    | none => none

/-- A task that waits on an object as it stops being live takes the end of its wait now, ESTALE where the wait goes on (R483). -/
def State.wakeTask (s : State) (key : Nat) (t : Task) : Task :=
  match t.barWait with
  | some (k, ph, none) => if k = key then { t with barWait := some (k, ph, some ((s.barVerdict k ph).getD Cause.estale)) } else t
  | _ => t

/-- Every wait on an object ends as the object stops being live. -/
def State.tbWake (s : State) (key : Nat) : State :=
  let wake (x : Core) : Core :=
    { x with strands := x.strands.map fun t => s.wakeStrand key t, window := x.window.map fun t => s.wakeTask key t }
  { s with cores := s.cores.map wake }

/-- The object at a key stops being live; its bytes stay (R204, R206). -/
def State.tbKill (s : State) (key : Nat) : State := { s.tbWake key with live := s.live.filter (·.1 != key) }

/-- The latest completion of a phase and the latest update of the object at a key (R371). -/
def State.barNoteAt (s : State) (key : Nat) : Nat × Nat :=
  match s.barTimes.find? (·.1 == key) with
  | some x => x.2
  | none => (s.now, 0xFFFFFFF9)

/-- The time of a phase's completion and the party of an update are noted. -/
def State.noteBar (s : State) (key time who : Nat) : State :=
  { s with barTimes := (key, time, who) :: s.barTimes.filter (·.1 != key) }

/-- The kinds of update of R204. -/
inductive TbKind where
  | expect | arrive | credit
deriving DecidableEq, Repr

/-- FailPhase of R204. -/
def tbFailBits (x c : Nat) : Nat :=
  putBits (putBits (putBits x 49 48 1) 63 56 c) 47 40 (tbPhase x + 1)

/-- The phase of the object at a key completes FAILED with a cause (R205). -/
def State.tbFail (s : State) (key c : Nat) : State :=
  (s.putTb key (tbFailBits (s.tb key) c)).noteBar key s.now (s.barNoteAt key).2

/-- Update of R204 by a party (core identity, path, post sequence or code, path length): the state after it, and 0 or the cause code
that it returns. -/
def State.tbUpdate (s : State) (key : Nat) (kind : TbKind) (n who path seq plen : Nat) : State × Nat :=
  if !s.isLive key then (s, Cause.estale)
  else
    let x := s.tb key
    if tbStatus x = 1 then (s, tbFcode x)
    else
      let v : Int := if kind = .credit then tbPbytes x - n else tbPbytes x + n
      if n ≥ 2 ^ 39 ∨ v < -(2 ^ 39 : Int) ∨ v ≥ (2 ^ 39 : Int) ∨ (kind = .arrive ∧ tbParr x = 0) then
        (s.tbFail key Cause.tbOverrun, Cause.tbOverrun)
      else
        let parr := if kind = .arrive then tbParr x - 1 else tbParr x
        let x := putBits x 39 0 (v % (2 ^ 40 : Int)).toNat
        let x := putBits x 255 238 parr
        let x := putBits x 127 105 who
        let x := putBits x 98 96 path
        let x := putBits x 95 64 (min plen (2 ^ 32 - 1))
        if parr = 0 ∧ v = 0 then
          let x := putBits (putBits x 47 40 (tbPhase x + 1)) 255 238 (tbExp x)
          ((s.putTb key x).noteBar key s.now seq, 0)
        else ((s.putTb key x).noteBar key (s.barNoteAt key).1 seq, 0)

/-! ## Path lengths (R370, R371) -/

/-- A path length saturates at 2^32 − 1. -/
def satPl (n : Nat) : Nat := min n (2 ^ 32 - 1)

/-- The transit within the package of an arrival on an edge of Table 19.5: the cycles between the update and the release; 0 where the condition
held as the wait began (waited is 0), and on the edges whose update itself writes the token, completes the phase or sets the stamp
(R371). -/
def transit (waited now : Nat) (a : Arriver) (edge : Nat) : Nat :=
  if waited = 0 ∨ edge = 3 ∨ edge = 4 ∨ edge = 5 then 0 else now - a.when_

/-- The path length of a party that leaves a wait that an arriver ended (R370, R371). -/
def plAfter (pl waited now : Nat) (a : Arriver) (edge : Nat) : Nat := satPl (max pl (a.pl + transit waited now a edge))

/-! ## Traps (R282 to R284) -/

/-- ECAUSE of a trap (Table 13.4). -/
def ecauseOf (cause path : Nat) (defer stream : Bool) : Word :=
  BitVec.ofNat 64 (cause + path * 2 ^ 8 + (if defer then 2 ^ 15 else 0) + (if stream then 2 ^ 16 else 0))

/-- Whether a trap is fatal for a strand (R282). -/
def Strand.fatal (t : Strand) (cause : Nat) : Bool :=
  cause == Cause.poison || cause == Cause.watchdog || t.sys.tvec == 0 || t.sys.intrap

/-- A launch with a failure: the first one stands (R415). -/
def Launch.fail (l : Launch) (f : Failure) : Launch := { l with failure := some (l.failure.getD f) }

/-- A launch after one of its strands stopped fatally (R29, R420). -/
def Launch.stop (l : Launch) (f : Failure) : Launch := { l.fail f with stopping := true }

/-- A fatal stop: the strand becomes STOPPED, its core's scratchpad is frozen, its launch fails (R30, R80, R420). -/
def State.stopStrand (s : State) (c k : Nat) (cause : Nat) (val resume : Word) : State :=
  let l := (s.strand c k).launch
  let s := s.modCore c fun x => { x.modStrand k (fun t =>
    { t with state := .stopped, reason := 0, obj := 0, stopCause := some (cause, val, resume),
             tr := { t.tr with debugStop := none } }) with frozen := true }
  { s with launches := s.launches.map fun x => if some x.id = l then x.stop ⟨cause, true, val, resume⟩ else x }

/-- TakeTrap of R282 for strand k of core c: the handler's address is TVEC with bits [1:0] ignored, and the mode stays. -/
def State.trapAt (s : State) (c k : Nat) (cause path : Nat) (defer stream : Bool) (val resume : Word) : State :=
  if (s.strand c k).fatal cause then s.stopStrand c k cause val resume
  else s.modStrand c k fun t =>
    let u := t.finish 0
    { u with pc := t.sys.tvec &&& ~~~3#64,
             sys := { t.sys with epc := resume, ecause := ecauseOf cause path defer stream, eval := val, intrap := true } }

/-- The instruction of the strand that moves raises a precise trap at itself, on the SCL path (R282, R283). -/
def State.trap (s : State) (cause : Nat) (val : Word) : State :=
  s.trapAt s.myCore s.myStrand cause 0 false false val s.me.pc

/-- ERET of R284 for the strand that moves, with INTRAP set. -/
def State.eret (s : State) : State :=
  s.modMe fun t =>
    { t.finish 0 with pc := t.sys.epc &&& ~~~3#64, sys := { t.sys with intrap := false } }

/-! ## Events (R289) -/

/-- Setting an event bit of a strand, with its setter (R289, R371). -/
def Strand.setEvent (t : Strand) (bit : Nat) (a : Arriver) : Strand :=
  { t with sys := { t.sys with evpend := t.sys.evpend ||| BitVec.ofNat 16 (2 ^ bit) },
           evSetter := (bit, a) :: t.evSetter.filter (·.1 != bit) }

/-- Setting several event bits. -/
def Strand.setEvents (t : Strand) (bits : List Nat) (a : Arriver) : Strand :=
  bits.foldl (fun t b => t.setEvent b a) t

/-- The bits of a mask that are set, below n. -/
def maskBits (m n : Nat) : List Nat := (List.range n).filter fun i => m / 2 ^ i % 2 = 1

/-- Event 7 of strand 0, or another event of a strand, of a service core, set by firmware's own units (R416, R453). -/
def State.serviceEvent (s : State) (svc strand bit : Nat) : State :=
  s.modStrand (256 + svc) strand fun t => t.setEvent bit ⟨0, 7, 0xFFFFFFF9, 0, s.now⟩

/-! ## Partitions (R25, R26) -/

/-- The record of a partition. -/
def State.part (s : State) (no : Nat) : Option Partition := s.parts.find? (·.no == no)

/-- The state with a partition's record changed. -/
def State.modPart (s : State) (no : Nat) (f : Partition → Partition) : State :=
  { s with parts := s.parts.map fun p => if p.no = no then f p else p }

/-- Whether two cores of this package belong to one partition; a core of partition 0 is a service core or unowned. -/
def State.samePart (s : State) (c w : Nat) : Bool :=
  (s.core c).partno == (s.core w).partno && (s.core w).partno != 0

/-- The launch of a strand. -/
def State.launchOf (s : State) (t : Strand) : Option Launch :=
  t.launch.bind fun l => s.launches.find? (·.id == l)

end Sys2Proof.Machine
end

