-- ==== Sys2Proof/Machine/Crypto.lean ====
section
/-!
DEFINITION. SHA-512 and Ed25519, which the boot and the attestation use (R433 to R436).
-/
namespace Sys2Proof.Machine

/-! ## SHA-512 (FIPS 180-4, as R433 to R435 use it; log 30) -/

/-- The first 40 constants of the rounds. -/
def shaRoundsA : List Word :=
  [0x428A2F98D728AE22, 0x7137449123EF65CD, 0xB5C0FBCFEC4D3B2F, 0xE9B5DBA58189DBBC,
   0x3956C25BF348B538, 0x59F111F1B605D019, 0x923F82A4AF194F9B, 0xAB1C5ED5DA6D8118,
   0xD807AA98A3030242, 0x12835B0145706FBE, 0x243185BE4EE4B28C, 0x550C7DC3D5FFB4E2,
   0x72BE5D74F27B896F, 0x80DEB1FE3B1696B1, 0x9BDC06A725C71235, 0xC19BF174CF692694,
   0xE49B69C19EF14AD2, 0xEFBE4786384F25E3, 0x0FC19DC68B8CD5B5, 0x240CA1CC77AC9C65,
   0x2DE92C6F592B0275, 0x4A7484AA6EA6E483, 0x5CB0A9DCBD41FBD4, 0x76F988DA831153B5,
   0x983E5152EE66DFAB, 0xA831C66D2DB43210, 0xB00327C898FB213F, 0xBF597FC7BEEF0EE4,
   0xC6E00BF33DA88FC2, 0xD5A79147930AA725, 0x06CA6351E003826F, 0x142929670A0E6E70,
   0x27B70A8546D22FFC, 0x2E1B21385C26C926, 0x4D2C6DFC5AC42AED, 0x53380D139D95B3DF,
   0x650A73548BAF63DE, 0x766A0ABB3C77B2A8, 0x81C2C92E47EDAEE6, 0x92722C851482353B]

/-- The last 40 constants of the rounds. -/
def shaRoundsB : List Word :=
  [0xA2BFE8A14CF10364, 0xA81A664BBC423001, 0xC24B8B70D0F89791, 0xC76C51A30654BE30,
   0xD192E819D6EF5218, 0xD69906245565A910, 0xF40E35855771202A, 0x106AA07032BBD1B8,
   0x19A4C116B8D2D0C8, 0x1E376C085141AB53, 0x2748774CDF8EEB99, 0x34B0BCB5E19B48A8,
   0x391C0CB3C5C95A63, 0x4ED8AA4AE3418ACB, 0x5B9CCA4F7763E373, 0x682E6FF3D6B2B8A3,
   0x748F82EE5DEFB2FC, 0x78A5636F43172F60, 0x84C87814A1F0AB72, 0x8CC702081A6439EC,
   0x90BEFFFA23631E28, 0xA4506CEBDE82BDE9, 0xBEF9A3F7B2C67915, 0xC67178F2E372532B,
   0xCA273ECEEA26619C, 0xD186B8C721C0C207, 0xEADA7DD6CDE0EB1E, 0xF57D4F7FEE6ED178,
   0x06F067AA72176FBA, 0x0A637DC5A2C898A6, 0x113F9804BEF90DAE, 0x1B710B35131C471B,
   0x28DB77F523047D84, 0x32CAAB7B40C72493, 0x3C9EBE0A15C9BEBC, 0x431D67C49C100D4C,
   0x4CC5D4BECB3E42B6, 0x597F299CFC657E2A, 0x5FCB6FAB3AD6FAEC, 0x6C44198C4A475817]

/-- The initial hash value. -/
def shaInit : List Word :=
  [0x6A09E667F3BCC908, 0xBB67AE8584CAA73B, 0x3C6EF372FE94F82B, 0xA54FF53A5F1D36F1,
   0x510E527FADE682D1, 0x9B05688C2B3E6C1F, 0x1F83D9ABFB41BD6B, 0x5BE0CD19137E2179]

/-- The 64-bit words of a message, most significant byte first, n of them. -/
def shaWords : Nat → List Byte → List Word
  | 0, _ => []
  | n + 1, bs => BitVec.ofNat 64 ((bs.take 8).foldl (fun a b => 256 * a + b.toNat) 0) :: shaWords n (bs.drop 8)

/-- A message padded to whole blocks of 128 bytes. -/
def shaPad (bs : List Byte) : List Byte :=
  let n := bs.length
  bs ++ 0x80 :: List.replicate ((239 - n % 128) % 128) 0 ++ (leBytes 16 (8 * n)).reverse

/-- The message schedule: the last 16 words in ws, newest first. -/
def shaSchedule : Nat → List Word → List Word
  | 0, ws => ws
  | n + 1, ws =>
    let x := ws.getD 14 0
    let y := ws.getD 1 0
    let s0 := x.rotateRight 1 ^^^ x.rotateRight 8 ^^^ (x >>> 7)
    let s1 := y.rotateRight 19 ^^^ y.rotateRight 61 ^^^ (y >>> 6)
    shaSchedule n ((ws.getD 15 0 + s0 + ws.getD 6 0 + s1) :: ws)

/-- A round: a constant and the schedule's word. -/
def shaRound (h : List Word) (kw : Word × Word) : List Word :=
  let g (i : Nat) : Word := h.getD i 0
  let s1 := (g 4).rotateRight 14 ^^^ (g 4).rotateRight 18 ^^^ (g 4).rotateRight 41
  let t1 := g 7 + s1 + ((g 4 &&& g 5) ^^^ (~~~(g 4) &&& g 6)) + kw.1 + kw.2
  let s0 := (g 0).rotateRight 28 ^^^ (g 0).rotateRight 34 ^^^ (g 0).rotateRight 39
  let t2 := s0 + ((g 0 &&& g 1) ^^^ (g 0 &&& g 2) ^^^ (g 1 &&& g 2))
  [t1 + t2, g 0, g 1, g 2, g 3 + t1, g 4, g 5, g 6]

/-- A block of 128 bytes. -/
def shaBlock (h : List Word) (b : List Byte) : List Word :=
  let ws := (shaSchedule 64 (shaWords 16 b).reverse).reverse
  let r := ((shaRoundsA ++ shaRoundsB).zip ws).foldl shaRound h
  List.zipWith (· + ·) h r

/-- Blocks from the front of a padded message. -/
def shaBlocks : Nat → List Word → List Byte → List Word
  | 0, h, _ => h
  | n + 1, h, bs => shaBlocks n (shaBlock h (bs.take 128)) (bs.drop 128)

/-- SHA-512 of a string of bytes. -/
def sha512 (bs : List Byte) : List Byte :=
  let m := shaPad bs
  (shaBlocks (m.length / 128) shaInit m).flatMap fun w => (leBytes 8 w.toNat).reverse

/-! ## Ed25519 (RFC 8032, pure mode, as R433, R435 and R436 use it; log 9) -/

/-- The prime 2^255 − 19, the order of the base point, and the constant d = −121665/121666 of the curve. -/
def edP : Nat := 2 ^ 255 - 19
def edL : Nat := 2 ^ 252 + 27742317777372353535851937790883648493
def edD : Nat := 37095705934669439343138083508754565189542113879843219016388785533085940283555

/-- b to the power e modulo the prime, for an e of at most n bits. -/
def edPow : Nat → Nat → Nat → Nat
  | 0, _, _ => 1
  | n + 1, b, e =>
    let r := edPow n (b * b % edP) (e / 2)
    if e % 2 = 1 then b * r % edP else r

/-- A point in extended coordinates: x = X/Z, y = Y/Z, X × Y = Z × T. -/
structure EdPoint where
  x : Nat
  y : Nat
  z : Nat
  t : Nat
deriving DecidableEq, Repr

/-- The neutral point. -/
def edZero : EdPoint := ⟨0, 1, 1, 0⟩

/-- The sum of two points. -/
def edAdd (p q : EdPoint) : EdPoint :=
  let a := (p.y + edP - p.x) * (q.y + edP - q.x) % edP
  let b := (p.y + p.x) * (q.y + q.x) % edP
  let c := p.t * 2 * edD % edP * q.t % edP
  let d := p.z * 2 * q.z % edP
  let e := b + edP - a
  let f := d + edP - c
  let g := d + c
  let h := b + a
  ⟨e * f % edP, g * h % edP, f * g % edP, e * h % edP⟩

/-- k times a point, for a k of at most n bits. -/
def edMul : Nat → Nat → EdPoint → EdPoint
  | 0, _, _ => edZero
  | n + 1, k, p =>
    let r := edMul n (k / 2) (edAdd p p)
    if k % 2 = 1 then edAdd p r else r

/-- Whether two points are equal. -/
def edEq (p q : EdPoint) : Bool := p.x * q.z % edP == q.x * p.z % edP && p.y * q.z % edP == q.y * p.z % edP

/-- A root of x² = (y² − 1)/(d × y² + 1), with the low bit asked for (RFC 8032 section 5.1.3). -/
def edRoot (y sign : Nat) : Option Nat :=
  let u := (y * y + edP - 1) % edP
  let v := (edD * (y * y % edP) + 1) % edP
  let v3 := v * v % edP * v % edP
  let x := u * v3 % edP * edPow 255 (u * (v3 * v3 % edP * v % edP) % edP) ((edP - 5) / 8) % edP
  let w := v * (x * x % edP) % edP
  let root : Option Nat :=
    if w = u then some x else if w = (edP - u) % edP then some (x * edPow 255 2 ((edP - 1) / 4) % edP) else none
  match root with
  | none => none
  | some x => if x = 0 ∧ sign = 1 then none else some (if x % 2 = sign then x else edP - x)

/-- A point read from 32 bytes. -/
def edDecode (bs : List Byte) : Option EdPoint :=
  let w := leNat bs
  let y := w % 2 ^ 255
  if bs.length ≠ 32 ∨ edP ≤ y then none
  else (edRoot y (w / 2 ^ 255)).map fun x => ⟨x, y, 1, x * y % edP⟩

/-- A point as 32 bytes. -/
def edEncode (p : EdPoint) : List Byte :=
  let i := edPow 255 p.z (edP - 2)
  leBytes 32 (p.y * i % edP + p.x * i % edP % 2 * 2 ^ 255)

/-- The base point, of y = 4/5. -/
def edBase : EdPoint :=
  let x := 15112221349535400772501151409588531511454012693041857206046113283949847762202
  let y := 46316835694926478169428394003475163141307993866256225615783033603165251855960
  ⟨x, y, 1, x * y % edP⟩

/-- The scalar of a seed. -/
def edScalar (seed : List Byte) : Nat := leNat ((sha512 seed).take 32) / 8 % 2 ^ 251 * 8 + 2 ^ 254

/-- The public key of a seed. -/
def edPublic (seed : List Byte) : List Byte := edEncode (edMul 255 (edScalar seed) edBase)

/-- The signature of a message under a seed. -/
def edSign (seed msg : List Byte) : List Byte :=
  let r := leNat (sha512 ((sha512 seed).drop 32 ++ msg)) % edL
  let rs := edEncode (edMul 255 r edBase)
  let k := leNat (sha512 (rs ++ edPublic seed ++ msg)) % edL
  rs ++ leBytes 32 ((r + k * edScalar seed) % edL)

/-- Whether a signature of a message by a key is valid: the equation of section 5.1.7 with the cofactor 8. -/
def edVerify (key msg sig : List Byte) : Bool :=
  let rs := sig.take 32
  let n := leNat (sig.drop 32)
  match edDecode key, edDecode rs with
  | some a, some r =>
    let k := leNat (sha512 (rs ++ key ++ msg)) % edL
    sig.length == 64 && n < edL && edEq (edMul 4 8 (edMul 255 n edBase)) (edMul 4 8 (edAdd r (edMul 255 k a)))
  | _, _ => false

end Sys2Proof.Machine
end

