-- ==== Sys2Proof/Machine/Flags.lean ====
section
/-!
DEFINITION. Number formats, rounding, and every flag computation (R129 to R142): exact values, RoundTo, Decode and Encode, and
the five floating-point flags of Table 6.3.
-/
namespace Sys2Proof.Machine

/-- A set of floating-point flags, in the bits of FFLAGS (Table 6.3). -/
abbrev Flags := BitVec 5

namespace Flag
abbrev nv : Flags := 16
abbrev dz : Flags := 8
abbrev of : Flags := 4
abbrev uf : Flags := 2
abbrev nx : Flags := 1
end Flag

/-- An extended real (R142): a NaN, signalling or quiet; an infinity; or (−1)^neg × num × 2^exp, a signed zero when num = 0. -/
inductive Ext where
  | nan (signalling : Bool)
  | inf (neg : Bool)
  | fin (neg : Bool) (num : Nat) (exp : Int)
deriving DecidableEq, Repr

namespace Ext

/-- +0. -/
def zero : Ext := .fin false 0 0

/-- An integer, exactly. -/
def ofInt (v : Int) : Ext := .fin (v < 0) v.natAbs 0

def isNan : Ext → Bool
  | .nan _ => true
  | _ => false

def isSNan : Ext → Bool
  | .nan b => b
  | _ => false

def isInf : Ext → Bool
  | .inf _ => true
  | _ => false

def isZero : Ext → Bool
  | .fin _ n _ => n == 0
  | _ => false

/-- The sign bit. -/
def neg : Ext → Bool
  | .nan _ => false
  | .inf b => b
  | .fin b _ _ => b

/-- The value with its sign changed; a NaN stays. -/
def flip : Ext → Ext
  | .nan b => .nan b
  | .inf b => .inf (!b)
  | .fin b n e => .fin (!b) n e

/-- The magnitude. -/
def abs : Ext → Ext
  | .nan b => .nan b
  | .inf _ => .inf false
  | .fin _ n e => .fin false n e

/-- The signed numerator of a finite value over 2^e, for e at or below its exponent. -/
def scaled (x : Ext) (e : Int) : Int :=
  match x with
  | .fin b n ex => (if b then -1 else 1) * ((n * 2 ^ (ex - e).toNat : Nat) : Int)
  | _ => 0

/-- The exponent of a finite value. -/
def expOf : Ext → Int
  | .fin _ _ e => e
  | _ => 0

/-- x < y as extended reals; false when either is a NaN, and −0 is not below +0. -/
def lt (x y : Ext) : Bool :=
  match x, y with
  | .nan _, _ => false
  | _, .nan _ => false
  | .inf a, .inf b => a && !b
  | .inf a, .fin _ _ _ => a
  | .fin _ _ _, .inf b => !b
  | .fin a n e, .fin b m f =>
    let g := min e f
    (Ext.fin a n e).scaled g < (Ext.fin b m f).scaled g

/-- x = y as extended reals; false when either is a NaN. -/
def eqv (x y : Ext) : Bool := !x.isNan && !y.isNan && !(x.lt y) && !(y.lt x)

end Ext

/-! ## Formats (Tables 6.1 and 6.2) -/

/-! ### The type codes of Table 6.1 -/
namespace Ty
abbrev i8 : Nat := 0
abbrev i16 : Nat := 1
abbrev i32 : Nat := 2
abbrev i4 : Nat := 3
abbrev n8 : Nat := 4
abbrev n16 : Nat := 5
abbrev n32 : Nat := 6
abbrev n4 : Nat := 7
abbrev f32 : Nat := 8
abbrev f16 : Nat := 9
abbrev bf16 : Nat := 10
abbrev e4m3 : Nat := 11
abbrev e5m2 : Nat := 12
abbrev e2m1 : Nat := 13
abbrev e8m0 : Nat := 14
abbrev b64 : Nat := 15
end Ty

/-- The width in bits of an element of a type. -/
def tyWidth (ty : Nat) : Nat :=
  match ty with
  | 0 => 8 | 1 => 16 | 2 => 32 | 3 => 4 | 4 => 8 | 5 => 16 | 6 => 32 | 7 => 4
  | 8 => 32 | 9 => 16 | 10 => 16 | 11 => 8 | 12 => 8 | 13 => 4 | 14 => 8 | _ => 64

/-- Whether a type is a two's complement integer, a natural, a floating-point format. -/
def tySigned (ty : Nat) : Bool := ty < 4
def tyInt (ty : Nat) : Bool := ty < 8
def tyFloat (ty : Nat) : Bool := 8 ≤ ty ∧ ty ≤ 14

/-- The fraction width of a floating-point format. -/
def fracBits (ty : Nat) : Nat :=
  match ty with
  | 8 => 23 | 9 => 10 | 10 => 7 | 11 => 3 | 12 => 2 | 13 => 1 | _ => 0

/-- The exponent width of a floating-point format. -/
def expBits (ty : Nat) : Nat :=
  match ty with
  | 8 => 8 | 9 => 5 | 10 => 8 | 11 => 4 | 12 => 5 | 13 => 2 | _ => 8

/-- The bias of a floating-point format. -/
def biasOf (ty : Nat) : Nat :=
  match ty with
  | 8 => 127 | 9 => 15 | 10 => 127 | 11 => 7 | 12 => 15 | 13 => 1 | _ => 127

/-- Whether a format has infinities and IEEE NaNs. -/
def hasInf (ty : Nat) : Bool := ty == 8 || ty == 9 || ty == 10 || ty == 12

/-- The magnitude bits of the largest finite value (Table 6.2). -/
def maxBits (ty : Nat) : Nat :=
  match ty with
  | 8 => 0x7F7FFFFF | 9 => 0x7BFF | 10 => 0x7F7F | 11 => 0x7E | 12 => 0x7B | 13 => 0x7 | _ => 0xFE

/-- The canonical NaN (Table 6.2); E2M1 has none, and a NaN becomes +0 there (R138). -/
def canonNan (ty : Nat) : Nat :=
  match ty with
  | 8 => 0x7FC00000 | 9 => 0x7E00 | 10 => 0x7FC0 | 11 => 0x7F | 12 => 0x7E | 13 => 0 | _ => 0xFF

/-- The bits of an infinity without its sign (Table 6.2). -/
def infBits (ty : Nat) : Nat := (2 ^ expBits ty - 1) * 2 ^ fracBits ty

/-- Decode (Table 6.5): the value of an encoding. -/
def decodeTy (ty bits : Nat) : Ext :=
  let x := bits % 2 ^ tyWidth ty
  if tySigned ty then Ext.ofInt (sextInt x (tyWidth ty))
  else if tyInt ty then Ext.ofInt x
  else if ty = Ty.e8m0 then (if x = 0xFF then .nan false else .fin false 1 (x - 127 : Int))
  else
    let m := fracBits ty
    let neg := x / 2 ^ (tyWidth ty - 1) % 2 == 1
    let e := x / 2 ^ m % 2 ^ expBits ty
    let f := x % 2 ^ m
    if hasInf ty ∧ e = 2 ^ expBits ty - 1 then
      (if f = 0 then .inf neg else .nan (f / 2 ^ (m - 1) % 2 == 0))
    else if ty = Ty.e4m3 ∧ x % 128 = 127 then .nan false
    else if e = 0 then .fin neg f (1 - (biasOf ty : Int) - m)
    else .fin neg (2 ^ m + f) ((e : Int) - biasOf ty - m)

/-! ## Rounding (R136, R137) -/

/-- Whether a magnitude k + r, with the remainder's relation to one half, rounds up under a mode: exact says r = 0; half is
the order of r and 1/2. -/
def roundsUp (rm : Nat) (neg : Bool) (k : Nat) (exact : Bool) (half : Ordering) : Bool :=
  if exact then false
  else match rm with
    | 0 => half == .gt || (half == .eq && k % 2 == 1)
    | 1 => false
    | 2 => neg
    | 3 => !neg
    | _ => half != .lt

/-- num × 2^(−sh) rounded to a natural number under a mode, and whether that was exact. -/
def roundShift (rm : Nat) (neg : Bool) (num sh : Nat) : Nat × Bool :=
  let k := num / 2 ^ sh
  let r := num % 2 ^ sh
  let exact := r == 0
  if roundsUp rm neg k exact (compare (2 * r) (2 ^ sh)) then (k + 1, exact) else (k, exact)

/-- num × 2^exp rounded to a multiple of 2^u: the multiple, and whether that was exact. -/
def roundUnit (rm : Nat) (neg : Bool) (num : Nat) (exp u : Int) : Nat × Bool :=
  if u ≤ exp then (num * 2 ^ (exp - u).toNat, true) else roundShift rm neg num (u - exp).toNat

/-- The bits that an overflow delivers, without the sign (R137). -/
def overflowBits (ty rm : Nat) (sat neg : Bool) : Nat :=
  if sat || ty == Ty.e2m1 then maxBits ty
  else if ty == Ty.e4m3 then 0x7F
  else match rm with
    | 0 => infBits ty
    | 4 => infBits ty
    | 1 => maxBits ty
    | 2 => if neg then infBits ty else maxBits ty
    | _ => if neg then maxBits ty else infBits ty

/-- The sign bit of a format. -/
def signBit (ty : Nat) (neg : Bool) : Nat := if neg then 2 ^ (tyWidth ty - 1) else 0

/-- Encode of a finite value into a signed floating-point format (R137): the bits and the flags OF, UF, NX. -/
def encodeFin (ty : Nat) (neg : Bool) (num : Nat) (exp : Int) (rm : Nat) (sat : Bool) : Nat × Flags :=
  if num = 0 then (signBit ty neg, 0)
  else
    let m : Int := fracBits ty
    let top : Int := (Nat.log2 num : Int) + exp
    let emin : Int := 1 - (biasOf ty : Int)
    let u : Int := max top emin - m
    let (k, exact) := roundUnit rm neg num exp u
    let mag := ((u + m + biasOf ty - 1) * (2 ^ fracBits ty : Nat) + k).toNat
    if maxBits ty < mag then (signBit ty neg + overflowBits ty rm sat neg, Flag.of ||| Flag.nx)
    else
      let (k2, _) := roundUnit rm neg num exp (top - m)
      let tiny : Bool := if top - m ≤ emin then decide (k2 < 2 ^ (emin - (top - m)).toNat) else false
      (signBit ty neg + mag, if exact then 0 else if tiny then Flag.uf ||| Flag.nx else Flag.nx)

/-- Encode into E8M0 (R139). -/
def encodeScale (v : Ext) (rm : Nat) (sat : Bool) : Nat × Flags :=
  match v with
  | .nan _ => (0xFF, Flag.nv)
  | .inf true => (0xFF, Flag.nv)
  | .inf false => (0xFF, Flag.nx)
  | .fin neg num exp =>
    if neg ∨ num = 0 then (0xFF, Flag.nv)
    else
      let l := Nat.log2 num
      let low : Int := (l : Int) + exp
      let exact := num == 2 ^ l
      let up : Bool :=
        if exact then false
        else match rm with
          | 1 => false
          | 2 => false
          | 3 => true
          | 0 => compare (2 * num) (3 * 2 ^ l) == .gt || (compare (2 * num) (3 * 2 ^ l) == .eq && (low + 127) % 2 == 1)
          | _ => compare (2 * num) (3 * 2 ^ l) != .lt
      let code : Int := low + 127 + (if up then 1 else 0)
      if code < 0 then (0, Flag.uf ||| Flag.nx)
      else if 254 < code then (if sat then 0xFE else 0xFF, Flag.of ||| Flag.nx)
      else (code.toNat, if exact then 0 else Flag.nx)

/-- The rounding of an exact value to an integer (RoundTo for an integer format, Table 6.5), and whether it was exact. -/
def roundInt (neg : Bool) (num : Nat) (exp : Int) (rm : Nat) : Int × Bool :=
  let (k, exact) := roundUnit rm neg num exp 0
  (if neg then -(k : Int) else k, exact)

/-- The least and the greatest value of an integer format. -/
def intMin (ty : Nat) : Int := if tySigned ty then -(2 ^ (tyWidth ty - 1) : Nat) else 0
def intMax (ty : Nat) : Int := if tySigned ty then (2 ^ (tyWidth ty - 1) : Nat) - 1 else (2 ^ tyWidth ty : Nat) - 1

/-- An integer reduced modulo 2^n into n bits. -/
def wrapBits (v : Int) (n : Nat) : Nat := (v % (2 ^ n : Nat)).toNat

/-- An integer clamped into an integer format. -/
def clampInt (ty : Nat) (v : Int) : Int := max (intMin ty) (min (intMax ty) v)

/-- An integer stored into an integer format, wrapping or clamping (R140, R141); no flag. -/
def storeInt (ty : Nat) (v : Int) (sat : Bool) : Nat :=
  wrapBits (if sat then clampInt ty v else v) (tyWidth ty)

/-- Conversion of a floating-point value to an integer format (R140); NX says that the delivered integer differs from the value, by rounding,
saturation or reduction (Table 6.3). -/
def encodeInt (ty : Nat) (v : Ext) (rm : Nat) (sat : Bool) : Nat × Flags :=
  match v with
  | .nan _ => (0, Flag.nv)
  | .inf neg => (if sat then wrapBits (if neg then intMin ty else intMax ty) (tyWidth ty) else 0, Flag.nv ||| Flag.nx)
  | .fin neg num exp =>
    let (k, exact) := roundInt neg num exp rm
    let inRange : Bool := decide (intMin ty ≤ k ∧ k ≤ intMax ty)
    (storeInt ty k sat, (if inRange then 0 else Flag.nv) ||| (if inRange && exact then 0 else Flag.nx))

/-- Encode (Table 6.5): the encoding of a value in a format, with the flags of Table 6.3 that the encoding itself raises. A
signalling NaN raises NV with the operation that reads it, and here as well for every destination (R138). -/
def encodeTy (ty : Nat) (v : Ext) (rm : Nat) (sat : Bool) : Nat × Flags :=
  if tyInt ty then encodeInt ty v rm sat
  else if ty = Ty.e8m0 then encodeScale v rm sat
  else match v with
    | .nan sig => (canonNan ty, if ty = Ty.e2m1 ∨ sig then Flag.nv else 0)
    | .inf neg =>
      if hasInf ty then (signBit ty neg + infBits ty, 0)
      else if ty = Ty.e4m3 then (signBit ty neg + (if sat then maxBits ty else 0x7F), Flag.nx)
      else (signBit ty neg + maxBits ty, Flag.nv ||| Flag.nx)
    | .fin neg num exp => encodeFin ty neg num exp rm sat

/-- RoundTo for a floating-point format (Table 6.5). -/
def roundTo (ty : Nat) (v : Ext) (rm : Nat) : Ext := decodeTy ty (encodeTy ty v rm false).1

/-- RoundTo F32 under RNE. -/
def rndF32 (v : Ext) : Ext := roundTo Ty.f32 v 0

/-! ## Exact operations, with the flags that their operands raise (R132, R133, Table 6.3) -/

/-- NV when an operand is a signalling NaN. -/
def snanFlag (xs : List Ext) : Flags := if xs.any Ext.isSNan then Flag.nv else 0

/-- The exact sum of terms (R133): a NaN term gives a quiet NaN; infinities of both signs give NaN with NV. -/
def sumExt (xs : List Ext) (rm : Nat) : Ext × Flags :=
  let f := snanFlag xs
  if xs.any Ext.isNan then (.nan false, f)
  else if xs.any (fun x => x.isInf && x.neg) ∧ xs.any (fun x => x.isInf && !x.neg) then (.nan false, f ||| Flag.nv)
  else match xs.find? Ext.isInf with
    | some x => (x, f)
    | none =>
      let e : Int := xs.foldl (fun (e : Int) x => min e x.expOf) 0
      let v : Int := xs.foldl (fun (a : Int) x => a + x.scaled e) 0
      if v = 0 then
        if !xs.isEmpty && xs.all (fun x => x.isZero && x.neg) then (.fin true 0 0, f)
        else if xs.all (fun x => x.isZero && !x.neg) then (.fin false 0 0, f)
        else (.fin (rm == 2) 0 0, f)
      else (.fin (v < 0) v.natAbs e, f)

/-- The exact product (R133). -/
def mulExt (x y : Ext) : Ext × Flags :=
  let f := snanFlag [x, y]
  match x, y with
  | .nan _, _ => (.nan false, f)
  | _, .nan _ => (.nan false, f)
  | .inf a, .inf b => (.inf (a != b), f)
  | .inf a, .fin b n _ => if n = 0 then (.nan false, f ||| Flag.nv) else (.inf (a != b), f)
  | .fin a n _, .inf b => if n = 0 then (.nan false, f ||| Flag.nv) else (.inf (a != b), f)
  | .fin a n e, .fin b m g => (.fin (a != b) (n * m) (e + g), f)

/-- A magnitude n / d × 2^e, cut after at least 64 bits with a last bit that says whether something was cut off: every rounding
to a format of this chapter gives the result of the exact quotient. -/
def quotient (n d : Nat) (e : Int) : Nat × Int :=
  let sh := 64 + Nat.log2 d + 1
  let q := n * 2 ^ sh / d
  let r := n * 2 ^ sh % d
  (2 * q + (if r = 0 then 0 else 1), e - sh - 1)

/-- The exact quotient x / y, up to the last bit of quotient (R146, Table 6.6). -/
def divExt (x y : Ext) : Ext × Flags :=
  let f := snanFlag [x, y]
  match x, y with
  | .nan _, _ => (.nan false, f)
  | _, .nan _ => (.nan false, f)
  | .inf _, .inf _ => (.nan false, f ||| Flag.nv)
  | .inf a, .fin b _ _ => (.inf (a != b), f)
  | .fin a _ _, .inf b => (.fin (a != b) 0 0, f)
  | .fin a n e, .fin b m g =>
    if m = 0 then (if n = 0 then (.nan false, f ||| Flag.nv) else (.inf (a != b), f ||| Flag.dz))
    else if n = 0 then (.fin (a != b) 0 0, f)
    else
      let (q, ex) := quotient n m (e - g)
      (.fin (a != b) q ex, f)

/-- The integer square root, bit by bit from bit i down. -/
def isqrtFrom (n : Nat) : Nat → Nat → Nat
  | 0, r => r
  | i + 1, r => let t := r + 2 ^ i; if t * t ≤ n then isqrtFrom n i t else isqrtFrom n i r

/-- The integer square root. -/
def isqrt (n : Nat) : Nat := isqrtFrom n (Nat.log2 n / 2 + 1) 0

/-- The square root of a positive value, cut as quotient cuts. -/
def sqrtMag (n : Nat) (e : Int) : Nat × Int :=
  let (n, e) := if e % 2 = 0 then (n, e) else (2 * n, e - 1)
  let big := n * 2 ^ 128
  let r := isqrt big
  (2 * r + (if r * r = big then 0 else 1), e / 2 - 64 - 1)

/-- The square root (Table 6.6). -/
def sqrtExt (x : Ext) : Ext × Flags :=
  let f := snanFlag [x]
  match x with
  | .nan _ => (.nan false, f)
  | .inf true => (.nan false, f ||| Flag.nv)
  | .inf false => (.inf false, f)
  | .fin neg n e =>
    if n = 0 then (.fin neg 0 0, f)
    else if neg then (.nan false, f ||| Flag.nv)
    else
      let (q, ex) := sqrtMag n e
      (.fin false q ex, f)

/-- An operation's exact value encoded into a format, with every flag it raises. -/
def deliver (ty : Nat) (r : Ext × Flags) (rm : Nat) (sat : Bool) : Nat × Flags :=
  let (b, f) := encodeTy ty r.1 rm sat
  (b, f ||| r.2)

/-! ## The 32-bit float atomics (R193) -/

/-- FMin of R193. -/
def fminF32 (o x : Nat) : Nat :=
  let vo := decodeTy Ty.f32 o
  let vx := decodeTy Ty.f32 x
  if vo.isNan && vx.isNan then 0x7FC00000
  else if vo.isNan then x
  else if vx.isNan then o
  else if vx.lt vo then x
  else if x = 0x80000000 ∧ o = 0 then x
  else o

/-- FMax of R193: +0 is chosen over −0. -/
def fmaxF32 (o x : Nat) : Nat :=
  let vo := decodeTy Ty.f32 o
  let vx := decodeTy Ty.f32 x
  if vo.isNan && vx.isNan then 0x7FC00000
  else if vo.isNan then x
  else if vx.isNan then o
  else if vo.lt vx then x
  else if x = 0 ∧ o = 0x80000000 then x
  else o

/-- FADD of Table 9.2 with its flags. -/
def faddF32 (o x : Nat) : Nat × Flags :=
  deliver Ty.f32 (sumExt [decodeTy Ty.f32 o, decodeTy Ty.f32 x] 0) 0 false

end Sys2Proof.Machine
end

