-- ==== Sys2Proof/Machine/Translate.lean ====
section
/-!
DEFINITION. The virtual map and the two stages of translation: Table 4.1, Table 4.2, Table 4.4 and Table 24.8.
-/
namespace Sys2Proof.Machine

/-! ## The windows of the virtual map (Table 4.1, R452) -/

def ownBase : Nat := 0x0070000000000000
def memberBase : Nat := 0x0070000000800000
def accNames : Nat := 0x0070000001000000
def svcBase : Nat := 0x0070000010000000

def inOwn (va : Nat) : Bool := ownBase ≤ va ∧ va < ownBase + 0x200000
def inMember (va : Nat) : Bool := memberBase ≤ va ∧ va < memberBase + 0x800000
def inAccNames (va : Nat) : Bool := accNames ≤ va ∧ va < accNames + 0x100000
def inSvc (va : Nat) : Bool := svcBase ≤ va ∧ va < svcBase + 0x20000000
def inPaged (va : Nat) : Bool := va < ownBase

/-- The key of an address that an engine of core c reaches in its own scratchpad: through the own window, or the member window
that carries its own number (R82, R83). -/
def ownKey (c va : Nat) : Option Nat :=
  if isService c then none
  else if inOwn va then some (spBase c + (va - ownBase))
  else if inMember va ∧ bitsOf va 22 21 = c % 4 then some (spBase c + bitsOf va 20 0)
  else none

/-! ## Access kinds, as Table 25.2 codes them -/

def accRead : Nat := 1
def accWrite : Nat := 2
def accAtomic : Nat := 7
def accFetch : Nat := 8

/-- Whether an access kind reads, writes, fetches. -/
def accReads (a : Nat) : Bool := a % 2 = 1
def accWrites (a : Nat) : Bool := a / 2 % 2 = 1
def accFetches (a : Nat) : Bool := a / 8 % 2 = 1

/-- The ACC field of a fault record: an atomic is one bit there. -/
def accField (a : Nat) : Nat := if a = accAtomic then 4 else a

/-! ## Stage 2 (R91, R412) -/

/-- A reserved range of the physical map (Table 4.2). -/
def reservedPa (a : Nat) : Bool := (2 ^ 39 ≤ a ∧ a < 2 ^ 40) ∨ 2 ^ 41 ≤ a

/-- The entry at a physical address; a poisoned entry is not used (Table 30.2) and reads as an invalid one. -/
def State.tableEntry (s : State) (a : Nat) : Nat := if s.poisoned a 8 then 0 else s.readNat a 8

/-- A stage-2 entry without reserved bits set (Table 24.8). -/
def s2Valid (e : Nat) : Bool := e % 2 = 1 ∧ bitsOf e 63 39 = 0 ∧ bitsOf e 12 2 = 0

def s2Leaf (e : Nat) : Bool := e / 2 % 2 = 1
def s2Out (e : Nat) : Nat := bitsOf e 38 13 * 2 ^ 16

/-- The walk of stage 2 from a root: intermediate addresses have 48 bits, so that only entries 0 to 63 of level 1 are used (R412). -/
def State.s2Walk (s : State) (root ipa : Nat) : Stage2 :=
  let e1 := s.tableEntry (root + 8 * bitsOf ipa 47 42)
  if 2 ^ 48 ≤ ipa || !s2Valid e1 || s2Leaf e1 then .invalid 1
  else
    let e2 := s.tableEntry (s2Out e1 + 8 * bitsOf ipa 41 29)
    if !s2Valid e2 then .invalid 2
    else if s2Leaf e2 then
      (if bitsOf e2 25 13 ≠ 0 then .invalid 2 else .pa (s2Out e2 + ipa % 2 ^ 29))
    else
      let e3 := s.tableEntry (s2Out e2 + 8 * bitsOf ipa 28 16)
      if !s2Valid e3 || !s2Leaf e3 then .invalid 3 else .pa (s2Out e3 + ipa % 2 ^ 16)

/-- Stage 2 of a partition: the identity for partition 0 (R438), a held entry, or the walk (R91); outputs in reserved ranges
are refused (R90). -/
def State.stage2 (s : State) (die partno ipa : Nat) : Stage2 :=
  let r : Stage2 :=
    if partno = 0 then .pa ipa
    else
      match s.tlb.find? (fun e => e.die = die ∧ e.space = 2 ^ 20 + partno ∧ e.page = ipa / 2 ^ 16) with
      | some e =>
        if Config.cacheHit s.tick ipa then .pa (e.leaf * 2 ^ 16 + ipa % 2 ^ 16)
        else match s.part partno with
          | none => .invalid 1
          | some p => s.s2Walk p.s2root ipa
      | none =>
        match s.part partno with
        | none => .invalid 1
        | some p => s.s2Walk p.s2root ipa
  match r with
  | .pa a => if reservedPa a then .reserved else .pa a
  | x => x

/-! ## Stage 1 (R92, R412) -/

/-- A stage-1 table entry (Table 24.8). -/
def s1Table (e : Nat) : Bool :=
  e % 2 = 1 ∧ e / 2 % 2 = 0 ∧ bitsOf e 63 44 = 0 ∧ bitsOf e 11 2 = 0

/-- A stage-1 leaf at a level (Table 24.8, R412). -/
def s1Leaf (e level : Nat) : Bool :=
  e % 2 = 1 ∧ e / 2 % 2 = 1 ∧ bitsOf e 63 59 = 0 ∧ (level = 3 ∨ (level = 2 ∧ bitsOf e 24 12 = 0))

def leafPeer (e : Nat) : Nat := bitsOf e 58 44
def leafOut (e : Nat) : Nat := bitsOf e 43 12 * 2 ^ 16
def leafClass (e : Nat) : Nat := bitsOf e 11 10
def leafMode (e : Nat) : Nat := bitsOf e 9 7
def leafC (e : Nat) : Bool := e / 2 ^ 6 % 2 = 1
def leafU (e : Nat) : Bool := e / 2 ^ 5 % 2 = 1
def leafX (e : Nat) : Bool := e / 2 ^ 4 % 2 = 1
def leafW (e : Nat) : Bool := e / 2 ^ 3 % 2 = 1
def leafR (e : Nat) : Bool := e / 2 ^ 2 % 2 = 1

/-- The offset of an address within the page that a leaf at a level maps (R91). -/
def pageOffset (va level : Nat) : Nat := if level = 2 then va % 2 ^ 29 else va % 2 ^ 16

/-- Level n of the walk from a table at an intermediate address, with the levels that remain. -/
def State.s1Walk (s : State) (die partno va : Nat) : Nat → Nat → Stage1
  | 0, _ => .fail Cause.xlate
  | left + 1, table =>
    let level := 3 - left
    let idx := if level = 1 then bitsOf va 54 42 else if level = 2 then bitsOf va 41 29 else bitsOf va 28 16
    match s.stage2 die partno (table + 8 * idx) with
    | .reserved => .fail Cause.xlate
    | .invalid l => .open 2 l (table + 8 * idx)
    | .pa a =>
      let e := s.tableEntry a
      if s1Leaf e level then .leaf ⟨e, level, partno, a⟩
      else if s1Table e ∧ left ≠ 0 then s.s1Walk die partno va left (leafOut e)
      else .open 1 level 0

/-- The entry of a space (Table 24.9): the partition and the level-1 table, when the space is valid (R413). -/
def State.spaceEntry (s : State) (space : Nat) : Option (Nat × Nat) :=
  let a := s.marten.values.spaceTable + 16 * space
  let e := s.readNat a 16
  if s.marten.values.nspaces ≤ space ∨ s.poisoned a 16 ∨ bitsOf e 127 81 ≠ 0 ∨ bitsOf e 80 80 = 0 then none
  else some (bitsOf e 79 64, bitsOf e 63 0)

/-- The state as a lookup under a space sees it that was read from the space table before: the partition and the level-1 table stand there
still (R413). -/
def State.underSpace (s : State) (space : Nat) (e : Nat × Nat) : State :=
  let a := s.marten.values.spaceTable + 16 * space
  { s with mem := Memory.setBytes s.mem a (leBytes 16 (e.2 % 2 ^ 64 + e.1 % 2 ^ 16 * 2 ^ 64 + 2 ^ 80)), poison := clearPoison s.poison a 16 }

/-- Stage 1 of a space: a held leaf, or the walk; a space that is not valid fails at once (Table 4.4 check 3, R413). -/
def State.stage1 (s : State) (die space va : Nat) : Stage1 :=
  let walk : Stage1 :=
    match s.spaceEntry space with
    | none => .fail Cause.xlate
    | some (partno, root) => s.s1Walk die partno va 3 root
  match s.tlb.find? (fun e => e.die = die ∧ e.space = space ∧ e.page = va / 2 ^ 16) with
  | some e => if Config.cacheHit s.tick va then .leaf ⟨e.leaf, e.level, e.partno, 0⟩ else walk
  | none => walk

/-! ## Cabling and routes (R461, R462, R465, R466, R484) -/

/-- The far end that the plan gives link n of package pkg in a system of ng groups: a package and a link, none for a spare slot and for
link 31. -/
def planOf (ng pkg n : Nat) : Option (Nat × Nat) :=
  let g := pkg / 32
  let p := pkg % 32
  if n < 31 then
    let q := if n < p then n else n + 1
    some (32 * g + q, if p < q then p else p - 1)
  else if n = 31 ∨ ng < 2 ∨ 96 ≤ n then none
  else
    let s := 64 * p + (n - 32)
    let m := ng - 1
    if 2 * (1024 / m) * m ≤ s then none
    else
      let h := (g + 1 + s / 2 % m) % ng
      let s' := 2 * (s / 2 / m * m + (ng + g - h - 1) % ng) + s % 2
      some (32 * h + s' / 64, 32 + s' % 64)

/-- The link of package a to package b of its group (R462). -/
def localLink (a b : Nat) : Nat := if b % 32 < a % 32 then b % 32 else b % 32 - 1

/-- Whether a link of this package may take packets. -/
def State.linkUsable (s : State) (l : Nat) : Bool :=
  match s.links[l]? with
  | some x => (x.st == .up || x.st == .degraded) && !x.disabling
  | none => false

/-- Whether an end of a link is usable as far as this package knows. -/
def State.endUsable (s : State) (e : Nat × Nat) : Bool :=
  if e.1 = s.marten.values.pkg then s.linkUsable e.2 else !s.news.contains e

/-- The far end of a link. -/
def State.farEnd (s : State) (e : Nat × Nat) : Nat × Nat := (planOf s.marten.values.ngroups e.1 e.2).getD e

/-- Whether a hop, a sending package and a link, is usable as far as this package knows. -/
def State.hopUsable (s : State) (e : Nat × Nat) : Bool := s.endUsable e && s.endUsable (s.farEnd e)

/-- One of several, equal in all that the model holds (log 32). -/
def State.pick {α : Type} (s : State) (xs : List α) : Option α := xs[Config.traffic s.tick 0 % xs.length]?

/-- The hops from package a to package b of its group: its link, or a detour over a package both of whose links are usable (R484). -/
def State.legs (s : State) (a b : Nat) : Option (List (Nat × Nat)) :=
  let one (a b : Nat) : Nat × Nat := (a, localLink a b)
  if a = b then some []
  else if s.hopUsable (one a b) then some [one a b]
  else
    let vias := ((List.range 32).map fun q => a / 32 * 32 + q).filter fun q =>
      q != a && q != b && s.hopUsable (one a q) && s.hopUsable (one q b)
    (s.pick vias).map fun q => [one a q, one q b]

/-- The global ports of package p that face group h and are usable. -/
def State.portsTo (s : State) (p h : Nat) : List (Nat × Nat) :=
  ((List.range 64).map fun k => (p, 32 + k)).filter fun e =>
    (match planOf s.marten.values.ngroups e.1 e.2 with | some f => f.1 / 32 == h | none => false) && s.hopUsable e

/-- The hops from package p to group h over one global port, the package's own before a sibling's, and the package they reach (R465). -/
def State.toGroup (s : State) (p h : Nat) : Option (List (Nat × Nat) × Nat) :=
  match s.pick (s.portsTo p h) with
  | some e => some ([e], (s.farEnd e).1)
  | none =>
    s.pick (((List.range 32).map fun q => p / 32 * 32 + q).flatMap fun q =>
      match s.legs p q with
      | some l => (s.portsTo q h).map fun e => (l ++ [e], (s.farEnd e).1)
      | none => [])

/-- A minimal route (R465). -/
def State.minimalRoute (s : State) (a b : Nat) : Option (List (Nat × Nat)) :=
  if a / 32 = b / 32 then s.legs a b
  else match s.toGroup a (b / 32) with
    | some (l, f) => (s.legs f b).map (l ++ ·)
    | none => none

/-- A route of at most two minimal parts by an intermediate group, the first that serves from a free start (R466). -/
def State.wayRound (s : State) (a b : Nat) : Option (List (Nat × Nat)) :=
  let n := s.marten.values.ngroups
  (((List.range n).map fun i => (i + Config.traffic s.tick 8) % n).filter fun x => x != a / 32 && x != b / 32).findSome? fun x =>
    match s.toGroup a x with
    | some (l, f) => (s.minimalRoute f b).map (l ++ ·)
    | none => none

/-- The route of a packet of this package: minimal, or by an intermediate group where no minimal port is usable or all are queued beyond
512 flits, which is free (R466, log 32). -/
def State.routeTo (s : State) (b : Nat) : Option (List (Nat × Nat)) :=
  let a := s.marten.values.pkg
  if a / 32 = b / 32 then s.minimalRoute a b
  else match s.minimalRoute a b with
    | some r => some (if Config.traffic s.tick 9 % 2 = 0 then r else (s.wayRound a b).getD r)
    | none => s.wayRound a b

/-- Whether a package can be reached (R350, R465, R484). -/
def State.reachable (s : State) (pkg : Nat) : Bool :=
  pkg == s.marten.values.pkg || (pkg / 32 < s.marten.values.ngroups && (s.routeTo pkg).isSome)

/-! ## Peers (R94) -/

/-- Whether a DIRECT, CACHED or MIGRATE leaf is invalid by R94. -/
def State.badPeer (s : State) (l : Leaf) : Bool :=
  let p := leafPeer l.bits
  p / 32 != s.marten.values.pkg / 32 || p == s.marten.values.pkg ||
    (match s.part l.partno with
     | some x => !(x.packages.contains p)
     | none => true)

/-- The host endpoint of a HOST leaf, when PEER bits [14:8] are zero (R401). -/
def leafEndpoint (e : Nat) : Option Nat := if bitsOf e 58 52 = 0 then some (bitsOf e 51 44) else none

/-! ## The checks of Table 4.4 -/

/-- Checks 4 to 9 of Table 4.4 on a leaf, in order: mode, R94, permissions, C, stage 2, moving (from any space, at the page's home: R96), reach. Check 6 reads C of LHBM and LTIER
leaves alone, the modes to which R98 gives a C of 0 (DESIGN CHOICE, log 54: the check's own words name no mode). -/
def State.leafChecks (s : State) (die space va acc : Nat) (needU : Bool) (l : Leaf) : Trans :=
  let e := l.bits
  let mode := leafMode e
  let out := leafOut e + pageOffset va l.level
  let moves (m : Moving) : Bool := (m.space == space && m.page == va / 2 ^ 16) || (mode ≤ 1 && m.home == some (l.partno, out / 2 ^ 16))
  if 6 ≤ mode then .fail Cause.xlate
  else if (mode = 2 ∨ mode = 3 ∨ mode = 4) ∧ s.badPeer l then .fail Cause.xlate
  else if mode = 5 ∧ leafEndpoint e = none then .fail Cause.xlate
  else if (mode = 0 ∨ mode = 1) ∧ space = 0 ∧ 1023 < leafPeer e then .fail Cause.xlate
  else if (accReads acc ∧ !leafR e) ∨ (accWrites acc ∧ !leafW e) ∨ (accFetches acc ∧ !leafX e) ∨ (needU ∧ !leafU e) then
    .fail Cause.protect
  else if (mode = 0 ∨ mode = 1) ∧ !leafC e then (if accWrites acc then .fail Cause.xlate else .zero)
  else if mode = 0 ∨ mode = 1 then
    match s.stage2 die l.partno out with
    | .reserved => .fail Cause.xlate
    | .invalid n => .open 2 n out
    | .pa a => if s.moving.any moves then .open 4 0 out else .to (.here a) mode
  else if s.moving.any moves then .open 4 0 out
  else if mode = 5 then
    match leafEndpoint e with
    | none => .fail Cause.xlate
    | some n =>
      if s.endpoints.any (fun p => p.1 = n ∧ p.2.valid ∧ p.2.up) then .to (.host n out) mode else .fail Cause.linkFailed
  else if s.reachable (leafPeer e) then .to (.peer (leafPeer e) out) mode else .fail Cause.linkFailed

/-- The translation of one access of core c under a space (Table 4.4): path is the code of Table 1.4, acc the access kind,
super whether U is not needed. SCL and CPY reach every window of the quad; the other engine paths do not come here for a
scratchpad (R83). -/
def State.translate (s : State) (c space : Nat) (super : Bool) (path acc va : Nat) : Trans :=
  if inPaged va then
    match s.stage1 (dieOf c) space va with
    | .fail x => .fail x
    | .open k l i => .open k l i
    | .leaf l => s.leafChecks (dieOf c) space va acc (!super) l
  else if inOwn va then
    if accFetches acc ∨ isService c ∨ path = 7 then .fail Cause.xlate else .to (.here (spBase c + (va - ownBase))) 8
  else if inMember va then
    if accFetches acc ∨ isService c ∨ path = 7 then .fail Cause.xlate
    else
      let w := c / 4 * 4 + bitsOf va 22 21
      if w = c ∨ s.samePart c w then .to (.here (spBase w + bitsOf va 20 0)) 8 else .fail Cause.protect
  else if inSvc va ∧ isService c ∧ super ∧ path = 0 ∧ !accFetches acc then
    if accWrites acc then .fail Cause.protect else .to (.here (spBase ((va - svcBase) / 2 ^ 21) + (va - svcBase) % 2 ^ 21)) 8
  else .fail Cause.xlate

/-- The translation of an access of the strand that moves (SCL path, or a fetch). -/
def State.myTranslate (s : State) (acc va : Nat) : Trans :=
  s.translate s.myCore s.me.sys.spaceid.toNat s.me.sys.super 0 acc va

/-- A Nat key for any place, so that caches can hold lines of every kind of page: this package's memory below 2^44, peers and
hosts above. -/
def destKey : Dest → Nat
  | .here k => k
  | .peer p i => 2 ^ 64 + p * 2 ^ 48 + i
  | .host e a => 2 ^ 80 + e * 2 ^ 64 + a

/-- Whether a place lies in a frozen scratchpad (R80). -/
def State.frozenAt (s : State) : Dest → Bool
  | .here k => isScratch k && (s.core (scratchCore k)).frozen
  | _ => false

/-- Whether n bytes at a place touch a live transaction barrier (R188). -/
def State.tagAt (s : State) (d : Dest) (n : Nat) : Bool :=
  match d with
  | .here k => isScratch k && s.tagged k n
  | _ => false

end Sys2Proof.Machine
end

