-- ==== Sys2Proof/Machine/Access.lean ====
section
/-!
DEFINITION. SCL accesses: loads, stores and atomics of a strand, their checks, buffering, requests to other packages and to
hosts, open faults, and the conditions of fences (R106 to R128, R184 to R194).
-/
namespace Sys2Proof.Machine

/-! ## The operations of Table 9.2 -/

/-- The value that an atomic of n bits stores (none where it performs no write) and the flags it raises (R192, R193). -/
def atomicNew (code n old x e : Nat) : Option Nat × Flags :=
  let so := sextInt old n
  let sx := sextInt x n
  match code with
  | 0 => (some ((old + x) % 2 ^ n), 0)
  | 1 => (some (old &&& x), 0)
  | 2 => (some (old ||| x), 0)
  | 3 => (some (old ^^^ x), 0)
  | 4 => (some x, 0)
  | 5 => (if old = e then some x else none, 0)
  | 6 => (some (if sx < so then x else old), 0)
  | 7 => (some (if sx > so then x else old), 0)
  | 8 => (some (if x < old then x else old), 0)
  | 9 => (some (if x > old then x else old), 0)
  | 10 => let r := faddF32 old x; (some r.1, r.2)
  | 11 => (some (fminF32 old x), snanFlag [decodeTy Ty.f32 old, decodeTy Ty.f32 x])
  | 12 => (some (fmaxF32 old x), snanFlag [decodeTy Ty.f32 old, decodeTy Ty.f32 x])
  | 13 => (some (if old ≥ x then 0 else old + 1), 0)
  | _ => (if old + x ≤ e then some (old + x) else none, 0)

/-! ## Values and bytes -/

/-- A value of size bytes as a load delivers it: sign- or zero-extended (Table 8.9). -/
def extendLoad (size : Nat) (signed : Bool) (v : Nat) : Word :=
  if signed then wordOfInt (sextInt v (8 * size)) else BitVec.ofNat 64 (v % 2 ^ (8 * size))

/-- Whether two spans share a byte. -/
def overlaps (a n b m : Nat) : Bool := a < b + m && b < a + n

/-- Whether an entry of the buffer covers the byte at a key, or at an address while a fault holds it. -/
def Buffered.offset (x : Buffered) (k va : Nat) : Option Nat :=
  let (lo, at_) := match x.dest with | some d => (destKey d, k) | none => (x.acc.va, va)
  if lo ≤ at_ ∧ at_ < lo + x.acc.size then some (at_ - lo) else none

/-- The byte at a place as the strand's own stores in flight leave it: the latest of them that covers it, but for those issued behind a
given held load (R109). -/
def forwardByte (skip : Option Nat) : List Buffered → Nat → Nat → Byte → Byte
  | [], _, _, b => b
  | x :: xs, k, va, b =>
    let later : Bool := match skip with | some f => x.behind.contains f | none => false
    forwardByte skip xs k va
      (match x.offset k va, x.acc.op with
       | some o, .store v _ => if later then b else BitVec.ofNat 8 (v.toNat / 2 ^ (8 * o))
       | _, _ => b)

/-- The value that a load of strand k of core c binds at a location of this package: its own latest stores in flight over what the core's
readers see of the home, through its data cache or not (R108, R109, R187, R189). -/
def State.loadValue (s : State) (c k key va size : Nat) (skip : Option Nat) : Nat :=
  leNat ((List.range size).map fun i => forwardByte skip (s.strand c k).stores (key + i) (va + i) (s.seenByte (.scl c) (key + i)))

/-- The byte that a strand's own stores in flight leave at a place, when one of them covers it: the latest (R109). -/
def ownByte : List Buffered → Nat → Nat → Option Byte
  | [], _, _ => none
  | x :: xs, k, va =>
    match ownByte xs k va with
    | some b => some b
    | none => match x.offset k va, x.acc.op with
      | some o, .store v _ => some (BitVec.ofNat 8 (v.toNat / 2 ^ (8 * o)))
      | _, _ => none

/-- The bytes of a load from another package or a host that the strand's own stores in flight give, by offset (R109). -/
def Strand.ownBytes (t : Strand) (key va size : Nat) : List (Nat × Byte) :=
  (List.range size).filterMap fun i => (ownByte t.stores (key + i) (va + i)).map fun b => (i, b)

/-- The line of a location is discarded from a core's data cache, as before an atomic (R194): the cache then holds none of its bytes as they
were. -/
def State.dropLine (s : State) (c key : Nat) : State :=
  (s.modCore c fun x => { x with dcache := x.dcache.filter (· != key / 64) }).modLate fun w =>
    if w.touches (key / 64 * 64) 64 then { w with caches := w.caches.filter (· != c) } else w

/-! ## What a strand has seen (R114, R116) -/

/-- The late writes among a list of numbers. -/
def State.lateOnes (s : State) (ids : List Nat) : List Late := s.late.filter fun w => ids.contains w.id

/-- The numbers of late writes among two lists, each once; those that are late no more are forgotten. -/
def State.joinLate (s : State) (a b : List Nat) : List Nat :=
  if s.late.isEmpty then [] else (s.late.map (·.id)).filter fun i => a.contains i || b.contains i

/-- The late writes whose bytes a read of n bytes at a key by a reader returns, or returns later ones, with those ordered before them. -/
def State.readFrom (s : State) (r : Reader) (key n : Nat) : List Nat :=
  (s.late.filter fun w => w.touches key n && !w.lags r).flatMap fun w => w.id :: w.clock

/-- A strand has read n bytes at a key (R116). -/
def State.noteRead (s : State) (c k key n : Nat) : State :=
  if s.late.isEmpty then s
  else s.modStrand c k fun t => { t with read := s.joinLate t.read (s.readFrom (.scl c) key n) }

/-- The late writes among a list whose homes all lie in the instance of a scope that contains core c (R115). -/
def State.inScope (s : State) (c scope : Nat) (ids : List Nat) : List Nat :=
  ((s.lateOnes ids).filter fun w => w.cells.all fun b => homeIn c scope b.1).map (·.id)

/-! ## Order within a strand (R109) -/

/-- An access of the strand that overlaps loads which have not returned binds them: they are performed before it. -/
def bindLoads (p : List Pend) (key n : Nat) : List Pend :=
  p.map fun x => match x.kind with
    | .load a d true => if overlaps (destKey d) a.size key n then { x with kind := .load a d false } else x
    | _ => x

/-- Whether an entry of the buffer is held by an open fault, or waits behind one. -/
def Buffered.held (b : Buffered) : Bool := b.dest.isNone

/-- Whether an entry of the buffer touches n bytes at a key, or at an address while a fault holds it. -/
def Buffered.touches (b : Buffered) (key va n : Nat) : Bool :=
  match b.dest with
  | some d => overlaps (destKey d) b.acc.size key n
  | none => overlaps b.acc.va b.acc.size va n

/-- The open faults that hold loads of a strand. -/
def Strand.heldLoads (t : Strand) : List Nat := t.pend.filterMap fun p => match p.kind with | .fault f _ => some f | _ => none

/-- Whether an entry of the buffer was issued behind a load that is still held and touches its bytes (R109). -/
def Strand.behindLoad (t : Strand) (b : Buffered) : Bool :=
  t.pend.any fun p => match p.kind with
    | .fault f a => b.behind.contains f && overlaps a.va a.size b.acc.va b.acc.size
    | _ => false

/-- Whether an entry is an atomic. -/
def Buffered.isAtomic (b : Buffered) : Bool := match b.acc.op with | .atomic .. => true | _ => false

/-! ## Requests (R470) -/

/-- The next request number of a core towards a package, and the state that has used it. -/
def State.nextSeq16 (s : State) (c pkg : Nat) : BitVec 16 × State :=
  let q := match s.reqSeqs.find? (fun x => x.1 = c ∧ x.2.1 = pkg) with
    | some x => x.2.2
    | none => 0
  (q, { s with reqSeqs := (c, pkg, q + 1) :: s.reqSeqs.filter (fun x => ¬ (x.1 = c ∧ x.2.1 = pkg)) })

/-- A request of a core to a peer package or a host endpoint awaits its response. -/
def State.awaitReq (s : State) (c k : Nat) (kind : ReqKind) (d : Dest) (a : Acc) (cached : Bool) (user : ReqUser) (own : List (Nat × Byte)) :
    State × Req :=
  let pkg := match d with | .peer p _ => p | .host e _ => 2 ^ 16 + e | .here _ => 0
  let (q, s) := s.nextSeq16 c pkg
  let r : Req := ⟨s.nextReq, c, k, kind, d, a, q, 0, s.now, cached, user, own⟩
  ({ s with reqs := s.reqs ++ [r], nextReq := s.nextReq + 1 }, r)

/-- The message that carries a request. -/
def Req.message (r : Req) : OutMsg := match r.dest with | .host e _ => .rdma e r | _ => .request r

/-- Sending a request of a strand to a peer package or a host endpoint: it awaits its response. -/
def State.sendReq (s : State) (c k : Nat) (kind : ReqKind) (d : Dest) (a : Acc) (cached : Bool) (own : List (Nat × Byte)) : State :=
  let (s, r) := s.awaitReq c k kind d a cached .strand own
  { s with outbox := s.outbox ++ [r.message] }

/-- An access of a unit that is no strand, for the request that carries it. -/
def unitAcc (va size : Nat) : Acc := ⟨0, va, size, .load 0 false⟩

/-- A write of a die to a place of another package discards the line from the die's caches, and a load of the line that is under way brings
none in (R95, R109). -/
def State.dropRemoteLine (s : State) (die key n : Nat) : State :=
  let inLine (k m : Nat) : Bool := k / 64 ≤ (key + n - 1) / 64 && key / 64 ≤ (k + m - 1) / 64
  { s with rline := s.rline.filter (fun w => !(w.die == die && inLine w.key w.size)),
           reqs := s.reqs.map fun r => if dieOf r.core == die && inLine (destKey r.dest) r.acc.size then { r with cached := false } else r }

/-- Bytes that a copy, a host message or a record writes at a place of another package or a host: one request for each package or endpoint
awaits the word that they have been performed there (R97, R104, R400, R410). -/
def State.sendWrites (s : State) (c : Nat) (user : ReqUser) (own : List (Nat × Byte)) (cells : List (Dest × List Byte)) : State :=
  let unit (d : Dest) : Nat := match d with | .peer p _ => p | .host e _ => 2 ^ 16 + e | .here _ => 0
  ((cells.map fun x => unit x.1).eraseDups).foldl (fun s u =>
    let mine := cells.filter fun x => unit x.1 == u
    match mine with
    | [] => s
    | x :: _ =>
      let (s, r) := s.awaitReq c 0 .copyWrite x.1 (unitAcc 0 8) false user own
      let s := mine.foldl (fun s y => s.dropRemoteLine (dieOf c) (destKey y.1) y.2.length) s
      { s with outbox := s.outbox ++ [.copyWrite r.id (s.identity c) mine] }) s

/-- Reads by a copy or a host message of places of another package or a host: one request for each package or endpoint (R97, R104, R400). -/
def State.sendReads (s : State) (c : Nat) (user : ReqUser) (n : Nat) (own : List (Nat × Byte)) (places : List Dest) : State :=
  let unit (d : Dest) : Nat := match d with | .peer p _ => p | .host e _ => 2 ^ 16 + e | .here _ => 0
  ((places.map unit).eraseDups).foldl (fun s u =>
    match places.find? fun d => unit d == u with
    | none => s
    | some d =>
      let (s, r) := s.awaitReq c 0 .copyRead d (unitAcc 0 n) false user own
      { s with outbox := s.outbox ++ [r.message] }) s

/-- Whether requests of a unit await their responses. -/
def State.awaits (s : State) (c : Nat) (user : ReqUser) : Bool := s.reqs.any fun r => r.core == c && r.user == user

/-- The access counter of a MIGRATE leaf (R96): it stays at its greatest value, for which the spec gives no rule (DESIGN CHOICE, log 54). -/
def State.countMigrate (s : State) (space va n mode : Nat) : State :=
  if mode ≠ 4 then s else
  let page := va / 2 ^ 16
  let old := match s.migCounts.find? (fun x => x.space = space ∧ x.page = page) with | some x => x.count | none => 0
  { s with migCounts := ⟨space, page, min (old + n) (2 ^ 32 - 1)⟩ ::
      s.migCounts.filter (fun x => ¬ (x.space = space ∧ x.page = page)) }

/-! ## Open faults (R101) -/

/-- A resolvable fault or migration wait opens: it will be recorded in the fault ring of its die (R416). -/
def State.openFault (s : State) (h : Holder) (c space path acc va : Nat) (kind level ipa : Nat) : State :=
  { s with
    faults := s.faults ++ [⟨s.nextFault, dieOf c, h, va, if kind = 1 then 0 else ipa, space,
      match s.spaceEntry space with | some (p, _) => p | none => (s.core c).partno, path, accField acc, kind, level, none, 0⟩],
    nextFault := s.nextFault + 1 }

/-! ## Streams of remote stores (R124 to R127) -/

/-- The stream of a strand to a package. -/
def Strand.stream (t : Strand) (pkg : Nat) : Stream :=
  match t.streams.find? (·.pkg == pkg) with
  | some x => x
  | none => ⟨pkg, 0, 0, 0, false⟩

/-- The strand with a stream replaced. -/
def Strand.setStream (t : Strand) (x : Stream) : Strand :=
  { t with streams := x :: t.streams.filter (·.pkg != x.pkg) }

/-! ## The conditions of fences (Table 5.1, R125) -/

/-- FENCE.ACQ: every earlier load and atomic has its value. -/
def Strand.acqReady (t : Strand) : Bool := t.pend.all fun p => !p.kind.isAccess

/-- Whether an entry of the buffer keeps a release at a scope waiting: a store to another package only at GRP or SYS (R125); a trace write, whose
address is no instruction's, delays nothing (R366). -/
def Buffered.blocks (b : Buffered) (scope : Nat) : Bool :=
  if b.acc.pc.toNat % 2 = 1 then false else
  match b.dest with
  | some (.peer _ _) => !b.sent || 4 ≤ scope
  | _ => true

/-- FENCE.REL at a scope: every earlier access is performed at its home, and at GRP or SYS every stream is acknowledged. -/
def Strand.relReady (t : Strand) (scope : Nat) : Bool := t.acqReady && t.stores.all fun b => !b.blocks scope

/-- A stream whose destination has become unreachable and that a release at a scope waits on (R127): of several, the one that the strand used
last (DESIGN CHOICE, log 55). -/
def Strand.lostStream (t : Strand) (scope : Nat) : Option Stream :=
  if scope < 4 then none else t.streams.find? fun x => x.lost

/-- A release at GRP or SYS sends a flush marker on each stream with unacknowledged stores that no marker covers yet (R125). -/
def State.flushStreams (s : State) (scope : Nat) : State :=
  let open_ (x : Stream) : Bool := x.sent != x.acked && x.marked != x.sent
  if scope < 4 ∨ !s.me.streams.any open_ then s else
  ({ s with outbox := s.outbox ++ (s.me.streams.filter open_).map (fun x => .flushMarker s.myCore s.myStrand x.pkg) } : State).modMe fun t =>
    { t with streams := t.streams.map fun x => if open_ x then { x with marked := x.sent } else x }

/-- The caches of a die hold no line of a CACHED page any more, and the loads under way bring none in (R95). -/
def State.dropAway (s : State) (die : Nat) : State :=
  { s with rline := s.rline.filter (·.die != die), reqs := s.reqs.map fun r => if dieOf r.core == die then { r with cached := false } else r }

/-- An acquire at a scope: what the strand has read is ordered before its later accesses, where the homes lie in the scope's instance; its
readers see all of it (R114 to R118). At GRP or SYS it discards the held lines of CACHED pages of the die (R95). -/
def State.acquire (s : State) (scope : Nat) : State :=
  let s := if s.late.isEmpty then s else
    let got := s.inScope s.myCore scope s.me.read
    let s := s.modMe fun t => { t with after := s.joinLate t.after got }
    let ids := s.me.after
    (s.enterDies [dieOf s.myCore] fun w => ids.contains w.id).modLate fun w =>
      if ids.contains w.id then { w with caches := w.caches.filter (· != s.myCore) } else w
  if scope < 4 then s else s.dropAway (dieOf s.myCore)

/-- A release at a scope: what the strand has written and read is ordered before its later stores, where the homes lie in the scope's
instance (R112, R115, R116). -/
def State.noteRelease (s : State) (scope : Nat) : State :=
  if s.late.isEmpty then s
  else s.modMe fun t => { t with after := s.joinLate t.after (s.inScope s.myCore scope (t.wrote ++ t.read)) }

/-- The late writes that updates of an object in a phase have released (R114). -/
def State.tbReleased (s : State) (key phase : Nat) : List Nat := ((s.barSeen.find? (·.1 == key * 256 + phase)).map (·.2)).getD []

/-- An update of an object in its present phase releases late writes (R114, R123). -/
def State.tbRelease (s : State) (key : Nat) (ids : List Nat) : State :=
  if s.late.isEmpty then s
  else
    let k := key * 256 + tbPhase (s.tb key)
    { s with barSeen := (k, s.joinLate (s.tbReleased key (tbPhase (s.tb key))) ids) :: s.barSeen.filter (·.1 != k) }

/-- What others have released reaches the strand that moves, before its acquire (R114). -/
def State.meet (s : State) (ids : List Nat) : State :=
  if s.late.isEmpty then s else s.modMe fun t => { t with read := s.joinLate t.read ids }

/-- LINK_FAILED raised at a release that waits on a lost stream: the stores after the last acknowledged one have been
performed or not, which is not reported (R127, R283). -/
def State.streamFailed (s : State) (x : Stream) : State :=
  let val : Word := BitVec.ofNat 64 (x.pkg % 2 ^ 15 + x.acked.toNat * 2 ^ 32)
  let c := s.myCore
  let k := s.myStrand
  let s := s.modMe fun t =>
    { (t.setStream ⟨x.pkg, x.sent, x.sent, x.sent, false⟩) with
      stores := t.stores.filter fun b => match b.dest with | some (.peer p _) => p != x.pkg | _ => true }
  s.trapAt c k Cause.linkFailed 0 false true val s.me.pc

/-- A release at a scope before the effect `go`: it waits with REASON 3 until its condition holds, and a lost stream raises
LINK_FAILED (R112, R125, R127). -/
def State.release (s : State) (scope : Nat) (go : State → Out) : Out :=
  match s.me.lostStream scope with
  | some x => .next (s.streamFailed x)
  | none => if s.me.relReady scope then go (s.noteRelease scope) else .next ((s.flushStreams scope).waitFor 3 0)

/-! ## Performing an atomic at its home -/

/-- The flags that an SCL atomic raises in a strand at once (R135). -/
def State.raiseFlags (s : State) (c k : Nat) (f : Flags) : State :=
  s.modStrand c k fun t => { t with sys := { t.sys with fflags := t.sys.fflags ||| f } }

/-- A store or atomic of a strand is performed at a key of this package: the strand has written it (R108, R116). -/
def State.strandWrites (s : State) (c k key : Nat) (clock : List Nat) (bs : List Byte) : State :=
  let n := s.nextLate
  let s := s.lateBytes (.scl c) (dieOf c) clock key bs
  if s.nextLate = n then s else s.modStrand c k fun t => { t with wrote := s.joinLate t.wrote [n] }

/-- An atomic of n bytes performed at a key of this package, on the value last in home order: the old value and the state (R119, R192,
R194). -/
def State.atomicAt (s : State) (c k key size code : Nat) (x e : Word) (clock : List Nat) : Nat × State :=
  let s := (s.dropLine c key).settleFor (.scl c) (dieOf c) key size
  let n := 8 * size
  let old := s.readNat key size
  let s := s.noteRead c k key size
  let (new, f) := atomicNew code n old (x.toNat % 2 ^ n) (e.toNat % 2 ^ n)
  let s := match new with
    | some v => s.strandWrites c k key clock (leBytes size v)
    | none => s
  (old, s.raiseFlags c k f)

/-! ## Issue of an access (R186, R191) -/

/-- The access kind of Table 25.2. -/
def Acc.kind (a : Acc) : Nat :=
  match a.op with
  | .load _ _ => accRead
  | .store _ _ => accWrite
  | .atomic _ _ _ _ _ _ => accAtomic

/-- An atomic has been issued: a relaxed one has completed, and an acquire-release one waits for its value as FENCE.ACQ does (R113). -/
def State.finishAtomic (s : State) (a : Acc) : State :=
  match a.op with
  | .atomic _ _ _ _ true _ => (s.modMe fun t => { t with arrived := true }).waitFor 3 0
  | _ => s.finish 4

/-- An entry of a strand's buffer as it is issued. -/
def State.entry (s : State) (a : Acc) (d : Option Dest) (fault : Option Nat) : Buffered :=
  ⟨a, d, fault, false, 0, s.me.heldLoads, s.me.after, (s.now, s.tick)⟩

/-- An access that meets a resolvable fault or a migration wait is held, and the strand goes on issuing (R101). -/
def State.holdAccess (s : State) (a : Acc) (kind level ipa : Nat) : State :=
  let fid := s.nextFault
  let s := s.openFault (.scl s.myCore s.myStrand a) s.myCore s.me.sys.spaceid.toNat 0 a.kind a.va kind level ipa
  let b := s.entry a none (some fid)
  let s := match a.op with
    | .load r _ => s.modMe fun t => t.mark r (.fault fid a)
    | .store _ _ => s.modMe fun t => { t with stores := t.stores ++ [b] }
    | .atomic _ r _ _ _ _ => s.modMe fun t => { (t.mark r .queued) with stores := t.stores ++ [b] }
  s.finishAtomic a

/-- A load performed at a location of this package: the register receives its value and stays pending until the value has
returned (R168, R189). -/
def State.loadHere (s : State) (a : Acc) (r : Reg) (signed : Bool) (key : Nat) : State :=
  let s := s.detect key a.size
  if s.poisoned key a.size then s.trap Cause.poison (BitVec.ofNat 64 a.va)
  else
    let v := s.loadValue s.myCore s.myStrand key a.va a.size none
    let s := (s.noteRead s.myCore s.myStrand key a.size).modMe fun t => { t with pend := bindLoads t.pend key a.size }
    (s.setLater r (extendLoad a.size signed v) (.load a (.here key) true)).finish 4

/-- A load whose place is another package or a host: a held word of a CACHED page may serve it (R95), else a request goes out. -/
def State.loadAway (s : State) (a : Acc) (r : Reg) (signed : Bool) (d : Dest) (mode : Nat) : State :=
  let die := dieOf s.myCore
  let own := s.me.ownBytes (destKey d) a.va a.size
  match s.rline.find? (fun w => mode = 3 ∧ own.isEmpty ∧ w.die = die ∧ w.key = destKey d ∧ w.size = a.size ∧ Config.cacheHit s.tick w.key) with
  | some w => (s.setLater r (extendLoad a.size signed w.value.toNat) (.load a d false)).finish 4
  | none =>
    let id := s.nextReq
    let s := s.sendReq s.myCore s.myStrand (match d with | .host _ _ => .rdmaRead | _ => .load) d a (mode == 3)
      (s.me.ownBytes (destKey d) a.va a.size)
    (s.modMe fun t => t.mark r (.request id)).finish 4

/-- A store to another package joins its strand's stream and leaves at once, unless an earlier access is held (R124, R101); a stream to a
package that is not reachable is lost (R127, R128). -/
def State.sendStore (s : State) (c k : Nat) (b : Buffered) : State × Buffered :=
  match b.dest, b.acc.op with
  | some (.peer p i), .store v fl =>
    let x := (s.strand c k).stream p
    let s := s.modStrand c k fun t => t.setStream ⟨p, x.sent + 1, x.acked, x.marked, x.lost || !s.reachable p⟩
    let s := s.dropRemoteLine (dieOf c) (destKey (.peer p i)) b.acc.size
    ({ s with outbox := s.outbox ++ [.streamStore c k p i b.acc.size v (x.sent + 1) fl] },
     { b with sent := true, streamSeq := x.sent + 1 })
  | some (.host e i), .store _ _ => (s.sendReq c k .rdmaWrite (.host e i) b.acc false [], { b with sent := true })
  | _, _ => (s, b)

/-- A buffered atomic leaves for another package or a host: its register awaits the response (R97, R119). -/
def State.sendAtomic (s : State) (c k : Nat) (a : Acc) (r : Reg) (d : Dest) : State :=
  let id := s.nextReq
  let s := s.dropRemoteLine (dieOf c) (destKey d) a.size
  let s := s.sendReq c k (match d with | .host _ _ => .rdmaFadd | _ => .atomic) d a false []
  s.modStrand c k fun t => { t with pend := t.pend.map fun p => if p.reg = r ∧ p.kind = .queued then ⟨r, .request id⟩ else p }

/-- Whether an atomic of a strand that has left for another package or a host touches n bytes at a place. -/
def State.atomicAwayAt (s : State) (c k : Nat) (d : Dest) (n : Nat) : Option Req :=
  s.reqs.find? fun r => r.core == c && r.strand == k && (r.kind == .atomic || r.kind == .rdmaFadd) && overlaps (destKey r.dest) r.acc.size (destKey d) n

/-- Whether an entry must stay for an earlier access of its strand to bytes of its own: an atomic for stores that are not acknowledged, any
for an atomic that has not returned (R109, R119). -/
def State.staysBehind (s : State) (c k : Nat) (kept : List Buffered) (b : Buffered) : Bool :=
  match b.dest with
  | some d => (b.isAtomic && kept.any fun x => x.touches (destKey d) b.acc.va b.acc.size) || (s.atomicAwayAt c k d b.acc.size).isSome
  | none => true

/-- The entries of a buffer that may leave for other packages and hosts do so in order, up to the first that is held (R101, R124). -/
def State.sendFrom (s : State) (c k : Nat) : List Buffered → List Buffered → State
  | [], kept => s.modStrand c k fun t => { t with stores := kept }
  | b :: bs, kept =>
    if b.held || (s.strand c k).behindLoad b then s.modStrand c k fun t => { t with stores := kept ++ b :: bs }
    else match b.dest, b.acc.op, b.sent with
      | some (.here _), _, _ => s.sendFrom c k bs (kept ++ [b])
      | some d, .atomic _ r _ _ _ _, false =>
        if s.staysBehind c k kept b then s.modStrand c k fun t => { t with stores := kept ++ b :: bs }
        else (s.sendAtomic c k b.acc r d).sendFrom c k bs kept
      | some _, .store _ _, false =>
        if s.staysBehind c k kept b then s.modStrand c k fun t => { t with stores := kept ++ b :: bs }
        else let (s, b) := s.sendStore c k b; s.sendFrom c k bs (kept ++ [b])
      | _, _, _ => s.sendFrom c k bs (kept ++ [b])

/-- What stands in the buffer of a strand and may leave for other packages and hosts does so. -/
def State.sendReady (s : State) (c k : Nat) : State := s.sendFrom c k (s.strand c k).stores []

/-- An access enters the strand's buffer (R109). -/
def State.buffer (s : State) (a : Acc) (d : Dest) : State :=
  let b := s.entry a (some d) none
  let s := s.modMe fun t => { t with pend := bindLoads t.pend (destKey d) a.size, stores := t.stores ++ [b] }
  s.sendReady s.myCore s.myStrand

/-- A store enters the strand's buffer (R109). -/
def State.storeTo (s : State) (a : Acc) (d : Dest) : State := (s.buffer a d).finish 4

/-- Whether another strand of the core issued a store or atomic to n bytes at a key before, in the same cycle, that has not been performed: the
two enter the home's order as they were issued (R189, R194). -/
def State.issuedBefore (s : State) (c k key n : Nat) (when_ : Nat × Nat) : Bool :=
  (List.range 4).any fun j => j != k && (s.strand c j).stores.any fun b =>
    b.issued.1 == when_.1 && decide (b.issued.2 < when_.2) && (match b.dest with | some (.here x) => overlaps x b.acc.size key n | _ => false)

/-- An atomic at a location of this package: performed at issue, or after the strand's earlier accesses to its bytes and after
held ones (R109, R101). -/
def State.atomicHere (s : State) (a : Acc) (code : Nat) (r : Reg) (x e : Word) (key : Nat) : State :=
  let s := s.detect key a.size
  if s.poisoned key a.size then s.trap Cause.poison (BitVec.ofNat 64 a.va)
  else if s.me.stores.any (fun b => b.held || b.touches key a.va a.size) ∨ !s.me.heldLoads.isEmpty ∨ s.issuedBefore s.myCore s.myStrand key a.size (s.now, s.tick) then
    ((s.modMe fun t => t.mark r .queued).buffer a (.here key)).finishAtomic a
  else
    let s := s.modMe fun t => { t with pend := bindLoads t.pend key a.size }
    let (old, s) := s.atomicAt s.myCore s.myStrand key a.size code x e s.me.after
    (s.setLater r (BitVec.ofNat 64 old) (.load a (.here key) false)).finishAtomic a

/-- An atomic on another package's memory, or a fetch-add on host memory (R97, R119). -/
def State.atomicAway (s : State) (a : Acc) (r : Reg) (d : Dest) : State :=
  ((s.modMe fun t => t.mark r .queued).buffer a d).finishAtomic a

/-- An own atomic in the buffer that a load must follow: its destination register (R109). -/
def Strand.blockingAtomic (t : Strand) (key va n : Nat) (skip : Option Nat) : Option Reg :=
  t.stores.findSome? fun b =>
    let later : Bool := match skip with | some f => b.behind.contains f | none => false
    if b.touches key va n && !later then (match b.acc.op with | .atomic _ r _ _ _ _ => some r | _ => none) else none

/-- The cause of the check that an atomic fails at its place: a HOST page, a frozen scratchpad, a live barrier (R191). -/
def State.atomicRefusal (s : State) (a : Acc) (code : Nat) (ar : Bool) (d : Dest) (mode : Nat) : Option Nat :=
  if mode = 5 ∧ ¬ (code = 0 ∧ a.size = 8 ∧ !ar) then some Cause.protect
  else if s.frozenAt d then some Cause.protect
  else if s.tagAt d a.size then some Cause.barrierStore
  else none

/-- The tags of a scratchpad's words are read before the instruction that moves goes on: it waits with REASON 15 and OBJ 2 (R31, R188, R203,
Table 13.5). The wait's 2 or 10 cycles are not counted (log 51). -/
def State.readTags (s : State) : State := (s.modMe fun t => { t with tagsRead := true }).waitFor 15 2

/-- Whether an instruction has still to read tags at a place. -/
def State.needsTags (s : State) (d : Dest) : Bool := !s.me.tagsRead && (match d with | .here k => isScratch k | _ => false)

/-- The register that a load must wait for: that of an atomic of the strand to its bytes which has not been performed, here or elsewhere
(R109). -/
def State.loadWaits (s : State) (d : Dest) (va n : Nat) : Option Reg :=
  match s.me.blockingAtomic (destKey d) va n none with
  | some q => some q
  | none => match s.atomicAwayAt s.myCore s.myStrand d n with
    | some r => (s.me.pend.find? fun p => p.kind == .request r.id).map (·.reg)
    | none => none

/-- A store to the same host that a load must follow and that an open fault keeps in the buffer (R402). -/
def Strand.hostStoreHeld (t : Strand) (d : Dest) : Option Nat :=
  match d with
  | .host _ _ => if t.stores.any (fun b => !b.sent && match b.dest with | some (.host _ _) => true | _ => false) then
      (t.stores.find? (·.held)).map (·.acc.va) else none
  | _ => none

/-- An access at the place to which it translates, after the checks of R186 and R191 that follow translation. -/
def State.accessAt (s : State) (a : Acc) (d : Dest) (mode : Nat) : State :=
  let ea : Word := BitVec.ofNat 64 a.va
  let counted (s : State) : State := s.countMigrate s.me.sys.spaceid.toNat a.va 1 mode
  match a.op with
  | .load r signed =>
    match s.loadWaits d a.va a.size, s.me.hostStoreHeld d with
    | some q, _ => s.waitFor 1 q.toNat
    | none, some va => s.waitFor 9 va
    | none, none =>
      match d with
      | .here key => (counted s).loadHere a r signed key
      | _ => (counted s).loadAway a r signed d mode
  | .store _ _ =>
    if s.frozenAt d then s.trap Cause.protect ea
    else if s.needsTags d then s.readTags
    else if s.tagAt d a.size then s.trap Cause.barrierStore ea
    else (counted s).storeTo a d
  | .atomic code r x e ar _ =>
    if s.needsTags d && !s.frozenAt d then s.readTags
    else
    match s.atomicRefusal a code ar d mode with
    | some c => s.trap c ea
    | none =>
      match d with
      | .here key => (counted s).atomicHere a code r x e key
      | _ => (counted s).atomicAway a r d

/-- An SCL access of the strand that moves: alignment, translation, then the access (R186, R191, R100, R101). -/
def State.access (s : State) (a : Acc) : State :=
  let ea : Word := BitVec.ofNat 64 a.va
  if a.va % a.size ≠ 0 then s.trap Cause.misalign ea
  else match s.myTranslate a.kind a.va with
    | .fail c => s.trap c ea
    | .open k l i => s.holdAccess a k l i
    | .zero =>
      match a.op with
      | .load r _ => (s.setLater r 0 (.load a (.here (2 ^ 62)) false)).finish 4
      | _ => s.trap Cause.xlate ea
    | .to d mode => s.accessAt a d mode

/-- The effective address of format M (R184). -/
def State.ea (s : State) (a : Reg) (imm : BitVec 12) : Word := s.reg a + imm.signExtend 64

/-- A load (R185). -/
def State.load (s : State) (size : Nat) (signed : Bool) (d a : Reg) (imm : BitVec 12) : State :=
  s.access ⟨s.me.pc, (s.ea a imm).toNat, size, .load d signed⟩

/-- A store (R185). -/
def State.store (s : State) (size : Nat) (flush : Bool) (d a : Reg) (imm : BitVec 12) : State :=
  s.access ⟨s.me.pc, (s.ea a imm).toNat, size, .store (s.reg d) flush⟩

/-- Whether an atomic fails one of its checks (R191). -/
def State.refusesAtomic (s : State) (a : Acc) (code : Nat) (ar : Bool) : Bool :=
  a.va % a.size != 0 || (match s.myTranslate a.kind a.va with
    | .fail _ => true
    | .zero => true
    | .open _ _ _ => false
    | .to d mode => (s.atomicRefusal a code ar d mode).isSome)

/-- Whether an atomic reads tags before anything else. -/
def State.atomicTags (s : State) (a : Acc) : Bool :=
  match s.myTranslate a.kind a.va with
  | .to d _ => s.needsTags d
  | _ => false

/-- An atomic (R192). An acquire-release one that passes its checks first waits as FENCE.REL at its scope; once issued it waits as FENCE.ACQ
until every earlier load and atomic, itself among them, has its value, and then acquires (R113). -/
def State.atomic (s : State) (code : Nat) (d a b : Reg) (ar : Bool) (scope : BitVec 3) (wide : Bool) : Out :=
  let acc : Acc := ⟨s.me.pc, (s.reg a).toNat, if wide then 8 else 4, .atomic code d (s.reg b) (s.reg d) ar scope.toNat⟩
  if s.me.arrived then
    (if s.me.acqReady then .next ((s.acquire scope.toNat).finish 4) else .next (s.waitFor 3 0))
  else if ar && !s.atomicTags acc && !s.refusesAtomic acc code ar then s.release scope.toNat fun s => .next (s.access acc)
  else .next (s.access acc)

/-! ## Performing at the home (R109, R119, R189) -/

/-- A register stops being pending. -/
def Strand.unmark (t : Strand) (p : Pend) : Strand := { t with pend := t.pend.erase p }

/-- A refusal or a failure that the strand takes at its next instruction boundary, on the SCL path with DEFER set (R101, R282). -/
def Strand.defer (t : Strand) (cause va : Nat) : Strand := { t with deferred := t.deferred ++ [(cause, 2 ^ 15, BitVec.ofNat 64 va)] }

/-- Whether entry idx of a strand's buffer may be performed: it has a place here, no earlier access touches its bytes, and none is held by
an open fault (R101, R109). -/
def State.performable (s : State) (c k idx : Nat) : Option (Buffered × Nat) :=
  let t := s.strand c k
  match t.stores[idx]? with
  | some b => match b.dest with
    | some (.here key) =>
      if t.behindLoad b || s.issuedBefore c k key b.acc.size b.issued || (t.stores.take idx).any (fun e => e.held || e.touches key b.acc.va b.acc.size) then none else some (b, key)
    | _ => none
  | none => none

/-- The cause with which a write of n bytes at a key is refused: a scratchpad frozen, or a live barrier there, since its issue (R80, R188). -/
def State.writeRefusal (s : State) (key n : Nat) : Option Nat :=
  if s.frozenAt (.here key) then some Cause.protect
  else if s.tagAt (.here key) n then some Cause.barrierStore
  else none

/-- An entry of a strand's buffer leaves it. -/
def State.dropStore (s : State) (c k idx : Nat) : State :=
  s.modStrand c k fun t => { t with stores := t.stores.eraseIdx idx }

/-- A buffered store or atomic is performed at its location's home. -/
def State.performBuffered (s : State) (c k idx : Nat) (b : Buffered) (key : Nat) : State :=
  let a := b.acc
  let s := (s.dropStore c k idx).detect key a.size
  let fails (cause : Nat) : State :=
    s.modStrand c k fun t =>
      let t := match a.op with | .atomic _ r _ _ _ _ => t.unmark ⟨r, .queued⟩ | _ => t
      t.defer cause a.va
  match s.writeRefusal key a.size with
  | some cause => fails cause
  | none => match a.op with
    | .load _ _ => s
    | .store v _ => s.strandWrites c k key b.clock (leBytes a.size v.toNat)
    | .atomic code r x e _ _ =>
      if s.poisoned key a.size then fails Cause.poison
      else
        let (old, s) := s.atomicAt c k key a.size code x e b.clock
        s.modStrand c k fun t => ((t.unmark ⟨r, .queued⟩).setReg r (BitVec.ofNat 64 old)).mark r (.load a (.here key) false)

/-- The first entry of a strand's buffer from index i on that touches n bytes at a key and may be performed. -/
def State.firstOver (s : State) (c k key n : Nat) : Option (Nat × Buffered × Nat) :=
  (List.range (s.strand c k).stores.length).findSome? fun i =>
    match s.performable c k i with
    | some (b, x) => if overlaps x b.acc.size key n then some (i, b, x) else none
    | none => none

/-- A strand's stores and atomics in flight to n bytes at a key are performed, each as it may be. -/
def State.flushOver (c k key n : Nat) : Nat → State → State
  | 0, s => s
  | f + 1, s => match s.firstOver c k key n with
    | some (i, b, x) => State.flushOver c k key n f (s.performBuffered c k i b x)
    | none => s

/-- The stores of the strands of a quad whose tags have been read are performed at bytes of a scratchpad before these become a live object
(R188, R200). -/
def State.flushObject (s : State) (key : Nat) : State :=
  ((List.range 4).map fun i => scratchCore key / 4 * 4 + i).foldl (fun s c =>
    (List.range 4).foldl (fun s k => if (s.strand c k).stores.isEmpty then s else State.flushOver c k key 32 (s.strand c k).stores.length s) s) s

end Sys2Proof.Machine
end

