-- ==== Sys2Proof/Machine/Trace.lean ====
section
/-!
DEFINITION. Trace records and the end of waits (R365 to R372).
-/
namespace Sys2Proof.Machine

/-! ## TRCTL (Table 19.2) -/

def trEn (x : Word) : Bool := bitsOf x.toNat 0 0 = 1
def trWrap (x : Word) : Bool := bitsOf x.toNat 1 1 = 1
def trClass (x : Word) (bit : Nat) : Bool := bitsOf x.toNat bit bit = 1
def trSize (x : Word) : Nat := 2 ^ (bitsOf x.toNat 19 16 + 12)
def trWmin (x : Word) : Nat := 2 ^ bitsOf x.toNat 23 20
def trPeriod (x : Word) : Nat := if bitsOf x.toNat 15 12 = 0 then 0 else 2 ^ (bitsOf x.toNat 15 12 + 9)

/-- The 256 bits of a record (Table 19.3). CORE has 23 bits and Table 19.3 gives a core identity there: a service core's record carries its
service identity modulo 2^23, a value that names a compute core too (DESIGN CHOICE, log 56). -/
def State.recordBits (s : State) (c k kind pa pb step : Nat) (sp : Option SafePoint) : BitVec 256 :=
  let f := match sp with | some p => p.func.toNat | none => 0xFFFF
  let o := match sp with | some p => p.ord.toNat | none => 0xFFFF
  BitVec.ofNat 256 (pb % 2 ^ 64 * 2 ^ 192 + pa % 2 ^ 64 * 2 ^ 128 + step % 2 ^ 16 * 2 ^ 112 + s.now % 2 ^ 48 * 2 ^ 64 +
    f * 2 ^ 48 + o * 2 ^ 32 + s.identity c % 2 ^ 23 * 2 ^ 8 + k * 2 ^ 6 + kind)

/-- Whether strand j of a core writes into the same ring as strand k: their TRBASE and SIZE are equal (R368). -/
def Core.sameRing (x : Core) (k j : Nat) : Bool :=
  let a := (x.strand k).sys
  let b := (x.strand j).sys
  j == k || (trEn b.trctl && a.trbase == b.trbase && trSize a.trctl == trSize b.trctl)

/-- The strands that write into the ring of strand k change together (R368). -/
def State.modRing (s : State) (c k : Nat) (f : Strand → Strand) : State :=
  (((List.range 4).filter fun j => (s.core c).sameRing k j)).foldl (fun s j => s.modStrand c j f) s

/-- A ring's head after word 0 of n more records has been performed (R366). -/
def Strand.headMoves (t : Strand) (n : Nat) : Strand :=
  { t with sys := { t.sys with trhead := BitVec.ofNat 64 ((t.sys.trhead.toNat + 32 * n) % trSize t.sys.trctl) } }

/-- A word of a record written as an SCL store of the core is (R187, R368), after the late writes of a list. -/
def State.traceWord (s : State) (c key : Nat) (clock : List Nat) (v : Nat) : State :=
  s.lateBytes (.scl c) (dieOf c) clock key (leBytes 8 v)

/-- The address that a trace write has for its instruction's: none has it. -/
def tracePc (word : Nat) : Word := BitVec.ofNat 64 (2 * word + 1)

/-- The words of a record in the order in which they are written: word 0 as zero first when WRAP is 1, then words 1 to 3, then word 0
(R366). -/
def recordWords (wrap : Bool) (r : BitVec 256) : List (Nat × Nat) :=
  let w (j : Nat) : Nat × Nat := (j, r.toNat / 2 ^ (64 * j) % 2 ^ 64)
  (if wrap then [(0, 0)] else []) ++ [w 1, w 2, w 3, w 0]

/-- A record into a slot of this package: its words enter other dies' views in their order, and TRHEAD moves on (R366). -/
def State.recordHere (s : State) (c k key : Nat) (r : BitVec 256) : State :=
  let n := s.nextLate
  let s := (recordWords (trWrap (s.strand c k).sys.trctl) r).foldl (fun s w =>
    s.traceWord c (key + 8 * w.1) ((s.late.map (·.id)).filter (n ≤ ·)) w.2) s
  s.modRing c k fun t => t.headMoves 1

/-- A record into a slot of another package or a host: stores of the strand, which delay nothing; TRHEAD moves when word 0 has been performed
(R366, R368). -/
def State.recordAway (s : State) (c k va : Nat) (d : Dest) (r : BitVec 256) : State :=
  let at_ (o : Nat) : Dest := match d with | .peer p i => .peer p (i + o) | .host e a => .host e (a + o) | .here x => .here (x + o)
  let words := recordWords (trWrap (s.strand c k).sys.trctl) r
  let entries : List Buffered := words.mapIdx fun i w =>
    ⟨⟨tracePc (if i + 1 = words.length then 1 else 0), va + 8 * w.1, 8, .store (BitVec.ofNat 64 w.2) false⟩, some (at_ (8 * w.1)), none, false, 0, [], [],
      (s.now, s.tick)⟩
  let s := (s.modStrand c k fun t => { t with stores := t.stores ++ entries }).modRing c k fun t =>
    { t with tr := { t.tr with inFlight := t.tr.inFlight + 1 } }
  s.sendReady c k

/-- Words 0 of n records in flight of a strand have been performed at their homes (R366). -/
def State.headsDone (s : State) (c k n : Nat) : State :=
  if n = 0 then s
  else s.modRing c k fun t => { t.headMoves n with tr := { t.tr with inFlight := t.tr.inFlight - n } }

/-- The virtual address of the next slot of a strand's ring. -/
def Strand.slotVa (t : Strand) : Nat :=
  let z := trSize t.sys.trctl
  (t.sys.trbase.toNat / z * z + (t.sys.trhead.toNat + 32 * t.tr.inFlight) % z) % 2 ^ 64

/-- A record in the next slot of a ring (R366, R368). -/
def State.putRecord (s : State) (c k : Nat) (d : Dest) (r : BitVec 256) : State :=
  match d with
  | .here key => s.recordHere c k key r
  | _ => s.recordAway c k (s.strand c k).slotVa d r

/-- The translation of the next slot of a strand's ring, as a write (R367). -/
def State.slotPlace (s : State) (c k : Nat) : Trans :=
  let t := s.strand c k
  let va := t.slotVa
  if inPaged va then s.translate c t.sys.spaceid.toNat t.sys.super 0 accWrite va else .fail Cause.xlate

/-- The bytes of a strand's ring that hold records of this lap, those in flight among them. -/
def Strand.ringUsed (t : Strand) : Nat := t.sys.trhead.toNat + 32 * t.tr.inFlight

/-- A record takes the next slot at a place: the last one of a ring that does not wrap takes a GAP record of reason 3 instead (R366). -/
def State.intoSlot (s : State) (c k : Nat) (d : Dest) (r : BitVec 256) : State :=
  let t := s.strand c k
  if !trWrap t.sys.trctl && t.ringUsed + 32 ≥ trSize t.sys.trctl then
    let s := s.putRecord c k d (s.recordBits c k 6 1 3 t.tr.stepOpen.toNat t.tr.safePoint)
    s.modRing c k fun t => { t with tr := { t.tr with full := true } }
  else s.putRecord c k d r

/-- Writing one record into a ring whose slot may or may not translate: a GAP record of reason 1 comes first when earlier records were dropped
(R366, R367). -/
def State.writeRecord (s : State) (c k : Nat) (r : BitVec 256) : State :=
  let t := s.strand c k
  if !trEn t.sys.trctl || t.tr.full then s
  else
    match s.slotPlace c k with
    | .to d _ =>
      if t.tr.dropped = 0 then s.intoSlot c k d r
      else
        let s := s.modStrand c k fun t => { t with tr := { t.tr with dropped := 0 } }
        let s := s.intoSlot c k d (s.recordBits c k 6 (min t.tr.dropped (2 ^ 64 - 1)) 1 t.tr.stepOpen.toNat t.tr.safePoint)
        if (s.strand c k).tr.full then s
        else match s.slotPlace c k with
          | .to d _ => s.intoSlot c k d r
          | _ => s.modStrand c k fun t => { t with tr := { t.tr with dropped := 1 } }
    | .open 4 _ _ =>
      s.modCore c fun x =>
        if x.traceHeld.length < 64 then { x with traceHeld := x.traceHeld ++ [(k, r)] } else { x with traceLost := x.traceLost + 1 }
    | _ => s.modStrand c k fun t => { t with tr := { t.tr with dropped := t.tr.dropped + 1 } }

/-- A record of a strand's ring. -/
def State.record (s : State) (c k kind pa pb step : Nat) (sp : Option SafePoint) : State :=
  s.writeRecord c k (s.recordBits c k kind pa pb step sp)

/-- A record of a strand's own instruction: it counts to the step open on the strand and names its last safe point (R369, R372). -/
def State.strandRecord (s : State) (c k kind pa pb : Nat) : State :=
  let t := s.strand c k
  s.record c k kind pa pb t.tr.stepOpen.toNat t.tr.safePoint

/-- Payload B of a WAIT record (Table 19.4). -/
def waitPayload (a : Arriver) (edge pl : Nat) : Nat :=
  a.who % 2 ^ 23 + a.path * 2 ^ 23 + edge * 2 ^ 26 + satPl pl * 2 ^ 32

/-- A path length after its packet has crossed this package's link to another package: half the link's round trip, in cycles at
2.1 GHz (R371). -/
def State.crossPl (s : State) (pl pkg : Nat) : Nat :=
  if pkg = s.marten.values.pkg then pl
  else satPl (pl + (match (s.routeTo pkg).bind (fun r => r.head?.bind fun e => s.links[e.2]?) with | some l => l.rttNs * 21 / 20 | none => 0))

/-- Strand k of core c leaves a wait that an arriver ended: its path length takes the maximum of R370, and a WAIT record is
formed when the wait was long enough (R372). -/
def State.leaveWait (s : State) (c k : Nat) (a : Arriver) (edge : Nat) : State :=
  let t := s.strand c k
  let pl := plAfter t.sys.plen t.waited s.now a edge
  let s := s.modStrand c k fun t => { t with sys := { t.sys with plen := pl } }
  if t.waited ≠ 0 ∧ trWmin t.sys.trctl ≤ t.waited ∧ trClass t.sys.trctl 5 then
    s.strandRecord c k 3 (0xFFFFFFF0 + k + a.seq % 2 ^ 32 * 2 ^ 32) (waitPayload a edge pl)
  else s

/-- The strand that moves leaves a wait. -/
def State.leave (s : State) (a : Arriver) (edge : Nat) : State := s.leaveWait s.myCore s.myStrand a edge

/-- The record of a task goes to the ring of the strand that posted it, or to strand 0's (R366). -/
def Task.ring (t : Task) : Nat := match t.owner with | .strand k => k | .remote _ _ => 0

/-- The WAIT record of a task that became READY or was issued (R372). -/
def State.taskWait (s : State) (c : Nat) (t : Task) (a : Arriver) (edge : Nat) : State :=
  let k := t.ring
  let y := (s.strand c k).sys
  if t.waited ≠ 0 ∧ trWmin y.trctl ≤ t.waited ∧ trClass y.trctl 5 then
    s.record c k 3 (t.seq.toNat + a.seq % 2 ^ 32 * 2 ^ 32) (waitPayload a edge t.pl) t.step.toNat t.safePoint
  else s

/-- A strand as an arriver: its identity, the SCL path, its code, its path length (R371). -/
def State.strandArriver (s : State) (c k : Nat) : Arriver :=
  ⟨s.identity c, 0, 0xFFFFFFF0 + k, (s.strand c k).sys.plen, s.now⟩

/-- The strand that moves, as an arriver. -/
def State.meArriver (s : State) : Arriver := s.strandArriver s.myCore s.myStrand

end Sys2Proof.Machine
end

