-- ==== Sys2Proof/Machine/Buffers.lean ====
section
/-!
DEFINITION. The buffer table, region operands, the overlap test, tiles and their generations, and stamps (R54 to R73).
-/
namespace Sys2Proof.Machine

/-! ## Region registers (Table 3.2) -/

def rgnE (r : BitVec 192) : Bool := bitsOf r.toNat 170 170 = 1
def rgnMode (r : BitVec 192) : Nat := bitsOf r.toNat 169 168
def rgnBuf (r : BitVec 192) : Nat := bitsOf r.toNat 167 160
def rgnStep (r : BitVec 192) : BitVec 32 := BitVec.ofNat 32 (bitsOf r.toNat 159 128)
/-- Extent E[d]. -/
def rgnX (r : BitVec 192) (d : Nat) : Nat := r.toNat / 2 ^ (64 + 16 * d) % 2 ^ 16
/-- Offset O[d]. -/
def rgnO (r : BitVec 192) (d : Nat) : Nat := r.toNat / 2 ^ (16 * d) % 2 ^ 16

def rgnReads (r : BitVec 192) : Bool := rgnMode r = 1 ∨ rgnMode r = 3
def rgnWrites (r : BitVec 192) : Bool := rgnMode r = 2 ∨ rgnMode r = 3

/-! ## The buffer table -/

/-- Entry n of the buffer table, when it is defined. -/
def Core.buf (x : Core) (n : Nat) : Option Buf := (x.bufs.find? (·.1 == n)).map (·.2)

/-- The core with entry n defined. -/
def Core.setBuf (x : Core) (n : Nat) (b : Buf) : Core := { x with bufs := (n, b) :: x.bufs.filter (·.1 != n) }

/-- The core with entry n undefined. -/
def Core.dropBuf (x : Core) (n : Nat) : Core := { x with bufs := x.bufs.filter (·.1 != n) }

/-- Extent, stride and tile length of a dimension. -/
def Buf.extAt (b : Buf) (d : Nat) : Nat := b.ext.getD d 1
def Buf.strideAt (b : Buf) (d : Nat) : Nat := b.stride.getD d 0
def Buf.tileAt (b : Buf) (d : Nat) : Nat := b.tile.getD d 1

/-- Whether the buffer is renamed, and whether it takes tile entries (R56). -/
def Buf.renamed (b : Buf) : Bool := 1 ≤ b.versions
def Buf.hasTiles (b : Buf) : Bool := 1 ≤ b.versions ∨ b.policy ≠ 0

/-- Tiles along a dimension: the bands of R318 while a grid names the buffer. -/
def Buf.tilesAlong (b : Buf) (d : Nat) : Nat :=
  match b.grid with
  | some (_, _, dims) => if d < dims then 3 else 1
  | none => (b.extAt d + b.tileAt d - 1) / b.tileAt d

/-- The number of tiles. -/
def Buf.tileCount (b : Buf) : Nat := (List.range b.rank).foldl (fun n d => n * b.tilesAlong d) 1

/-- The band of an index along a spatial dimension (Table 16.2). -/
def bandOf (h ext x : Nat) : Nat := if x < h then 0 else if x < ext - h then 1 else 2

/-- The tile coordinate of an index along a dimension. -/
def Buf.tileCoord (b : Buf) (d x : Nat) : Nat :=
  match b.grid with
  | some (_, h, dims) => if d < dims then bandOf h (b.extAt d) x else 0
  | none => x / b.tileAt d

/-- The tile coordinates along a dimension that offsets o to o + e − 1 touch. -/
def Buf.tileSpan (b : Buf) (d o e : Nat) : List Nat :=
  let lo := b.tileCoord d o
  let hi := b.tileCoord d (o + e - 1)
  (List.range (hi + 1 - lo)).map (lo + ·)

/-- The byte span above the base, widened to whole bytes, of the element at offsets o + n − 1 (R55, R63): stride 0 counts in
half bytes for 4-bit elements. -/
def Buf.lastByte (b : Buf) (last : Nat → Nat) : Nat :=
  let half := last 0 * b.esize4 + b.esize4
  (half + 1) / 2 + (List.range b.rank).foldl (fun n d => if d = 0 then n else n + last d * b.strideAt d) 0

/-- The buffer's byte span. -/
def Buf.span (b : Buf) : Nat := b.lastByte fun d => b.extAt d - 1

/-- Tile entries that a core's buffers take (R56). -/
def Core.tileEntries (x : Core) : Nat := x.bufs.foldl (fun n p => n + p.2.tiles.length) 0

/-! ## Operands -/

/-- Whether an operand is empty on a buffer: an extent of 0 below the rank (R60). -/
def rgnEmpty (b : Buf) (r : BitVec 192) : Bool := (List.range b.rank).any fun d => rgnX r d == 0

/-- SpanLo and SpanHi of R63, without the slot's displacement. -/
def spanLo (b : Buf) (r : BitVec 192) : Nat :=
  b.base + rgnO r 0 * b.esize4 / 2 + (List.range b.rank).foldl (fun n d => if d = 0 then n else n + rgnO r d * b.strideAt d) 0
def spanHi (b : Buf) (r : BitVec 192) : Nat := b.base + b.lastByte fun d => rgnO r d + rgnX r d - 1

/-- Overlap of R63: base addresses are compared as they are given, so that two buffers of one alias group which reach the same bytes through
the two windows of one scratchpad do not overlap (DESIGN CHOICE, log 61). -/
def Core.overlap (x : Core) (p q : BitVec 192) : Bool :=
  match x.buf (rgnBuf p), x.buf (rgnBuf q) with
  | some b, some b' =>
    if rgnEmpty b p || rgnEmpty b' q then false
    else if rgnBuf p = rgnBuf q then
      (List.range b.rank).all fun d => rgnO p d < rgnO q d + rgnX q d && rgnO q d < rgnO p d + rgnX p d
    else if b.aliasGroup ≠ 0 ∧ b.aliasGroup = b'.aliasGroup then spanLo b p < spanHi b' q && spanLo b' q < spanHi b p
    else false
  | _, _ => false

/-- The tiles that a region covers, by linear index. -/
def Buf.tilesOf (b : Buf) (r : BitVec 192) : List Nat :=
  if rgnEmpty b r then [] else
  ((List.range b.rank).foldl (fun (acc : List Nat × Nat) d =>
    (acc.1.flatMap fun i => (b.tileSpan d (rgnO r d) (rgnX r d)).map fun t => i + t * acc.2, acc.2 * b.tilesAlong d)) ([0], 1)).1

/-- Whether a write is renamed (R65): write-only, on a renamed buffer, tile-aligned. -/
def renamedWrite (b : Buf) (r : BitVec 192) : Bool :=
  rgnMode r == 2 && b.renamed && (List.range b.rank).all fun d =>
    rgnO r d % b.tileAt d == 0 && (rgnX r d % b.tileAt d == 0 || rgnO r d + rgnX r d == b.extAt d)

/-! ## Tiles and generations (R67 to R70, Table 3.3) -/

/-- The newest generation: DEAD generations leave the list. -/
def Tile.newest (t : Tile) : Option Gen := t.gens.getLast?

/-- The generation with a number. -/
def Tile.gen (t : Tile) (n : Nat) : Option Gen := t.gens.find? (·.num == n)

/-- The tile with a generation changed. -/
def Tile.modGen (t : Tile) (n : Nat) (f : Gen → Gen) : Tile :=
  { t with gens := t.gens.map fun g => if g.num = n then f g else g }

/-- Tile i of a buffer, and the buffer with it changed. -/
def Buf.tileNo (b : Buf) (i : Nat) : Tile := b.tiles.getD i ⟨[], false, none⟩
def Buf.modTile (b : Buf) (i : Nat) (f : Tile → Tile) : Buf := { b with tiles := b.tiles.modify i f }

/-- VALID generations that are neither live nor bound to a task, and DEAD ones, leave the list (Table 3.3). -/
def Tile.prune (t : Tile) : Tile :=
  { t with gens := t.gens.filter fun g => g.st != .dead && !(g.st == .valid && !g.live && g.bound.isEmpty) }

/-- The slot for a renamed write, and whether it was free (R68): the lowest slot without a generation, else the slot whose
latest generation was posted earliest. -/
def Tile.chooseSlot (t : Tile) (versions : Nat) : Nat × Bool :=
  let latest (v : Nat) : Option Nat := ((t.gens.filter (·.slot == v)).getLast?).map (·.num)
  match (List.range versions).find? (fun v => (latest v).isNone) with
  | some v => (v, true)
  | none =>
    ((List.range versions).foldl (fun (best : Nat × Nat) v =>
      match latest v with
      | some n => if n < best.2 then (v, n) else best
      | none => best) (0, (latest 0).getD 0 + 1)).1 |> fun v => (v, false)

/-- A read of a tile by a task: it binds the newest generation (R67). -/
def Tile.bindRead (t : Tile) (seq : BitVec 32) : Tile × Option Gen :=
  match t.newest with
  | some g => (t.modGen g.num fun g => { g with bound := g.bound ++ [seq] }, some g)
  | none => (t, none)

/-- A generation that inherits its stamp takes each stamp that the generation before it in posting order takes (R71). -/
def inheritStamp (n : Nat) (stamp : BitVec 32) : Bool → List Gen → List Gen
  | _, [] => []
  | on, g :: gs =>
    if g.num = n then { g with stamp := stamp } :: inheritStamp n stamp true gs
    else if on && (g.st == .waiting || g.st == .writing) then { g with stamp := stamp } :: inheritStamp n stamp true gs
    else g :: inheritStamp n stamp false gs

/-- Setting the stamp of a generation, with the writer that set it (R71). -/
def Tile.stampGen (t : Tile) (n : Nat) (stamp : BitVec 32) (a : Arriver) : Tile :=
  { t with gens := inheritStamp n stamp false t.gens, setter := some a }

/-- A completing renamed writer's effect on a tile (Table 3.3, R71): generation n becomes VALID, and live when it was posted
after the live one; older generations then go. -/
def Tile.complete (t : Tile) (n : Nat) (stamp : Option (BitVec 32)) (a : Arriver) : Tile :=
  let t := match stamp with | some x => t.stampGen n x a | none => t
  let later := t.gens.any fun g => g.live && n < g.num
  let t := t.modGen n fun g => { g with st := .valid, live := !later }
  let gens := if later then t.gens else
    t.gens.map fun g => if g.num = n then g else
      { g with live := false, st := if g.st == .failed && g.num < n then .dead else g.st }
  ({ t with gens := gens } : Tile).prune

/-- A failing writer's effect on a tile (Table 3.3, R70): an in-place writer leaves a generation that is not VALID as it stands, to the
writer before it. -/
def Tile.fail (t : Tile) (n : Nat) (inPlace : Bool) (before : Option (BitVec 32)) : Tile :=
  match t.gen n with
  | none => t
  | some g =>
    let other := t.gens.any fun h => h.slot != g.slot && h.st == .valid
    let st : GenState :=
      if inPlace then (if g.st == .valid then .failed else g.st)
      else match g.st with
        | .waiting => .dead
        | _ => if other then .dead else .failed
    let writer := if inPlace then before else g.writer
    (t.modGen n fun g => { g with st := st, writer := writer }).prune

/-- A task leaves every generation it was bound to. -/
def Tile.unbind (t : Tile) (seq : BitVec 32) : Tile :=
  if t.gens.any (fun g => g.bound.contains seq) then
    ({ t with gens := t.gens.map fun g => { g with bound := g.bound.filter (· != seq) } } : Tile).prune
  else t

/-- A writer issues: its WAITING generation becomes WRITING and older generations of the slot become DEAD (Table 3.3). -/
def Tile.issue (t : Tile) (n : Nat) : Tile :=
  match t.gen n with
  | some g =>
    if g.st == .waiting then
      { t with gens := (t.gens.filter fun h => !(h.slot == g.slot && h.num < n)).map fun h =>
          if h.num = n then { h with st := .writing } else h }
    else t
  | none => t

/-- The slot of the generation that an operand is bound to on the tile with the lowest index it covers; slot 0 when it has none. -/
def Buf.slotOf (b : Buf) (binds : List (Nat × Nat)) (tile : Nat) : Nat :=
  if !b.renamed then 0
  else match binds.find? (·.1 == tile) with
    | some (_, n) => match (b.tileNo tile).gen n with | some g => g.slot | none => 0
    | none => 0

/-! ## Stamps (R71, R72) -/

/-- The outcome of the test of R72 on one stamp: met, the wait goes on, or the stamp is ahead. -/
inductive StampTest where
  | met | older | ahead
deriving DecidableEq, Repr

/-- d := (t − s) mod 2^32 of R72. -/
def stampTest (stamp step : BitVec 32) : StampTest :=
  let d := (stamp - step).toNat
  if d = 0 then .met else if d ≤ 2 ^ 31 then .ahead else .older

/-- Setting the stamp of a tile whose buffer is not renamed (R71, R344, R329). -/
def Tile.setStamp (t : Tile) (step : BitVec 32) (a : Arriver) : Tile :=
  { t with gens := t.gens.map fun g => { g with stamp := step }, setter := some a }

/-! ## Elements (R85, R220) -/

/-- The skew of a scratchpad offset by a layout (R85). -/
def skew (layout lin : Nat) : Nat :=
  let rot := if layout = 1 then bitsOf lin 11 9 else if layout = 2 then bitsOf lin 14 12 else 0
  lin - bitsOf lin 8 6 * 64 + (bitsOf lin 8 6 + rot) % 8 * 64

/-- The linear address of an element at a version slot, and for 4-bit elements which half of the byte (R129). -/
def Buf.linear (b : Buf) (slot : Nat) (idx : Nat → Nat) : Nat × Nat :=
  let half := idx 0 * b.esize4
  (b.base + slot * b.vstride + half / 2 +
    (List.range b.rank).foldl (fun n d => if d = 0 then n else n + idx d * b.strideAt d) 0, half % 2)

/-- The key of an element of a buffer in the own scratchpad or in the accumulator names. -/
def Buf.elemKey (b : Buf) (c slot : Nat) (idx : Nat → Nat) : Option (Nat × Nat) :=
  let (va, nib) := b.linear slot idx
  if inAccNames va then some (accBase c + (va - accNames), nib)
  else match ownKey c va with
    | some k => some (spBase (scratchCore k) + skew b.layout (k - spBase (scratchCore k)), nib)
    | none => none

/-- The bits of an element at a key as a reader sees them: half a byte, or esize4 / 2 bytes. -/
def State.readElem (s : State) (r : Reader) (esize4 : Nat) (p : Nat × Nat) : Nat :=
  if esize4 = 1 then (s.seenByte r p.1).toNat / 16 ^ p.2 % 16 else s.seenNat r p.1 (esize4 / 2)

/-- Writing an element at a key. -/
def State.writeElem (s : State) (esize4 : Nat) (p : Nat × Nat) (v : Nat) : State :=
  if esize4 = 1 then
    let old := (s.byte p.1).toNat
    s.writeNat p.1 1 (if p.2 = 0 then old / 16 * 16 + v % 16 else old % 16 + v % 16 * 16)
  else s.writeNat p.1 (esize4 / 2) v

end Sys2Proof.Machine
end

