-- ==== Sys2Proof/Machine/Operands.lean ====
section
/-!
DEFINITION. Operand forms: the registers that an instruction reads and writes (R31), immediates and shift amounts, the results
of the integer operations (R171 to R178), and how a result is written.
-/
namespace Sys2Proof.Machine

/-- A 16-bit immediate, sign-extended (R176). -/
def imm16 (x : BitVec 16) : Word := x.signExtend 64

/-- A 32-bit immediate, sign-extended (R179). -/
def imm32 (x : BitVec 32) : Word := x.signExtend 64

/-- 1 when the condition holds, else 0 (R171). -/
def flagWord (b : Bool) : Word := if b then 1 else 0

/-- A shift amount: the low 6 bits (R172). -/
def amount6 (b : Word) : Nat := b.toNat % 64

/-- A shift amount of a W member: the low 5 bits (R172). -/
def amount5 (b : Word) : Nat := b.toNat % 32

/-- A 32-bit result sign-extended (R172). -/
def wResult (x : BitVec 32) : Word := x.signExtend 64

/-- The low 32 bits. -/
def low32 (x : Word) : BitVec 32 := x.setWidth 32

/-- DIV of R174. -/
def divS (a b : Word) : Word :=
  if b = 0 then minusOne
  else if a.toInt = -(2 ^ 63 : Int) ∧ b.toInt = -1 then a
  else wordOfInt (a.toInt.tdiv b.toInt)

/-- REM of R174. -/
def remS (a b : Word) : Word :=
  if b = 0 then a
  else if a.toInt = -(2 ^ 63 : Int) ∧ b.toInt = -1 then 0
  else wordOfInt (a.toInt - a.toInt.tdiv b.toInt * b.toInt)

/-- DIVN of R174. -/
def divU (a b : Word) : Word := if b = 0 then minusOne else BitVec.ofNat 64 (a.toNat / b.toNat)

/-- REMN of R174. -/
def remU (a b : Word) : Word := if b = 0 then a else BitVec.ofNat 64 (a.toNat - a.toNat / b.toNat * b.toNat)

/-- The high 64 bits of an exact product (R171). -/
def highWord (p : Int) : Word := wordOfInt (p / 2 ^ 64)

/-- Leading zero bits below bit n (R171). -/
def clzFrom (x : Nat) : Nat → Nat
  | 0 => 0
  | i + 1 => if x / 2 ^ i % 2 = 1 then 0 else clzFrom x i + 1

/-- Trailing zero bits of the low n bits (R171). -/
def ctzFrom (x : Nat) : Nat → Nat
  | 0 => 0
  | n + 1 => if x % 2 = 1 then 0 else ctzFrom (x / 2) n + 1

/-- One bits among the low n bits (R171). -/
def popFrom (x : Nat) : Nat → Nat
  | 0 => 0
  | n + 1 => x % 2 + popFrom (x / 2) n

/-- The low n bits reversed (R171). -/
def revBits (x : Nat) : Nat → Nat
  | 0 => 0
  | n + 1 => x % 2 * 2 ^ n + revBits (x / 2) n

/-- The 8 bytes reversed (R171). -/
def bswap (x : Word) : Word := BitVec.ofNat 64 (leNat (leBytes 8 x.toNat).reverse)

/-- The carry-less product with the low n bits of y (R173). -/
def clmulFrom (x y : Nat) : Nat → Nat
  | 0 => 0
  | n + 1 => clmulFrom x y n ^^^ (if y / 2 ^ n % 2 = 1 then x * 2 ^ n else 0)

/-- Clmul of R173. -/
def clmul64 (a b : Word) : Nat := clmulFrom a.toNat b.toNat 64

/-- EXTS and EXTZ of R175. -/
def extBits (signed : Bool) (a b : Word) : Word :=
  let w := b.toNat % 128
  if w = 0 then 0
  else if 64 ≤ w then a
  else if signed then wordOfInt (sextInt a.toNat w)
  else BitVec.ofNat 64 (a.toNat % 2 ^ w)

/-- Writing a result that is ready in the next cycle (Table 8.1): the register, then the next instruction n bytes further. -/
def State.result (s : State) (d : Reg) (v : Word) (n : Nat) : State := (s.setReg d v).finish n

/-- A result of the integer adder, multiplier, divider or shifter, whose residue is checked: one mismatch is counted and the
instruction is issued again, a second is a fatal POISON trap with word 0 in EVAL (R476). -/
def State.checked (s : State) (go : State → State) : State :=
  match s.residue with
  | 0 => go s
  | 1 => go { s with residue := 0, power := { s.power with rescnt := min (s.power.rescnt + 1) (2 ^ 32 - 1) } }
  | n + 2 =>
    let s := { s with residue := n, power := { s.power with rescnt := min (s.power.rescnt + 2) (2 ^ 32 - 1) } }
    s.trap Cause.poison (BitVec.ofNat 64 (s.ir.toNat % 2 ^ 32))

/-- An adder or shifter result (R171, R476). -/
def State.arith (s : State) (d : Reg) (v : Word) (n : Nat) : State := s.checked fun s => s.result d v n

/-- A multiplier result: pending for its latency (Table 8.1). -/
def State.multiply (s : State) (d : Reg) (v : Word) : State := s.checked fun s => (s.setLater d v .latency).finish 4

/-- Whether the core's divider is busy (R168). -/
def State.dividerBusy (s : State) : Bool :=
  s.here.strands.toList.any fun t => t.pend.any fun p => p.kind == .divider

/-- A division: it waits while the core's divider is busy (R168), and its result is pending for its latency. -/
def State.divide (s : State) (d : Reg) (v : Word) : State :=
  if s.dividerBusy then s.waitFor 15 3 else s.checked fun s => (s.setLater d v .divider).finish 4

/-- A result that takes the latency of its own unit, pending until it is written (R168, R285, R290, R320). -/
def State.later (s : State) (d : Reg) (v : Word) : State := (s.setLater d v .latency).finish 4

/-- A conditional branch (R180). -/
def State.branch (s : State) (taken : Bool) (off : BitVec 16) : State :=
  if taken then s.jump (s.me.pc + imm16 off * 4) else s.finish 4

/-- A jump that writes its link register, the address of the next instruction (R181, R182, R179). -/
def State.link (s : State) (d : Reg) (n : Nat) (target : Word) : State :=
  (s.setReg d (s.me.pc + BitVec.ofNat 64 n)).jump target

/-! ## The scalar scoreboard (R31) -/

/-- The scalar registers that a control-core instruction reads and waits for (R31, R218). TK.WAIT, TK.TEST, TK.AFTER and
TB.AFTER wait for none here (R212, R483). -/
def sources : Instr → List Reg
  | .add _ a b => [a, b] | .sub _ a b => [a, b] | .and _ a b => [a, b] | .or _ a b => [a, b] | .xor _ a b => [a, b]
  | .andn _ a b => [a, b] | .sll _ a b => [a, b] | .srl _ a b => [a, b] | .sra _ a b => [a, b] | .ror _ a b => [a, b]
  | .slt _ a b => [a, b] | .sltn _ a b => [a, b] | .min _ a b => [a, b] | .max _ a b => [a, b] | .minn _ a b => [a, b]
  | .maxn _ a b => [a, b] | .mul _ a b => [a, b] | .mulh _ a b => [a, b] | .mulhn _ a b => [a, b] | .div _ a b => [a, b]
  | .divn _ a b => [a, b] | .rem _ a b => [a, b] | .remn _ a b => [a, b] | .clz _ a => [a] | .ctz _ a => [a]
  | .popc _ a => [a] | .brev _ a => [a] | .bswap _ a => [a] | .clmul _ a b => [a, b] | .clmulh _ a b => [a, b]
  | .addw _ a b => [a, b] | .subw _ a b => [a, b] | .sllw _ a b => [a, b] | .srlw _ a b => [a, b] | .sraw _ a b => [a, b]
  | .exts _ a b => [a, b] | .extz _ a b => [a, b] | .seq _ a b => [a, b] | .sne _ a b => [a, b]
  | .addi _ a _ => [a] | .andi _ a _ => [a] | .ori _ a _ => [a] | .xori _ a _ => [a] | .slti _ a _ => [a] | .sltni _ a _ => [a]
  | .slli _ a _ => [a] | .srli _ a _ => [a] | .srai _ a _ => [a] | .rori _ a _ => [a]
  | .beq a b _ => [a, b] | .bne a b _ => [a, b] | .blt a b _ => [a, b] | .bge a b _ => [a, b] | .bltn a b _ => [a, b]
  | .bgen a b _ => [a, b] | .jalr _ a _ => [a]
  | .ldI8 _ a _ => [a] | .ldI16 _ a _ => [a] | .ldI32 _ a _ => [a] | .ld64 _ a _ => [a] | .ldN8 _ a _ => [a]
  | .ldN16 _ a _ => [a] | .ldN32 _ a _ => [a]
  | .st8 d a _ => [d, a] | .st16 d a _ => [d, a] | .st32 d a _ => [d, a] | .st64 d a _ => [d, a] | .st64F d a _ => [d, a]
  | .atomAdd _ a b _ _ _ => [a, b] | .atomAnd _ a b _ _ _ => [a, b] | .atomOr _ a b _ _ _ => [a, b]
  | .atomXor _ a b _ _ _ => [a, b] | .atomXchg _ a b _ _ _ => [a, b] | .atomCas d a b _ _ _ => [d, a, b]
  | .atomMin _ a b _ _ _ => [a, b] | .atomMax _ a b _ _ _ => [a, b] | .atomMinn _ a b _ _ _ => [a, b]
  | .atomMaxn _ a b _ _ _ => [a, b] | .atomFadd _ a b _ _ => [a, b] | .atomFmin _ a b _ _ => [a, b]
  | .atomFmax _ a b _ _ => [a, b] | .atomIncw _ a b _ _ _ => [a, b] | .atomAddb d a b _ _ _ => [d, a, b]
  | .barCfg _ a _ _ => [a]
  | .tbInit _ a b _ => [a, b] | .tbExpect _ a b => [a, b] | .tbArv _ a b => [a, b] | .tbWait _ a b => [a, b]
  | .tbTest _ a => [a] | .tbInval _ a => [a] | .tbName _ a b => [a, b]
  | .bufDef _ a b => [a, b] | .bufUndef _ a => [a]
  | .rgnB _ a b => [a, b] | .rgnO _ a => [a] | .rgnE _ a => [a]
  | .mmd _ f => [f.clr] | .row _ f => [f.preg] | .vrun _ e a => [e, a]
  | .cp _ m b => [m, b] | .cpW _ m b => [m, b] | .cpG _ m b => [m, b] | .cpS _ m b => [m, b] | .cpF _ m b => [m, b]
  | .cpR _ m r => [m, r] | .taskRpost _ a b c => [a, b, c] | .taskRstat _ t => [t]
  | .lzDef _ a b => [a, b] | .lzResv _ a b => [a, b] | .lzRel _ a b => [a, b] | .lzStat _ a b => [a, b] | .lzUndef _ a => [a]
  | .gridDef _ a b => [a, b] | .gridBc _ a b => [a, b] | .gridStep _ a b => [a, b] | .gridStat _ a b => [a, b]
  | .gridUndef _ a => [a]
  | .ecall a => [a] | .trap a b => [a, b] | .sysw _ a => [a] | .spawn _ a b => [a, b] | .waitev _ a => [a]
  | .accAlloc _ a => [a] | .accFree _ a b => [a, b] | .memCommit _ a => [a] | .memDecommit _ a => [a]
  | .traceMark a b => [a, b] | .stepEnd _ a => [a]
  | .lihi _ a _ => [a] | .addl _ a _ => [a]
  | _ => []

/-- The scalar registers that a control-core instruction writes, its token register among them (R31, R211). -/
def dests : Instr → List Reg
  | .add d _ _ => [d] | .sub d _ _ => [d] | .and d _ _ => [d] | .or d _ _ => [d] | .xor d _ _ => [d] | .andn d _ _ => [d]
  | .sll d _ _ => [d] | .srl d _ _ => [d] | .sra d _ _ => [d] | .ror d _ _ => [d] | .slt d _ _ => [d] | .sltn d _ _ => [d]
  | .min d _ _ => [d] | .max d _ _ => [d] | .minn d _ _ => [d] | .maxn d _ _ => [d] | .mul d _ _ => [d] | .mulh d _ _ => [d]
  | .mulhn d _ _ => [d] | .div d _ _ => [d] | .divn d _ _ => [d] | .rem d _ _ => [d] | .remn d _ _ => [d] | .clz d _ => [d]
  | .ctz d _ => [d] | .popc d _ => [d] | .brev d _ => [d] | .bswap d _ => [d] | .clmul d _ _ => [d] | .clmulh d _ _ => [d]
  | .addw d _ _ => [d] | .subw d _ _ => [d] | .sllw d _ _ => [d] | .srlw d _ _ => [d] | .sraw d _ _ => [d] | .exts d _ _ => [d]
  | .extz d _ _ => [d] | .seq d _ _ => [d] | .sne d _ _ => [d]
  | .addi d _ _ => [d] | .andi d _ _ => [d] | .ori d _ _ => [d] | .xori d _ _ => [d] | .slti d _ _ => [d] | .sltni d _ _ => [d]
  | .slli d _ _ => [d] | .srli d _ _ => [d] | .srai d _ _ => [d] | .rori d _ _ => [d] | .lih d _ => [d] | .addpc d _ => [d]
  | .jal d _ => [d] | .jalr d _ _ => [d]
  | .ldI8 d _ _ => [d] | .ldI16 d _ _ => [d] | .ldI32 d _ _ => [d] | .ld64 d _ _ => [d] | .ldN8 d _ _ => [d]
  | .ldN16 d _ _ => [d] | .ldN32 d _ _ => [d]
  | .atomAdd d _ _ _ _ _ => [d] | .atomAnd d _ _ _ _ _ => [d] | .atomOr d _ _ _ _ _ => [d] | .atomXor d _ _ _ _ _ => [d]
  | .atomXchg d _ _ _ _ _ => [d] | .atomCas d _ _ _ _ _ => [d] | .atomMin d _ _ _ _ _ => [d] | .atomMax d _ _ _ _ _ => [d]
  | .atomMinn d _ _ _ _ _ => [d] | .atomMaxn d _ _ _ _ _ => [d] | .atomFadd d _ _ _ _ => [d] | .atomFmin d _ _ _ _ => [d]
  | .atomFmax d _ _ _ _ => [d] | .atomIncw d _ _ _ _ _ => [d] | .atomAddb d _ _ _ _ _ => [d]
  | .barWait d _ _ => [d] | .barSync d _ _ => [d] | .barCfg d _ _ _ => [d]
  | .tbInit d _ _ _ => [d] | .tbExpect d _ _ => [d] | .tbArv d _ _ => [d] | .tbWait d _ _ => [d] | .tbTest d _ => [d]
  | .tbInval d _ => [d] | .tbName d _ _ => [d] | .tkWait d _ => [d] | .tkTest d _ => [d]
  | .bufDef d _ _ => [d] | .bufUndef d _ => [d]
  | .mm h _ _ => [h.tok] | .mmd h _ => [h.tok] | .mmz h => [h.tok] | .xp h => [h.tok] | .row h _ => [h.tok]
  | .vrun h _ _ => [h.tok] | .cp h _ _ => [h.tok] | .cpW h _ _ => [h.tok] | .cpG h _ _ => [h.tok] | .cpS h _ _ => [h.tok]
  | .cpF h _ _ => [h.tok] | .cpR h _ _ => [h.tok] | .taskRpost h _ _ _ => [h.tok] | .taskRstat h _ => [h.tok]
  | .lzDef d _ _ => [d] | .lzResv d _ _ => [d] | .lzRel d _ _ => [d] | .lzStat d _ _ => [d] | .lzUndef d _ => [d]
  | .gridDef d _ _ => [d] | .gridBc d _ _ => [d] | .gridStep d _ _ => [d] | .gridStat d _ _ => [d] | .gridUndef d _ => [d]
  | .sysr d _ => [d] | .spawn d _ _ => [d] | .waitev d _ => [d] | .accAlloc d _ => [d] | .accFree d _ _ => [d]
  | .memCommit d _ => [d] | .memDecommit d _ => [d] | .stepEnd d _ => [d]
  | .li d _ => [d] | .lihi d _ _ => [d] | .addl d _ _ => [d] | .jall d _ => [d]
  | _ => []

/-- The first register for which the instruction must wait: a pending source, then a pending destination (R31). -/
def State.blockedOn (s : State) (i : Instr) : Option Reg := (sources i ++ dests i).find? fun r => s.me.pending r

end Sys2Proof.Machine
end

