-- ==== Sys2Proof/Machine/Sync.lean ====
section
/-!
DEFINITION. The meanings of atomics, fences, hierarchical barriers, transaction barriers, tokens and wait annotations
(R190 to R212, R483).
-/
namespace Sys2Proof.Machine

/-! ## Atomics (R190 to R194) -/

/-- ATOM.ADD (R192). -/
def execAtomAdd (d a b : Reg) (ar : Bool) (scope : BitVec 3) (wide : Bool) (s : State) : Out :=
  s.atomic 0 d a b ar scope wide

/-- ATOM.AND (R192). -/
def execAtomAnd (d a b : Reg) (ar : Bool) (scope : BitVec 3) (wide : Bool) (s : State) : Out :=
  s.atomic 1 d a b ar scope wide

/-- ATOM.OR (R192). -/
def execAtomOr (d a b : Reg) (ar : Bool) (scope : BitVec 3) (wide : Bool) (s : State) : Out :=
  s.atomic 2 d a b ar scope wide

/-- ATOM.XOR (R192). -/
def execAtomXor (d a b : Reg) (ar : Bool) (scope : BitVec 3) (wide : Bool) (s : State) : Out :=
  s.atomic 3 d a b ar scope wide

/-- ATOM.XCHG (R192). -/
def execAtomXchg (d a b : Reg) (ar : Bool) (scope : BitVec 3) (wide : Bool) (s : State) : Out :=
  s.atomic 4 d a b ar scope wide

/-- ATOM.CAS (R192). -/
def execAtomCas (d a b : Reg) (ar : Bool) (scope : BitVec 3) (wide : Bool) (s : State) : Out :=
  s.atomic 5 d a b ar scope wide

/-- ATOM.MIN (R192). -/
def execAtomMin (d a b : Reg) (ar : Bool) (scope : BitVec 3) (wide : Bool) (s : State) : Out :=
  s.atomic 6 d a b ar scope wide

/-- ATOM.MAX (R192). -/
def execAtomMax (d a b : Reg) (ar : Bool) (scope : BitVec 3) (wide : Bool) (s : State) : Out :=
  s.atomic 7 d a b ar scope wide

/-- ATOM.MINN (R192). -/
def execAtomMinn (d a b : Reg) (ar : Bool) (scope : BitVec 3) (wide : Bool) (s : State) : Out :=
  s.atomic 8 d a b ar scope wide

/-- ATOM.MAXN (R192). -/
def execAtomMaxn (d a b : Reg) (ar : Bool) (scope : BitVec 3) (wide : Bool) (s : State) : Out :=
  s.atomic 9 d a b ar scope wide

/-- ATOM.FADD, 32 bits (R192, R193). -/
def execAtomFadd (d a b : Reg) (ar : Bool) (scope : BitVec 3) (s : State) : Out := s.atomic 10 d a b ar scope false

/-- ATOM.FMIN, 32 bits (R192, R193). -/
def execAtomFmin (d a b : Reg) (ar : Bool) (scope : BitVec 3) (s : State) : Out := s.atomic 11 d a b ar scope false

/-- ATOM.FMAX, 32 bits (R192, R193). -/
def execAtomFmax (d a b : Reg) (ar : Bool) (scope : BitVec 3) (s : State) : Out := s.atomic 12 d a b ar scope false

/-- ATOM.INCW (R192). -/
def execAtomIncw (d a b : Reg) (ar : Bool) (scope : BitVec 3) (wide : Bool) (s : State) : Out :=
  s.atomic 13 d a b ar scope wide

/-- ATOM.ADDB (R192). -/
def execAtomAddb (d a b : Reg) (ar : Bool) (scope : BitVec 3) (wide : Bool) (s : State) : Out :=
  s.atomic 14 d a b ar scope wide

/-! ## Fences (R112, R121, R195, R196) -/

/-- A fence that waits for a condition with REASON 3, then acts. -/
def State.fenceWhen (s : State) (ready : Bool) (go : State → State) : Out :=
  if ready then .next ((go s).finish 4) else .next (s.waitFor 3 0)

/-- FENCE.ACQ: every earlier load and atomic has its value (Table 5.1). -/
def execFenceAcq (scope : BitVec 3) (s : State) : Out := s.fenceWhen s.me.acqReady fun s => s.acquire scope.toNat

/-- FENCE.REL (Table 5.1, R125). -/
def execFenceRel (scope : BitVec 3) (s : State) : Out := s.release scope.toNat fun s => .next (s.finish 4)

/-- FENCE.AR: the conditions of FENCE.ACQ and FENCE.REL (Table 5.1). An earlier store is not ordered before a later load: the strand's own
stores may still be late for other dies. -/
def execFenceAr (scope : BitVec 3) (s : State) : Out :=
  s.release scope.toNat fun s => .next ((s.acquire scope.toNat).finish 4)

/-- The instance of a scope in which a FENCE.SC has its place in the order of R117, as a number. -/
def State.scKey (s : State) (scope : Nat) : Nat := scope * 1024 + s.instOf s.myCore scope

/-- The late writes that the FENCE.SC instructions of an instance have put in order so far. -/
def State.scOrder (s : State) (key : Nat) : List Nat := ((s.scSeen.find? (·.1 == key)).map (·.2)).getD []

/-- A FENCE.SC takes its place in the order of its instance: what the strands of earlier ones had written or seen has entered the view of its
die, and what this one has is in order for later ones (R114, R117). -/
def State.scPlace (s : State) (scope : Nat) : State :=
  if s.late.isEmpty then s
  else
    let key := s.scKey scope
    let s := s.meet (s.scOrder key)
    let s := s.modMe fun t => { t with after := s.joinLate t.after (s.inScope s.myCore scope t.read) }
    { s with scSeen := (key, s.me.after) :: s.scSeen.filter (·.1 != key) }

/-- FENCE.SC: the condition of FENCE.REL, and its place in the order of R117 (Table 5.1). -/
def execFenceSc (scope : BitVec 3) (s : State) : Out :=
  s.release scope.toNat fun s => .next (((s.scPlace scope.toNat).acquire scope.toNat).finish 4)

/-- FENCE.X with p = SCL: the strand's earlier accesses have been performed at their homes; stores of a lost stream are settled, and trace
writes delay nothing (R366). -/
def Strand.crossReady (t : Strand) : Bool :=
  t.acqReady && t.stores.all fun b => b.acc.pc.toNat % 2 = 1 || match b.dest with
    | some (.peer p _) => (t.stream p).lost
    | _ => false

/-- The accesses of path p in Table 5.2 that are late writes: those of the strand, those of copies whose completion it has observed, and those
of hosts; the other engines and the halo engine write where every reader sees it at once. -/
def State.crossSet (s : State) (p : Nat) : List Nat :=
  match p with
  | 0 => s.me.wrote ++ s.me.read ++ s.me.after
  | 4 => s.me.observed
  | 7 => (s.late.filter fun w => match w.by_ with | .host _ => true | _ => false).map (·.id)
  | _ => []

/-- The dies of the instance of a scope that contains core c. -/
def diesIn (c scope : Nat) : List Nat := if scope < 3 then [dieOf c] else [0, 1, 2, 3]

/-- The lines that late writes of a list have changed leave the data cache of a core. -/
def State.dropLines (s : State) (c : Nat) (ids : List Nat) : State :=
  s.modCore c fun x => { x with dcache := x.dcache.filter fun l => !(s.lateOnes ids).any fun w => w.touches (64 * l) 64 }

/-- FENCE.X p, q completes: the first set has entered the view of every die of the instance; with q = SCL its lines leave the strand's data
cache and come before the strand's later stores, and with an engine path what the engines of the core read is no older (R121). -/
def State.cross (s : State) (scope p q : Nat) : State :=
  let c := s.myCore
  let s := if s.late.isEmpty then s else
    let ids := s.inScope c scope (s.crossSet p)
    let s := if q = 0 then s.dropLines c ids else s
    let s := s.enterDies (diesIn c scope) fun w => ids.contains w.id
    let s := if q = 0 then s.modMe fun t => { t with after := s.joinLate t.after ids } else s
    s.modLate fun w =>
      if !ids.contains w.id then w
      else if q = 0 then { w with caches := w.caches.filter (· != c) } else { w with engines := w.engines.filter (· != c) }
  if q = 0 then s.dropAway (dieOf c) else s

/-- FENCE.X p, q (R121): accesses of observed tasks, of stamps read and of host writes loaded have been performed at their homes before they
are observed. -/
def execFenceX (scope p q : BitVec 3) (s : State) : Out :=
  s.fenceWhen (p != 0 || s.me.crossReady) fun s => s.cross scope.toNat p.toNat q.toNat

/-! ## Hierarchical barriers (R42 to R46, R197 to R199) -/

/-- A barrier; one that nothing has configured expects the four strands of its core (R198). -/
def State.bar (s : State) (scope inst id : Nat) : Bar :=
  match s.bars.find? (fun b => b.scope = scope ∧ b.inst = inst ∧ b.id = id) with
  | some b => b
  | none => ⟨scope, inst, id, 4, 0, 0, none, ⟨0, 0, 0, 0, 0⟩, [], []⟩

/-- The state with a barrier replaced. -/
def State.setBar (s : State) (b : Bar) : State :=
  { s with bars := b :: s.bars.filter (fun x => ¬ (x.scope = b.scope ∧ x.inst = b.inst ∧ x.id = b.id)) }

/-- Whether the moving core's partition holds a barrier id at a scope (R26, R198). -/
def State.holdsBar (s : State) (scope id : Nat) : Bool :=
  scope == 0 || (match s.part s.here.partno with
    | some p => p.barids.toNat / 2 ^ (16 * (scope - 1) + id) % 2 == 1
    | none => false)

/-- What a strand remembers of a barrier (R199). -/
def Strand.barMemOf (t : Strand) (scope id : Nat) : Option BarMem :=
  t.barMem.find? fun m => m.scope = scope ∧ m.id = id ∧ m.arrived

/-- The strand remembering a phase of a barrier. -/
def Strand.remember (t : Strand) (scope id : Nat) (phase : BitVec 32) : Strand :=
  { t with barMem := ⟨scope, id, phase, true⟩ :: t.barMem.filter (fun m => ¬ (m.scope = scope ∧ m.id = id)) }

/-- An item of the moving strand is sent to a barrier's network; a GRP or SYS instance reaches other packages too (R42, R199). -/
def State.toBarrier (s : State) (a : Arrival) : State :=
  let out : OutMsg := match a.expect with | none => .arrival { a with src := none } | some _ => .barConfig { a with src := none }
  { s with arrivals := s.arrivals ++ [a], outbox := if 4 ≤ a.scope then s.outbox ++ [out] else s.outbox }

/-- An item for a barrier of the moving strand: an arrival, or a configuration with its expected count. -/
def State.barItem (s : State) (scope id : Nat) (expect : Option Nat) : Arrival :=
  ⟨scope, s.instOf s.myCore scope, id, s.meArriver, expect, s.me.after, some (s.myCore, s.myStrand)⟩

/-- An arrival of the moving strand is sent to its barrier's network (R42, R43, R199). -/
def State.arrive (s : State) (scope id : Nat) : State :=
  let ph := (s.bar scope (s.instOf s.myCore scope) id).phase
  (s.toBarrier (s.barItem scope id none)).modMe fun t => t.remember scope id ph

/-- Whether an item of the moving strand for a barrier has not been served yet. -/
def State.arriving (s : State) (scope id : Nat) : Bool :=
  s.arrivals.any fun a => a.scope = scope ∧ a.id = id ∧ a.expect.isNone ∧ a.src = some (s.myCore, s.myStrand)

/-- A configuration is served: pending arrivals are discarded, a release by failure ends, the phase stays (R45, R198). -/
def State.serveConfig (s : State) (a : Arrival) (expect : Nat) : State :=
  s.setBar { s.bar a.scope a.inst a.id with expect := expect, count := 0, failed := none, coming := [] }

/-- An arrival is served: on the E-th the phase advances; at a barrier released by failure it counts nothing (R42, R199). -/
def State.serveArrival (s : State) (a : Arrival) : State :=
  let b := s.bar a.scope a.inst a.id
  let s := match a.src with
    | some (c, k) => s.modStrand c k fun t => t.remember a.scope a.id b.phase
    | none => s
  let coming := s.joinLate b.coming a.seen
  if b.failed.isSome then s
  else if b.count + 1 = b.expect then
    s.setBar { b with count := 0, phase := b.phase + 1, last := { a.by_ with when_ := s.now }, seen := coming, coming := [] }
  else s.setBar { b with count := b.count + 1, coming := coming }

/-- An item is served at its barrier's network (R199). -/
def State.serveItem (s : State) (a : Arrival) : State :=
  match a.expect with
  | some e => s.serveConfig a e
  | none => s.serveArrival a

/-- Whether two items are of one strand for one barrier: the network serves these in the order in which they were sent. -/
def Arrival.follows (a b : Arrival) : Bool :=
  a.scope == b.scope && a.inst == b.inst && a.id == b.id && a.src == b.src && a.src.isSome

/-- The wait of BAR.WAIT and BAR.SYNC: the status when it is over (R43). -/
def State.barStatus (s : State) (scope id : Nat) : Option Word :=
  let b := s.bar scope (s.instOf s.myCore scope) id
  match b.failed with
  | some c => some (negCode c)
  | none =>
    match s.me.barMemOf scope id with
    | none => some 0
    | some m => if !s.arriving scope id ∧ b.phase ≠ m.phase then some 0 else none

/-- Waiting at a barrier: on its end an acquire at the scope of what the phase's arrivals have released, with the last arriver (R44, R114,
Table 19.5). -/
def State.barWaitThen (s : State) (d : Reg) (scope id : Nat) : Out :=
  match s.barStatus scope id with
  | some v =>
    let b := s.bar scope (s.instOf s.myCore scope) id
    .next ((((((s.leave b.last 7).meet b.seen).acquire scope)).setReg d v).finish 4)
  | none => .next (s.waitFor 4 (scope * 16 + id))

/-- BAR.ARV (R42, R43, R199). -/
def execBarArv (scope : BitVec 3) (id : BitVec 4) (s : State) : Out :=
  if !s.holdsBar scope.toNat id.toNat then .next (s.trap Cause.protect (Config.unstated s.tick))
  else s.release scope.toNat fun s => .next ((s.arrive scope.toNat id.toNat).finish 4)

/-- BAR.WAIT (R43). -/
def execBarWait (d : Reg) (scope : BitVec 3) (id : BitVec 4) (s : State) : Out :=
  if !s.holdsBar scope.toNat id.toNat then .next (s.trap Cause.protect (Config.unstated s.tick))
  else s.barWaitThen d scope.toNat id.toNat

/-- BAR.SYNC: the arrival, then the wait (R43). -/
def execBarSync (d : Reg) (scope : BitVec 3) (id : BitVec 4) (s : State) : Out :=
  if !s.holdsBar scope.toNat id.toNat then .next (s.trap Cause.protect (Config.unstated s.tick))
  else if s.me.arrived then s.barWaitThen d scope.toNat id.toNat
  else s.release scope.toNat fun s =>
    let s := s.arrive scope.toNat id.toNat
    (s.modMe fun t => { t with arrived := true }).barWaitThen d scope.toNat id.toNat

/-- BAR.CFG (R45, R198, R199): within the package it is served at once, after what its strand has sent to the barrier before; at GRP and SYS it
goes by the network. -/
def execBarCfg (d a : Reg) (scope : BitVec 3) (id : BitVec 4) (s : State) : Out :=
  if !s.holdsBar scope.toNat id.toNat then .next (s.trap Cause.protect (Config.unstated s.tick))
  else
    let e := (s.reg a).toNat
    if e = 0 ∨ 67108863 < e then .next (s.result d minusOne 4)
    else
      let x := s.barItem scope.toNat id.toNat (some e)
      if 4 ≤ scope.toNat then .next ((s.toBarrier x).result d 0 4)
      else
        let s := (s.arrivals.filter x.follows).foldl State.serveItem { s with arrivals := s.arrivals.filter fun y => !x.follows y }
        .next ((s.serveItem x).result d 0 4)

/-! ## Transaction barriers (R200 to R209) -/

/-- The checks of R203 on an object's address: the key of the object, or the cause. -/
def State.tbPlace (s : State) (va : Nat) (writes : Bool) : Nat ⊕ Nat :=
  if va % 32 ≠ 0 then .inr Cause.misalign
  else if !(inOwn va || inMember va) then .inr Cause.xlate
  else match s.myTranslate accRead va with
    | .to (.here k) _ => if writes ∧ s.frozenAt (.here k) then .inr Cause.protect else .inl k
    | .fail c => .inr c
    | _ => .inr Cause.xlate

/-- A TB instruction on the object at an address: a failed check traps, the tags are read, a poisoned object is consumed (R203, R475). -/
def State.onTb (s : State) (a : Reg) (writes reads : Bool) (go : Nat → State → Out) : Out :=
  let va := s.reg a
  match s.tbPlace va.toNat writes with
  | .inr c => .next (s.trap c va)
  | .inl k =>
    if s.needsTags (.here k) then .next s.readTags else
    let s := s.detect k 32
    if reads ∧ s.isLive k ∧ s.poisoned k 32 then .next (s.trap Cause.poison va) else go k s

/-- The result of an update: 0, or the negative code (Table 9.7). -/
def updateResult (c : Nat) : Word := if c = 0 then 0 else negCode c

/-- An update of the moving strand on an object (R204); a slot barrier takes none (R349). -/
def State.strandUpdate (s : State) (k : Nat) (kind : TbKind) (n : Nat) (d : Reg) : Out :=
  if s.isSlotBar k then .next (s.result d (negCode Cause.estale) 4)
  else
    let s := if kind = .arrive then s.tbRelease k s.me.after else s
    let (s, c) := s.tbUpdate k kind n (s.identity s.myCore) 0 (0xFFFFFFF0 + s.myStrand) s.me.sys.plen
    .next (s.result d (updateResult c) 4)

/-- TB.INIT: the stores whose tags have been read come before it (R188, R202, R204). -/
def execTbInit (d a b : Reg) (scope : BitVec 3) (s : State) : Out :=
  s.onTb a true false fun k s =>
    let e := (s.reg b).toNat
    if e = 0 ∨ 262143 < e ∨ s.tagged k 32 then .next (s.result d minusOne 4)
    else .next (((s.flushObject k).tbInit k e scope.toNat false).result d 0 4)

/-- TB.EXPECT (R204). -/
def execTbExpect (d a b : Reg) (s : State) : Out :=
  s.onTb a true true fun k s => s.strandUpdate k .expect (s.reg b).toNat d

/-- TB.ARV: a release at the object's SCOPE, then the update (R204, R208). -/
def execTbArv (d a b : Reg) (s : State) : Out :=
  s.onTb a true true fun k s =>
    if !s.isLive k then .next (s.result d (negCode Cause.estale) 4)
    else s.release (tbScope (s.tb k)) fun s => s.strandUpdate k .arrive (s.reg b).toNat d

/-- The arriver that completed the last phase of an object (R371). -/
def State.tbArriver (s : State) (k : Nat) : Arriver :=
  let x := s.tb k
  ⟨tbLastid x, tbLastp x, (s.barNoteAt k).2, tbPlen x, (s.barNoteAt k).1⟩

/-- A TB.WAIT against a phase completes with a code: an acquire at SCOPE of what the phase's updates have released (R114, R206). -/
def State.tbWaited (s : State) (k : Nat) (ph : BitVec 8) (d : Reg) (c : Nat) : State :=
  (((s.leave (s.tbArriver k) 4).meet (s.tbReleased k ph.toNat)).acquire (tbScope (s.tb k))).result d (updateResult c) 4

/-- TB.WAIT (R206). -/
def execTbWait (d a b : Reg) (s : State) : Out :=
  s.onTb a false true fun k s =>
    let ph : BitVec 8 := (s.reg b).setWidth 8
    match s.me.tbWait, s.tbStatusAt k ph with
    | some (_, _, some c), _ => .next (s.tbWaited k ph d c)
    | _, some c => .next (s.tbWaited k ph d c)
    | _, none => .next ((s.modMe fun t => { t with tbWait := some (k, ph, none) }).waitFor 5 (s.reg a).toNat)

/-- TB.TEST (R207). -/
def execTbTest (d a : Reg) (s : State) : Out :=
  s.onTb a false true fun k s =>
    if !s.isLive k then .next (s.result d (negCode Cause.estale) 4)
    else
      let x := s.tb k
      .next (s.result d (if tbStatus x = 1 then negCode (tbFcode x) else BitVec.ofNat 64 (tbPhase x)) 4)

/-- TB.INVAL (R204, R349). -/
def execTbInval (d a : Reg) (s : State) : Out :=
  s.onTb a true false fun k s =>
    if !s.isLive k ∨ s.isSlotBar k then .next (s.result d minusOne 4) else .next ((s.tbKill k).result d 0 4)

/-- TB.NAME (R204, R349). -/
def execTbName (d a b : Reg) (s : State) : Out :=
  s.onTb a true true fun k s =>
    let x := s.tb k
    let n := tbNamed x
    if s.isSlotBar k then .next (s.result d (negCode Cause.estale) 4)
    else if !s.isLive k ∨ 4 ≤ n ∨ 2 ^ 23 ≤ (s.reg b).toNat then .next (s.result d minusOne 4)
    else .next ((s.putTb k (putBits (tbSetName x n (s.reg b).toNat) 55 53 (n + 1))).result d 0 4)

/-! ## Tokens (R210 to R212) and wait annotations (R483) -/

/-- The task that last wrote a register as its token, as an arriver. -/
def Strand.tokenArriver (t : Strand) (r : Reg) : Option Arriver := (t.tokArriver.find? (·.1 == r)).map (·.2)

/-- TK.WAIT (R212). -/
def execTkWait (d a : Reg) (s : State) : Out :=
  if s.me.pending a then .next (s.waitFor 6 a.toNat)
  else
    let v := s.reg a
    let s := match s.me.tokenArriver a with | some x => s.leave x 3 | none => s
    .next (s.result d v 4)

/-- TK.TEST: it never waits (R212). -/
def execTkTest (d a : Reg) (s : State) : Out :=
  .next (s.result d (if s.me.pending a then 1 else s.reg a) 4)

/-- TK.AFTER (R483). -/
def execTkAfter (a : Reg) (s : State) : Out := .next ((s.modMe fun t => { t with annTok := some a }).finish 4)

/-- TB.AFTER takes its operands in its issue cycle (R483). -/
def execTbAfter (a b : Reg) (s : State) : Out :=
  .next ((s.modMe fun t => { t with annBar := some (t.reg a, (t.reg b).setWidth 8) }).finish 4)

end Sys2Proof.Machine
end

