-- ==== Sys2Proof/Machine/Window.lean ====
section
/-!
DEFINITION. The task window: retirement and failure of tasks, the checks and bindings at posting, and the posting operation
that every task form shares (R34 to R41, R54 to R73, R217 to R221, R483).
-/
namespace Sys2Proof.Machine

/-! ## Tasks in the window -/

/-- The task of a core with a post sequence. -/
def Core.task (x : Core) (q : BitVec 32) : Option Task := x.window.find? (·.seq == q)

/-- The core with a task changed. -/
def Core.modTask (x : Core) (q : BitVec 32) (f : Task → Task) : Core :=
  { x with window := x.window.map fun t => if t.seq = q then f t else t }

/-- The state with a task changed. -/
def State.modTask (s : State) (c : Nat) (q : BitVec 32) (f : Task → Task) : State := s.modCore c fun x => x.modTask q f

/-- Whether one post sequence precedes another (R35). -/
def older (a b : BitVec 32) : Bool := a != b && (b - a).toNat < 2 ^ 31

/-- The engine class of a command (Table 1.3, R243). -/
def Cmd.cls : Cmd → EngineClass
  | .mm .. => .mat
  | .mmd .. => .mat
  | .mmz => .mat
  | .xp => .xp
  | .row .. => .row
  | .vrun .. => .vec
  | .cp .. => .cpy
  | .cpW .. => .cpy
  | .cpG .. => .cpy
  | .cpS .. => .cpy
  | .cpF .. => .cpy
  | .cpR .. => .cpy
  | .rpost .. => .cpy
  | .rstat .. => .cpy

/-- The access path of a command (Table 1.4). -/
def Cmd.path (m : Cmd) : Nat :=
  match m.cls with
  | .vec => 1
  | .mat => 2
  | .xp => 3
  | .cpy => 4
  | .row => 5

/-- The tensor map address of a copy, and the barrier address where it names one (R232). -/
def Cmd.copy : Cmd → Option (Nat × Option Nat)
  | .cp m b => some (m.toNat, b.map BitVec.toNat)
  | .cpW m b => some (m.toNat, b.map BitVec.toNat)
  | .cpG m b => some (m.toNat, b.map BitVec.toNat)
  | .cpS m b => some (m.toNat, b.map BitVec.toNat)
  | .cpF m b => some (m.toNat, b.map BitVec.toNat)
  | .cpR m _ => some (m.toNat, none)
  | _ => none

/-- Whether the operands of a command take part in the scoreboard of this core (R243). -/
def Cmd.inCore : Cmd → Bool
  | .rpost .. => false
  | .rstat .. => false
  | _ => true

/-- A task as an arriver (R371). -/
def State.taskArriver (s : State) (c : Nat) (t : Task) : Arriver := ⟨s.identity c, t.cmd.path, t.seq.toNat, t.pl, s.now⟩

/-- The operands of a task that the scoreboard compares. -/
def Task.locals (t : Task) : List Operand := if t.cmd.inCore then t.ops else []

/-! ## Window entries (R36) -/

/-- Window entries that a claimant holds: strand 0–3, or 4 for intake admission. -/
def Core.heldBy (x : Core) (k : Nat) : Nat :=
  (x.window.filter fun t => match t.owner with | .strand j => j == k | .remote _ _ => k == 4).length

/-- A claimant's limit. -/
def claimLimit (k : Nat) : Nat := if k < 4 then 64 else 32

/-- Whether a post names a buffer entry whose definition is pending (R57). -/
def Core.namesDefining (x : Core) (p : RemotePost) : Bool :=
  (p.reads ++ p.writes).any fun r => x.defining.any fun d => d.1 == rgnBuf r

/-- Whether an intake has a post that may be admitted (R57, R78). -/
def Core.admissible (x : Core) (i : Intake) : Bool :=
  i.st == .open && (match i.entries with | p :: _ => !x.namesDefining p | [] => false)

/-- Whether a claimant waits for a window entry. -/
def Core.claims (x : Core) (k : Nat) : Bool :=
  if k < 4 then (x.strand k).state == .wait && (x.strand k).reason == 2
  else x.intakes.toList.any fun i => x.admissible i

/-- The grant of a freed entry to a claimant that has not taken it: the task whose retirement freed the entry. -/
def Core.grantOf (x : Core) (k : Nat) : Option Arriver := (x.granted.find? (·.1 == k)).map (·.2)

/-- Whether a claimant waits for an entry, is below its limit, and has none granted. -/
def Core.eligible (x : Core) (k : Nat) : Bool := x.claims k && x.heldBy k < claimLimit k && (x.grantOf k).isNone

/-- Whether an entry is free and granted to nobody. -/
def Core.entryFree (x : Core) : Bool := x.window.length + (x.granted.filter fun g => x.claims g.1).length < 128

/-- Whether a claimant may take an entry now: one granted to it, or a free one for which nobody else waits. -/
def Core.mayTake (x : Core) (k : Nat) : Bool :=
  ((x.grantOf k).isSome && x.window.length < 128) ||
    (x.entryFree && x.heldBy k < claimLimit k && (List.range 5).all fun j => j == k || !x.eligible j)

/-- A freed entry goes to the next waiting claimant after the one last served, where one waits and is below its limit (R36). -/
def Core.grantNext (x : Core) (a : Arriver) : Core :=
  let x := { x with granted := x.granted.filter fun g => x.claims g.1 }
  if !x.entryFree then x
  else match ((List.range 5).map fun k => (x.lastGrant + 1 + k) % 5).find? x.eligible with
    | some k => { x with granted := x.granted ++ [(k, a)], lastGrant := k }
    | none => x

/-! ## Retirement (R34, R40, R41) -/

/-- The writer to which a generation returns when its in-place writer seq fails: the youngest other task in the window that writes it. -/
def Core.lastWriter (x : Core) (seq : BitVec 32) (n i g : Nat) : Option (BitVec 32) :=
  ((x.window.filter fun u => u.seq != seq && u.locals.any fun p => rgnBuf p.rgn == n && rgnWrites p.rgn && p.binds.contains (i, g)).getLast?).map
    (·.seq)

/-- A retiring task releases one operand: its generations and stamps change as Table 3.3 and R71 say, and it is bound no longer. -/
def Core.releaseOperand (x : Core) (seq : BitVec 32) (o : Operand) (a : Arriver) (failed : Bool) : Core :=
  match x.buf (rgnBuf o.rgn) with
  | none => x
  | some b =>
    let stamp := if rgnE o.rgn && rgnWrites o.rgn then some (rgnStep o.rgn) else none
    let b :=
      if !rgnWrites o.rgn then b
      else if b.renamed then
        let inPlace := !renamedWrite b o.rgn
        o.binds.foldl (fun b p => b.modTile p.1 fun t =>
          if failed then t.fail p.2 inPlace (x.lastWriter seq (rgnBuf o.rgn) p.1 p.2)
          else if inPlace then (match stamp with | some x => t.stampGen p.2 x a | none => t)
          else t.complete p.2 stamp a) b
      else match stamp, failed with
        | some x, false => (b.tilesOf o.rgn).foldl (fun b i => b.modTile i fun t => t.setStamp x a) b
        | _, _ => b
    x.setBuf (rgnBuf o.rgn) (o.binds.foldl (fun b p => b.modTile p.1 fun t => t.unbind seq) b)

/-! ## Stamp waits (R72) -/

/-- The stamp that an operand's read meets on a tile: that of the bound generation. -/
def Buf.stampOf (b : Buf) (binds : List (Nat × Nat)) (i : Nat) : BitVec 32 :=
  let t := b.tileNo i
  let g := if b.renamed then (match binds.find? (·.1 == i) with | some p => t.gen p.2 | none => t.newest) else t.newest
  match g with | some g => g.stamp | none => 0

/-- Whether an operand expects a step (R72). -/
def expects (r : BitVec 192) : Bool := rgnE r && rgnMode r == 1

/-- The outcome of the stamp tests of an operand: a cause, or whether it is met. -/
def Buf.stampResult (b : Buf) (o : Operand) : Nat ⊕ Bool :=
  if !expects o.rgn then .inr true
  else
    let tiles := b.tilesOf o.rgn
    if tiles.any fun i => (b.tileNo i).stampFailed then .inl Cause.producerFailed
    else
      let rs := tiles.map fun i => stampTest (b.stampOf o.binds i) (rgnStep o.rgn)
      if rs.any (· == .ahead) then .inl Cause.stampAhead else .inr (rs.all (· == .met))

/-- The outcome of the stamp tests of a task. -/
def Core.stampResult (x : Core) (t : Task) : Nat ⊕ Bool :=
  t.locals.foldl (fun acc o => match acc with
    | .inl c => .inl c
    | .inr ok => match x.buf (rgnBuf o.rgn) with
      | some b => (match b.stampResult o with | .inl c => .inl c | .inr ok' => .inr (ok && ok'))
      | none => .inr ok) (.inr true)

/-- A task's stamp waits as a test leaves them: 0 when every covered tile is met, a cause, or none while they go on (R72). -/
def Core.stampTests (x : Core) (t : Task) : Option Nat :=
  match x.stampResult t with
  | .inl c => some c
  | .inr true => some 0
  | .inr false => none

/-- The test of R72 is made again on the posted tasks of a core, as it is whenever a stamp changes: the first failing test stands, and a task
that has no wait left but to enter READY is not tested again. -/
def Core.retest (x : Core) : Core :=
  let again (t : Task) : Task :=
    match t.stamped with
    | some (_ + 1) => t
    | some 0 => if t.deps.isEmpty && t.tokWait.isNone && t.barWait.isNone then t else { t with stamped := x.stampTests t }
    | none => { t with stamped := x.stampTests t }
  { x with window := x.window.map fun t => if t.state == .posted && t.locals.any (fun o => expects o.rgn) then again t else t }

/-- A task that waits on a retiring one: a region dependence or a token wait clears, or the failure reaches it (R40). -/
def Task.producerRetired (u : Task) (seq : BitVec 32) (a : Arriver) (failed : Bool) : Task :=
  let byRegion := u.deps.contains seq
  let byToken : Bool := match u.tokWait with | some (q, _) => q == seq | none => false
  if failed then
    if byRegion ∨ byToken then { u with doomed := true, arriver := (a, if byRegion then 2 else 3) } else u
  else
    let u := if byRegion then { u with deps := u.deps.filter (· != seq), arriver := (a, 2) } else u
    if byToken then { u with tokWait := none, arriver := (a, 3) } else u

/-- A grid marker learns that a task it waits for has retired (R323). -/
def Marker.retired (m : Marker) (seq : BitVec 32) (pl : Nat) (failed : Bool) : Marker :=
  if m.waits.contains seq then { m with waits := m.waits.filter (· != seq), failed := m.failed || failed, pl := pl } else m

/-- The vector context of a task ends with it: its flags, and the core with the context free (R231, R135). -/
def Core.endCtx (x : Core) (seq : BitVec 32) : BitVec 5 × Core :=
  let f := x.ctxs.toList.foldl (fun (f : BitVec 5) y => if y.task = some seq then f ||| y.flags else f) 0
  (f, { x with ctxs := x.ctxs.map fun y => if y.task = some seq then { y with task := none } else y })

/-- The status that a retired task leaves: 0, or its failure code negated. -/
def statusWord (failed : Option Nat) : Word := match failed with | none => 0 | some c => negCode c

/-- The token of a retiring task is written, with event 8 for its strand; a failed task without a token fails its launch
(R34, R211, R289, R415). -/
def State.writeToken (s : State) (c k : Nat) (t : Task) (failed : Option Nat) (a : Arriver) : State :=
  if t.tok ≠ 0 then
    s.modStrand c k fun y =>
      let y := { y with pend := y.pend.filter fun p => !(p.reg == t.tok && p.kind == PendKind.token t.seq) }
      let y := y.setReg t.tok (statusWord failed)
      { (y.setEvent 8 a) with tokArriver := (t.tok, a) :: y.tokArriver.filter (·.1 != t.tok) }
  else match failed with
    | none => s
    | some code =>
      { s with launches := s.launches.map fun l => if some l.id = t.launch then l.fail ⟨code, false, 0, 0⟩ else l }

/-- The report of a remotely posted task that retires (R244, R245). -/
def State.sendReport (s : State) (who : Nat) (tag : BitVec 16) (failed : Option Nat) : State :=
  let status : Int := match failed with | none => 0 | some c => -(c : Int)
  if tag ≠ 0 then { s with outbox := s.outbox ++ [.report who (some tag) status] }
  else if failed.isSome then { s with outbox := s.outbox ++ [.report who none status] }
  else s

/-- A task retires: complete, or failed with a cause. -/
def State.retire (s : State) (c : Nat) (t : Task) (failed : Option Nat) : State :=
  let a := s.taskArriver c t
  let bad := failed.isSome
  let (flags, x) := (s.core c).endCtx t.seq
  let x := t.locals.foldl (fun x o => x.releaseOperand t.seq o a bad) x
  let done := match t.inst with
    | some n => (t.cmd.cls, n, a) :: x.engineDone.filter (fun e => ¬ (e.1 = t.cmd.cls ∧ e.2.1 = n))
    | none => x.engineDone
  let rest := (x.window.filter (·.seq != t.seq)).map fun u => u.producerRetired t.seq a bad
  let grids := x.grids.map fun g => { g with markers := g.markers.map fun m => m.retired t.seq t.pl bad }
  let x := { x with window := rest, lastRetired := a, engineDone := done, grids := grids }
  let s := s.setCore c (x.retest.grantNext a)
  let s := s.modStrand c t.ring fun y => { y with sys := { y.sys with fflags := y.sys.fflags ||| flags } }
  match t.owner with
  | .strand k => (s.writeToken c k t failed a).modStrand c k fun y => { y with lastDone := some a }
  | .remote who tag => s.sendReport who tag failed

/-- The side of R238: the phase of the copy's barrier, or the landing slot of a CP.R, fails with the copy's cause; a barrier in a
frozen scratchpad is left as it stands (R351). -/
def State.failCopySide (s : State) (t : Task) (cause : Nat) : State :=
  match t.cmd with
  | .cpR _ res => if t.resvRead then { s with outbox := s.outbox ++ [.cprFailure res cause] } else s
  | _ => match t.bar with
    | some k => if s.isLive k ∧ tbStatus (s.tb k) = 0 ∧ !s.frozenAt (.here k) then s.tbFail k cause else s
    | none => s

/-- A task fails with a cause, and retires (R34). -/
def State.failTask (s : State) (c : Nat) (t : Task) (cause : Nat) : State := (s.failCopySide t cause).retire c t (some cause)

/-! ## Shape and mode rules (R61, R219, R220, R223 to R228) -/

/-- Whether an operand's extents are the given ones: two extents, then ones. -/
def extIs (r : BitVec 192) (e0 e1 : Nat) : Bool := rgnX r 0 == e0 && rgnX r 1 == e1 && rgnX r 2 == 1 && rgnX r 3 == 1

/-- The element size of a type, in half bytes. -/
def tySize4 (ty : Nat) : Nat := tyBits ty / 4

/-- The accumulator shape of R223 on a buffer. -/
def accShape (b : Buf) (r : BitVec 192) (n m : Nat) : Bool :=
  extIs r n m && n ≤ 128 && m ≤ 128 && b.esize4 == 8 && b.strideAt 1 == 512

/-- The operand at a position with its buffer. -/
def operandAt (x : Core) (ops : List Operand) (pos : Nat) : Option (Buf × BitVec 192) :=
  match ops.find? (·.pos == pos) with
  | some o => (x.buf (rgnBuf o.rgn)).map fun b => (b, o.rgn)
  | none => none

/-- A test of the operand at a position; an absent operand or buffer fails it. -/
def onOperand (x : Core) (ops : List Operand) (pos : Nat) (f : Buf → BitVec 192 → Bool) : Bool :=
  match operandAt x ops pos with
  | some p => f p.1 p.2
  | none => false

/-- The shape rule of MM (R223). -/
def mmShape (x : Core) (ops : List Operand) (fa fb : Nat) : Bool :=
  match operandAt x ops 0, operandAt x ops 1, operandAt x ops 4 with
  | some (a, ra), some (b, rb), some (d, rd) =>
    let k := rgnX ra 0
    let m := rgnX ra 1
    let n := rgnX rb 0
    extIs ra k m && extIs rb n k && accShape d rd n m && a.esize4 == tySize4 fa && b.esize4 == tySize4 fb
  | _, _, _ => false

/-- Whether an operand is a vector of n elements of a size (R225, R228). -/
def vectorShape (n size4 : Nat) (b : Buf) (r : BitVec 192) : Bool := extIs r n 1 && b.esize4 == size4

/-- The shape rule of MMD (R225). -/
def mmdShape (x : Core) (ops : List Operand) (f : DrainFields) : Bool :=
  match operandAt x ops 0, operandAt x ops 4 with
  | some (a, ra), some (d, rd) =>
    let n := rgnX ra 0
    let m := rgnX ra 1
    let scale (e8 : Bool) : Nat := if e8 then 2 else 8
    accShape a ra n m &&
    (!f.rs || onOperand x ops 1 (vectorShape m (scale f.rsf))) &&
    (!f.cs || onOperand x ops (1 + f.rs.toNat) (vectorShape n (scale f.csf))) &&
    (!f.bi || onOperand x ops (1 + f.rs.toNat + f.cs.toNat) (vectorShape n 8)) &&
    (if f.tgt then accShape d rd n m else extIs rd n m && d.esize4 == tySize4 f.fout.toNat)
  | _, _ => false

/-- The shape rule of XP (R227). -/
def xpShape (x : Core) (ops : List Operand) : Bool :=
  match operandAt x ops 0, operandAt x ops 4 with
  | some (a, ra), some (d, rd) =>
    let w := rgnX ra 0
    let m := rgnX ra 1
    extIs ra w m && extIs rd m w && m ≤ 128 && w ≤ 128 && (a.esize4 == 2 || a.esize4 == 4 || a.esize4 == 8) && d.esize4 == a.esize4
  | _, _ => false

/-- The shape rule of ROW (R228). -/
def rowShape (x : Core) (ops : List Operand) (f : RowFields) : Bool :=
  match operandAt x ops 0, operandAt x ops 4 with
  | some (a, ra), some (d, rd) =>
    let l := rgnX ra 0
    let h := rgnX ra 1
    extIs ra l h && l ≤ 16384 && a.esize4 == tySize4 f.fin.toNat &&
    (f.opk == 0 || onOperand x ops 1 (vectorShape l 8)) && (f.opk != 2 || onOperand x ops 2 (vectorShape l 8)) &&
    extIs rd l h && d.esize4 == tySize4 f.fout.toNat
  | _, _ => false

/-- The index operand of CP.G and CP.S: rank 1, element size 4 (R235). -/
def indexShape (x : Core) (ops : List Operand) : Bool := onOperand x ops 1 fun b _ => b.rank == 1 && b.esize4 == 8

/-- Whether every operand on a renamed buffer covers exactly one tile (R220). -/
def oneTile (x : Core) (ops : List Operand) : Bool :=
  ops.all fun o => match x.buf (rgnBuf o.rgn) with
    | some b => !b.renamed || (b.tilesOf o.rgn).length == 1
    | none => false

/-- The shape rule of a command. -/
def Cmd.shapeOk (m : Cmd) (x : Core) (ops : List Operand) : Bool :=
  match m with
  | .mm fa fb => mmShape x ops fa fb
  | .mmd f _ => mmdShape x ops f
  | .mmz => onOperand x ops 4 fun b r => accShape b r (rgnX r 0) (rgnX r 1)
  | .xp => xpShape x ops
  | .row f _ => rowShape x ops f
  | .vrun _ _ => oneTile x ops
  | .cp _ _ => oneTile x ops
  | .cpW _ _ => oneTile x ops
  | .cpG _ _ => oneTile x ops && indexShape x ops
  | .cpS _ _ => oneTile x ops && indexShape x ops
  | .cpF _ _ => oneTile x ops
  | .cpR _ _ => oneTile x ops
  | .rpost .. => true
  | .rstat _ => true

/-- The modes that a command allows in a write position (Table 10.3). -/
def Cmd.writeMode (m : Cmd) (mode : Nat) : Bool :=
  match m with
  | .mm _ _ => mode == 3
  | .mmd f _ => mode == if f.tgt then 3 else 2
  | _ => mode == 2 || mode == 3

/-- R61 for one operand: a defined buffer, an allowed mode, a box inside the extents, and a step only on a stamped buffer. -/
def operandOk (x : Core) (m : Cmd) (o : Operand) : Bool :=
  match x.buf (rgnBuf o.rgn) with
  | none => false
  | some b =>
    (if o.pos < 4 then rgnMode o.rgn == 1 else m.writeMode (rgnMode o.rgn)) &&
    (List.range 4).all (fun d =>
      if d < b.rank then rgnO o.rgn d + rgnX o.rgn d ≤ b.extAt d else rgnO o.rgn d == 0 && rgnX o.rgn d == 1) &&
    (!rgnE o.rgn || b.policy != 0)

/-- R61's last case: a write that overlaps another operand of its task, save a read under a renamed write into two versions. -/
def writesOverlap (x : Core) (ops : List Operand) : Bool :=
  ops.any fun w => rgnWrites w.rgn && ops.any fun o => o.pos != w.pos && x.overlap w.rgn o.rgn &&
    !(!rgnWrites o.rgn && (match x.buf (rgnBuf w.rgn) with | some b => renamedWrite b w.rgn && 2 ≤ b.versions | none => false))

/-- Whether the operands of a task pass R61, R219 and R220. -/
def Core.operandsOk (x : Core) (t : Task) : Bool :=
  !t.cmd.inCore || (t.ops.all (operandOk x t.cmd) && !writesOverlap x t.ops && t.cmd.shapeOk x t.ops)

/-! ## Generations and stamps at posting (R67 to R72) -/

/-- Whether a task may bind an operand: a read or an in-place write meets no FAILED newest generation (R70). -/
def generationsOk (b : Buf) (r : BitVec 192) : Bool :=
  !b.renamed || renamedWrite b r ||
    (b.tilesOf r).all fun i => match (b.tileNo i).newest with | some g => g.st != .failed | none => true

/-- The causes with which a task fails at posting, after R61: a FAILED generation or region, or a stamp that is ahead. -/
def Core.bindProblem (x : Core) (t : Task) : Option Nat :=
  if t.locals.any (fun o => match x.buf (rgnBuf o.rgn) with | some b => !generationsOk b o.rgn | none => false) then
    some Cause.producerFailed
  else match x.stampResult t with
    | .inl c => some c
    | .inr _ => none

/-! ## Dependences and bindings (R65, R67, R68) -/

/-- Whether an operand's read is narrowed to the bound generation: it stands on a renamed buffer (R67). -/
def Core.onRenamed (x : Core) (r : BitVec 192) : Bool :=
  match x.buf (rgnBuf r) with | some b => b.renamed | none => false

/-- Whether a task's operand q depends on an older task's operand p by overlap (R65). -/
def Core.dependsOn (x : Core) (q p : BitVec 192) : Bool :=
  x.overlap q p &&
    ((rgnReads q && rgnWrites p && !x.onRenamed q) ||
     (rgnWrites q && !(match x.buf (rgnBuf q) with | some b => renamedWrite b q | none => false)))

/-- The older tasks on which a new task depends by overlap. -/
def Core.overlapDeps (x : Core) (t : Task) : List (BitVec 32) :=
  (x.window.filter fun u => u.locals.any fun p => t.locals.any fun q => x.dependsOn q.rgn p.rgn).map (·.seq)

/-- The tasks of the window that write a tile of a buffer (R68). -/
def Core.writersOf (x : Core) (n i : Nat) : List (BitVec 32) :=
  (x.window.filter fun u => u.locals.any fun p => rgnBuf p.rgn == n && rgnWrites p.rgn &&
    (match x.buf n with | some b => (b.tilesOf p.rgn).contains i | none => false)).map (·.seq)

/-- A task's binding to the tile i of buffer n for an operand: the core, the generation, and the dependences. Until its writer completes, a new
generation shows the stamp of the one that was newest (DESIGN CHOICE, log 57). -/
def Core.bindTile (x : Core) (seq : BitVec 32) (n i : Nat) (r : BitVec 192) : Core × Option Nat × List (BitVec 32) :=
  match x.buf n with
  | none => (x, none, [])
  | some b =>
    let t := b.tileNo i
    if !rgnWrites r then
      let (t', g) := t.bindRead seq
      (x.setBuf n (b.modTile i fun _ => t'), g.map (·.num), match g with | some g => g.writer.toList | none => [])
    else if renamedWrite b r then
      let (v, isFree) := t.chooseSlot b.versions
      let stamp := match t.newest with | some g => g.stamp | none => 0
      let g : Gen := ⟨x.nextGen, v, if isFree then .writing else .waiting, some seq, [], stamp, false⟩
      let deps := if isFree then [] else
        ((t.gens.filter (·.slot == v)).flatMap (·.bound)) ++ x.writersOf n i
      ({ (x.setBuf n (b.modTile i fun t => { t with gens := t.gens ++ [g] })) with nextGen := x.nextGen + 1 }, some g.num, deps)
    else
      match t.newest with
      | none => (x, none, [])
      | some g =>
        let t' := t.modGen g.num fun g => { g with writer := some seq, bound := g.bound ++ [seq] }
        (x.setBuf n (b.modTile i fun _ => t'), some g.num, g.writer.toList ++ g.bound)

/-- A task's bindings for one operand: only renamed buffers keep generations. -/
def Core.bindOperand (x : Core) (seq : BitVec 32) (o : Operand) : Core × Operand × List (BitVec 32) :=
  match x.buf (rgnBuf o.rgn) with
  | none => (x, o, [])
  | some b =>
    if !b.renamed then (x, o, [])
    else (b.tilesOf o.rgn).foldl (fun (acc : Core × Operand × List (BitVec 32)) i =>
      let (x, g, deps) := acc.1.bindTile seq (rgnBuf o.rgn) i o.rgn
      (x, match g with | some g => { acc.2.1 with binds := acc.2.1.binds ++ [(i, g)] } | none => acc.2.1, acc.2.2 ++ deps)) (x, o, [])

/-- All bindings of a task: reads first, then writes (R61), and its dependences on tasks still in the window. -/
def Core.bindTask (x : Core) (t : Task) : Core × Task :=
  let ordered := (t.locals.filter fun o => !rgnWrites o.rgn) ++ t.locals.filter fun o => rgnWrites o.rgn
  let above := x.overlapDeps t
  let (x', ops, deps) := ordered.foldl (fun (acc : Core × List Operand × List (BitVec 32)) o =>
    let (x, o, d) := acc.1.bindOperand t.seq o
    (x, acc.2.1 ++ [o], acc.2.2 ++ d)) (x, [], above)
  let deps := (x.window.map (·.seq)).filter fun q => deps.contains q
  (x', { t with ops := if t.cmd.inCore then ops else t.ops, deps := deps })

/-! ## Entering the window (R35, R61, R62, R78) -/

/-- A task enters the window of a core: it fails at posting, or it is bound and stands in POSTED. early is a failure that its wait
annotations give it (R483). -/
def State.enter (s : State) (c : Nat) (t : Task) (early : Option Nat) : State :=
  let x := s.core c
  let k := match t.owner with | .strand k => k | .remote _ _ => 4
  let x := { x with nextSeq := x.nextSeq + 1, granted := x.granted.filter (·.1 != k) }
  let bad : Option Nat :=
    if !x.operandsOk t then some Cause.regionInvalid
    else match early with
      | some e => some e
      | none => x.bindProblem t
  match bad with
  | some e =>
    let t := { t with ops := t.ops.map fun o => { o with rgn := 0 } }
    (s.setCore c { x with window := x.window ++ [t] }).retire c t (some e)
  | none =>
    let (x, t) := x.bindTask t
    let t := { t with stamped := x.stampTests t }
    s.setCore c { x with window := x.window ++ [t] }

/-- The operands that a task word names (R156). -/
def Strand.operands (y : Strand) (h : TaskHead) : List Operand :=
  (List.range h.rcnt.toNat).map (fun k => (⟨k, y.rgnAt (h.rbase + BitVec.ofNat 4 k), []⟩ : Operand)) ++
  (List.range h.wcnt.toNat).map (fun k => (⟨4 + k, y.rgnAt (h.wbase + BitVec.ofNat 4 k), []⟩ : Operand))

/-- The token annotation of a strand at posting: the task waited on, and an early failure (R483). -/
def Strand.tokenNote (y : Strand) : Option (BitVec 32 × Reg) × Option Nat :=
  match y.annTok with
  | none => (none, none)
  | some r =>
    match y.tokenOf r with
    | some q => (some (q, r), none)
    | none => (none, if (y.reg r).toInt < 0 then some Cause.producerFailed else none)

/-- The barrier annotation of the moving strand at posting: the object and phase, and an early failure (R483). -/
def State.barNote (s : State) : Option (Nat × BitVec 8 × Option Nat) × Option Nat :=
  match s.me.annBar with
  | none => (none, none)
  | some (va, ph) =>
    match s.tbPlace va.toNat false with
    | .inl k => (some (k, ph, none), none)
    | .inr e => (none, some e)

/-- How a task's wait on an object stands: 0 when it has none or it is over, a cause that fails the task, none while it goes on (R483, R79). -/
def State.barrierWait (s : State) (t : Task) : Option Nat :=
  match t.barWait with
  | none => some 0
  | some (_, _, some v) => some v
  | some (k, ph, none) => s.barVerdict k ph

/-- The entry of the report table that a TASK.RSTAT finds at its posting: the task that reserved it (R244). -/
def Core.reportFor (x : Core) (m : Cmd) : Option (BitVec 32) :=
  match m with
  | .rstat g => (x.reports.find? (·.tag == g)).map (·.by_)
  | _ => none

/-- A task as it is posted, before its bindings. -/
def newTask (seq : BitVec 32) (owner : Owner) (tok : Reg) (pri : Nat) (cmd : Cmd) (ops : List Operand) (a : Arriver) (edge : Nat) : Task where
  seq := seq
  owner := owner
  launch := none
  tok := tok
  pri := pri
  cls := pri
  cmd := cmd
  ops := ops
  state := .posted
  deps := []
  tokWait := none
  barWait := none
  staleCount := 0
  age := 0
  waited := 0
  pl := a.pl
  inst := none
  map := none
  chunks := 0
  bar := none
  resvRead := false
  arrivalSent := false
  reply := none
  fault := none
  stored := false
  retry := 0
  sent := false
  stage := 0
  readTick := 0
  olds := []
  stamped := none
  report := none
  route := []
  step := 0
  safePoint := none
  doomed := false
  arriver := (a, edge)

/-- Posting a task form: every command of majors 0x29 to 0x2C (R31, R36, R57, R61, R217, R483). early is a failure of the command's
own at posting (R244). A strand that has waited leaves its wait with the task whose retirement freed the entry, and is the claimant last
served; one that finds an entry free is not (DESIGN CHOICE, log 48). -/
def State.post (s : State) (h : TaskHead) (cmd : Cmd) (early : Option Nat) : Out :=
  let k := s.myStrand
  let x := s.here
  let ops := s.me.operands h
  let noted : Option Reg := s.me.annTok.bind fun r => if s.me.pending r && (s.me.tokenOf r).isNone then some r else none
  if noted.isSome then .next (s.waitFor 1 (noted.getD 0).toNat)
  else if cmd.inCore && ops.any (fun o => x.defining.any fun d => d.1 == rgnBuf o.rgn && d.2 != k) then .next (s.waitFor 15 1)
  else if !x.mayTake k then .next (s.waitFor 2 0)
  else
    let s := if s.me.state == .wait && s.me.reason == 2 then
        (s.leave ((x.grantOf k).getD x.lastRetired) 9).modCore s.myCore fun x => { x with lastGrant := k }
      else s
    let (tw, e1) := s.me.tokenNote
    let (bw, e2) := s.barNote
    let t := newTask x.nextSeq (.strand k) h.tok h.pri.toNat cmd ops s.meArriver 1
    let t := { t with launch := s.me.launch, tokWait := tw, barWait := bw, report := x.reportFor cmd, step := s.me.tr.stepOpen, safePoint := s.me.tr.safePoint }
    let s := s.modMe fun y => { (y.mark h.tok (.token t.seq)) with annTok := none, annBar := none }
    .next ((s.enter s.myCore t (match early, e1, e2 with | some e, _, _ => some e | none, some e, _ => some e | _, _, e => e)).finish 8)

end Sys2Proof.Machine
end

