-- ==== Sys2Proof/Machine/Describe.lean ====
section
/-!
DEFINITION. Descriptors that an instruction reads as SCL loads, and the wait of R57 for the tasks that name a buffer entry
(R57, R215, R321, R339).
-/
namespace Sys2Proof.Machine

/-! ## Reading a descriptor -/

/-- n bytes at a place, as SCL loads of the strand that moves bind them; bytes at another package or a host are free (log 14). -/
def State.readPlace (s : State) (d : Dest) (va n : Nat) : Nat :=
  match d with
  | .here k => s.loadValue s.myCore s.myStrand k va n none
  | _ => leNat ((List.range n).map fun i => Config.remoteByte s.tick (destKey d) i)

/-- The strand that moves gives up the definitions that it holds pending. -/
def State.dropDefining (s : State) : State :=
  (s.modCore s.myCore fun x => { x with defining := x.defining.filter fun d => d.2 != s.myStrand }).modMe fun t =>
    { t with defining := false, gridWait := none }

/-- n bytes of a descriptor, read as SCL loads (R215): an immediate refusal is a precise trap; while a fault is open the strand stands
at the instruction with REASON 9 (log 21). -/
def State.readWords (s : State) (va n : Nat) (go : Nat → State → Out) : Out :=
  match s.myTranslate accRead va with
  | .fail c => .next (s.dropDefining.trap c (BitVec.ofNat 64 va))
  | .open k l i =>
    if s.faults.any (fun f => f.holder == .fetch s.myCore s.myStrand) then .next s
    else .next ((s.openFault (.fetch s.myCore s.myStrand) s.myCore s.me.sys.spaceid.toNat 0 accRead va k l i).waitFor 9 va)
  | .zero => go 0 s
  | .to (.here k) _ =>
    let s := s.detect k n
    if s.poisoned k n then .next (s.dropDefining.trap Cause.poison (BitVec.ofNat 64 va)) else go (s.readPlace (.here k) va n) s
  | .to d _ => go (s.readPlace d va n) s

/-- A descriptor of n bytes at an address that must be a multiple of its size (R215, R321, R339). -/
def State.readDescriptor (s : State) (a : Word) (n : Nat) (go : Nat → State → Out) : Out :=
  if a.toNat % n ≠ 0 then .next (s.trap Cause.misalign a) else s.readWords a.toNat n go

/-! ## Waiting for the tasks that name an entry (R57) -/

/-- Whether a task in the window names one of a list of buffer entries. -/
def Core.named (x : Core) (ns : List Nat) : Bool :=
  x.window.any fun t => t.locals.any fun o => rgnMode o.rgn != 0 && ns.contains (rgnBuf o.rgn)

/-- The definitions of entries stay pending while a task names one of them; then the strand goes on (R57). -/
def State.whenUnnamed (s : State) (ns : List Nat) (go : State → Out) : Out :=
  if s.here.named ns then
    let k := s.myStrand
    let s := s.dropDefining
    let s := s.modCore s.myCore fun x => { x with defining := x.defining ++ ns.map fun n => (n, k) }
    .next ((s.modMe fun t => { t with defining := true }).waitFor 15 1)
  else go s.dropDefining

end Sys2Proof.Machine
end

