-- ==== Sys2Proof/Machine/Grid.lean ====
section
/-!
DEFINITION. Partitioned grids and the halo engine: the GRID instructions, fills, shipments and failure (R316 to R335).
-/
namespace Sys2Proof.Machine

/-! ## Geometry (R317 to R319, R326) -/

/-- Entry g of the grid table. -/
def Core.grid (x : Core) (g : Nat) : Grid := if h : g < 4 then x.grids[g] else Grid.reset

/-- The core with a grid entry changed. -/
def Core.modGrid (x : Core) (g : Nat) (f : Grid → Grid) : Core :=
  if h : g < 4 then { x with grids := x.grids.set g (f x.grids[g]) } else x

/-- The state with a grid entry changed. -/
def State.modGrid (s : State) (c g : Nat) (f : Grid → Grid) : State := s.modCore c fun x => x.modGrid g f

/-- The halo width H. -/
def Grid.halo (g : Grid) : Nat := g.depth * g.rad

/-- Interior extent, tiles and tile coordinate of a dimension. -/
def Grid.nAt (g : Grid) (d : Nat) : Nat := g.n.getD d 1
def Grid.tAt (g : Grid) (d : Nat) : Nat := g.t.getD d 1

/-- The number of field buffers. -/
def Grid.nf (g : Grid) : Nat := g.fields.length

/-- F(s): the field buffer that holds a step (R326). -/
def Grid.field (g : Grid) (step : BitVec 32) : Nat :=
  if 2 ≤ g.nf then g.fields.getD (step.toNat % 2) 0 else g.fields.getD 0 0

/-- The band of a region in a dimension (R318). -/
def bandIn (r d : Nat) : Nat := r / 3 ^ d % 3

/-- The interior region. -/
def Grid.interior (g : Grid) : Nat := (3 ^ g.dims - 1) / 2

/-- The halo slabs. -/
def Grid.slabs (g : Grid) : List Nat := (List.range (3 ^ g.dims)).filter (· != g.interior)

/-- The buffer indices of a band (Table 16.2). -/
def Grid.bandRange (g : Grid) (d band : Nat) : List Nat :=
  let h := g.halo
  let n := g.nAt d
  if band = 0 then List.range h
  else if band = 1 then (List.range n).map (h + ·)
  else (List.range h).map (h + n + ·)

/-- The first buffer index of a band. -/
def Grid.bandStart (g : Grid) (d band : Nat) : Nat :=
  if band = 0 then 0 else if band = 1 then g.halo else g.halo + g.nAt d

/-- All index vectors over a list of index lists, dimension 0 varying fastest. -/
def vectors : List (List Nat) → List (List Nat)
  | [] => [[]]
  | l :: ls => (vectors ls).flatMap fun v => l.map fun i => i :: v

/-- The cells of a region, with their components. -/
def Grid.cells (g : Grid) (r : Nat) : List (List Nat) :=
  vectors (((List.range g.dims).map fun d => g.bandRange d (bandIn r d)) ++
    (if g.cm1 = 0 then [] else [List.range (g.cm1 + 1)]))

/-- The face that an index of a tile lies beyond in a dimension, with its global coordinate (R319, R326). -/
def Grid.beyond (g : Grid) (c x d : Nat) : Option Nat × Int :=
  let v : Int := (c * g.nAt d + x : Nat) - (g.halo : Int)
  if v < 0 then (some (2 * d), v)
  else if (g.tAt d * g.nAt d : Nat) ≤ v then (some (2 * d + 1), v)
  else (none, v)

/-- The coordinate that a face rule gives, and whether the face decides (FillCell of R326). -/
def foldCoord (rule : Nat) (v ext : Int) : Int × Bool :=
  match rule with
  | 1 => (v % ext, false)
  | 3 => (min (max v 0) (ext - 1), false)
  | 4 => (if v < 0 then -1 - v else 2 * ext - 1 - v, false)
  | _ => (v, true)

/-- FillCell of R326 for a cell of the tile at c: the face that decides, if any, and the coordinates m. -/
def Grid.fillCell (g : Grid) (rules c xs : List Nat) : Option Nat × List Int :=
  (List.range g.dims).foldl (fun (acc : Option Nat × List Int) d =>
    match g.beyond (c.getD d 0) (xs.getD d 0) d with
    | (none, v) => (acc.1, acc.2 ++ [v])
    | (some f, v) =>
      let (w, decides) := foldCoord (rules.getD f 0) v (g.tAt d * g.nAt d : Nat)
      (if decides && acc.1.isNone then some f else acc.1, acc.2 ++ [w])) (none, [])

/-- The first cell of a region. -/
def Grid.corner (g : Grid) (r : Nat) : List Nat := (List.range g.dims).map fun d => g.bandStart d (bandIn r d)

/-- The tile that holds a cell of the global grid. -/
def Grid.tileOf (g : Grid) (m : List Int) : List Nat := m.mapIdx fun d v => v.toNat / g.nAt d

/-- The buffer index in the tile at c of a cell of the global grid. -/
def Grid.localIndex (g : Grid) (c : List Nat) (m : List Int) : List Nat :=
  m.mapIdx fun d v => v.toNat + g.halo - c.getD d 0 * g.nAt d

/-- The rules of the faces that a region of the tile at c lies beyond, 255 for none. -/
def Grid.regionRules (g : Grid) (rules c : List Nat) (r : Nat) : List Nat :=
  (List.range g.dims).map fun d =>
    match (g.beyond (c.getD d 0) (g.bandStart d (bandIn r d)) d).1 with
    | some f => rules.getD f 0
    | none => 255

/-- The shape that a shipment carries and its destination compares (R329). -/
def Grid.shape (g : Grid) : List Nat := [g.dims] ++ (List.range g.dims).map g.nAt ++ [g.halo, g.cm1]

/-- The coordinates of a tile by its index (R319). -/
def Grid.coordsOf (g : Grid) (t : Nat) : List Nat :=
  [t % g.tAt 0, t / g.tAt 0 % g.tAt 1, t / (g.tAt 0 * g.tAt 1)].take g.dims

/-- The index of a tile by its coordinates. -/
def Grid.indexOf (g : Grid) (c : List Nat) : Nat := c.getD 0 0 + g.tAt 0 * (c.getD 1 0 + g.tAt 1 * c.getD 2 0)

/-- The tiles whose map entries GRID.DEF reads: the own one and those that differ by −1, 0 or +1 modulo T (R321). -/
def Grid.neighbours (g : Grid) : List (List Nat) :=
  (vectors ((List.range g.dims).map fun d =>
    let c := g.coord.getD d 0
    let t := g.tAt d
    ([c, (c + t - 1) % t, (c + 1) % t]).eraseDups)).eraseDups

/-! ## GRID.DEF (R317, R321) -/

/-- Face f's rule and constant in a descriptor. -/
def bcOf (raw f : Nat) : Nat := bitsOf raw (3 * f + 234) (3 * f + 232)
def constOf (raw f : Nat) : Word := BitVec.ofNat 64 (raw / 2 ^ (320 + 64 * f))

/-- The entry that a descriptor and a tile index give. -/
def gridOf (raw tile : Nat) : Grid :=
  let dims := bitsOf raw 209 208
  let low (l : List Nat) : List Nat := l.take dims
  let g : Grid :=
    { Grid.reset with
      st := .active, dims := dims, n := low ((List.range 3).map fun d => raw / 2 ^ (112 + 16 * d) % 2 ^ 16),
      t := low ((List.range 3).map fun d => raw / 2 ^ (64 + 16 * d) % 2 ^ 16), depth := bitsOf raw 222 220, rad := bitsOf raw 227 224,
      cm1 := bitsOf raw 219 216, fields := bitsOf raw 199 192 :: (if bitsOf raw 210 210 = 1 then [bitsOf raw 207 200] else []),
      rules := (List.range (2 * dims)).map (bcOf raw), consts := (List.range (2 * dims)).map (constOf raw),
      tileIndex := tile, raw := BitVec.ofNat 1024 raw }
  { g with coord := g.coordsOf tile }

/-- Whether a field buffer meets the conditions of R321. -/
def Core.fieldOk (x : Core) (g : Grid) (n : Nat) : Bool :=
  match x.buf n with
  | none => false
  | some b =>
    inOwn b.base && b.esize4 != 1 && b.versions == 0 && b.aliasGroup == 0 && b.policy != 0 &&
    b.rank == g.dims + (if g.cm1 = 0 then 0 else 1) &&
    (List.range g.dims).all (fun d => b.extAt d == g.nAt d + 2 * g.halo) && (g.cm1 == 0 || b.extAt g.dims == g.cm1 + 1)

/-- Whether a descriptor and a tile index pass step 2 of R321. -/
def Core.gridOk (x : Core) (raw : Nat) (g : Grid) : Bool :=
  bitsOf raw 1023 704 == 0 && bitsOf raw 319 250 == 0 && bitsOf raw 231 230 == 0 && bitsOf raw 223 223 == 0 &&
  bitsOf raw 215 211 == 0 && 1 ≤ g.dims && 1 ≤ g.depth && g.depth ≤ 4 && 1 ≤ g.rad && g.rad ≤ 8 &&
  (bitsOf raw 229 228 == 1 || (bitsOf raw 229 228 == 2 && bitsOf raw 191 160 != 0)) &&
  g.rules.all (· ≤ 4) && (List.range g.dims).all (fun d => 1 ≤ g.nAt d && 1 ≤ g.tAt d && g.halo ≤ g.nAt d) && g.halo ≤ 8 &&
  (List.range g.dims).all (fun d => (g.rules.getD (2 * d) 0 == 1) == (g.rules.getD (2 * d + 1) 0 == 1)) &&
  (let tiles := (List.range g.dims).foldl (fun n d => n * g.tAt d) 1
   tiles ≤ 2 ^ 24 && g.tileIndex < tiles) &&
  bitsOf raw 63 0 % 4 == 0 && g.fields.all (x.fieldOk g) && g.fields.eraseDups.length == g.fields.length &&
  (match g.fields.map x.buf with
   | [some a, some b] => a.esize4 == b.esize4 && a.ext == b.ext
   | _ => true)

/-- Whether another entry of the grid table names one of a grid's field buffers. -/
def Core.fieldsTaken (x : Core) (g : Nat) (fs : List Nat) : Bool :=
  (List.range 4).any fun h => h != g && (x.grid h).st != .undefined && (x.grid h).fields.any fs.contains

/-- Whether a core identity names a core of the moving core's partition (R321). -/
def State.inMyPartition (s : State) (ident : Nat) : Bool :=
  match s.coreOfIdentity ident with
  | some w => s.samePart s.myCore w
  | none => match s.part s.here.partno with
    | some p => p.others.contains ident
    | none => false

/-- The map entries of a list of tiles, each read as a 4-byte SCL load (R321). -/
def State.readMap (s : State) (map : Nat) (g : Grid) : List (List Nat) → List (List Nat × Nat) → (List (List Nat × Nat) → State → Out) → Out
  | [], acc, go => go acc s
  | c :: cs, acc, go =>
    s.readWords ((map + 4 * g.indexOf c) % 2 ^ 64) 4 fun v s => s.readMap map g cs (acc ++ [(c, v)]) go

/-- A field buffer taken by a grid: 3^DIMS tiles with stamp 0xFFFF_FFFF, and the grid's stale policy (R318, R321). -/
def Buf.toField (b : Buf) (g : Grid) (no num : Nat) : Buf :=
  { b with grid := some (no, g.halo, g.dims), policy := bitsOf g.raw.toNat 229 228, stale := bitsOf g.raw.toNat 191 160,
           tiles := List.replicate (3 ^ g.dims) ⟨[⟨num, 0, .valid, none, [], 0xFFFFFFFF, true⟩], false, none⟩ }

/-- Steps 6 and 7 of R321. -/
def State.defineGrid (s : State) (d : Reg) (no : Nat) (g : Grid) : State :=
  let x := s.here
  let own := g.fields.foldl (fun n f => n + (match x.buf f with | some b => b.tiles.length | none => 0)) 0
  if 4096 < x.tileEntries - own + g.nf * 3 ^ g.dims then s.later d (wordOfInt (-3))
  else
    let me := s.identity s.myCore
    let x := g.fields.foldl (fun x f => match x.buf f with
      | some b => x.setBuf f (b.toField g no x.nextGen)
      | none => x) x
    let x := { x with nextGen := x.nextGen + 1 }
    let x := x.modGrid no fun old => { g with peerSteps := old.peerSteps }
    let told := (g.peers.filter fun p => p.2 != me).map fun p => OutMsg.declared me p.2 no 0xFFFFFFFF g.nf
    ({ s.setCore s.myCore x with outbox := s.outbox ++ told }).later d 0

/-- Steps 5 to 7 of R321: the entry that has been read waits for the tasks that name its field buffers, and is judged no more. -/
def State.awaitGrid (s : State) (d : Reg) (no : Nat) (g : Grid) : Out :=
  (s.modMe fun t => { t with gridWait := some g }).whenUnnamed g.fields fun s => .next (s.defineGrid d no g)

/-- GRID.DEF (R321). -/
def execGridDef (d a b : Reg) (s : State) : Out :=
  let bv := (s.reg b).toNat
  let no := bv % 4
  match s.me.gridWait with
  | some g => s.awaitGrid d no g
  | none => s.readDescriptor (s.reg a) 128 fun raw s =>
    let g := gridOf raw (bitsOf bv 31 8)
    if bitsOf bv 7 2 ≠ 0 ∨ bitsOf bv 63 32 ≠ 0 ∨ !s.here.gridOk raw g then .next (s.later d minusOne)
    else if (s.here.grid no).st != .undefined ∨ s.here.fieldsTaken no g.fields then .next (s.later d (wordOfInt (-2)))
    else s.readMap (bitsOf raw 63 0) g g.neighbours [] fun peers s =>
      let ownOk := peers.any fun p => p.1 == g.coord && p.2 == s.identity s.myCore
      if !ownOk ∨ peers.any (fun p => 2 ^ 23 ≤ p.2 || !s.inMyPartition p.2) then .next (s.later d (wordOfInt (-4)))
      else s.awaitGrid d no { g with peers := peers }

/-! ## GRID.BC, GRID.STEP, GRID.STAT (R322 to R324) -/

/-- The rules of an entry after GRID.BC sets face f. -/
def setRule (rules : List Nat) (f rule : Nat) : List Nat :=
  let pair := if f % 2 = 0 then f + 1 else f - 1
  if rule = 1 then (rules.set f 1).set pair 1
  else if rules.getD f 0 = 1 then (rules.set f rule).set pair 0
  else rules.set f rule

/-- GRID.BC (R322). -/
def execGridBc (d a b : Reg) (s : State) : Out :=
  let av := (s.reg a).toNat
  let no := av % 4
  let f := bitsOf av 4 2
  let rule := bitsOf av 10 8
  let g := s.here.grid no
  if bitsOf av 7 5 ≠ 0 ∨ bitsOf av 63 11 ≠ 0 ∨ 2 * g.dims ≤ f ∨ 4 < rule ∨ g.st != .active then .next (s.later d minusOne)
  else
    let c := s.reg b
    .next ((s.modGrid s.myCore no fun g =>
      { g with rules := setRule g.rules f rule, consts := if rule = 2 then g.consts.set f c else g.consts }).later d 0)

/-- The tasks in the window that name one of a list of buffers in a write position (R323). -/
def Core.fieldWriters (x : Core) (fs : List Nat) : List (BitVec 32) :=
  (x.window.filter fun t => t.locals.any fun o => rgnWrites o.rgn && fs.contains (rgnBuf o.rgn)).map (·.seq)

/-- GRID.STEP (R323). -/
def execGridStep (d a b : Reg) (s : State) : Out :=
  let av := (s.reg a).toNat
  let bv := (s.reg b).toNat
  let no := av % 4
  let g := s.here.grid no
  let step := BitVec.ofNat 32 bv
  if bitsOf av 63 2 ≠ 0 ∨ 2 ^ 32 ≤ bv ∨ g.st != .active then .next (s.later d minusOne)
  else if step ≠ g.accepted + 1 then .next (s.later d (wordOfInt (-2)))
  else if 4 ≤ g.markers.length then .next (s.later d (wordOfInt (-3)))
  else
    let m : Marker := ⟨step, s.here.fieldWriters g.fields, false, s.me.sys.plen⟩
    .next ((s.modGrid s.myCore no fun g => { g with accepted := step, markers := g.markers ++ [m] }).later d 0)

/-- The stamp of a region of a field buffer as GRID.STAT gives it. -/
def Core.regionStat (x : Core) (f r : Nat) : Word :=
  match x.buf f with
  | none => minusOne
  | some b =>
    let t := b.tileNo r
    if t.stampFailed then wordOfInt (-2)
    else match t.newest with
      | some g => BitVec.ofNat 64 g.stamp.toNat
      | none => minusOne

/-- Shipments of an entry in one of a list of states. -/
def State.shipsIn (s : State) (c g : Nat) (sts : List ShipState) : Nat :=
  (s.ships.filter fun h => h.core == c && h.grid == g && sts.contains h.st).length

/-- The value of a selector (Table 16.5). -/
def State.gridStat (s : State) (no sel : Nat) : Word :=
  let x := s.here
  let g := x.grid no
  let regions := 3 ^ g.dims
  if sel = 64 then (match g.st with | .undefined => 0 | .active => 1 | .failed => 2)
  else if g.st == .undefined then minusOne
  else if sel < regions then x.regionStat (g.fields.getD 0 0) sel
  else if 32 ≤ sel ∧ sel < 32 + regions ∧ 2 ≤ g.nf then x.regionStat (g.fields.getD 1 0) (sel - 32)
  else if sel = 65 then BitVec.ofNat 64 g.declared.toNat
  else if sel = 66 then BitVec.ofNat 64 g.markers.length
  else if sel = 67 then negCode g.code
  else if sel = 68 then BitVec.ofNat 64 (min x.refusedHere (2 ^ 32 - 1) + min x.refusedThere (2 ^ 32 - 1) * 2 ^ 32)
  else if sel = 69 then BitVec.ofNat 64 (s.shipsIn s.myCore no [.reading, .flight, .notice])
  else minusOne

/-- GRID.STAT (R324). -/
def execGridStat (d a b : Reg) (s : State) : Out :=
  let av := (s.reg a).toNat
  if bitsOf av 63 2 ≠ 0 then .next (s.later d minusOne) else .next (s.later d (s.gridStat (av % 4) (s.reg b).toNat))

/-! ## GRID.UNDEF and failure (R325, R331) -/

/-- Shipments of an entry in CREDIT become notices of failure (R325, R331). -/
def State.noticeShips (s : State) (c g : Nat) : State :=
  { s with ships := s.ships.map fun h => if h.core = c ∧ h.grid = g ∧ h.st = .credit then { h with st := .notice, since := s.tick } else h }

/-- The field buffers of an entry are undefined with it (R325); what its halo engine knows of declared steps stays (R328). -/
def Core.dropGrid (x : Core) (no : Nat) : Core :=
  let x := (x.grid no).fields.foldl (fun x f => x.dropBuf f) x
  x.modGrid no fun g => { Grid.reset with peerSteps := g.peerSteps }

/-- GRID.UNDEF (R325): its operands and shipments are judged at its issue, and no more while it waits. Fills of the entry that have not been
written go with it (DESIGN CHOICE, log 40). -/
def execGridUndef (d a : Reg) (s : State) : Out :=
  let av := (s.reg a).toNat
  let no := av % 4
  let g := s.here.grid no
  if !s.me.defining ∧ (bitsOf av 63 2 ≠ 0 ∨ g.st == .undefined) then .next (s.later d minusOne)
  else if !s.me.defining ∧ (!g.markers.isEmpty ∨ s.shipsIn s.myCore no [.reading, .flight] ≠ 0) then .next (s.later d (wordOfInt (-2)))
  else s.whenUnnamed g.fields fun s =>
    let s := { s with fills := s.fills.filter fun h => !(h.core == s.myCore && h.grid == no) }
    .next (((s.noticeShips s.myCore no).modCore s.myCore fun x => x.dropGrid no).later d 0)

/-- Every slab region of an entry's field buffers becomes FAILED (R331). -/
def Core.failRegions (x : Core) (g : Grid) : Core :=
  g.fields.foldl (fun x f => match x.buf f with
    | some b => x.setBuf f (g.slabs.foldl (fun b r => b.modTile r fun t => { t with stampFailed := true }) b)
    | none => x) x

/-- An entry becomes FAILED and keeps the first code (R331). -/
def State.failGrid (s : State) (c no code : Nat) : State :=
  let g := (s.core c).grid no
  if g.st != .active then s
  else
    let s := s.modCore c fun x => ((x.failRegions g).modGrid no fun g => { g with st := .failed, code := code }).retest
    s.noticeShips c no

/-! ## Markers (R323, R327) -/

/-- The shipments that a marker starts, in ascending order of destination identity and region (R327). -/
def Grid.shipments (g : Grid) (c no : Nat) (m : Marker) : List Shipment :=
  (g.peers.mergeSort fun a b => a.2 ≤ b.2).flatMap fun p =>
    (g.slabs.filter fun r =>
      let f := g.fillCell g.rules p.1 (g.corner r)
      f.1.isNone && g.tileOf f.2 == g.coord).map fun r => ⟨c, no, m.step, p.2, r, .credit, m.pl, g.rules, none, 0, 0⟩

/-- The fills that a marker starts. -/
def Grid.fillsOf (g : Grid) (c no : Nat) (m : Marker) : List HaloFill :=
  g.slabs.filterMap fun r =>
    match (g.fillCell g.rules g.coord (g.corner r)).1 with
    | some f => some ⟨c, no, m.step, r, m.pl, if g.rules.getD f 0 = 2 then some (g.consts.getD f 0) else none⟩
    | none => none

/-- Shipments start, in order: in CREDIT, or in NOTICE when their entry is FAILED (R327, R331). -/
def State.startShips (s : State) (failed : Bool) (hs : List Shipment) : State :=
  let new := hs.mapIdx fun i h => { h with num := s.nextShip + i, since := s.tick, st := if failed then ShipState.notice else .credit }
  { s with ships := s.ships ++ new, nextShip := s.nextShip + hs.length }

/-- GRID_MARKER_RETIRE: the oldest marker, once every writer it waits for has retired; the fills begin unless a writer of the marker's own has
failed (R323, R327, R331). -/
def execGridMarkerRetire (core grid : Nat) (s : State) : Out :=
  let g := (s.core core).grid grid
  match g.markers with
  | [] => .next s
  | m :: rest =>
    if !m.waits.isEmpty then .next s
    else
      let me := s.identity core
      let s := s.modGrid core grid fun g => { g with markers := rest, declared := m.step }
      let told := (g.peers.filter fun p => p.2 != me).map fun p => OutMsg.declared me p.2 grid m.step g.nf
      let s := { s with outbox := s.outbox ++ told }
      let s := if m.failed then s.failGrid core grid Cause.producerFailed else s
      if m.step.toNat % g.depth ≠ 0 then .next s
      else
        let s := s.startShips (m.failed || g.st != .active) (g.shipments core grid m)
        .next (if m.failed then s else { s with fills := s.fills ++ g.fillsOf core grid m })

/-- A declared step is news to a halo engine: the first of its sender, one of a new definition, or a later one. -/
def newsOf (known : List (Nat × BitVec 32 × Nat)) (who : Nat) (declared : BitVec 32) : Bool :=
  match known.find? (·.1 == who) with
  | none => true
  | some k => declared == 0xFFFFFFFF || (declared - k.2.1).toNat < 2 ^ 31

/-- A grid entry learns a destination's declared step (R328). -/
def Grid.learn (g : Grid) (who : Nat) (declared : BitVec 32) (nf : Nat) : Grid :=
  if newsOf g.peerSteps who declared then { g with peerSteps := (who, declared, nf) :: g.peerSteps.filter (·.1 != who) } else g

/-- DECLARED_STEP_ARRIVAL: a destination's declared step reaches the halo engine of a source, also while the source's partition is SAVED (R328).
A core of this package has sent it, and what it sent before has come first; what another package sends comes from outside. -/
def execDeclaredStepArrival (core grid : Nat) (who : Nat) (declared : BitVec 32) (nf : Nat) (s : State) : Out :=
  let put (s : State) : State :=
    let s := s.modGrid core grid fun g => g.learn who declared nf
    { s with parts := s.parts.map fun p =>
        { p with saved := p.saved.map fun x => if x.1 = core then (x.1, x.2.modGrid grid fun g => g.learn who declared nf) else x } }
  let earlier := s.outbox.find? fun m => match m with
    | .declared w c g _ _ => w == who && c == s.identity core && g == grid
    | _ => false
  match earlier with
  | some m => if m = .declared who (s.identity core) grid declared nf then .next (put { s with outbox := s.outbox.erase m }) else .next s
  | none => if who / 256 = s.marten.values.pkg then .next s else .next (put s)

/-! ## Shipments (R328, R329) -/

/-- The destination's declared step and field-buffer count as its source's halo engine knows them. -/
def State.knownStep (s : State) (h : Shipment) : Option (BitVec 32 × Nat) :=
  let g := (s.core h.core).grid h.grid
  if h.dst = s.identity h.core then some (g.declared, g.nf)
  else (g.peerSteps.find? (·.1 == h.dst)).map (·.2)

/-- The credit of R328. -/
def State.hasCredit (s : State) (h : Shipment) : Bool :=
  match s.knownStep h with
  | some (declared, nf) => (declared - (h.step - BitVec.ofNat 32 nf + 1)).toNat < 2 ^ 31
  | none => false

/-- HALO_SHIPMENT_CREDIT (R328, R331). -/
def execHaloShipmentCredit (idx : Nat) (s : State) : Out :=
  match s.ships[idx]? with
  | none => .next s
  | some h =>
    if h.st != .credit then .next s
    else if ((s.core h.core).grid h.grid).st != .active then .next { s with ships := s.ships.set idx { h with st := .notice, since := s.tick } }
    else if s.hasCredit h then .next { s with ships := s.ships.set idx { h with st := .reading, since := s.tick } }
    else .next s

/-- The coordinates of a shipment's destination tile. -/
def Grid.coordOfPeer (g : Grid) (ident : Nat) : List Nat := ((g.peers.find? (·.2 == ident)).map (·.1)).getD []

/-- The cells that a shipment moves: the index in the destination buffer, and that in the source buffer (R326). -/
def Grid.moves (g : Grid) (h : Shipment) : List (List Nat × List Nat) :=
  let c := g.coordOfPeer h.dst
  (g.cells h.region).map fun xs =>
    (xs, g.localIndex g.coord (g.fillCell h.rules c xs).2 ++ xs.drop g.dims)

/-- Where a cell of a field buffer lies. -/
def Core.cellKey (x : Core) (c f : Nat) (idx : List Nat) : Option (Nat × Nat) :=
  (x.buf f).bind fun b => b.elemKey c 0 fun d => idx.getD d 0

/-- The element size of a field buffer, in half bytes. -/
def Core.cellSize (x : Core) (f : Nat) : Nat := match x.buf f with | some b => b.esize4 | none => 2

/-- Whether a shipment comes before every other one that its die's halo engine has to read (R335). -/
def State.readsNext (s : State) (h : Shipment) : Bool :=
  s.ships.all fun k => k.st != .reading || dieOf k.core != dieOf h.core || k.num == h.num || h.since < k.since || (h.since == k.since && h.num < k.num)

/-- HALO_SHIPMENT_READ: the source cells of the next shipment are read, with the poison they carry (R329, R335, R474). A cell outside the own
scratchpad is reached by no halo access (R20), and its value is free (log 40). -/
def execHaloShipmentRead (idx : Nat) (s : State) : Out :=
  match s.ships[idx]? with
  | none => .next s
  | some h =>
    if h.st != .reading || !s.readsNext h then .next s
    else
      let x := s.core h.core
      let g := x.grid h.grid
      let f := g.field h.step
      let n := x.cellSize f
      let at_ (i : List Nat) : Option (Nat × Nat) := x.cellKey h.core f i
      let s := s.scan ((g.moves h).filterMap fun m => (at_ m.2).map (·.1)) (n / 2)
      let cells := (g.moves h).map fun m => (m.1, match at_ m.2 with
        | some p => s.readElem (.engine h.core) n p
        | none => (Config.unstated s.tick).toNat % 16 ^ n)
      let bad := ((g.moves h).filter fun m => match at_ m.2 with | some p => s.poisoned p.1 (n / 2) | none => false).map (·.1)
      let data : ShipData := ⟨h.dst, h.grid, h.step, h.region, s.identity h.core, n, g.shape,
        g.regionRules h.rules (g.coordOfPeer h.dst) h.region, cells, bad, h.pl⟩
      .next { s with ships := s.ships.set idx { h with st := .flight, data := some data, since := s.tick } }

/-- The halo engine as an arriver (R371). -/
def State.haloArriver (s : State) (who pl : Nat) : Arriver := ⟨who, 6, 0xFFFFFFF8, pl, s.now⟩

/-- Cells written into a field buffer of a core, and whether they may be: no frozen scratchpad, no live barrier (R329). -/
def State.cellsBlocked (s : State) (c : Nat) (ks : List Nat) (n : Nat) : Bool :=
  (s.core c).frozen || ks.any fun k => s.tagged k n

/-- A region takes a stamp (R329, R71). -/
def State.stampRegion (s : State) (c f r : Nat) (step : BitVec 32) (a : Arriver) : State :=
  s.modCore c fun x => match x.buf f with
    | some b => (x.setBuf f (b.modTile r fun t => t.setStamp step a)).retest
    | none => x

/-- A shipment's data is written at its destination, or refused: the state, and whether it landed (R329). -/
def State.land (s : State) (c : Nat) (d : ShipData) : State × Bool :=
  let x := s.core c
  let g := x.grid d.grid
  let f := g.field d.step
  let n := x.cellSize f
  let places := d.cells.filterMap fun p => (x.cellKey c f p.1).map fun k => (p.1, k.1, p.2)
  let expected := g.shape == d.shape && n == d.esize && g.regionRules g.rules g.coord d.region == d.rules
  if g.st != .active || !expected || s.cellsBlocked c (places.map (·.2.1)) (n / 2) then
    (s.modCore c fun x => { x with refusedHere := x.refusedHere + 1 }, false)
  else
    let bytes := places.flatMap fun p => (leBytes (n / 2) p.2.2).mapIdx fun i b => (p.2.1 + i, b, d.bad.contains p.1)
    ((s.writeCells bytes).stampRegion c f d.region d.step (s.haloArriver d.who d.pl), true)

/-- A shipment to another package leaves, and awaits the answer of its destination under R470. -/
def State.sendShipment (s : State) (h : Shipment) (d : ShipData) : State :=
  let pkg := h.dst / 256
  let (s, _) := s.awaitReq h.core 0 .shipment (.peer pkg 0) (unitAcc 0 8) false (.shipment h.num) []
  { s with outbox := s.outbox ++ [.shipment { d with pl := s.crossPl d.pl pkg }] }

/-- A shipment has ended: landed, refused, or lost with a code for its entry (Table 16.6, R331). -/
def State.endShipment (s : State) (h : Shipment) (landed : Bool) (lost : Option Nat) : State :=
  let s := { s with ships := s.ships.filter (·.num != h.num), reqs := s.reqs.filter fun r => r.user != .shipment h.num }
  match lost with
  | some code => s.failGrid h.core h.grid code
  | none => if landed then s else s.modCore h.core fun x => { x with refusedThere := x.refusedThere + 1 }

/-- Whether the halo engine of a die has fills to write, which came before a shipment that arrives now (R335). -/
def State.fillsFirst (s : State) (c : Nat) : Bool := s.fills.any fun h => dieOf h.core == dieOf c

/-- HALO_SHIPMENT_LAND: a shipment of this package reaches its destination, or leaves for another package; the answer to one that has left
comes; or one of another package lands here and is answered (R329, R330, R331, R335). -/
def execHaloShipmentLand (src : ShipSource) (s : State) : Out :=
  match src with
  | .outside d =>
    match s.coreOfIdentity d.core with
    | some c =>
      if d.who / 256 = s.marten.values.pkg ∨ s.fillsFirst c then .next s
      else
        let (s, landed) := s.land c d
        .next { s with outbox := s.outbox ++ [.shipmentAnswer d landed] }
    | none => .next s
  | .answered idx landed =>
    match s.ships[idx]? with
    | some h => if h.st == .flight && s.reqs.any (·.user == .shipment h.num) then .next (s.endShipment h landed none) else .next s
    | none => .next s
  | .ours idx =>
    match s.ships[idx]? with
    | none => .next s
    | some h =>
      match h.st, h.data, s.coreOfIdentity h.dst with
      | .flight, some d, some c =>
        if s.fillsFirst c then .next s
        else
          let (s, landed) := s.land c d
          .next (s.endShipment h landed none)
      | .flight, some d, none => if s.reqs.any (·.user == .shipment h.num) then .next s else .next (s.sendShipment h d)
      | .notice, _, none =>
        .next { s with ships := s.ships.eraseIdx idx, outbox := s.outbox ++ [.notice h.dst h.grid [h.region]] }
      | _, _, _ => .next s

/-- HALO_FILL_LAND: a constant is written over its region, or an OPEN region takes its stamp; the fills of a die are served in their order (R329,
R335). -/
def execHaloFillLand (idx : Nat) (s : State) : Out :=
  match s.fills[idx]? with
  | none => .next s
  | some h =>
    if (s.fills.take idx).any (fun k => dieOf k.core == dieOf h.core) then .next s
    else
    let s := { s with fills := s.fills.eraseIdx idx }
    let x := s.core h.core
    let g := x.grid h.grid
    let f := g.field h.step
    let n := x.cellSize f
    let a := s.haloArriver (s.identity h.core) h.pl
    match h.value with
    | none => .next (s.stampRegion h.core f h.region h.step a)
    | some v =>
      let ks := (g.cells h.region).filterMap fun i => (x.cellKey h.core f i).map (·.1)
      if s.cellsBlocked h.core ks (n / 2) then
        .next (s.modCore h.core fun x => { x with refusedHere := x.refusedHere + 1 })
      else
        let bytes := ks.flatMap fun k => (leBytes (n / 2) v.toNat).mapIdx fun i b => (k + i, b, false)
        .next ((s.writeCells bytes).stampRegion h.core f h.region h.step a)

/-- GRID_FAILURE_NOTICE: a notice reaches an entry, which becomes FAILED (R331). One of this package's own shipments in NOTICE has
sent it, or it comes from another package that holds a tile of the grid. -/
def execGridFailureNotice (core grid : Nat) (regions : List Nat) (s : State) : Out :=
  let mine (h : Shipment) : Bool := h.st == .notice && h.dst == s.identity core && h.grid == grid && regions.contains h.region
  let g := (s.core core).grid grid
  if s.ships.any mine then
    .next (({ s with ships := s.ships.filter fun h => !mine h }).failGrid core grid Cause.producerFailed)
  else if g.peers.any fun p => p.2 / 256 != s.marten.values.pkg then .next (s.failGrid core grid Cause.producerFailed)
  else .next s

/-! ## The hold of R329 -/

/-- Whether an index vector lies in an operand's box. -/
def inBox (rank : Nat) (r : BitVec 192) (idx : List Nat) : Bool :=
  (List.range rank).all fun d => rgnO r d ≤ idx.getD d 0 && idx.getD d 0 < rgnO r d + rgnX r d

/-- Whether a task writes source cells of a shipment. -/
def State.writesSource (s : State) (t : Task) (h : Shipment) : Bool :=
  let x := s.core h.core
  let g := x.grid h.grid
  let f := g.field h.step
  t.locals.any fun o => rgnWrites o.rgn && rgnBuf o.rgn == f &&
    (match x.buf f with
     | some b => (g.moves h).any fun m => inBox b.rank o.rgn m.2
     | none => false)

/-- Whether a task of a core is held in POSTED by a shipment that has yet to read cells it writes: one that stands in CREDIT or
READING, or one that a marker posted before the task will start (R329). -/
def State.gridHeld (s : State) (c : Nat) (t : Task) : Bool :=
  let x := s.core c
  (s.ships.any fun h => h.core == c && (h.st == .credit || h.st == .reading) && s.writesSource t h) ||
  (List.range 4).any fun no =>
    let g := x.grid no
    g.st == .active && g.markers.any fun m =>
      m.step.toNat % g.depth == 0 && !m.waits.contains t.seq && (g.shipments c no m).any (s.writesSource t)

end Sys2Proof.Machine
end

