-- ==== Sys2Proof/Machine/Debug.lean ====
section
/-!
DEFINITION. Safe points, debug stops and samples: what a strand does as it reaches an instruction with a safe-point entry, and
the debugger's events (R287, R361 to R364, R366).
-/
namespace Sys2Proof.Machine

/-- Where the per-core record of a core lies in its partition's save area (R425, Table 25.8): the header has the first 64 KiB to
itself, and records stand two 64 KiB units apart while no live range has been written (log 20). -/
def Partition.recordAt (p : Partition) (c : Nat) : Nat :=
  p.savearea + 0x10000 + 0x20000 * (p.cores.takeWhile (· != c)).length

/-- The debug block of a strand (Table 19.1) as a number of 6,144 bits. -/
def Strand.debugBlock (t : Strand) (pc : Word) : Nat :=
  let regs := (List.range 32).foldl (fun n i => n + (t.reg (BitVec.ofNat 5 i)).toNat * 2 ^ (64 * i)) 0
  let qs := (List.range 16).foldl (fun n i => n + (t.rgnAt (BitVec.ofNat 4 i)).toNat * 2 ^ (192 * i)) 0
  let sp := match t.tr.safePoint with | some p => p.func.toNat * 2 ^ 16 + p.ord.toNat | none => 0xFFFFFFFF
  regs + qs * 2 ^ 2048 + pc.toNat * 2 ^ 5120 + t.sys.fflags.toNat * 2 ^ 5184 + sp * 2 ^ 5280

/-- A strand reloaded from a debug block: writes to s0 and to reserved bits of region registers have no effect (R363). A register that was
pending as the strand stopped keeps what its own writer has written or will write (DESIGN CHOICE, log 58). -/
def Strand.reload (t : Strand) (b : Nat) : Strand :=
  let t := (List.range 32).foldl (fun t i =>
    if t.tr.stopPend.getLsbD i then t else t.setReg (BitVec.ofNat 5 i) (BitVec.ofNat 64 (b / 2 ^ (64 * i)))) t
  let t := (List.range 16).foldl (fun t i => t.setRgn (BitVec.ofNat 4 i) (BitVec.ofNat 192 (b / 2 ^ (2048 + 192 * i)))) t
  { t with pc := BitVec.ofNat 64 (bitsOf b 5183 5120 / 4 * 4), sys := { t.sys with fflags := BitVec.ofNat 5 (bitsOf b 5188 5184) } }

/-- The safe point of the instruction at which a strand stands, by its launch's table (R287, R306). -/
def State.safePointAt (s : State) (c k : Nat) : Option SafePoint :=
  let t := s.strand c k
  match s.launchOf t with
  | some l => (l.sptab.find? (·.1 == t.pc.toNat)).map (·.2)
  | none => none

/-- Whether a breakpoint entry matches a strand that reaches a safe point (R362). -/
def breakMatches (c k : Nat) (sp : SafePoint) (b : Breakpoint) : Bool :=
  b.sp == sp && b.strands.getLsbD k && b.cores.contains c

/-- The stop that a strand makes at a safe point, as a kind of Table 19.4 and an entry index (R362). -/
def State.stopAt (s : State) (c k : Nat) (sp : SafePoint) : Option (Nat × Nat) :=
  match s.part (s.core c).partno with
  | none => if (s.strand c k).tr.stepReq then some (2, 0) else none
  | some p =>
    match p.breakpoints.find? (fun b => breakMatches c k sp b.2 && b.2.skip == 0) with
    | some b => some (1, b.1)
    | none =>
      if (s.strand c k).tr.stepReq then some (2, 0)
      else if p.haltReq.contains (c, k) then some (3, 0) else none

/-- The stop of R363: the debug block is written, the strand waits with REASON 7, and a STOP record is formed. -/
def State.debugStop (s : State) (c k : Nat) (kind idx : Nat) : State :=
  let t := s.strand c k
  let s := match s.part (s.core c).partno with
    | some p => s.writeNat (p.recordAt c + 1024 * k) 768 (t.debugBlock t.pc)
    | none => s
  let s := if trClass t.sys.trctl 8 then s.strandRecord c k 7 t.pc.toNat (kind + idx * 2 ^ 8) else s
  let s := s.modPart (s.core c).partno fun p => { p with haltReq := p.haltReq.filter (· != (c, k)) }
  s.modStrand c k fun t =>
    { t with state := .wait, reason := 7, obj := 0,
             tr := { t.tr with debugStop := some (kind, idx), stepReq := false,
                               stopPend := BitVec.ofNat 32 ((t.pend.map fun p => p.reg.toNat).eraseDups.foldl (fun n r => n + 2 ^ r) 0) } }

/-- The debugger writes entries of a partition's breakpoint table, which has 16 (R362). -/
def State.arm (s : State) (part : Nat) (entries : List (Nat × Breakpoint)) : State :=
  s.modPart part fun p =>
    { p with breakpoints := (entries.filter fun e => e.1 < 16).foldl (fun bs e => e :: bs.filter (·.1 != e.1)) p.breakpoints }

/-- The strand's safe-point count rises by one, and the budget of its launch's queue starts anew (R287, R429). -/
def State.countSafePoint (s : State) (c k : Nat) : State :=
  let s' := match s.launchOf (s.strand c k) with
    | some l =>
      let zeroed := s.queues.map fun (q : Queue) => if q.no = l.queue then { q with budget := 0 } else q
      { s with queues := zeroed }
    | none => s
  s'.modStrand c k fun t => { t with sys := { t.sys with spcnt := t.sys.spcnt + 1 } }

/-- WINOCC: the window entries held by strands 0 to 3 and by intake (Table 13.3). -/
def Core.winocc (x : Core) : Nat :=
  x.heldBy 0 + x.heldBy 1 * 2 ^ 8 + x.heldBy 2 * 2 ^ 16 + x.heldBy 3 * 2 ^ 24 + x.heldBy 4 * 2 ^ 32

/-- Strand k of core c reaches a safe point: skip counts fall, a debug stop is made or the strand passes, the instruction's count is
added unless it is SAFEPT or CKPT, which add their own, and a SAMPLE record follows a passed period (R287, R362, R365). -/
def State.reach (s : State) (c k : Nat) (sp : SafePoint) (ownCount : Bool) : State :=
  let stop := s.stopAt c k sp
  let s' := s.modPart (s.core c).partno fun p =>
    { p with breakpoints := p.breakpoints.map fun b =>
        if breakMatches c k sp b.2 then (b.1, { b.2 with skip := b.2.skip - 1 }) else b }
  let counts := stop.isSome || !ownCount
  let s' := if counts then s'.countSafePoint c k else s'
  let s' := s'.modStrand c k fun t => { t with tr := { t.tr with safePoint := some sp, counted := counts, passed := true } }
  let s' :=
    if s'.strand c k |>.tr.sampleDue then
      let s' := if trClass (s'.strand c k).sys.trctl 4 then
          s'.strandRecord c k 2 (s'.strand c k).sys.plen (s'.core c).winocc
        else s'
      s'.modStrand c k fun t => { t with tr := { t.tr with sampleDue := false } }
    else s'
  match stop with
  | some (kind, idx) => s'.debugStop c k kind idx
  | none => s'

/-- BREAKPOINT_STOP: a strand in RUN that has reached a matching safe point stops (R362, R363). -/
def execBreakpointStop (core strand entry : Nat) (s : State) : Out :=
  let t := s.strand core strand
  match s.safePointAt core strand with
  | some sp =>
    if t.state = .run ∧ t.hold ≤ s.now ∧ !t.tr.passed ∧ s.stopAt core strand sp = some (1, entry) then .next (s.reach core strand sp true)
    else .next s
  | none => .next s

/-- DEBUG_STEP_REQUEST: one strand will stop at the next safe point it reaches (R362). -/
def execDebugStepRequest (core strand : Nat) (s : State) : Out :=
  .next (s.modStrand core strand fun t => { t with tr := { t.tr with stepReq := true } })

/-- DEBUG_HALT_REQUEST: every strand of the partition will stop at the next safe point it reaches, and entries of the breakpoint table are
armed (R362). -/
def execDebugHaltRequest (request : HaltRequest) (s : State) : Out :=
  .next ((s.arm request.part request.entries).modPart request.part fun p => { p with haltReq := p.cores.flatMap fun c => (List.range 4).map fun k => (c, k) })

/-- Whether a debug stop holds a partition (R364). -/
def State.debugHolds (s : State) (part : Nat) : Bool :=
  s.cores.toList.any fun x => x.partno == part && x.strands.toList.any fun t => t.tr.debugStop.isSome

/-- Once no debug stop holds a partition, a pre-emption request that stops have held is issued, and the limit of one that stood counts anew
(R364; log 28). -/
def State.releaseRequest (s : State) (part : Nat) : State :=
  if s.debugHolds part then s
  else s.modPart part fun p =>
    { p with preempt := if p.preemptHeld || p.preempt.isSome then some s.now else none, preemptHeld := false }

/-- DEBUG_RESUME: entries of the breakpoint table are armed (R362); the debug block of a strand that stands at a debug stop is reloaded, and
it issues the safe-point instruction (R363). -/
def execDebugResume (core : Nat) (request : ResumeRequest) (s : State) : Out :=
  let s := s.arm (s.core core).partno request.entries
  let strand := request.strand
  let t := s.strand core strand
  if t.tr.debugStop.isNone ∨ t.state ≠ .wait then .next s
  else
    let t := match s.part (s.core core).partno with
      | some p => t.reload (s.readNat (p.recordAt core + 1024 * strand) 768)
      | none => t
    let s := s.modStrand core strand fun _ =>
      { t with state := .run, reason := 0, obj := 0, waited := 0, tr := { t.tr with debugStop := none, passed := true } }
    .next (s.releaseRequest (s.core core).partno)

/-- TRACE_SAMPLE: a sample period of the strand has passed, and a SAMPLE record follows at the next safe point (R365). -/
def execTraceSample (core strand : Nat) (s : State) : Out :=
  let t := s.strand core strand
  if trPeriod t.sys.trctl = 0 ∨ t.tr.sampleCycles < trPeriod t.sys.trctl then .next s
  else .next (s.modStrand core strand fun t => { t with tr := { t.tr with sampleDue := true, sampleCycles := t.tr.sampleCycles - trPeriod t.sys.trctl } })

end Sys2Proof.Machine
end

