-- ==== Sys2Proof/Machine/Clock.lean ====
section
/-!
DEFINITION. What passes with time at the end of a step: path lengths, timers, ages, leases and budgets, the fills of caches, and
latent faults of the memories (R39, R73, R289, R345, R365, R370, R429, R473, R476).
-/
namespace Sys2Proof.Machine

/-- A strand after dt cycles. TIMER stands at 1 until TIMER_EXPIRY takes it to 0. -/
def Strand.advance (t : Strand) (dt : Nat) : Strand :=
  let counts : Bool := t.state == .run || (t.state == .wait && (t.reason == 1 || t.reason == 3))
  let timer := t.sys.timer.toNat
  { t with waited := if t.state == .wait then t.waited + dt else t.waited, 
           sys := { t.sys with
             plen := if counts then satPl (t.sys.plen + dt) else t.sys.plen,
             timer := if timer = 0 then 0 else BitVec.ofNat 64 (max 1 (timer - dt)) },
           tr := { t.tr with sampleCycles := if trPeriod t.sys.trctl = 0 then 0 else t.tr.sampleCycles + dt } }

/-- Whether a task in POSTED has stamp waits as its only unmet waits, the hold of R329 counted as one (R73). -/
def State.onlyStamps (s : State) (c : Nat) (t : Task) : Bool :=
  t.state == .posted && t.deps.isEmpty && t.tokWait.isNone && s.barrierWait t == some 0 &&
    (t.stamped == none || (t.stamped == some 0 && s.gridHeld c t))

/-- A task of core c after dt cycles. -/
def State.advanceTask (s : State) (c dt : Nat) (t : Task) : Task :=
  let inEngine : Bool := t.state == .issued || t.state == .suspended
  { t with waited := if inEngine then t.waited else t.waited + dt,
           age := if t.state == .ready then t.age + dt else t.age,
           pl := if inEngine then satPl (t.pl + dt) else t.pl,
           staleCount := if s.onlyStamps c t then t.staleCount + dt else t.staleCount,
           retry := t.retry - dt }

/-- A slot after dt cycles: its lease counts while it is RESERVED or LANDING (R345). -/
def Slot.advance (x : Slot) (dt : Nat) : Slot :=
  if x.st == .reserved || x.st == .landing then { x with lease := x.lease + dt } else x

/-- The strands of a core that are in RUN, as a mask. -/
def Core.running (x : Core) : BitVec 4 :=
  BitVec.ofNat 4 ((List.range 4).foldl (fun n k => if (x.strand k).state == .run then n + 2 ^ k else n) 0)

/-- A strand that has yielded waits no longer for a strand that has left RUN (R288). -/
def Strand.unyield (t : Strand) (x : Core) : Strand := if t.yields = 0 then t else { t with yields := t.yields &&& x.running }

/-- Core c after dt cycles. -/
def State.advanceCore (s : State) (c dt : Nat) (x : Core) : Core :=
  { x with strands := x.strands.map fun t => (t.unyield x).advance dt,
           window := x.window.map (s.advanceTask c dt),
           zones := x.zones.map fun z => { z with slots := z.slots.map fun y => y.advance dt } }

/-- Seq of a packet index in a ring of 2^log2sz packets (R404). -/
def packetSeq (log2sz i : Nat) : Nat := 1 + i / 2 ^ log2sz % 255

/-- The place of the packet with an index in a queue's ring (R403). -/
def Queue.slotAt (q : Queue) (i : Nat) : Nat := q.entry.ring + 64 + 64 * (i % 2 ^ q.entry.log2sz)

/-- Whether the next index of a queue has been claimed and is held unwritten (R404). -/
def State.unwrittenIndex (s : State) (q : Queue) : Bool :=
  let r := s.readNat (q.entry.ring + 8) 8
  r < s.readNat q.entry.ring 8 && (s.byte (q.slotAt r)).toNat != packetSeq q.entry.log2sz r

/-- A queue after dt cycles: its budget counts while it has a running launch and nothing holds its partition, and the time for which its
next index is held unwritten counts apart (R404, R429). -/
def State.advanceQueue (s : State) (dt : Nat) (q : Queue) : Queue :=
  let runs := s.launches.any fun l => l.queue == q.no && l.started
  let active : Bool := match s.part q.entry.partno with | some p => p.st == .active | none => true
  let q := if q.entry.wdog ≠ 0 ∧ runs ∧ active ∧ !s.debugHolds q.entry.partno then { q with budget := q.budget + dt } else q
  if q.entry.wdog ≠ 0 ∧ q.entry.state = 1 ∧ active ∧ s.unwrittenIndex q then { q with unwritten := q.unwritten + dt } else q

/-- The machine after dt cycles. -/
def State.advance (s : State) (dt : Nat) : State :=
  { s with cores := s.cores.mapFinIdx fun c x _ => s.advanceCore c dt x, queues := s.queues.map (s.advanceQueue dt), now := s.now + dt }

/-- A cache takes a line or a translation in (R13, R152, R187, R413). -/
def State.fill (s : State) : Fill → State
  | .translation die space page =>
    if space < 2 ^ 20 then
      match s.stage1 die space (page * 2 ^ 16) with
      | .leaf l => { s with tlb := s.tlb ++ [⟨die, space, page, l.bits, l.level, l.partno⟩] }
      | _ => s
    else match s.stage2 die (space - 2 ^ 20) (page * 2 ^ 16) with
      | .pa a => { s with tlb := s.tlb ++ [⟨die, space, page, a / 2 ^ 16, 0, space - 2 ^ 20⟩] }
      | _ => s
  | .data core line =>
    let s := s.modCore core fun x => { x with dcache := (line :: x.dcache.filter (· != line)).take 256 }
    let held := (s.core core).dcache
    s.modLate fun w =>
      if w.cells.all fun b => held.contains (b.1 / 64) && b.1 / 64 != line then w else { w with caches := w.caches.filter (· != core) }
  | .code core line =>
    s.modCore core fun x =>
      { x with icache := ((line, s.bytes (64 * line) 64) :: x.icache.filter (·.1 != line)).take 1024 }
  | .block core ctx line =>
    s.modCore core fun x =>
      { x with ctxs := x.ctxs.mapIdx fun i y =>
          if i = ctx ∧ y.task.isSome then { y with code := (line, s.bytes (64 * line) 64) :: y.code.filter (·.1 != line) } else y }

/-- Late writes reach the readers that they reach now (R108, R120, R121; log 53). -/
def State.drain (s : State) (n : Nat) : State :=
  if s.late.isEmpty then s
  else
    ([0, 1, 2, 3].foldl (fun s d => s.enterDies [d] fun w => w.dies.contains d && Config.reaches n w.id d) s).modLate fun w =>
      { w with caches := w.caches.filter fun c => !Config.reaches n w.id (4 + c),
               engines := w.engines.filter fun c => !Config.reaches n w.id (264 + c) }

/-- The end of a step: time passes, caches take in what they take in, late writes reach readers, latent faults arise, and the next unit is
chosen. Every amount and choice is free (log 1, 2, 3, 13, 53). -/
def State.endStep (s : State) : State :=
  let n := s.tick
  let s := s.advance (Config.elapsed n)
  let s := ((Config.fills n).foldl State.fill s).drain n
  { s with tick := n + 1, turn := Config.nextTurn n, residue := s.residue + Config.residueFaults n,
           softErrors := s.softErrors ++ Config.softErrors n }

end Sys2Proof.Machine
end

