-- ==== Sys2Proof/Machine/Transcend.lean ====
section
/-!
DEFINITION. The correctly rounded functions of R146 and R262 beyond division and square root: exact cases first, then an enclosure
of the exact value in fixed point with 320 fraction bits, whose two ends round to the same encoding. Where they did not, the
result would be the free value Config.transcendental (log 8).
-/
namespace Sys2Proof.Machine
namespace Fix

/-- Fraction bits. -/
abbrev P : Nat := 320

/-- One in fixed point. -/
abbrev one : Nat := 2 ^ P

/-- An enclosure of a non-negative real: lo and hi over 2^P. -/
structure Enc where
  lo : Nat
  hi : Nat
deriving DecidableEq, Repr

/-- n / d rounded up. -/
def ceilDiv (n d : Nat) : Nat := (n + d - 1) / d

/-- Sum, product and quotient by a natural number. -/
def Enc.add (x y : Enc) : Enc := ⟨x.lo + y.lo, x.hi + y.hi⟩
def Enc.mul (x y : Enc) : Enc := ⟨x.lo * y.lo / one, ceilDiv (x.hi * y.hi) one⟩
def Enc.divNat (x : Enc) (n : Nat) : Enc := ⟨x.lo / n, ceilDiv x.hi n⟩

/-- The difference, where it is not negative. -/
def Enc.sub (x y : Enc) : Enc := ⟨x.lo - y.hi, x.hi - y.lo⟩

/-- The quotient of two enclosures. -/
def Enc.div (x y : Enc) : Enc := ⟨x.lo * one / y.hi, ceilDiv (x.hi * one) y.lo⟩

/-- An exact rational n / d. -/
def ratio (n d : Nat) : Enc := ⟨n * one / d, ceilDiv (n * one) d⟩

/-- The sum of z^(2k+1) / (2k+1) from the term p = z^(2k+1), with n terms left; w = z². The rest is below the last power. -/
def atanhSum (w : Enc) : Nat → Nat → Enc → Enc
  | 0, _, p => ⟨0, p.hi⟩
  | n + 1, k, p => (p.divNat (2 * k + 1)).add (atanhSum w n (k + 1) (p.mul w))

/-- 2 atanh z, for z at most 1/3. -/
def twoAtanh (z : Enc) : Enc :=
  let e := atanhSum (z.mul z) 110 0 z
  e.add e

/-- ln 2 = 2 atanh (1/3). -/
def ln2 : Enc := twoAtanh (ratio 1 3)

/-- The alternating sum of p, p w, p w², … with divisors 1, 3, 5, … (arc tangent): the sums of the even and of the odd terms. -/
def atanSums (w : Enc) : Nat → Nat → Enc → Enc × Enc
  | 0, _, p => (⟨0, p.hi⟩, ⟨0, p.hi⟩)
  | n + 1, k, p =>
    let r := atanSums w n (k + 1) (p.mul w)
    ((p.divNat (2 * k + 1)).add r.2, r.1)

/-- arctan (1/n). -/
def atanInv (n : Nat) : Enc :=
  let z := ratio 1 n
  let r := atanSums (z.mul z) 75 0 z
  r.1.sub r.2

/-- π = 16 arctan (1/5) − 4 arctan (1/239). -/
def pi : Enc :=
  let a := atanInv 5
  let b := atanInv 239
  Enc.sub ⟨16 * a.lo, 16 * a.hi⟩ ⟨4 * b.lo, 4 * b.hi⟩

/-- e^t for t below 1: the sum of the terms from p = t^k / k!, with n terms left; the rest is below twice the last term. -/
def expSum (t : Enc) : Nat → Nat → Enc → Enc
  | 0, _, p => ⟨0, 2 * p.hi⟩
  | n + 1, k, p => p.add (expSum t n (k + 1) ((p.mul t).divNat (k + 1)))

/-- 2^f for a fraction f = n / d below 1. -/
def exp2Frac (n d : Nat) : Enc :=
  let l := ln2
  expSum ⟨l.lo * n / d, ceilDiv (l.hi * n) d⟩ 70 0 ⟨one, one⟩

/-- The sums of the even and of the odd terms of the sine's series from p = t^(2k+1) / (2k+1)!; w = t². -/
def sinSums (w : Enc) : Nat → Nat → Enc → Enc × Enc
  | 0, _, p => (⟨0, p.hi⟩, ⟨0, p.hi⟩)
  | n + 1, k, p =>
    let r := sinSums w n (k + 1) ((p.mul w).divNat ((2 * k + 2) * (2 * k + 3)))
    (p.add r.2, r.1)

/-- sin(π n / d) for n / d at most 1/2. -/
def sinPiFrac (n d : Nat) : Enc :=
  let t : Enc := ⟨pi.lo * n / d, ceilDiv (pi.hi * n) d⟩
  let r := sinSums (t.mul t) 40 0 t
  r.1.sub r.2

/-- log2 (n / d) for n / d from 1 to 2. -/
def log2Frac (n d : Nat) : Enc := (twoAtanh (ratio (n - d) (n + d))).div ln2

end Fix

/-- An enclosed value times 2^e encoded: the common encoding of its two ends, which are not exact. -/
def encodeEnc (code bits ty rm : Nat) (sat neg : Bool) (x : Fix.Enc) (e : Int) : Nat × Flags :=
  let a := encodeTy ty (.fin neg x.lo (e - Fix.P)) rm sat
  let b := encodeTy ty (.fin neg x.hi (e - Fix.P)) rm sat
  if x.lo ≠ 0 ∧ a.1 = b.1 then (a.1, a.2 ||| b.2 ||| Flag.nx)
  else (Config.transcendental code bits ty rm % 2 ^ tyWidth ty, Flag.nx)

/-- The floor of a finite value, and its fraction as a numerator over a power of two. -/
def splitFloor (neg : Bool) (n : Nat) (e : Int) : Int × Nat × Nat :=
  if 0 ≤ e then ((if neg then -1 else 1) * ((n * 2 ^ e.toNat : Nat) : Int), 0, 1)
  else
    let d : Nat := 2 ^ (-e).toNat
    let v : Int := if neg then -(n : Int) else n
    (v / (d : Int), (v % (d : Int)).toNat, d)

/-- 2^x (Table 6.6). A value beyond 2^±1000 is held at 2^±1000, where every format overflows or underflows in the same way. -/
def exp2Bits (ty bits rm : Nat) (sat : Bool) : Nat × Flags :=
  match decodeTy ty bits with
  | .nan b => encodeTy ty (.nan b) rm sat
  | .inf true => (0, 0)
  | .inf false => encodeTy ty (.inf false) rm sat
  | .fin neg n e =>
    if 1024 < (Nat.log2 n : Int) + e then
      encodeTy ty (.fin false 3 (if neg then -1000 else 1000)) rm sat
    else
      let (k, f, d) := splitFloor neg n e
      let k := max (-1000) (min 1000 k)
      if f = 0 then encodeTy ty (.fin false 1 k) rm sat
      else encodeEnc 0 bits ty rm sat false (Fix.exp2Frac f d) k

/-- log2 x (Table 6.6). -/
def log2Bits (ty bits rm : Nat) (sat : Bool) : Nat × Flags :=
  match decodeTy ty bits with
  | .nan b => encodeTy ty (.nan b) rm sat
  | .inf true => (canonNan ty, Flag.nv)
  | .inf false => encodeTy ty (.inf false) rm sat
  | .fin neg n e =>
    if n = 0 then ((encodeTy ty (.inf true) rm sat).1, Flag.dz)
    else if neg then (canonNan ty, Flag.nv)
    else
      let l := Nat.log2 n
      let k : Int := (l : Int) + e
      if n = 2 ^ l then encodeTy ty (Ext.ofInt k) rm sat
      else
        let m := Fix.log2Frac n (2 ^ l)
        if 0 ≤ k then encodeEnc 1 bits ty rm sat false ⟨k.toNat * Fix.one + m.lo, k.toNat * Fix.one + m.hi⟩ 0
        else
          let a := (-k).toNat * Fix.one
          encodeEnc 1 bits ty rm sat true ⟨a - m.hi, a - m.lo⟩ 0

/-- sin(π r) for r = n / d below 2 that is no multiple of 1/2, as a sign and an enclosure. -/
def sinPiTurn (n d : Nat) : Bool × Fix.Enc :=
  let (neg, n) := if d ≤ n then (true, n - d) else (false, n)
  (neg, Fix.sinPiFrac (if 2 * n ≤ d then n else d - n) d)

/-- sin(π x), and cos(π x) = sin(π (|x| + 1/2)) (Table 6.6). -/
def sinpiBits (cos : Bool) (ty bits rm : Nat) (sat : Bool) : Nat × Flags :=
  match decodeTy ty bits with
  | .nan b => encodeTy ty (.nan b) rm sat
  | .inf _ => (canonNan ty, Flag.nv)
  | .fin neg n e =>
    let d : Nat := if 0 ≤ e then 2 else 2 ^ ((-e).toNat + 1)
    let num : Nat := if 0 ≤ e then n * 2 ^ (e.toNat + 1) else 2 * n
    let r := (num + (if cos then d / 2 else 0)) % (2 * d)
    let neg := neg && !cos
    if r = 0 ∨ r = d then encodeTy ty (.fin neg 0 0) rm sat
    else if 2 * r = d then encodeTy ty (.fin neg 1 0) rm sat
    else if 2 * r = 3 * d then encodeTy ty (.fin (!neg) 1 0) rm sat
    else
      let (b, m) := sinPiTurn r d
      encodeEnc (if cos then 3 else 2) bits ty rm sat (b != neg) m 0

/-- 1 / √x (Table 6.6), cut with a last bit that says whether something was cut off. -/
def rsqrtExt (x : Ext) : Ext × Flags :=
  let f := snanFlag [x]
  match x with
  | .nan _ => (.nan false, f)
  | .inf true => (.nan false, f ||| Flag.nv)
  | .inf false => (.fin false 0 0, f)
  | .fin neg n e =>
    if n = 0 then (.inf neg, f ||| Flag.dz)
    else if neg then (.nan false, f ||| Flag.nv)
    else
      let (n, e) := if e % 2 = 0 then (n, e) else (2 * n, e - 1)
      let h := 128 + Nat.log2 n
      let r := isqrt (2 ^ (2 * h) / n)
      (.fin false (2 * r + (if r * r * n = 2 ^ (2 * h) then 0 else 1)) (-e / 2 - h - 1), f)

/-- VEXP2 of an F32 value under RNE, as the row engine uses it (R148). -/
def expF32 (x : Ext) : Ext :=
  let l2e := decodeTy Ty.f32 0x3FB8AA3B
  let y := encodeTy Ty.f32 (mulExt x l2e).1 0 false
  decodeTy Ty.f32 (exp2Bits Ty.f32 y.1 0 false).1

end Sys2Proof.Machine
end

