-- ==== Sys2Proof/Machine/Engines.lean ====
section
/-!
DEFINITION. What the region-addressed engines compute: MM, MMD, MMZ, XP and ROW (R143 to R148, R222 to R229), their checks at
issue (R83, R87, R89), and their numeric provenance (R373).
-/
namespace Sys2Proof.Machine

/-! ## Elements of an operand -/

/-- The linear index of the tile that holds an element. -/
def Buf.tileIndex (b : Buf) (idx : Nat → Nat) : Nat :=
  ((List.range b.rank).foldl (fun (acc : Nat × Nat) d => (acc.1 + b.tileCoord d (idx d) * acc.2, acc.2 * b.tilesAlong d)) (0, 1)).1

/-- The buffer of an operand. -/
def Core.opBuf (x : Core) (o : Operand) : Buf :=
  (x.buf (rgnBuf o.rgn)).getD ⟨0, 0, 0, [], [], 0, [], 0, 0, 0, 0, 0, none, [], 0⟩

/-- The index of element (j, i) of an operand's box. -/
def boxIndex (r : BitVec 192) (j i d : Nat) : Nat := rgnO r d + if d = 0 then j else if d = 1 then i else 0

/-- Where element (j, i) of an operand lies, at the slot bound to its tile (R58, R85, R220). -/
def Core.place (x : Core) (c : Nat) (o : Operand) (j i : Nat) : Option (Nat × Nat) :=
  let b := x.opBuf o
  let idx := boxIndex o.rgn j i
  b.elemKey c (b.slotOf o.binds (b.tileIndex idx)) idx

/-- The bits of element (j, i) of an operand, as the core's engines see them (R111, R315). -/
def State.opRead (s : State) (c : Nat) (o : Operand) (j i : Nat) : Nat :=
  match (s.core c).place c o j i with
  | some p => s.readElem (.engine c) ((s.core c).opBuf o).esize4 p
  | none => 0

/-- The operand at a position of a task; position 4 and beyond are writes. -/
def Task.op (t : Task) (pos : Nat) : Operand := (t.ops.find? (·.pos == pos)).getD ⟨pos, 0, []⟩

/-- The elements of an operand's box. -/
def boxOf (r : BitVec 192) : List (Nat × Nat) :=
  (List.range (rgnX r 1)).flatMap fun i => (List.range (rgnX r 0)).map fun j => (j, i)

/-- The keys of an operand's elements. -/
def Core.placesOf (x : Core) (c : Nat) (o : Operand) : List Nat :=
  (boxOf o.rgn).filterMap fun p => (x.place c o p.1 p.2).map (·.1)

/-- The bytes that an element of a size touches at its key. -/
def elemBytes (esize4 : Nat) : Nat := max 1 (esize4 / 2)

/-- Whether an operand is empty (R60). -/
def Core.opEmpty (x : Core) (o : Operand) : Bool := rgnEmpty (x.opBuf o) o.rgn

/-! ## Checks at issue -/

/-- The slots that an operand's tiles are bound to. -/
def Core.slotsOf (x : Core) (o : Operand) : List Nat :=
  let b := x.opBuf o
  if b.renamed then (o.binds.map fun p => b.slotOf o.binds p.1).eraseDups else [0]

/-- The byte spans of an operand at its bound slots: virtual addresses. -/
def Core.spansOf (x : Core) (o : Operand) : List (Nat × Nat) :=
  let b := x.opBuf o
  (x.slotsOf o).map fun v => (spanLo b o.rgn + v * b.vstride, spanHi b o.rgn + v * b.vstride)

/-- Whether an operand lies in the own scratchpad, through either of its windows (R83). -/
def Core.inOwnPad (x : Core) (c : Nat) (o : Operand) : Bool :=
  (x.spansOf o).all fun p => match ownKey c p.1, ownKey c (p.2 - 1) with
    | some a, some b => b + 1 - a == p.2 - p.1
    | _, _ => false

/-- The offsets in the own scratchpad of an operand's spans: first and last byte. -/
def Core.padSpans (x : Core) (c : Nat) (o : Operand) : List (Nat × Nat) :=
  (x.spansOf o).filterMap fun p => match ownKey c p.1, ownKey c (p.2 - 1) with
    | some a, some b => some ((a - spBase c) % 2 ^ 21, (b - spBase c) % 2 ^ 21)
    | _, _ => none

/-- The bank group of an offset (R84). -/
def bankGroup (off : Nat) : Nat := bitsOf off 20 19

/-- R87: A and B in the own scratchpad, each within one bank group, and the two in different ones. -/
def Core.matGroups (x : Core) (c : Nat) (a b : Operand) : Option Nat :=
  let one (o : Operand) : Option Nat :=
    if !x.inOwnPad c o then some Cause.xlate
    else if (x.padSpans c o).any fun p => bankGroup p.1 != bankGroup p.2 then some Cause.bankgrp
    else none
  match one a with
  | some e => some e
  | none => match one b with
    | some e => some e
    | none =>
      if (x.padSpans c a).any fun p => (x.padSpans c b).any fun q => bankGroup p.1 == bankGroup q.1 then some Cause.bankgrp else none

/-- R89 and R223 for an accumulator position: the buffer lies in the accumulator names, and every bank covered is held. -/
def Core.accCheck (x : Core) (o : Operand) : Option Nat :=
  let b := x.opBuf o
  if !inAccNames b.base then some Cause.xlate
  else
    let bank (j i : Nat) : Nat := ((b.linear 0 (boxIndex o.rgn j i)).1 - accNames) / 2048
    let n := rgnX o.rgn 0
    if (List.range (rgnX o.rgn 1)).all fun i => x.held.getLsbD (bank 0 i) && x.held.getLsbD (bank (n - 1) i) then none
    else some Cause.protect

/-- An operand that must lie in the own scratchpad. -/
def Core.padCheck (x : Core) (c : Nat) (o : Operand) : Option Nat := if x.inOwnPad c o then none else some Cause.xlate

/-- The first failure of a list of checks. -/
def firstCause : List (Option Nat) → Option Nat
  | [] => none
  | none :: l => firstCause l
  | some e :: _ => some e

/-- The checks that a region-addressed command or a VRUN makes at issue (R87, R89, R223, R225, R227, R228, R231); an empty operand
of a region-addressed command ends them (R221). -/
def Core.issueCheck (x : Core) (c : Nat) (t : Task) : Option Nat :=
  match t.cmd with
  | .mm _ _ =>
    if t.ops.any x.opEmpty then none
    else firstCause [x.matGroups c (t.op 0) (t.op 1), x.accCheck (t.op 4)]
  | .mmd f _ =>
    if t.ops.any x.opEmpty then none
    else firstCause ([x.accCheck (t.op 0)] ++
      ((t.ops.filter fun o => 0 < o.pos ∧ o.pos < 4).map fun o => x.padCheck c o) ++
      [if f.tgt then x.accCheck (t.op 4) else x.padCheck c (t.op 4)])
  | .mmz => if t.ops.any x.opEmpty then none else x.accCheck (t.op 4)
  | .xp => if t.ops.any x.opEmpty then none else firstCause (t.ops.map fun o => x.padCheck c o)
  | .row _ _ => if t.ops.any x.opEmpty then none else firstCause (t.ops.map fun o => x.padCheck c o)
  | .vrun ent _ =>
    firstCause ((t.ops.filter fun o => !x.opEmpty o).map (fun o => x.padCheck c o) ++
      [if ent.toNat % 8 ≠ 0 then some Cause.misalign else none])
  | _ => none

/-! ## Results -/

/-- What an engine's element computation gives: its bits, and the provenance event of Table 19.6 (0 none) with its k-group. -/
structure Elem where
  bits : Nat
  event : Nat
  group : Nat
deriving DecidableEq, Repr

/-- RoundTo F32 under a mode, as a value. -/
def toF32 (x : Ext) (rm : Nat) : Ext := roundTo Ty.f32 x rm

/-- The type pair's k-group size G (R143, R144). -/
def groupSize (fa : Nat) : Nat :=
  match fa with
  | 9 => 16 | 10 => 16 | 13 => 64 | 3 => 64 | _ => 32

/-- The group size of a pair: 64 only when both are 4 bits wide (Table 10.5). -/
def pairGroup (fa fb : Nat) : Nat := min (groupSize fa) (groupSize fb)

/-- GroupSum of R143 over the raw elements of one group, with its provenance event. -/
def groupSum (fa fb : Nat) (xs : List (Nat × Nat)) : Ext × Nat :=
  let vs := xs.map fun p => (decodeTy fa p.1, decodeTy fb p.2)
  if vs.any fun v => v.1.isNan || v.2.isNan then (.nan false, 1)
  else
    let r := (sumExt (vs.map fun v => (mulExt v.1 v.2).1) 0).1
    let r := if vs.isEmpty then .fin false 0 0 else r
    if r.isNan then (r, 3)
    else if vs.any fun v => v.1.isInf || v.2.isInf then (r, 2)
    else (r, 0)

/-- One accumulator update of R143: the new F32 bits and the event. -/
def accUpdate (acc : Nat) (r : Ext × Nat) : Nat × Nat :=
  let a := decodeTy Ty.f32 acc
  let g := toF32 r.1 0
  let v := (sumExt [a, g] 0).1
  let bits := (encodeTy Ty.f32 v 0 false).1
  let out := decodeTy Ty.f32 bits
  let event :=
    if r.2 ≠ 0 then r.2
    else if !r.1.isInf && g.isInf then 4
    else if out.isNan && !a.isNan then 3
    else if out.isInf && !a.isInf && !g.isInf then 4
    else 0
  (bits, event)

/-- The update of one accumulator element over its k-groups: (element, k-group number, first event). -/
def mmGroups (fa fb : Nat) (acc g : Nat) (e : Elem) : List (List (Nat × Nat)) → Elem
  | [] => { e with bits := acc }
  | xs :: rest =>
    if tyInt fa then
      let sum : Int := xs.foldl (fun (v : Int) p => v + sextInt p.1 (tyBits fa) * sextInt p.2 (tyBits fb)) 0
      mmGroups fa fb (wrapBits (sextInt acc 32 + sum) 32) (g + 1) e rest
    else
      let (acc, ev) := accUpdate acc (groupSum fa fb xs)
      mmGroups fa fb acc (g + 1) (if e.event = 0 ∧ ev ≠ 0 then { e with event := ev, group := g } else e) rest

/-- A list cut into pieces of n, with fuel. -/
def pieces (n : Nat) : Nat → List α → List (List α)
  | 0, _ => []
  | fuel + 1, l => if l.isEmpty then [] else l.take n :: pieces n fuel (l.drop n)

/-- acc[i][j] of MM (R143, R144, R224). -/
def State.mmElem (s : State) (c : Nat) (t : Task) (fa fb : Nat) (i j : Nat) : Elem :=
  let a := t.op 0
  let b := t.op 1
  let k := rgnX a.rgn 0
  let g := pairGroup fa fb
  let xs := (List.range k).map fun n => (s.opRead c a n i, s.opRead c b j n)
  mmGroups fa fb (s.opRead c (t.op 4) j i) 0 ⟨0, 0, 0⟩ (pieces g (k / g + 1) xs)

/-- A value on the way to a result, and whether a rounding on that way overflowed (R373). -/
structure Part where
  val : Ext
  ovf : Bool
deriving DecidableEq, Repr

/-- A value that no rounding made. -/
def exactPart (x : Ext) : Part := ⟨x, false⟩

/-- An exact value of some parts rounded to F32 under a mode. -/
def roundPart (x : Ext) (rm : Nat) (from_ : List Part) : Part :=
  let e := encodeTy Ty.f32 x rm false
  ⟨decodeTy Ty.f32 e.1, from_.any (·.ovf) || e.2 &&& Flag.of != 0⟩

/-- A product, sum, difference and quotient rounded to F32. -/
def mulPart (rm : Nat) (x y : Part) : Part := roundPart (mulExt x.val y.val).1 rm [x, y]
def addPart (rm : Nat) (x y : Part) : Part := roundPart (sumExt [x.val, y.val] rm).1 rm [x, y]
def subPart (x y : Part) : Part := roundPart (sumExt [x.val, y.val.flip] 0).1 0 [x, y]
def divPart (x y : Part) : Part := roundPart (divExt x.val y.val).1 0 [x, y]

/-- The event of a result encoded into a format (Table 19.6). -/
def encodeEvent (fout : Nat) (r : Nat × Flags) : Nat :=
  if tyInt fout then (if r.2 &&& Flag.nv ≠ 0 then 7 else 0)
  else if r.2 &&& Flag.of ≠ 0 then
    (let v := decodeTy fout r.1; if v.isInf || v.isNan then 5 else 6)
  else 0

/-- The event of a result whose own encoding overflowed, or one of the roundings before it: the result is an infinity or a NaN, or saturated. -/
def partEvent (fout : Nat) (ovf : Bool) (r : Nat × Flags) : Nat :=
  if ovf && !tyInt fout then encodeEvent fout (r.1, Flag.of) else encodeEvent fout r

/-- The event of an operand element that is read. -/
def operandEvent (x : Ext) : Nat := if x.isNan then 1 else if x.isInf then 2 else 0

/-- The first event that is not 0. -/
def firstEvent : List Nat → Nat
  | [] => 0
  | 0 :: l => firstEvent l
  | n :: _ => n

/-- A scale of R145: F32 or E8M0. -/
def scaleValue (e8 : Bool) (bits : Nat) : Ext := decodeTy (if e8 then Ty.e8m0 else Ty.f32) bits

/-- out[i][j] of MMD (R145, R225): the bits for the output or for the accumulator of the add port. -/
def State.mmdElem (s : State) (c : Nat) (t : Task) (f : DrainFields) (clr : Word) (i j : Nat) : Elem :=
  let acc := s.opRead c (t.op 0) j i
  let clamp := f.clr != 0
  if f.acci && !f.rs && !f.cs && !f.bi && !clamp && f.fout == 2 then ⟨acc, 0, 0⟩
  else
    let rm := f.rm.toNat
    let rs := if f.rs then scaleValue f.rsf (s.opRead c (t.op 1) i 0) else .fin false 1 0
    let cs := if f.cs then scaleValue f.csf (s.opRead c (t.op (1 + f.rs.toNat)) j 0) else .fin false 1 0
    let bias := decodeTy Ty.f32 (s.opRead c (t.op (1 + f.rs.toNat + f.cs.toNat)) j 0)
    let x := roundPart (decodeTy (if f.acci then Ty.i32 else Ty.f32) acc) rm []
    let x := mulPart rm (mulPart rm x (exactPart rs)) (exactPart cs)
    let x := if f.bi then addPart rm x (exactPart bias) else x
    let lo := decodeTy Ty.f32 (clr.toNat % 2 ^ 32)
    let hi := decodeTy Ty.f32 (clr.toNat / 2 ^ 32)
    let x := if clamp && x.val.lt lo then exactPart lo else x
    let x := if clamp && hi.lt x.val then exactPart hi else x
    let r := if f.tgt then
        encodeTy Ty.f32 (sumExt [decodeTy Ty.f32 (s.opRead c (t.op 4) j i), x.val] rm).1 rm false
      else encodeTy f.fout.toNat x.val rm f.sat
    ⟨r.1, firstEvent [operandEvent rs, operandEvent cs, if f.bi then operandEvent bias else 0,
      partEvent (if f.tgt then Ty.f32 else f.fout.toNat) x.ovf r], 0⟩

/-! ## Rows (R147, R148, R229) -/

/-- One level of the tree of R147, with the flags of its additions. -/
def pairSums (rm : Nat) : List Ext → List Ext × Flags
  | a :: b :: l =>
    let r := deliver Ty.f32 (sumExt [a, b] rm) rm false
    let (xs, f) := pairSums rm l
    (decodeTy Ty.f32 r.1 :: xs, r.2 ||| f)
  | l => (l, 0)

/-- The tree of R147 over a list whose length is a power of two, with fuel for its levels. -/
def treeSum (rm : Nat) : Nat → List Ext → Ext × Flags
  | 0, l => (l.headD (.fin true 0 0), 0)
  | n + 1, l =>
    match l with
    | [] => (.fin true 0 0, 0)
    | [x] => (x, 0)
    | l =>
      let (xs, f) := pairSums rm l
      let (v, g) := treeSum rm n xs
      (v, f ||| g)

/-- The sum of a row: blocks of 64 by the tree, padded with −0, then added in order (R148). -/
def blockSum (xs : List Part) : Part :=
  let sums := (pieces 64 (xs.length / 64 + 1) xs).map fun b =>
    let r := treeSum 0 7 (b.map (·.val) ++ List.replicate (64 - b.length) (.fin true 0 0))
    (⟨r.1, b.any (·.ovf) || r.2 &&& Flag.of != 0⟩ : Part)
  match sums with
  | [] => exactPart (.fin true 0 0)
  | b :: bs => bs.foldl (addPart 0) b

/-- The greater of two values under VFMAX (R259): a NaN wins, and +0 is above −0. -/
def maxExt (x y : Ext) : Ext :=
  if x.isNan || y.isNan then .nan false
  else if x.lt y then y
  else if y.lt x then x
  else if x.isZero && x.neg then y else x

/-- SOFTMAX of a row: the exact quotients, 0 where the row is fully masked. -/
def softmaxRow (xs : List Ext) (scale : Ext) (masked : Nat → Bool) : List Part :=
  let z := xs.mapIdx fun k x => if masked k then exactPart (.inf true) else mulPart 0 (exactPart x) (exactPart scale)
  let m : Part := ⟨(z.map (·.val)).foldl maxExt (.inf true), z.any fun x => x.ovf && !x.val.neg⟩
  if m.val.isInf && m.val.neg then xs.map fun _ => exactPart (.fin false 0 0)
  else
    let e := z.mapIdx fun k x =>
      if masked k then exactPart (.fin false 0 0) else let d := subPart x m; ⟨expF32 d.val, d.ovf⟩
    let sum := blockSum e
    e.map fun x => ⟨(divExt x.val sum.val).1, x.ovf || sum.ovf⟩

/-- The reciprocal root of a mean of squares and the epsilon, as RMSNORM and LNORM form it. -/
def normScale (squares : List Part) (n eps : Ext) : Part :=
  let v := addPart 0 (divPart (blockSum squares) (exactPart n)) (exactPart eps)
  roundPart (rsqrtExt v.val).1 0 [v]

/-- RMSNORM of a row: exact products before the last rounding. -/
def rmsRow (xs gs : List Ext) (eps : Ext) : List Part :=
  let xs := xs.map exactPart
  let r := normScale (xs.map fun x => mulPart 0 x x) (Ext.ofInt xs.length) eps
  List.zipWith (fun x g => let y := mulPart 0 x r; ⟨(mulExt y.val g).1, y.ovf⟩) xs gs

/-- LNORM of a row: the sums before the last rounding (rm is that of the last rounding). -/
def lnormRow (xs gs bs : List Ext) (eps : Ext) (rm : Nat) : List Part :=
  let n := Ext.ofInt xs.length
  let xs := xs.map exactPart
  let mean := divPart (blockSum xs) (exactPart n)
  let t := xs.map fun x => subPart x mean
  let r := normScale (t.map fun x => mulPart 0 x x) n eps
  let w := List.zipWith (fun x g => mulPart 0 (mulPart 0 x r) (exactPart g)) t gs
  List.zipWith (fun x b => ⟨(sumExt [x.val, b] rm).1, x.ovf⟩) w bs

/-- The results of row r of a ROW task (R229), with their events: the elements of the row, the gain and the shift that were read, then the result; an
infinity of a rounding before the last is an event where the result is not finite. -/
def State.rowResults (s : State) (c : Nat) (t : Task) (f : RowFields) (preg : Word) (r : Nat) : List Elem :=
  let a := t.op 0
  let l := rgnX a.rgn 0
  let ks := List.range l
  let xs := ks.map fun k => decodeTy f.fin.toNat (s.opRead c a k r)
  let vec (pos : Nat) : List Ext := ks.map fun k => decodeTy Ty.f32 (s.opRead c (t.op pos) k 0)
  let low := decodeTy Ty.f32 (preg.toNat % 2 ^ 32)
  let eps : Ext := if f.preg = 0 then .fin false 0 0 else low
  let diag := sextInt (preg.toNat / 2 ^ 32) 32
  let masked (k : Nat) : Bool := f.causal && decide (((rgnO a.rgn 0 + k : Nat) : Int) > diag + ((rgnO a.rgn 1 + r : Nat) : Int))
  let gs : List Ext := if f.opk = 0 then [] else vec 1
  let bs : List Ext := if f.opk = 0 ∨ f.opk = 1 then [] else vec 2
  let ys :=
    if f.opk = 0 then softmaxRow xs (if f.preg = 0 then .fin false 1 0 else low) masked
    else if f.opk = 1 then rmsRow xs gs eps
    else lnormRow xs gs bs eps f.rm.toNat
  let zero : Ext := .fin false 0 0
  (List.zip xs ys).mapIdx fun k p =>
    let e := encodeTy f.fout.toNat p.2.val f.rm.toNat f.sat
    let ovf := p.2.ovf && (p.2.val.isInf || p.2.val.isNan)
    ⟨e.1, firstEvent [operandEvent p.1, operandEvent (gs.getD k zero), operandEvent (bs.getD k zero), partEvent f.fout.toNat ovf e], 0⟩

/-! ## The effect of a task -/

/-- What a region-addressed task does at its completion: the results for its write operand by (j, i), in the order of R373. -/
def State.results (s : State) (c : Nat) (t : Task) : List ((Nat × Nat) × Elem) :=
  let d := (t.op 4).rgn
  match t.cmd with
  | .mm fa fb => (boxOf d).map fun p => (p, s.mmElem c t fa fb p.2 p.1)
  | .mmd f clr => (boxOf d).map fun p => (p, s.mmdElem c t f clr p.2 p.1)
  | .mmz => (boxOf d).map fun p => (p, ⟨0, 0, 0⟩)
  | .xp => (boxOf d).map fun p => (p, ⟨s.opRead c (t.op 0) p.2 p.1, 0, 0⟩)
  | .row f preg => (List.range (rgnX d 1)).flatMap fun r => (s.rowResults c t f preg r).mapIdx fun k e => ((k, r), e)
  | _ => []

/-- The first event of a list of results: for MM the least k-group first (R373). -/
def firstNum (rs : List ((Nat × Nat) × Elem)) : Option ((Nat × Nat) × Elem) :=
  rs.foldl (fun best r =>
    if r.2.event = 0 then best
    else match best with
      | none => some r
      | some b => if r.2.group < b.2.group then some r else best) none

/-- The NUM record of a task's first event (R373). -/
def State.numRecord (s : State) (c : Nat) (t : Task) (rs : List ((Nat × Nat) × Elem)) : State :=
  if !trClass (s.strand c t.ring).sys.trctl 7 then s
  else match firstNum rs with
    | none => s
    | some (p, e) =>
      s.record c t.ring 5 (t.seq.toNat + e.event * 2 ^ 32 + t.cmd.path * 2 ^ 36)
        (p.2 % 2 ^ 16 + p.1 % 2 ^ 16 * 2 ^ 16 + e.group % 2 ^ 16 * 2 ^ 32) t.step.toNat t.safePoint

/-- Whether an operand's elements include a poisoned one (R475). -/
def State.opPoisoned (s : State) (c : Nat) (o : Operand) : Bool :=
  let n := elemBytes ((s.core c).opBuf o).esize4
  ((s.core c).placesOf c o).any fun k => s.poisoned k n

/-- The operands that a command reads the values of: MMZ reads none, and a write-only output is not read. -/
def Task.readOps (t : Task) : List Operand :=
  match t.cmd with
  | .mm _ _ => t.ops
  | .mmd f _ => t.ops.filter fun o => o.pos < 4 || f.tgt
  | _ => t.ops.filter fun o => o.pos < 4

/-- A region-addressed task finishes: it fails with POISON when it read poison, with PROTECT or BARRIER_STORE when its write region
is refused (R80, R200), and else writes its results and completes. -/
def State.finishCompute (s : State) (c : Nat) (t : Task) : State :=
  let x := s.core c
  if t.ops.any x.opEmpty then s.retire c t none
  else
    let s := t.ops.foldl (fun s o => s.scan (x.placesOf c o) (elemBytes (x.opBuf o).esize4)) s
    if t.readOps.any (s.opPoisoned c) then s.failTask c t Cause.poison
    else
      let d := t.op 4
      let b := x.opBuf d
      let ks := x.placesOf c d
      if ks.any (fun k => s.frozenAt (.here k)) then s.failTask c t Cause.protect
      else if ks.any (fun k => s.tagAt (.here k) (elemBytes b.esize4)) then s.failTask c t Cause.barrierStore
      else
        let rs := s.results c t
        let s := s.numRecord c t rs
        let s := rs.foldl (fun s r => match x.place c d r.1.1 r.1.2 with
          | some p => s.writeElem b.esize4 p r.2.bits
          | none => s) s
        let ps := rs.filterMap fun r => x.place c d r.1.1 r.1.2
        (s.coverClear (wholeBytes b.esize4 ps) (elemBytes b.esize4)).retire c t none

end Sys2Proof.Machine
end

