-- ==== Sys2Proof/Machine/Lanes.lean ====
section
/-!
DEFINITION. The context that moves, lanes of vector registers, register groups, the mask stack, and the lane rule of R249.
-/
namespace Sys2Proof.Machine

/-! ## The context that moves -/

/-- The context that moves. -/
def State.ctx (s : State) : Ctx := s.here.ctxs[s.at_.ctx]

/-- The state with the context that moves changed. -/
def State.modCtx (s : State) (f : Ctx → Ctx) : State :=
  s.modCore s.myCore fun x => { x with ctxs := x.ctxs.set s.at_.ctx.val (f x.ctxs[s.at_.ctx]) }

/-- The VRUN of the context that moves. -/
def State.ctxTask (s : State) : Option Task := s.ctx.task.bind s.here.task

/-- The VRUN of the context that moves fails with a cause (R34, R154). -/
def State.vfail (s : State) (cause : Nat) : State :=
  match s.ctxTask with
  | some t => s.failTask s.myCore t cause
  | none => s

/-- The word has completed: its flags are collected (R251), and the next word follows. -/
def State.vdone (s : State) (f : Flags) : State := s.modCtx fun y => { y with pc := y.pc + 8, flags := y.flags ||| f }

/-! ## Registers -/

/-- A vector register. -/
def Ctx.vreg (y : Ctx) (r : VReg) : BitVec 4096 := y.v[r.toNat]'(r.isLt)

/-- Writing a vector register. -/
def Ctx.setV (y : Ctx) (r : VReg) (x : BitVec 4096) : Ctx := { y with v := y.v.set r.toNat x r.isLt }

/-- An address register: a0 reads as zero (R246). -/
def Ctx.areg (y : Ctx) (r : AReg) : Word := if r = 0 then 0 else y.a[r.toNat]'(r.isLt)

/-- Writing an address register: a write to a0 is discarded (R277). -/
def Ctx.setA (y : Ctx) (r : AReg) (x : Word) : Ctx := if r = 0 then y else { y with a := y.a.set r.toNat x r.isLt }

/-- The lanes of n bits of a register (R247). -/
def lanesOf (n : Nat) (x : BitVec 4096) : List Nat :=
  (List.range (4096 / n)).map fun i => x.toNat / 2 ^ (n * i) % 2 ^ n

/-- A register from its lanes of n bits. -/
def packLanes (n : Nat) : List Nat → Nat
  | [] => 0
  | x :: xs => x % 2 ^ n + packLanes n xs * 2 ^ n

/-- The lanes of a register at a type. -/
def Ctx.lanes (y : Ctx) (r : VReg) (ty : Nat) : List Nat := lanesOf (tyBits ty) (y.vreg r)

/-- The elements of a group of g registers of n-bit lanes: element i stands at position i div g of register i mod g (R248). -/
def Ctx.groupLanes (y : Ctx) (r : VReg) (n g : Nat) : List Nat :=
  let regs := (List.range g).map fun k => lanesOf n (y.vreg (r + BitVec.ofNat 6 k))
  (List.range (g * (4096 / n))).map fun i => (regs.getD (i % g) []).getD (i / g) 0

/-- Writing the elements of a group. -/
def Ctx.setGroup (y : Ctx) (r : VReg) (n g : Nat) (xs : List Nat) : Ctx :=
  (List.range g).foldl (fun y k =>
    y.setV (r + BitVec.ofNat 6 k) (BitVec.ofNat 4096 (packLanes n ((List.range (4096 / n)).map fun p => xs.getD (p * g + k) 0)))) y

/-! ## Masks (R265) -/

/-- The top entry of the mask stack. -/
def Ctx.top (y : Ctx) : Option (BitVec 1024) := y.masks.head?

/-- The activity of lanes for a word: under m = 1 the top entry, else every lane; none when the stack is empty (R249). -/
def Ctx.activity (y : Ctx) (m : Bool) : Option (Nat → Bool) :=
  if m then y.top.map fun t i => t.getLsbD i else some fun _ => true

/-- A mask entry from its first bits; the rest are clear. -/
def maskOf (bs : List Bool) : BitVec 1024 :=
  BitVec.ofNat 1024 (packLanes 1 (bs.map fun b => if b then 1 else 0))

/-- Pushing an entry; a full stack fails the VRUN (R265). -/
def State.pushMask (s : State) (p : BitVec 1024) (f : Flags) : Out :=
  if 16 ≤ s.ctx.masks.length then .next (s.vfail Cause.maskstack)
  else .next ((s.modCtx fun y => { y with masks := p :: y.masks }).vdone f)

/-- Acting on the top entry; an empty stack fails the VRUN (R265). -/
def State.onTop (s : State) (go : BitVec 1024 → State → Out) : Out :=
  match s.ctx.top with
  | some t => go t s
  | none => .next (s.vfail Cause.maskstack)

/-- Acting on the two top entries, t and u below it, which are popped. -/
def State.onTwo (s : State) (go : BitVec 1024 → BitVec 1024 → BitVec 1024) : Out :=
  match s.ctx.masks with
  | t :: u :: rest => .next ((s.modCtx fun y => { y with masks := go t u :: rest }).vdone 0)
  | _ => .next (s.vfail Cause.maskstack)

/-! ## The lane rule (R249) -/

/-- Lane results as they are written: an inactive lane keeps its old value and raises no flag. -/
def mergeLanes (act : Nat → Bool) (old : List Nat) (new : List (Nat × Flags)) : List Nat × Flags :=
  let xs := List.zipWith (fun (p : Nat × Nat) (r : Nat × Flags) => if act p.1 then r.1 else p.2) (old.mapIdx fun i x => (i, x)) new
  (xs, (new.mapIdx fun i r => if act i then r.2 else 0).foldl (· ||| ·) 0)

/-- An instruction writes a group of g registers of n-bit lanes with the results of its function, by the lane rule. -/
def State.writeLanes (s : State) (vd : VReg) (n g : Nat) (m : Bool) (new : List (Nat × Flags)) : Out :=
  match s.ctx.activity m with
  | none => .next (s.vfail Cause.maskstack)
  | some act =>
    let (xs, f) := mergeLanes act (s.ctx.groupLanes vd n g) new
    .next ((s.modCtx fun y => y.setGroup vd n g xs).vdone f)

/-- A lane instruction of one source. -/
def State.lane1 (s : State) (vd va : VReg) (ty : BitVec 4) (m : Bool) (f : Nat → Nat × Flags) : Out :=
  s.writeLanes vd (tyBits ty.toNat) 1 m ((s.ctx.lanes va ty.toNat).map f)

/-- A lane instruction of two sources. -/
def State.lane2 (s : State) (vd va vb : VReg) (ty : BitVec 4) (m : Bool) (f : Nat → Nat → Nat × Flags) : Out :=
  s.writeLanes vd (tyBits ty.toNat) 1 m (List.zipWith f (s.ctx.lanes va ty.toNat) (s.ctx.lanes vb ty.toNat))

/-- A lane instruction of three sources. -/
def State.lane3 (s : State) (vd va vb vc : VReg) (ty : BitVec 4) (m : Bool) (f : Nat → Nat → Nat → Nat × Flags) : Out :=
  s.writeLanes vd (tyBits ty.toNat) 1 m
    (List.zipWith (fun (p : Nat × Nat) z => f p.1 p.2 z)
      (List.zipWith Prod.mk (s.ctx.lanes va ty.toNat) (s.ctx.lanes vb ty.toNat)) (s.ctx.lanes vc ty.toNat))

end Sys2Proof.Machine
end

