-- ==== Sys2Proof/Machine/Fetch.lean ====
section
/-!
DEFINITION. Fetching the bytes of an instruction (R83, R101, R103, R151 to R153, Table 30.2), and suspending a task (R102, R103).
-/
namespace Sys2Proof.Machine

/-- What a fetch gives: bytes, a cause, an open fault (KIND, LEVEL, IPA), or bytes that another package must send. -/
inductive Fetched where
  | bytes (bs : List Byte)
  | cause (c : Nat)
  | open (kind level ipa : Nat)
  | away (d : Dest)
deriving DecidableEq, Repr

/-- A byte of code: a held line serves it where the free choice takes it, else memory (R152). -/
def State.codeByte (s : State) (lines : List (Nat × List Byte)) (k : Nat) : Byte :=
  match lines.find? (fun l => l.1 == k / 64) with
  | some l => if Config.cacheHit s.tick (k / 64) then l.2.getD (k % 64) 0 else s.byte k
  | none => s.byte k

/-- The fetch of n bytes at an address, with the lines that the fetching unit holds; instruction bytes of another package are among them
under the key of their place, from the answer to the unit's own request on (R152). A page with C = 0 reads as zeros (R98); host
memory is reached by no fetch (R97, R20). -/
def State.fetchAt (s : State) (c space : Nat) (super : Bool) (path va n : Nat) (lines : List (Nat × List Byte)) : Fetched :=
  match s.translate c space super path accFetch va with
  | .fail e => .cause e
  | .open k l i => .open k l i
  | .zero => .bytes (List.replicate n 0)
  | .to (.here k) _ =>
    let s := s.detect k n
    if s.poisoned k n then .cause Cause.poison else .bytes ((List.range n).map fun i => s.codeByte lines (k + i))
  | .to (.host _ _) _ => .cause Cause.xlate
  | .to d _ =>
    match lines.find? (·.1 == destKey d) with
    | some l => .bytes (l.2.take n)
    | none => .away d

/-- A latent soft error under the bytes of a fetch is found (R473). -/
def State.fetchDetect (s : State) (c space : Nat) (super : Bool) (path va n : Nat) : State :=
  if s.softErrors.isEmpty then s
  else match s.translate c space super path accFetch va with
    | .to (.here k) _ => s.detect k n
    | _ => s

/-- Code bytes of another package are asked for, once (R94). -/
def State.requestCode (s : State) (c unit pc n : Nat) (d : Dest) : State :=
  if s.reqs.any (fun r => r.kind == .fetch && r.core == c && r.strand == unit && r.dest == d) then s
  else s.sendReq c unit .fetch d ⟨BitVec.ofNat 64 pc, pc, n, .load 0 false⟩ false []

/-! ## Strands -/

/-- Whether an open fault of a fetch holds strand k of core c: until the partition manager disposes of it (R101, R183). -/
def State.fetchHeld (s : State) (c k : Nat) : Bool := s.faults.any fun f => f.holder == .fetch c k

/-- The fetch of a word of the strand that moves, and what follows when there is none: a precise trap at the fetched address, a wait
with REASON 9, or a request (R101, R153, R282). A strand that waits fetches its instruction anew on each turn (DESIGN CHOICE, log 59). -/
def State.fetchWord (s : State) (va : Word) (go : Nat → State → Out) : Out :=
  let t := s.me
  let c := s.myCore
  let k := s.myStrand
  if s.fetchHeld c k then .next s else
  match s.fetchAt c t.sys.spaceid.toNat t.sys.super 0 va.toNat 4 s.here.icache with
  | .bytes bs => go (leNat bs) (s.fetchDetect c t.sys.spaceid.toNat t.sys.super 0 va.toNat 4)
  | .cause e => .next (s.trap e va)
  | .open kind level ipa =>
    .next ((s.openFault (.fetch c k) c t.sys.spaceid.toNat 0 accFetch va.toNat kind level ipa).waitFor 9 va.toNat)
  | .away d => .next (s.requestCode c k va.toNat 4 d)

/-- The reason and the object of a wait for a register: an open fault where one holds the access that writes it (Table 13.5). -/
def Strand.regWait (t : Strand) (r : Reg) : Nat × Nat :=
  let held : Option Nat := t.pend.findSome? fun p =>
    if p.reg != r then none
    else match p.kind with
      | .fault _ a => some a.va
      | .queued => t.stores.findSome? fun b => match b.acc.op, b.fault with
        | .atomic _ q _ _ _ _, some _ => if q = r then some b.acc.va else none
        | _, _ => none
      | _ => none
  match held with
  | some va => (9, va)
  | none => (1, r.toNat)

/-- A wait for a register or at an open fault ends: the path length takes the writer's when it was a token (R370, R371), and the strand is in
RUN. -/
def State.endRegWait (s : State) : State :=
  let t := s.me
  if t.state == .wait && (t.reason == 1 || t.reason == 9) then
    let s := if t.reason == 9 then s else match t.tokArriver.find? (fun p => p.1.toNat == t.obj) with | some p => s.leave p.2 3 | none => s
    s.modMe fun t => { t with state := .run, reason := 0, obj := 0, waited := 0 }
  else s

/-- The registers whose tokens an instruction reads (R110). -/
def tokenReads : Instr → List Reg
  | .tkWait _ a => [a]
  | .tkTest _ a => [a]
  | i => sources i

/-- The strand that moves observes the completion of the copies whose tokens its instruction reads (R110): a FENCE.X with p = CPY orders their late
writes (R121). -/
def State.observe (s : State) (i : Instr) : State :=
  if s.late.isEmpty then s
  else
    let t := s.me
    let qs := (t.tokArriver.filter fun p => (tokenReads i).contains p.1 && !t.pending p.1 && p.2.path == 4).map (·.2.seq)
    let ids := (s.late.filter fun w => match w.by_ with | .cpy c q => c == s.myCore && qs.contains q.toNat | _ => false).map (·.id)
    s.modMe fun t => { t with observed := s.joinLate t.observed ids }

/-- The instruction at which the strand stands reaches issue: it waits for its registers (R31), passes its safe point or stops there
(R363), and is then executed by go. A record of the wait that ends here names the instruction's own safe point (R369). An instruction waits
for its registers before any check of its own is made (DESIGN CHOICE, log 60). -/
def State.issue (s : State) (i : Instr) (go : State → Out) : Out :=
  match if s.me.arrived then none else s.blockedOn i with
  | some r => .next (s.waitFor (s.me.regWait r).1 (s.me.regWait r).2)
  | none =>
    match s.safePointAt s.myCore s.myStrand with
    | some sp =>
      if s.me.tr.passed then go (s.endRegWait.observe i)
      else
        let own : Bool := match i with | .safept => true | .ckpt => true | _ => false
        let s := (s.modMe fun t => { t with tr := { t.tr with safePoint := some sp } }).endRegWait
        let s := s.reach s.myCore s.myStrand sp own
        if s.me.tr.debugStop.isSome then .next s else go (s.observe i)
    | none => go (s.endRegWait.observe i)

/-- Whether the core may choose a strand in RUN: not held back after a branch or YIELD (R169, R288), and not at a debug stop. -/
def Strand.free (t : Strand) (now : Nat) : Bool :=
  decide (t.hold ≤ now) && (t.yields == 0 || decide (t.yieldTill ≤ now)) && t.tr.debugStop.isNone

/-- Whether a strand may move at all: in RUN or WAIT, and free. -/
def Strand.movable (t : Strand) (now : Nat) : Bool := (t.state == .run || t.state == .wait) && t.free now

/-- Whether strand k of core c comes first in round-robin order, after the strand that issued last, among the strands ready to issue and
itself (R12). -/
def State.firstInTurn (s : State) (c k : Nat) : Bool :=
  let x := s.core c
  (((List.range 4).map fun i => (x.lastStrand + 1 + i) % 4).find? fun j =>
    j == k || ((x.strand j).state == .run && (x.strand j).free s.now)) == some k

/-- A strand has had its turn: when it has not gone to WAIT it has issued, and the strands that yielded wait for it no longer (R12, R288). -/
def State.issuedBy (s : State) (c k : Nat) : State :=
  if (s.strand c k).state == .wait then s
  else s.modCore c fun x =>
    { x with lastStrand := k,
             strands := x.strands.map fun t => if t.yields = 0 then t else { t with yields := t.yields &&& ~~~BitVec.ofNat 4 (2 ^ k) } }

/-- A refusal held for the next instruction boundary is raised there (R101, R282). -/
def State.raiseDeferred (s : State) : Option State :=
  match s.me.deferred with
  | [] => none
  | (cause, bits, val) :: rest =>
    if s.me.arrived || s.me.defining then none
    else
      let s := s.modMe fun t => { t with deferred := rest }
      some (s.trapAt s.myCore s.myStrand cause (bits / 2 ^ 8 % 8) (bits / 2 ^ 15 % 2 == 1) false val s.me.pc)

/-! ## Contexts -/

/-- A task meets a resolvable fault: it becomes SUSPENDED and its engine instance is free (R102); a VRUN's context is given up, since
it will be replayed from its first word (R103). -/
def State.suspend (s : State) (c : Nat) (t : Task) (path acc va kind level ipa : Nat) : State :=
  let y := (s.core c).strand t.ring
  let fid := s.nextFault
  let s := s.openFault (.task c t.seq) c y.sys.spaceid.toNat path acc va kind level ipa
  let s := s.modCore c fun x => { x with ctxs := x.ctxs.map fun y => if y.task = some t.seq then { y with task := none } else y }
  s.modTask c t.seq fun t => { t with state := .suspended, fault := some fid, inst := none, stage := 0 }

/-- Whether a context of a core is ready: its VRUN is issued, and it awaits no instruction bytes of another package. -/
def State.ctxReady (s : State) (c i : Nat) : Bool :=
  (match ((s.core c).ctxs.toList[i]?).bind (·.task) with
   | some q => ((s.core c).window.any fun t => t.seq == q && t.state == .issued)
   | none => false) && !s.reqs.any (fun r => r.kind == .fetch && r.core == c && r.strand == 4 + i)

/-- Whether context i of core c comes first in round-robin order, after the context that issued last, among the ready ones (R15). -/
def State.ctxInTurn (s : State) (c i : Nat) : Bool :=
  (((List.range 16).map fun j => ((s.core c).lastCtx + 1 + j) % 16).find? fun j => s.ctxReady c j) == some i

/-- The fetch of the word of the context that moves; a failed fetch fails the VRUN (R153, R279). -/
def State.fetchVector (s : State) (t : Task) (go : Nat → State → Out) : Out :=
  let c := s.myCore
  let y := s.ctx
  let k := s.here.strand t.ring
  match s.fetchAt c k.sys.spaceid.toNat k.sys.super 1 y.pc.toNat 8 y.code with
  | .bytes bs => go (leNat bs) (s.fetchDetect c k.sys.spaceid.toNat k.sys.super 1 y.pc.toNat 8)
  | .cause e => .next (s.failTask c t e)
  | .open kind level ipa => .next (s.suspend c t 1 accFetch y.pc.toNat kind level ipa)
  | .away d => .next (s.requestCode c (4 + s.at_.ctx.val) y.pc.toNat 8 d)

/-! ## Placing an instruction (log 15) -/

/-- Where the placed instruction stands: its virtual address. -/
def codeVa : Nat := 0x10000

/-- Tables that map the page of codeVa in space 0, and 8 bytes of code in it: the space table at 0x1_0000, the tables of the three
levels at 0x2_0000, 0x3_0000 and 0x4_0000, the page at 0x5_0000, readable, writable, executable and open to USER. -/
def State.placeCode (s : State) (w : Nat) : State :=
  let v := s.marten.values
  let s := { s with marten := { s.marten with values := { v with spaceTable := 0x10000, nspaces := max 1 v.nspaces } },
                    power := { s.power with on := true },
                    tlb := s.tlb.filter (fun e => !(e.die == 0 && e.space == 0)), moving := s.moving.filter (·.space != 0),
                    softErrors := s.softErrors.filter (fun e => 2 ^ 20 ≤ e.1) }
  let s := s.writeNat 0x10000 16 (0x20000 + 2 ^ 80)
  let s := s.writeNat 0x20000 8 (1 + 3 * 2 ^ 12)
  let s := s.writeNat 0x30000 8 (1 + 4 * 2 ^ 12)
  let s := s.writeNat 0x40008 8 (0x7F + 5 * 2 ^ 12)
  s.writeNat 0x50000 8 (w % 2 ^ 64)

/-- Strand 0 of core 0 stands at the placed instruction, in RUN, and is the next to move. -/
def State.placeStrand (s : State) : State :=
  let s := s.modCore 0 fun x => { (x.modStrand 0 fun t =>
    { t with state := .run, reason := 0, obj := 0, pc := BitVec.ofNat 64 codeVa, hold := 0, yields := 0, deferred := [],
             sys := { t.sys with spaceid := 0 }, tr := { t.tr with debugStop := none } }) with icache := [], lastStrand := 3 }
  { s with faults := s.faults.filter fun f => f.holder != .fetch 0 0, turn := some (.strand 0 0) }

/-- Context 0 of core 0 stands at the placed word in an issued VRUN, and is the next to move. -/
def State.placeContext (s : State) : State :=
  let x := s.core 0
  let t := newTask x.nextSeq (.strand 0) 0 0 (.vrun (BitVec.ofNat 64 codeVa) 0) [] ⟨0, 0, 0, 0, 0⟩ 1
  let t := { t with state := .issued, inst := some 0 }
  let y := { Ctx.reset with task := some x.nextSeq, pc := BitVec.ofNat 64 codeVa }
  let x := { (x.modStrand 0 fun k => { k with sys := { k.sys with spaceid := 0 } }) with
    nextSeq := x.nextSeq + 1, window := x.window ++ [t], ctxs := x.ctxs.set 0 y, lastCtx := 15 }
  { s.setCore 0 x with reqs := s.reqs.filter (fun r => !(r.kind == .fetch && r.core == 0 && r.strand == 4)), turn := some (.ctx 0 0) }

end Sys2Proof.Machine
end

