-- ==== Sys2Proof/Machine/Copy.lean ====
section
/-!
DEFINITION. The copy engine: tensor maps, the walk, the checks at issue, chunks, credits and arrivals (R104, R123, R220, R232 to
R240, R343).
-/
namespace Sys2Proof.Machine

/-! ## Tensor maps (Table 10.7) -/

/-- A tensor map as the number of its 1,024 bits. -/
abbrev Tmap := Nat

def Tmap.esize (m : Tmap) : Nat := 2 ^ bitsOf m 897 896
def Tmap.rank (m : Tmap) : Nat := bitsOf m 901 898
def Tmap.nwin (m : Tmap) : Nat := bitsOf m 903 902
def Tmap.src (m : Tmap) : Nat := bitsOf m 63 0
def Tmap.dst (m : Tmap) : Nat := bitsOf m 127 64
def Tmap.ext (m : Tmap) (d : Nat) : Nat := m / 2 ^ (96 * d + 128) % 2 ^ 16
def Tmap.sstr (m : Tmap) (d : Nat) : Int := sextInt (m / 2 ^ (96 * d + 144)) 40
def Tmap.dstr (m : Tmap) (d : Nat) : Int := sextInt (m / 2 ^ (96 * d + 184)) 40

/-- A field of window axis w, n bits from bit p of the axis. -/
def Tmap.axis (m : Tmap) (w p n : Nat) : Nat := m / 2 ^ (904 + 42 * w + p) % 2 ^ n
def Tmap.axisP (m : Tmap) (w : Nat) : Nat := m.axis w 0 3
def Tmap.axisT (m : Tmap) (w : Nat) : Nat := m.axis w 3 3
def Tmap.axisMul (m : Tmap) (w : Nat) : Nat := m.axis w 6 4
def Tmap.axisOrg (m : Tmap) (w : Nat) : Int := sextInt (m.axis w 10 16) 16
def Tmap.axisLim (m : Tmap) (w : Nat) : Nat := m.axis w 26 16

/-- The elements of the walk. -/
def Tmap.total (m : Tmap) : Nat := (List.range m.rank).foldl (fun n d => n * m.ext d) 1

/-- The index vector of element n of the walk: i0 varies fastest (R233). -/
def Tmap.index (m : Tmap) (n : Nat) : List Nat :=
  ((List.range m.rank).foldl (fun (acc : List Nat × Nat) d => (acc.1 ++ [acc.2 % m.ext d], acc.2 / m.ext d)) ([], n)).1

/-- A base plus an index vector times strides, modulo 2^64 (R235). -/
def walkAddr (base : Nat) (stride : Nat → Int) (idx : List Nat) : Nat :=
  let terms : List Int := idx.mapIdx fun d (i : Nat) => (i : Int) * stride d
  let v : Int := terms.foldl (· + ·) (base : Int)
  (v % (2 ^ 64 : Int)).toNat

/-- Whether the window coordinates of an index vector are valid (R235). -/
def Tmap.valid (m : Tmap) (idx : List Nat) : Bool :=
  (List.range m.nwin).all fun w =>
    let c : Int := m.axisOrg w + (idx.getD (m.axisP w) 0 * m.axisMul w : Nat) + (idx.getD (m.axisT w) 0 : Nat)
    0 ≤ c && c < (m.axisLim w : Int)

/-- The kinds of walk among the copy commands. -/
def Cmd.isFill : Cmd → Bool
  | .cpF .. => true
  | _ => false
def Cmd.isGather : Cmd → Bool
  | .cpG .. => true
  | _ => false
def Cmd.isScatter : Cmd → Bool
  | .cpS .. => true
  | _ => false
def Cmd.isWindow : Cmd → Bool
  | .cpW .. => true
  | _ => false

/-- Whether a command reads an index operand. -/
def Cmd.isIndexed (m : Cmd) : Bool := m.isGather || m.isScatter

/-- The reservation of a CP.R. -/
def Cmd.resv : Cmd → Option Word
  | .cpR _ r => some r
  | _ => none

/-- The map checks of R234, from the second on: TMAP_INVALID, then MISALIGN of the fields. -/
def mapProblem (m : Tmap) (cmd : Cmd) (indexE0 : Nat) : Option Nat :=
  let dims := List.range m.rank
  let badAxis (w : Nat) : Bool :=
    m.rank ≤ m.axisP w || m.rank ≤ m.axisT w || m.axisP w == m.axisT w || m.axisMul w == 0
  if bitsOf m 1023 988 ≠ 0 ∨ m.rank = 0 ∨ 8 < m.rank ∨ m.nwin = 3 ∨ (m.nwin ≠ 0) ≠ cmd.isWindow ∨ (List.range m.nwin).any badAxis ∨
      (cmd.isIndexed ∧ (m.rank < 2 ∨ indexE0 ≠ m.ext (m.rank - 1))) then some Cause.tmapInvalid
  else if m.dst % m.esize ≠ 0 ∨ dims.any (fun d => m.dstr d % (m.esize : Int) != 0) ∨
      (!cmd.isFill ∧ (m.src % m.esize ≠ 0 ∨ dims.any fun d => m.sstr d % (m.esize : Int) != 0)) then some Cause.misalign
  else none

/-! ## Addresses and spans (R220, R236) -/

/-- An address of the own scratchpad as its own-window address; any other as it is (R82). -/
def canon (c va : Nat) : Nat :=
  match ownKey c va with
  | some k => ownBase + (k - spBase c)
  | none => va

/-- A copy address that falls in the slot-0 span of an operand's renamed buffer moves to the slot bound to the operand (R220). -/
def Core.moved (x : Core) (c : Nat) (o : Operand) (va : Nat) : Nat :=
  let b := x.opBuf o
  let a := canon c va
  let base := canon c b.base
  if b.renamed && base ≤ a && a < base + b.span then
    a + (match o.binds.head? with | some p => b.slotOf o.binds p.1 | none => 0) * b.vstride
  else a

/-- Whether n bytes at an address lie in the span of an operand at its bound slot; an empty operand has none (R236). -/
def Core.inSpan (x : Core) (c : Nat) (o : Operand) (va n : Nat) : Bool :=
  !x.opEmpty o && (x.spansOf o).any fun p => canon c p.1 ≤ va && va + n ≤ canon c p.1 + (p.2 - p.1)

/-! ## Reads of the CPY path -/

/-- What a read of the CPY path gives: bytes, each with whether it is poisoned, a cause, or an open fault. -/
inductive CopyRead where
  | bytes (bs : List (Byte × Bool))
  | fail (cause : Nat)
  | open (kind level ipa : Nat)
deriving DecidableEq, Repr

/-- The translation of a CPY access of a task: under the space and mode of the strand that posted it (log 17). -/
def State.copyTranslate (s : State) (c : Nat) (t : Task) (acc va : Nat) : Trans :=
  let y := (s.strand c t.ring).sys
  s.translate c y.spaceid.toNat y.super 4 acc va

/-- n bytes read by a task over the CPY path, as the core's engines see them; bytes of another package or a host are free values. -/
def State.copyRead (s : State) (c : Nat) (t : Task) (va n : Nat) : CopyRead :=
  match s.copyTranslate c t accRead va with
  | .fail e => .fail e
  | .open k l i => .open k l i
  | .zero => .bytes (List.replicate n (0, false))
  | .to (.here k) _ => .bytes ((List.range n).map fun i => (s.seenByte (.engine c) (k + i), s.poisoned (k + i) 1))
  | .to d _ => .bytes ((List.range n).map fun i => (Config.remoteByte t.readTick (destKey d) i, false))

/-- The place of another package or a host that a read of the CPY path reaches (R94, R97). -/
def State.readAway (s : State) (c : Nat) (t : Task) (va : Nat) : Option Dest :=
  match s.copyTranslate c t accRead va with
  | .to (.here _) _ => none
  | .to d _ => some d
  | _ => none

/-- A task asks for the bytes that it reads at places of other packages and hosts; it goes on when all have answered. -/
def State.askReads (s : State) (c : Nat) (t : Task) (places : List Dest) : State :=
  (s.sendReads c (.task t.seq) 8 [] places).modTask c t.seq fun u => { u with stage := 1, readTick := s.tick }

/-- Latent soft errors under a CPY read are found (R473). -/
def State.copyDetect (s : State) (c : Nat) (t : Task) (va n : Nat) : State :=
  if s.softErrors.isEmpty then s
  else match s.copyTranslate c t accRead va with
    | .to (.here k) _ => s.detect k n
    | _ => s

/-- A record of n bytes that a task reads whole: a refusal or poison fails the task, a resolvable fault suspends it (R102, R234,
R243); a record of another package or a host is asked for first, and go is called again when it has been sent. -/
def State.copyRecord (s : State) (c : Nat) (t : Task) (va n : Nat) (go : Nat → State → State) : State :=
  let s := s.copyDetect c t va n
  match s.readAway c t va, t.stage with
  | some d, 0 => s.askReads c t [d]
  | _, _ =>
    if s.awaits c (.task t.seq) then s
    else
      let s := s.modTask c t.seq fun u => { u with stage := 0 }
      match s.copyRead c t va n with
      | .fail e => s.failTask c t e
      | .open k l i => s.suspend c t 4 accRead va k l i
      | .bytes bs => if bs.any (·.2) then s.failTask c t Cause.poison else go (leNat (bs.map (·.1))) s

/-! ## Elements (R235) -/

/-- The address of element n of the index operand (R235, R85). -/
def Core.indexVa (x : Core) (o : Operand) (n : Nat) : Nat :=
  let b := x.opBuf o
  let idx := boxIndex o.rgn n 0
  let va := (b.linear (b.slotOf o.binds (b.tileIndex idx)) idx).1
  if b.layout = 0 then va else skew b.layout va

/-- What a chunk has done so far: bytes written in this package, newest first, bytes for other places, bytes of a landing slot by
offset, the 64-byte parts of MIGRATE pages touched, and the places read at other packages and hosts. -/
structure CopyRun where
  cells : List (Nat × Byte × Bool)
  away : List (Dest × List Byte)
  slot : List (Nat × Byte × Bool)
  parts : List Nat
  reads : List Dest
deriving DecidableEq, Repr

/-- How a chunk ends. -/
inductive CopyEnd where
  | done
  | fail (cause : Nat)
  | open (acc va kind level ipa : Nat)
deriving DecidableEq, Repr

/-- A byte of this package as an element of a size reads it: where an earlier element of the walk has written it, as it was before the walk or
as it is; words that one element fully covers are read whole (R239). -/
def CopyRun.byte (r : CopyRun) (s : State) (t : Task) (esize k : Nat) (b : Byte × Bool) : Byte × Bool :=
  if Config.readsOld s.tick (if esize = 8 then k / 8 else k) then
    (match t.olds.find? (·.1 == k) with | some x => x.2 | none => b)
  else (match r.cells.find? (·.1 == k) with | some x => x.2 | none => b)

/-- What an element reads at an address: bytes of this package by way of R239, and the place noted where it is another package's. -/
def State.elemRead (s : State) (c : Nat) (t : Task) (esize va n : Nat) (r : CopyRun) : CopyRead × CopyRun :=
  match s.copyRead c t va n, s.copyTranslate c t accRead va with
  | .bytes bs, .to (.here k) _ => (.bytes (bs.mapIdx fun i b => r.byte s t esize (k + i) b), r)
  | .bytes bs, .to d mode => (.bytes bs, { r with reads := r.reads ++ [d], parts := if mode = 4 then r.parts ++ [va / 64] else r.parts })
  | x, _ => (x, r)

/-- The index vectors for reading and for writing element idx of a gather or scatter (R235). -/
def indexed (m : Tmap) (idx : List Nat) (v : Nat) : List Nat := idx.set (m.rank - 1) v

/-- The bytes that an element writes. -/
def State.elemBytesOf (s : State) (c : Nat) (t : Task) (m : Tmap) (idx ridx : List Nat) (r : CopyRun) : CopyRead × CopyRun :=
  let x := s.core c
  let n := m.esize
  if t.cmd.isFill then (.bytes ((leBytes n m.src).map fun b => (b, false)), r)
  else if !m.valid idx then (.bytes (List.replicate n (0, false)), r)
  else
    let va := x.moved c (t.op 0) (walkAddr m.src m.sstr ridx)
    if !x.inSpan c (t.op 0) va n then (.fail Cause.regionEscape, r) else s.elemRead c t n va n r

/-- An element written to memory (R80, R200, R236). -/
def State.elemWrite (s : State) (c : Nat) (t : Task) (m : Tmap) (va : Nat) (bs : List (Byte × Bool)) (r : CopyRun) :
    CopyRun × CopyEnd :=
  if !(s.core c).inSpan c (t.op 4) va m.esize then (r, .fail Cause.regionEscape)
  else match s.copyTranslate c t accWrite va with
    | .fail e => (r, .fail e)
    | .zero => (r, .fail Cause.xlate)
    | .open k l i => (r, .open accWrite va k l i)
    | .to (.here k) _ =>
      if s.frozenAt (.here k) then (r, .fail Cause.protect)
      else if s.tagAt (.here k) m.esize then (r, .fail Cause.barrierStore)
      else ({ r with cells := (bs.mapIdx fun i b => (k + i, b.1, b.2)).reverse ++ r.cells }, .done)
    | .to d mode =>
      ({ r with away := r.away ++ [(d, bs.map (·.1))], parts := if mode = 4 then r.parts ++ [va / 64] else r.parts }, .done)

/-- One element of the walk (R235): an index is read as its element is processed (R236). -/
def State.copyElem (s : State) (c : Nat) (t : Task) (m : Tmap) (n : Nat) (r : CopyRun) : CopyRun × CopyEnd :=
  let x := s.core c
  let idx := m.index n
  let put (ridx widx : List Nat) (r : CopyRun) : CopyRun × CopyEnd :=
    match s.elemBytesOf c t m idx ridx r with
    | (.fail e, r) => (r, .fail e)
    | (.open k l i, r) => (r, .open accRead (x.moved c (t.op 0) (walkAddr m.src m.sstr ridx)) k l i)
    | (.bytes bs, r) =>
      match t.cmd.resv with
      | some _ =>
        let off := walkAddr m.dst m.dstr widx
        ({ r with slot := r.slot ++ bs.mapIdx fun i b => (off + i, b.1, b.2) }, .done)
      | none => s.elemWrite c t m (x.moved c (t.op 4) (walkAddr m.dst m.dstr widx)) bs r
  if t.cmd.isIndexed then
    let va := x.indexVa (t.op 1) (idx.getD (m.rank - 1) 0)
    match s.elemRead c t m.esize va 4 r with
    | (.fail e, r) => (r, .fail e)
    | (.open k l i, r) => (r, .open accRead va k l i)
    | (.bytes bs, r) =>
      if bs.any (·.2) then (r, .fail Cause.poison)
      else
        let w := indexed m idx (leNat (bs.map (·.1)))
        if t.cmd.isGather then put w idx r else put idx w r
  else put idx idx r

/-- Elements in walk order, until one fails or suspends. -/
def State.copyElems (s : State) (c : Nat) (t : Task) (m : Tmap) : List Nat → CopyRun → CopyRun × CopyEnd
  | [], r => (r, .done)
  | n :: ns, r =>
    match s.copyElem c t m n r with
    | (r, .done) => s.copyElems c t m ns r
    | x => x

/-! ## Checks at issue (R232, R234, R236, R240) -/

/-- Whether a test holds of every number below n. -/
def allBelow (p : Nat → Bool) : Nat → Bool
  | 0 => true
  | n + 1 => p n && allBelow p n

/-- The slot size of a reservation, in bytes (Table 17.3). -/
def resvSize (r : Word) : Nat := (bitsOf r.toNat 58 49 + 1) * 512

/-- The receiver's identity of a reservation. -/
def resvCore (r : Word) : Nat := bitsOf r.toNat 48 26

/-- The check of R236 and R240 over the whole walk, for the commands that make it at issue. -/
def Core.walkInside (x : Core) (c : Nat) (t : Task) (m : Tmap) : Bool :=
  t.cmd.isIndexed || allBelow (fun n =>
    let idx := m.index n
    let off := walkAddr m.dst m.dstr idx
    (t.cmd.isFill || !m.valid idx || x.inSpan c (t.op 0) (x.moved c (t.op 0) (walkAddr m.src m.sstr idx)) m.esize) &&
    (match t.cmd.resv with
     | some r => off + m.esize ≤ resvSize r
     | none => x.inSpan c (t.op 4) (x.moved c (t.op 4) off) m.esize)) m.total

/-- The barrier of a copy: its key, or the cause with which its address fails (R232). -/
def State.barrierKey (s : State) (c : Nat) (t : Task) (va : Nat) : Nat ⊕ Nat :=
  if va % 32 ≠ 0 then .inr Cause.misalign
  else if !(inOwn va || inMember va) then .inr Cause.xlate
  else match s.copyTranslate c t accRead va with
    | .to (.here k) _ => .inl k
    | .fail e => .inr e
    | _ => .inr Cause.xlate

/-- The map of a copy passes its checks, or the copy fails (R234, R236, R240, R89). -/
def State.mapChecked (s : State) (c : Nat) (t : Task) (m : Tmap) : State :=
  let x := s.core c
  if t.ops.any (fun o => inAccNames (x.opBuf o).base) then s.failTask c t Cause.xlate
  else match mapProblem m t.cmd (rgnX (t.op 1).rgn 0) with
    | some e => s.failTask c t e
    | none => if x.walkInside c t m then s else s.failTask c t Cause.regionEscape

/-- A copy reads its map, unless it has kept it through a suspension (R234). -/
def State.readTmap (s : State) (c : Nat) (t : Task) (va : Nat) : State :=
  match t.map with
  | some m => s.mapChecked c t m.toNat
  | none =>
    if va % 128 ≠ 0 then s.failTask c t Cause.misalign
    else s.copyRecord c t va 128 fun m s =>
      let keep (t : Task) : Task := { t with map := some (BitVec.ofNat 1024 m) }
      (s.modTask c t.seq keep).mapChecked c (keep t) m

/-- A copy command issues: its barrier or reservation first, then its map. A CP.R binds its route as it first issues (R350). A service core
updates no landing slot (R8): its CP.R fails with ESTALE, as one whose slot does not take it (DESIGN CHOICE, log 56: no rule gives the cause). -/
def State.issueCopy (s : State) (c : Nat) (t : Task) : State :=
  match t.cmd.copy, t.cmd.resv with
  | some (map, _), some r =>
    let pkg := resvCore r / 256
    if isService c then s.failTask c t Cause.estale
    else if t.resvRead then s.readTmap c t map
    else if !s.reachable pkg then s.failTask c t Cause.linkFailed
    else
      let route := if pkg = s.marten.values.pkg then [] else (s.routeTo pkg).getD []
      let bind (t : Task) : Task := { t with resvRead := true, route := route }
      (s.modTask c t.seq bind).readTmap c (bind t) map
  | some (map, some va), none =>
    (match s.barrierKey c t va with
     | .inr e => s.failTask c t e
     | .inl k =>
       let bind (t : Task) : Task := { t with bar := some k }
       (s.modTask c t.seq bind).readTmap c (bind t) map)
  | some (map, none), none => s.readTmap c t map
  | none, _ => s

/-! ## Chunks (R104, R237, R343) -/

/-- The elements of a chunk of 4,096 bytes. -/
def Tmap.perChunk (m : Tmap) : Nat := 4096 / m.esize

/-- The late writes of a copy's walk: its credits and its arrival release them (R114, R123). -/
def State.copyLate (s : State) (c : Nat) (t : Task) (k : Nat) : List Nat :=
  s.inScope c (tbScope (s.tb k)) ((s.late.filter fun w => w.by_ == .cpy c t.seq).map (·.id))

/-- The arrival of a copy after its last credit; a copy without a barrier completes (R237). -/
def State.copyArrival (s : State) (c : Nat) (t : Task) : State :=
  let sent (s : State) (reply : Option Int) : State :=
    s.modTask c t.seq fun t => { t with arrivalSent := true, reply := reply }
  match t.cmd.resv, t.bar with
  | some r, _ =>
    let m : OutMsg := .cprArrival ⟨r, s.identity c, t.seq, s.crossPl t.pl (resvCore r / 256)⟩
    sent { s with outbox := s.outbox ++ [m] } none
  | none, some k =>
    if s.frozenAt (.here k) then s.failTask c t Cause.protect
    else
      let (s, code) := (s.tbRelease k (s.copyLate c t k)).tbUpdate k .arrive 0 (s.identity c) 4 t.seq.toNat t.pl
      sent s (some (-(code : Int)))
  | none, none => s.retire c t none

/-- The credit of a chunk of n bytes, or the chunk sent to its slot; go follows when it is taken. -/
def State.copyCredit (s : State) (c : Nat) (t : Task) (r : CopyRun) (n : Nat) (go : State → Task → State) : State :=
  let next (t : Task) : Task := { t with chunks := t.chunks + 1, stage := 0 }
  let counted (s : State) : State := go (s.modTask c t.seq next) (next t)
  match t.cmd.resv, t.bar with
  | some v, _ =>
    let m : OutMsg := .chunk ⟨v, r.slot.map fun x => (x.1, x.2.1), (r.slot.filter fun x => x.2.2).map (·.1), s.identity c, t.seq,
      s.crossPl t.pl (resvCore v / 256), t.route⟩
    counted { s with outbox := s.outbox ++ [m] }
  | none, some k =>
    if s.frozenAt (.here k) then s.failTask c t Cause.protect
    else
      let (s, code) := (s.tbRelease k (s.copyLate c t k)).tbUpdate k .credit n (s.identity c) 4 t.seq.toNat t.pl
      if code ≠ 0 then s.failTask c t code else counted s
  | none, none => counted s

/-- The places of this package at which a copy may still read, as ranges of keys (R239). -/
def State.readRanges (s : State) (c : Nat) (t : Task) : List (Nat × Nat) :=
  let x := s.core c
  let ops := if t.cmd.isFill then [] else if t.cmd.isIndexed then [t.op 0, t.op 1] else [t.op 0]
  ((ops.filter fun o => !x.opEmpty o).flatMap x.spansOf).flatMap fun p =>
    (List.range ((p.2 - 1) / 2 ^ 16 - p.1 / 2 ^ 16 + 1)).filterMap fun i =>
      let lo := max p.1 ((p.1 / 2 ^ 16 + i) * 2 ^ 16)
      match s.copyTranslate c t accRead lo with
      | .to (.here k) _ => some (k, k + (min p.2 ((p.1 / 2 ^ 16 + i + 1) * 2 ^ 16) - lo))
      | _ => none

/-- The bytes of a chunk are performed: those of this package written, with what they were where the walk may still read, those of other places sent,
MIGRATE pages counted (R104, R239). -/
def State.copyWrites (s : State) (c : Nat) (t : Task) (r : CopyRun) : State :=
  let space := (s.strand c t.ring).sys.spaceid.toNat
  let ranges := s.readRanges c t
  let kept := ((r.cells.map (·.1)).filter fun k => ranges.any fun p => p.1 ≤ k && k < p.2).eraseDups.filter fun k => !t.olds.any (·.1 == k)
  let olds := kept.map fun k => (k, s.seenByte (.engine c) k, s.poisoned k 1)
  let s := if olds.isEmpty then s else s.modTask c t.seq fun u => { u with olds := u.olds ++ olds }
  let s := (s.writeMarked (.cpy c t.seq) (dieOf c) [] r.cells.reverse).sendWrites c (.task t.seq) [] r.away
  r.parts.eraseDups.foldl (fun s p => s.countMigrate space (64 * p) 1 4) s

/-- The elements of the chunk at which a copy stands, and how many: none when its walk has ended. -/
def Task.chunk (t : Task) (m : Tmap) : List Nat :=
  (List.range (min m.perChunk (m.total - t.chunks * m.perChunk))).map (t.chunks * m.perChunk + ·)

/-- A chunk whose bytes have been performed is credited, and the arrival follows the last one (R104, R123, R237). -/
def State.creditChunk (s : State) (c : Nat) (t : Task) (m : Tmap) (r : CopyRun) : State :=
  s.copyCredit c t r ((t.chunk m).length * m.esize) fun s u => if (u.chunk m).isEmpty then s.copyArrival c u else s

/-- A chunk is performed: the bytes that it reads elsewhere are asked for first; then its bytes are written, and those of other packages and hosts
sent; it is done when these have answered (R97, R104). -/
def State.performChunk (s : State) (c : Nat) (t : Task) (m : Tmap) : State :=
  let x := s.core c
  let t := if t.stage = 0 then { t with readTick := s.tick } else t
  let s := if s.softErrors.isEmpty then s else
    (t.chunk m).foldl (fun s n => s.copyDetect c t (x.moved c (t.op 0) (walkAddr m.src m.sstr (m.index n))) m.esize) s
  let (r, e) := s.copyElems c t m (t.chunk m) ⟨[], [], [], [], []⟩
  if t.stage = 0 ∧ !r.reads.isEmpty then s.askReads c t r.reads
  else
    let s := s.copyWrites c t r
    match e with
    | .fail cause => s.failTask c t cause
    | .open acc va k l i => s.suspend c t 4 acc va k l i
    | .done => if r.away.isEmpty then s.creditChunk c t m r else s.modTask c t.seq fun u => { u with stage := 2 }

/-- COPY_CHUNK_DONE: an issued copy goes on: its map has come from another package, the next chunk is performed, or one whose bytes have been
performed elsewhere is credited (R104, R237). -/
def execCopyChunkDone (core : Nat) (seq : BitVec 32) (s : State) : Out :=
  match (s.core core).task seq with
  | none => .next s
  | some t =>
    if t.cmd.copy.isNone || t.state != .issued || t.arrivalSent || t.reply.isSome || s.awaits core (.task seq) then .next s
    else match t.map with
      | none => .next (s.issueCopy core t)
      | some bits =>
        if (t.chunk bits.toNat).isEmpty then .next (s.copyArrival core t)
        else if t.stage = 2 then .next (s.creditChunk core t bits.toNat ⟨[], [], [], [], []⟩)
        else .next (s.performChunk core t bits.toNat)

/-- COPY_ARRIVAL_REPLY: the reply to a copy's arrival, or the refusal of a chunk, has come back; the copy then fails with the code and
fails no phase (R237, R238). A receiver in another
package sends it from outside. -/
def execCopyArrivalReply (core : Nat) (seq : BitVec 32) (code : Int) (s : State) : Out :=
  match (s.core core).task seq with
  | none => .next s
  | some t =>
    let away : Bool := match t.cmd.resv with | some r => resvCore r / 256 != s.marten.values.pkg | none => false
    if t.state != .issued then .next s
    else if t.reply = some code ∨ (away ∧ t.reply = none ∧ (code < 0 ∨ t.arrivalSent)) then
      if code = 0 then .next (s.retire core t none)
      else if code < 0 then .next (s.failTask core { t with resvRead := false, bar := none } code.natAbs)
      else .next s
    else .next s

end Sys2Proof.Machine
end

