-- ==== Sys2Proof/Machine/Post.lean ====
section
/-!
DEFINITION. Remote posting: TASK.RPOST at its issue, intakes, admission, answers and reports (R74 to R79, R242 to R245).
-/
namespace Sys2Proof.Machine

/-! ## The carried task (R242, Table 10.10) -/

/-- Word 0 of a carried task: its major, member and priority, with the counts of the RPOST; its own token and lists are not used. -/
def carriedWord (c0 rcnt wcnt : Nat) : Nat :=
  bitsOf c0 31 23 * 2 ^ 23 + bitsOf c0 17 16 * 2 ^ 16 + rcnt * 2 ^ 9 + wcnt * 2 ^ 3

/-- Whether C0 follows Table 10.10. -/
def carriedOk (c0 : Nat) : Bool :=
  0x29 ≤ bitsOf c0 31 26 && bitsOf c0 31 26 ≤ 0x2B && bitsOf c0 22 18 == 0 && bitsOf c0 15 0 == 0

/-- The value for the n-th register field of a carried word 1: a field of 0 supplies 0 (R242, R218; log 18). -/
def carriedVal (vals : List Word) (n : Nat) (r : Reg) : Word := if r = 0 then 0 else vals.getD n 0

/-- The command of a task form with the values of a post (R242). -/
def carriedCmd (vals : List Word) : Instr → Option Cmd
  | .mm _ fa fb => some (.mm fa.toNat fb.toNat)
  | .mmd _ f => some (.mmd f (carriedVal vals 0 f.clr))
  | .mmz _ => some .mmz
  | .xp _ => some .xp
  | .row _ f => some (.row f (carriedVal vals 0 f.preg))
  | .vrun _ ent arg => some (.vrun (carriedVal vals 0 ent) (carriedVal vals 1 arg))
  | .cp _ m b => some (.cp (carriedVal vals 0 m) (if b = 0 then none else some (carriedVal vals 1 b)))
  | .cpW _ m b => some (.cpW (carriedVal vals 0 m) (if b = 0 then none else some (carriedVal vals 1 b)))
  | .cpG _ m b => some (.cpG (carriedVal vals 0 m) (if b = 0 then none else some (carriedVal vals 1 b)))
  | .cpS _ m b => some (.cpS (carriedVal vals 0 m) (if b = 0 then none else some (carriedVal vals 1 b)))
  | .cpF _ m b => some (.cpF (carriedVal vals 0 m) (if b = 0 then none else some (carriedVal vals 1 b)))
  | .cpR _ m r => some (.cpR (carriedVal vals 0 m) (carriedVal vals 1 r))
  | _ => none

/-- The command that a post carries; none where its words would raise ILLEGAL (R243). -/
def postCmd (c0 c1 : Nat) (vals : List Word) (rcnt wcnt : Nat) : Option Cmd :=
  if !carriedOk c0 then none
  else (decodeControl (carriedWord c0 rcnt wcnt) c1).toOption.bind (carriedCmd vals)

/-! ## TASK.RPOST at its issue (R243) -/

/-- The package, the core within it and the intake that a handle names (Table 3.6). -/
def handlePkg (h : Word) : Nat := bitsOf h.toNat 24 10
def handleCore (h : Word) : Nat := bitsOf h.toNat 9 2
def handleIntake (h : Word) : Nat := bitsOf h.toNat 1 0

/-- The delay before a busy post is sent again (R77). -/
def retryDelay : Nat := 1024

/-- A task goes back to READY, to issue again no earlier than after a delay (R77). -/
def State.backToReady (s : State) (c : Nat) (t : Task) (delay : Nat) : State :=
  s.modTask c t.seq fun t => { t with state := .ready, inst := none, sent := false, retry := delay, age := 0, waited := 0 }

/-- The entry of the report table with a tag is freed. -/
def Core.freeReport (x : Core) (tag : BitVec 16) : Core := { x with reports := x.reports.filter fun r => r.tag != tag }

/-- Whether a task has reserved an entry of the report table: a post that was answered BUSY keeps it (R244). -/
def Core.hasReserved (x : Core) (t : Task) (tag : BitVec 16) : Bool := x.reports.any fun r => r.tag == tag && r.by_ == t.seq

/-- Steps 2 to 4 of R243 with the descriptor read; a package that does not exist answers ESTALE (R77). -/
def State.sendPost (s : State) (c : Nat) (t : Task) (handle : Word) (tagVal : Option Word) (rcnt wcnt d : Nat) : State :=
  let c0 := bitsOf d 31 0
  let c1 := bitsOf d 63 32
  let vals : List Word := (List.range 3).map fun k => BitVec.ofNat 64 (d / 2 ^ (64 * (k + 1)))
  let x := s.core c
  if (postCmd c0 c1 vals rcnt wcnt).isNone then s.failTask c t Cause.illegal
  else
    let tag : BitVec 16 := match tagVal with | some v => v.setWidth 16 | none => 0
    let reserved := x.hasReserved t tag
    if tagVal.isSome ∧ !reserved ∧ (tag = 0 ∨ x.reports.any fun r => r.tag == tag) then s.failTask c t Cause.estale
    else if tagVal.isSome ∧ !reserved ∧ 64 ≤ x.reports.length then s.backToReady c t retryDelay
    else if s.marten.values.ngroups ≤ handlePkg handle / 32 then (s.setCore c (x.freeReport tag)).failTask c t Cause.estale
    else
      let x := if tagVal.isSome && !reserved then { x with reports := x.reports ++ [⟨tag, t.seq, none⟩] } else x
      let p : RemotePost :=
        { handle := handle, who := s.identity c, partno := x.partno, tag := tag, seq := t.seq,
          c0 := BitVec.ofNat 32 c0, c1 := BitVec.ofNat 32 c1, vals := vals,
          reads := (t.ops.filter (·.pos < 4)).map (·.rgn), writes := (t.ops.filter (4 ≤ ·.pos)).map (·.rgn),
          pl := s.crossPl t.pl (handlePkg handle) }
      let s := (s.setCore c x).modTask c t.seq fun t => { t with sent := true }
      { s with outbox := s.outbox ++ [OutMsg.post p t.seq] }

/-- TASK.RPOST issues (R243). -/
def State.issuePost (s : State) (c : Nat) (t : Task) : State :=
  match t.cmd with
  | .rpost handle desc tag rcnt wcnt =>
    if desc.toNat % 32 ≠ 0 then s.failTask c t Cause.misalign
    else s.copyRecord c t desc.toNat 32 fun d s => s.sendPost c t handle tag rcnt wcnt d
  | _ => s

/-- The tag that a TASK.RPOST holds in the report table. -/
def Task.tagHeld (t : Task) : Option (BitVec 16) :=
  match t.cmd with
  | .rpost _ _ (some v) _ _ => some (v.setWidth 16)
  | _ => none

/-- POST_ANSWER_ARRIVAL: 0 is accepted, 1 busy, −ESTALE a refusal (R77, R243); only a refusal frees the tag's entry (R244). An intake of another
package answers from outside, and −LINK_FAILED comes of a post that found no way (R470). -/
def execPostAnswerArrival (core : Nat) (seq : BitVec 32) (code : Int) (s : State) : Out :=
  match (s.core core).task seq with
  | none => .next s
  | some t =>
    let away : Bool := match t.cmd with | .rpost h .. => handlePkg h != s.marten.values.pkg | _ => false
    let got := if away then some s else s.takeOut (.postAnswer (s.identity core) seq code)
    match got with
    | none => .next s
    | some s =>
      if t.state != .issued || !t.sent then .next s
      else
        let free (s : State) : State := match t.tagHeld with | some g => s.modCore core fun x => x.freeReport g | none => s
        if code = 0 then .next (s.retire core t none)
        else if code = 1 then .next (s.backToReady core t retryDelay)
        else if code = -(Cause.estale : Int) ∨ code = -(Cause.linkFailed : Int) then .next ((free s).failTask core t code.natAbs)
        else .next s

/-! ## Intakes (R75 to R78) -/

/-- The core whose intake a post reaches: as the save has left it, while its partition is SAVED (R75). -/
def State.savedCore (s : State) (post : RemotePost) : Option Core :=
  match s.part post.partno with
  | some p => (p.saved.find? (·.1 == handleCore post.handle)).map (·.2)
  | none => none
def State.intakeCore (s : State) (post : RemotePost) : Core := (s.savedCore post).getD (s.core (handleCore post.handle))

/-- What an intake answers to a post: 0 accepted, 1 busy, or a refusal (R77). The posts that stand in an intake as it is swapped out stand first
in its ring and count among the ring's 4,096 (DESIGN CHOICE, log 63: no rule says where they go). -/
def State.intakeAnswer (s : State) (post : RemotePost) : Int :=
  let x := s.intakeCore post
  let i := x.intakes.toList.getD (handleIntake post.handle) ⟨.closed, 0, []⟩
  if post.handle.toNat / 2 ^ 33 ≠ 0 ∨ i.st = .closed ∨ i.gen ≠ bitsOf post.handle.toNat 32 25 ∨ x.partno = 0 ∨ post.partno ≠ x.partno then
    -(Cause.estale : Int)
  else if (if i.st = .open then 32 else 4096) ≤ i.entries.length then 1
  else 0

/-- The core with intake n changed. -/
def Core.modIntake (x : Core) (n : Nat) (f : Intake → Intake) : Core :=
  if h : n < 4 then { x with intakes := x.intakes.set n (f x.intakes[n]) } else x

/-- An accepted post stands in its intake, or in the overflow ring of one that is swapped out (R75, R77). -/
def State.takePost (s : State) (post : RemotePost) : State :=
  let c := handleCore post.handle
  let put (x : Core) : Core := x.modIntake (handleIntake post.handle) fun i => { i with entries := i.entries ++ [post] }
  if (s.savedCore post).isSome then
    let at_ (y : Nat × Core) : Nat × Core := if y.1 = c then (c, put y.2) else y
    s.modPart post.partno fun p => { p with saved := p.saved.map at_ }
  else s.modCore c put

/-- REMOTE_POST_ARRIVAL: a post reaches an intake of this package and is answered (R77). A core of this package has sent it, or it
comes from another package. -/
def execRemotePostArrival (post : RemotePost) (s : State) : Out :=
  let mine : Bool := post.who / 256 == s.marten.values.pkg
  let got := if mine then s.takeOut (.post post post.seq) else some s
  match got with
  | none => .next s
  | some s =>
    if handlePkg post.handle ≠ s.marten.values.pkg then .next s
    else
      let code := s.intakeAnswer post
      let s := if code = 0 then s.takePost post else s
      .next { s with outbox := s.outbox ++ [OutMsg.postAnswer post.who post.seq code] }

/-- The intake next served: round-robin after the one last served, among those with a post that may be admitted (R78). -/
def Core.nextIntake (x : Core) : Option (Nat × RemotePost) :=
  ((List.range 4).map fun k => (x.lastIntake + 1 + k) % 4).findSome? fun n =>
    let i := x.intakes.toList.getD n ⟨.closed, 0, []⟩
    if x.admissible i then i.entries.head?.map fun p => (n, p) else none

/-- The operands of a post. -/
def postOperands (p : RemotePost) : List Operand :=
  (p.reads.mapIdx fun k r => (⟨k, r, []⟩ : Operand)) ++ p.writes.mapIdx fun k r => (⟨4 + k, r, []⟩ : Operand)

/-- Event 9 for every strand of a core that is not IDLE (R289). -/
def Core.admissionEvent (x : Core) (a : Arriver) : Core :=
  { x with strands := x.strands.map fun t => if t.state = .idle then t else t.setEvent 9 a }

/-- INTAKE_ADMIT: the next post enters the window with a post sequence, its priority class and the checks of R61 (R78). -/
def execIntakeAdmit (core : Nat) (s : State) : Out :=
  let x := s.core core
  match x.nextIntake with
  | none => .next s
  | some (n, p) =>
    if !x.mayTake 4 then .next s
    else
      let x := { (x.modIntake n fun i => { i with entries := i.entries.drop 1 }) with lastIntake := n, lastGrant := 4 }
      let a : Arriver := ⟨p.who, 4, p.seq.toNat, p.pl, s.now⟩
      let s := s.setCore core (x.admissionEvent a)
      match postCmd p.c0.toNat p.c1.toNat p.vals p.reads.length p.writes.length with
      | none => .next s
      | some cmd =>
        let t := newTask x.nextSeq (.remote p.who p.tag) 0 (bitsOf p.c0.toNat 17 16) cmd (postOperands p) a 8
        .next (s.enter core t none)

/-! ## Reports (R244, R245) -/

/-- REMOTE_REPORT: the status of a tagged task reaches its entry; the failure of an untagged one adds to RPFAIL, which
saturates (Table 13.3). A target of this package has sent it, or it comes from another package. -/
def execRemoteReport (core : Nat) (tag : Option (BitVec 16)) (status : Int) (s : State) : Out :=
  let s := (s.takeOut (.report (s.identity core) tag status)).getD s
  match tag with
  | some g =>
    .next (s.modCore core fun x =>
      { x with reports := x.reports.map fun r => if r.tag = g ∧ r.status.isNone then { r with status := some status } else r })
  | none => .next (s.modCore core fun x => { x with rpfail := if x.rpfail = BitVec.allOnes 64 then x.rpfail else x.rpfail + 1 })

end Sys2Proof.Machine
end

