-- ==== Sys2Proof/Machine/Tasks.lean ====
section
/-!
DEFINITION. The life of a task in the window: grants, waits, issue, aging, completion and failure (R34 to R41, R65 to R73, R231).
-/
namespace Sys2Proof.Machine

/-! ## Window grants (R36) -/

/-- WINDOW_GRANT: an entry that stood free goes to a claimant that has come to wait since; the task that retired last counts as the one that
freed it. -/
def execWindowGrant (core : Nat) (s : State) : Out :=
  .next (s.modCore core fun x => x.grantNext x.lastRetired)

/-! ## Waits in POSTED (R66, R72, R483, R244) -/

/-- The later of two arrivals, with their edge kinds (R66). -/
def laterOf (a b : Arriver × Nat) : Arriver × Nat := if a.1.when_ < b.1.when_ then b else a

/-- The setters of the stamps that a task expects, as arrivals over edge 5. -/
def Core.stampSetters (x : Core) (t : Task) : List (Arriver × Nat) :=
  (t.locals.filter fun o => expects o.rgn).flatMap fun o =>
    match x.buf (rgnBuf o.rgn) with
    | some b => (b.tilesOf o.rgn).filterMap fun i => (b.tileNo i).setter.map fun a => (a, 5)
    | none => []

/-- The entry of the report table that a TASK.RSTAT waits for: that of the task which had reserved its tag at the posting (R244). -/
def Core.reportOf (x : Core) (t : Task) (g : BitVec 16) : Option Report :=
  x.reports.find? fun r => r.tag == g && t.report == some r.by_

/-- Whether a TASK.RSTAT has its report; none when its entry is gone (R244). -/
def Core.reportIn (x : Core) (t : Task) : Option Bool :=
  match t.cmd with
  | .rstat g => (x.reportOf t g).map fun r => r.status.isSome
  | _ => some true

/-- A task's barrier wait has ended: what the phase's updates have released is ordered before the task's accesses, as TB.WAIT and FENCE.X SCL, q
order it (R483, R315). -/
def State.taskMeets (s : State) (c k : Nat) (ph : BitVec 8) : State :=
  if s.late.isEmpty then s
  else
    let ids := s.inScope c (tbScope (s.tb k)) (s.tbReleased k ph.toNat)
    (s.enterDies [dieOf c] fun w => ids.contains w.id).modLate fun w =>
      if ids.contains w.id then { w with engines := w.engines.filter (· != c) } else w

/-- A task enters READY after its last arriver (R66, R370, R372). -/
def State.makeReady (s : State) (c : Nat) (t : Task) : State :=
  let (a, edge) := ((s.core c).stampSetters t).foldl laterOf t.arriver
  let pl := if edge = 1 ∨ edge = 8 then t.pl else plAfter t.pl t.waited s.now a edge
  let t' := { t with state := .ready, waited := 0, age := 0, pl := pl, arriver := (a, edge) }
  (s.taskWait c { t with pl := pl } a edge).modTask c t.seq fun _ => t'

/-- TASK_READY: a wait of a posted task clears, and with the last one it enters READY; a stamp that is ahead, a FAILED region, a failed
or dead barrier or a freed report entry fails it (R34, R66, R72, R244, R483). -/
def execTaskReady (core : Nat) (seq : BitVec 32) (s : State) : Out :=
  match (s.core core).task seq with
  | none => .next s
  | some t =>
    if t.state != .posted || t.doomed then .next s
    else match t.stamped, s.barrierWait t, (s.core core).reportIn t with
      | some (e + 1), _, _ => .next (s.failTask core t (e + 1))
      | _, some (e + 1), _ => .next (s.failTask core t (e + 1))
      | _, _, none => .next (s.failTask core t Cause.estale)
      | met, past, some here =>
        let (s, t) := match t.barWait, past with
          | some (k, ph, _), some 0 =>
            let t := { t with barWait := none, arriver := laterOf t.arriver (s.tbArriver k, 4) }
            ((s.taskMeets core k ph).modTask core seq fun _ => t, t)
          | _, _ => (s, t)
        if met == some 0 && past == some 0 && here && t.deps.isEmpty && t.tokWait.isNone && !s.gridHeld core t then
          .next (s.makeReady core t)
        else .next s

/-! ## Issue (R38) -/

/-- The engine instances of a class (Table 1.3). -/
def instances : EngineClass → Nat
  | .mat => 1
  | .vec => 16
  | .xp => 1
  | .cpy => 2
  | .row => 1

/-- Whether an engine instance is free. -/
def Core.unitFree (x : Core) (cls : EngineClass) (u : Nat) : Bool :=
  !x.window.any fun t => t.state == .issued && t.cmd.cls == cls && t.inst == some u

/-- The free instance that takes a task next: the lowest-numbered one. -/
def Core.freeUnit (x : Core) (cls : EngineClass) : Option Nat := (List.range (instances cls)).find? (x.unitFree cls)

/-- The task that an instance of a class takes: of the highest class, and among those the oldest post sequence. -/
def Core.chosen (x : Core) (cls : EngineClass) : Option Task :=
  (x.window.filter fun t => t.state == .ready && t.retry == 0 && t.cmd.cls == cls).foldl (fun best t =>
    match best with
    | none => some t
    | some b => if t.cls < b.cls ∨ (t.cls = b.cls ∧ older t.seq b.seq) then some t else best) none

/-- The own-window address of the first element of an operand at its bound slot; 0 for an unused or empty one (R231). -/
def Core.operandVa (x : Core) (c : Nat) (t : Task) (pos : Nat) : Word :=
  match t.ops.find? (·.pos == pos) with
  | none => 0
  | some o =>
    if x.opEmpty o then 0
    else
      let b := x.opBuf o
      let idx := rgnO o.rgn
      BitVec.ofNat 64 (canon c (b.linear (b.slotOf o.binds (b.tileIndex idx)) idx).1)

/-- The context in which a VRUN starts (R231). -/
def Core.startCtx (x : Core) (c : Nat) (t : Task) (ent arg : Word) : Ctx :=
  { Ctx.reset with
    task := some t.seq, pc := ent,
    a := Vector.ofFn fun i => if i.val = 1 then arg else if 2 ≤ i.val ∧ i.val < 8 then x.operandVa c t (i.val - 2) else 0 }

/-- A task's renamed writes issue: their generations become WRITING (Table 3.3). -/
def Core.issueWrites (x : Core) (t : Task) : Core :=
  t.locals.foldl (fun x o =>
    if !rgnWrites o.rgn then x
    else match x.buf (rgnBuf o.rgn) with
      | some b => x.setBuf (rgnBuf o.rgn) (o.binds.foldl (fun b p => b.modTile p.1 fun y => y.issue p.2) b)
      | none => x) x

/-- The record and path length of a task that waited in READY for its instance (Table 19.5 edge 6). -/
def State.engineEdge (s : State) (c : Nat) (t : Task) (u : Nat) : State × Task :=
  match (s.core c).engineDone.find? fun e => e.1 == t.cmd.cls && e.2.1 == u with
  | some (_, _, a) =>
    if t.waited ≠ 0 ∧ s.now - t.waited < a.when_ then
      let t := { t with pl := plAfter t.pl t.waited s.now a 6 }
      (s.taskWait c t a 6, t)
    else (s, t)
  | none => (s, t)

/-- An engine instance takes a task, with the checks made at issue. -/
def State.issueTask (s : State) (c : Nat) (t : Task) (u : Nat) : State :=
  let (s, t) := s.engineEdge c t u
  let t := { t with state := .issued, inst := some u, waited := 0 }
  let s := (s.modTask c t.seq fun _ => t).modCore c fun x => x.issueWrites t
  let x := s.core c
  match x.issueCheck c t with
  | some e => s.failTask c t e
  | none =>
    match t.cmd with
    | .vrun ent arg =>
      if h : u < 16 then
        let s := s.setCore c { x with ctxs := x.ctxs.set u (x.startCtx c t ent arg) }
        { s with reqs := s.reqs.filter fun r => !(r.kind == .fetch && r.core == c && r.strand == 4 + u) }
      else s
    | .rpost .. => s.issuePost c t
    | .rstat _ => s
    | .mm .. => s
    | .mmd .. => s
    | .mmz => s
    | .xp => s
    | .row .. => s
    | .cp .. => s.issueCopy c t
    | .cpW .. => s.issueCopy c t
    | .cpG .. => s.issueCopy c t
    | .cpS .. => s.issueCopy c t
    | .cpF .. => s.issueCopy c t
    | .cpR .. => s.issueCopy c t

/-- TASK_ISSUE: a free instance takes the task of the highest class and, among those, the oldest (R38). -/
def execTaskIssue (core : Nat) (cls : EngineClass) (unit : Nat) (s : State) : Out :=
  let x := s.core core
  if x.freeUnit cls ≠ some unit then .next s
  else match x.chosen cls with
    | some t => .next (s.issueTask core t unit)
    | none => .next s

/-- Whether a task is a TASK.RPOST that awaits its descriptor from another package. -/
def Task.awaitsPost (t : Task) : Bool := match t.cmd with | .rpost .. => t.state == .issued && !t.sent && t.stage == 1 | _ => false

/-- REMOTE_POST_RETRY: a busy post whose delay has passed is sent again, when its class takes it (R77, R38); one whose descriptor has come from
another package is sent. -/
def execRemotePostRetry (core : Nat) (seq : BitVec 32) (s : State) : Out :=
  let x := s.core core
  match (x.task seq).filter Task.awaitsPost, x.freeUnit .cpy, x.chosen .cpy with
  | some t, _, _ => .next (s.issuePost core t)
  | none, some u, some t =>
    (match t.cmd with
     | .rpost .. => if t.seq = seq then .next (s.issueTask core t u) else .next s
     | _ => .next s)
  | _, _, _ => .next s

/-- TASK_AGING: a ready task rises one class for each 2,048 cycles in READY (R39). -/
def execTaskAging (core : Nat) (seq : BitVec 32) (s : State) : Out :=
  match (s.core core).task seq with
  | some t =>
    if t.state == .ready && 2048 ≤ t.age && t.cls != 0 then
      .next (s.modTask core seq fun t => { t with cls := t.cls - 1, age := t.age - 2048 })
    else .next s
  | none => .next s

/-! ## Completion and failure (R34, R40, R41, R73) -/

/-- TASK.RSTAT takes the status into its token and frees the entry (R244). -/
def State.takeReport (s : State) (c : Nat) (t : Task) (g : BitVec 16) : State :=
  match (s.core c).reportOf t g with
  | some ⟨_, _, some v⟩ =>
    let s := s.modCore c fun x => x.freeReport g
    if v < 0 then s.failTask c t v.natAbs else s.retire c t none
  | _ => s.failTask c t Cause.estale

/-- TASK_COMPLETE: an engine finishes a task of its own; copies, posts and VRUNs end through their own rows and words (R41). -/
def execTaskComplete (core : Nat) (seq : BitVec 32) (s : State) : Out :=
  match (s.core core).task seq with
  | none => .next s
  | some t =>
    if t.state != .issued then .next s
    else match t.cmd with
      | .mm .. => .next (s.finishCompute core t)
      | .mmd .. => .next (s.finishCompute core t)
      | .mmz => .next (s.finishCompute core t)
      | .xp => .next (s.finishCompute core t)
      | .row .. => .next (s.finishCompute core t)
      | .rstat g => .next (s.takeReport core t g)
      | .vrun .. => .next s
      | .rpost .. => .next s
      | .cp .. => .next s
      | .cpW .. => .next s
      | .cpG .. => .next s
      | .cpS .. => .next s
      | .cpF .. => .next s
      | .cpR .. => .next s

/-- PRODUCER_FAILED: a posted task whose producer has failed, or whose awaited region has, fails in turn (R40, R331). -/
def execProducerFailed (core : Nat) (seq : BitVec 32) (s : State) : Out :=
  match (s.core core).task seq with
  | none => .next s
  | some t =>
    if t.state == .posted && (t.doomed || t.stamped == some Cause.producerFailed) then
      .next (s.failTask core t Cause.producerFailed)
    else .next s

/-- The least stale limit among the FAULT buffers on which a task expects steps; where a shipment holds the task, those of the fields that it
writes count too (R73, R329). -/
def Core.staleLimit (x : Core) (t : Task) (held : Bool) : Option Nat :=
  (t.locals.filter fun o => expects o.rgn || (held && rgnWrites o.rgn)).foldl (fun acc o =>
    match x.buf (rgnBuf o.rgn) with
    | some b =>
      if b.policy = 2 ∧ (expects o.rgn ∨ b.grid.isSome) then some (match acc with | some n => min n b.stale | none => b.stale) else acc
    | none => acc) none

/-- STAMP_STALE_LIMIT (R73). -/
def execStampStaleLimit (core : Nat) (seq : BitVec 32) (s : State) : Out :=
  match (s.core core).task seq with
  | none => .next s
  | some t =>
    match (s.core core).staleLimit t (s.gridHeld core t) with
    | some n => if s.onlyStamps core t && n ≤ t.staleCount then .next (s.failTask core t Cause.stampStale) else .next s
    | none => .next s

end Sys2Proof.Machine
end

