-- ==== Sys2Proof/Machine/System.lean ====
section
/-!
DEFINITION. System instructions and system registers (R281 to R292), starting and ending strands (R28, R32, R33), and the actions
of CORECTL (R286).
-/
namespace Sys2Proof.Machine

/-! ## Strands (R28, R32, R33, R284) -/

/-- The top of the private stack of strand k of the core of rank n (R407). -/
def Launch.stackTop (l : Launch) (n k : Nat) : Word := BitVec.ofNat 64 (l.stkbase + (4 * n + k + 1) * l.stksz)

/-- A strand started at an entry address with all other registers 0, its region registers, flags and trap registers cleared, no
annotation, and step 0 open (R28, R32, R134, R149, R284, R372); accesses in flight and a step request that stands for it (R362) stay. -/
def Strand.start (t : Strand) (entry s2 : Word) (super : Bool) (space : BitVec 20) (launch : Option Nat) : Strand :=
  let u : Strand := { Strand.reset with stores := t.stores, streams := t.streams, barMem := t.barMem, wrote := t.wrote, read := t.read,
                                        after := t.after, tr := { Strand.reset.tr with stepReq := t.tr.stepReq } }
  let u := { u with state := .run, pc := entry &&& ~~~3#64, launch := launch,
                    sys := { u.sys with super := super, spaceid := space } }
  u.setReg 2 s2

/-- A strand that starts awaits no instruction bytes of its last program. -/
def State.dropFetch (s : State) (c k : Nat) : State :=
  if s.reqs.any (fun r => r.kind == .fetch && r.core == c && r.strand == k) then
    { s with reqs := s.reqs.filter fun r => !(r.kind == .fetch && r.core == c && r.strand == k) }
  else s

/-- The rank of a core within a launch. -/
def State.rankOf (s : State) (l : Launch) (c : Nat) : Nat := (l.cores.takeWhile (· != s.identity c)).length

/-- s2 of a strand of core c (R32, R407); no launch descriptor states it for a strand outside a launch (log 19). -/
def State.stackFor (s : State) (launch : Option Nat) (c k : Nat) : Word :=
  match launch.bind fun i => s.launches.find? (·.id == i) with
  | some l => l.stackTop (s.rankOf l c) k
  | none => Config.unstated s.tick

/-- SPAWN (R32, R288). -/
def execSpawn (d a b : Reg) (s : State) : Out :=
  let k := (s.reg a).toNat % 4
  let c := s.myCore
  if (s.strand c k).state != .idle then .next (s.result d minusOne 4)
  else
    let me := s.me
    let s2 := s.stackFor me.launch c k
    let s := (s.dropFetch c k).modStrand c k fun t =>
      ((t.start (s.reg a - BitVec.ofNat 64 k) s2 me.sys.super me.sys.spaceid me.launch).setReg 3 (me.reg 3)).setReg 4 (me.reg b)
    .next (s.result d 0 4)

/-- Whether tasks that strand k posted are in the window. -/
def Core.posted (x : Core) (k : Nat) : Bool := x.heldBy k != 0

/-- A drain of the moving strand's tasks: it waits with REASON 8, and leaves with the one that retired last, whose path length counts though
all had retired before (R33, R50, R370). -/
def State.drained (s : State) (go : State → Out) : Out :=
  if s.here.posted s.myStrand then .next (s.waitFor 8 0)
  else go (match s.me.lastDone with | some a => s.leave a 11 | none => s)

/-- The accumulator banks that a core's partition holds. -/
def Core.banksHeld (x : Core) : Nat := (maskBits x.held.toNat 512).length

/-- END (R33): with a bank held it raises ACC_LEAK, which leaves the annotations (R483), else the strand becomes IDLE. -/
def execEndStrand (s : State) : Out :=
  s.drained fun s =>
    if s.here.banksHeld ≠ 0 then .next (s.trap Cause.accLeak (BitVec.ofNat 64 s.here.banksHeld))
    else .next (s.modMe fun t => { t with state := .idle, reason := 0, obj := 0, waited := 0, launch := none, annTok := none, annBar := none })

/-- YIELD: no effect on state; the strand is not chosen again until each other strand that is in RUN has issued once or left RUN, or 4 cycles
have passed (R288). -/
def execYield (s : State) : Out :=
  let others := s.here.running &&& ~~~BitVec.ofNat 4 (2 ^ s.myStrand)
  .next (s.modMe fun t => { t.finish 4 with yields := others, yieldTill := s.now + 4 })

/-- HALT: in SUPER mode the strand becomes STOPPED, with no cause (R288). -/
def execHalt (s : State) : Out :=
  if !s.me.sys.super then .next (s.trap Cause.priv s.ir)
  else .next (s.modMe fun t => { t.finish 4 with state := .stopped, stopCause := none })

/-! ## Traps (R283, R284) -/

/-- ECALL (R283). -/
def execEcall (a : Reg) (s : State) : Out := .next (s.trap Cause.ecall (s.reg a))

/-- TRAP: with a = 0 it has no effect (R283). -/
def execTrap (a b : Reg) (s : State) : Out :=
  if s.reg a = 0 then .next (s.finish 4) else .next (s.trap Cause.trap (s.reg b))

/-- ERET; with INTRAP = 0 it raises ILLEGAL (R284). -/
def execEret (s : State) : Out := if s.me.sys.intrap then .next s.eret else .next (s.trap Cause.illegal s.ir)

/-! ## Safe points and checkpoints (R50, R51, R287) -/

/-- The one count of a SAFEPT or CKPT, unless a debug stop at it has added it. -/
def State.ownCount (s : State) : State :=
  if s.me.tr.counted then s else s.countSafePoint s.myCore s.myStrand

/-- SAFEPT (R287). -/
def execSafept (s : State) : Out := .next (s.ownCount.finish 4)

/-- Whether a pre-emption request to the moving core's partition is pending (R51). -/
def State.preempting (s : State) : Bool :=
  match s.part s.here.partno with
  | some p => p.preempt.isSome
  | none => false

/-- CKPT: it drains, and completes, or parks while a pre-emption request is pending (R50, R51, R287). -/
def execCkpt (s : State) : Out :=
  s.drained fun s =>
    let s := s.ownCount.modMe fun t => { t with annTok := none, annBar := none }
    if s.preempting then .next (s.modMe fun t => { t.finish 4 with state := .parked }) else .next (s.finish 4)

/-! ## Reading system registers (R285, Tables 13.3 to 13.6) -/

/-- The code of a strand's state in WSTATE. -/
def StrandState.code : StrandState → Nat
  | .idle => 0
  | .run => 1
  | .wait => 2
  | .parked => 3
  | .stopped => 4

/-- WSTATE of a strand. -/
def Strand.wstate (t : Strand) : Word :=
  if t.state == .wait then BitVec.ofNat 64 (t.obj * 2 ^ 8 + t.reason * 2 ^ 4 + 2) else BitVec.ofNat 64 t.state.code

/-- REASON and OBJ of a task, the first unmet wait in the order 10, 11, 12, 13; a barrier of the task's own core is shown in the own
window (R457). -/
def State.taskWaits (s : State) (c : Nat) (t : Task) : Nat × Nat :=
  if t.state == .suspended then (14, 0)
  else if t.state != .posted then (0, 0)
  else if !t.deps.isEmpty then (10, 0)
  else match t.tokWait, t.barWait, s.barrierWait t with
    | some (_, r), _, _ => (11, r.toNat)
    | none, some (k, _, _), none =>
      let off := (k - 2 ^ 42) % 2 ^ 21
      (12, if scratchCore k = c then ownBase + off else memberBase + (scratchCore k) % 4 * 2 ^ 21 + off)
    | none, _, _ => if s.onlyStamps c t then (13, 0) else (0, 0)

/-- WHEAD of a core. -/
def State.whead (s : State) (c : Nat) : Word :=
  match (s.core c).window.head? with
  | none => 0
  | some t =>
    let (reason, obj) := s.taskWaits c t
    let st := match t.state with | .posted => 5 | .ready => 6 | .issued => 7 | .suspended => 7
    BitVec.ofNat 64 (obj * 2 ^ 8 + reason * 2 ^ 4 + st)

/-- The SWAPPED intake n of a core whose partition is saved (R75). -/
def State.swapped (s : State) (c n : Nat) : Option Intake :=
  s.parts.findSome? fun p => (p.saved.find? (·.1 == c)).bind fun y => (y.2.intakes.toList[n]?).filter fun i => i.st == .swapped

/-- The handle of intake n of a core (Table 3.6) while it is OPEN or SWAPPED, 0 while it is CLOSED (R76). -/
def State.intakeHandle (s : State) (c n : Nat) : Word :=
  let i := (s.core c).intakes.toList.getD n ⟨.closed, 0, []⟩
  let i := if i.st == .closed then (s.swapped c n).getD i else i
  if i.st == .closed then 0 else BitVec.ofNat 64 (i.gen * 2 ^ 25 + s.identity c * 4 + n)

/-- The value of a register of strand k of core c; a WO register reads as zero (R4). -/
def State.sysRead (s : State) (c k n : Nat) : Word :=
  let x := s.core c
  let y := x.strand k
  let tiles : Nat := match s.part x.partno with | some p => p.tpool.length | none => 0
  if n = 0x000 then BitVec.ofNat 64 y.sys.fflags.toNat
  else if n = 0x001 then BitVec.ofNat 64 (s.identity c)
  else if n = 0x002 then BitVec.ofNat 64 k
  else if n = 0x003 then BitVec.ofNat 64 x.partno
  else if n = 0x004 then BitVec.ofNat 64 y.sys.spaceid.toNat
  else if n = 0x005 then BitVec.ofNat 64 s.now
  else if n = 0x008 then y.sys.tvec
  else if n = 0x009 then y.sys.epc
  else if n = 0x00A then y.sys.ecause
  else if n = 0x00B then y.sys.eval
  else if n = 0x00C then BitVec.ofNat 64 (y.sys.intrap.toNat + 2 * y.sys.super.toNat)
  else if n = 0x010 then BitVec.ofNat 64 y.sys.evpend.toNat
  else if n = 0x012 then y.sys.timer
  else if n = 0x013 then y.sys.spcnt
  else if n = 0x014 then BitVec.ofNat 64 y.sys.plen
  else if n = 0x015 then BitVec.ofNat 64 y.sys.spstep.toNat
  else if n = 0x018 then x.rpfail
  else if n = 0x019 then BitVec.ofNat 64 x.banksHeld
  else if n = 0x01A then BitVec.ofNat 64 tiles
  else if n = 0x01C then y.sys.trctl
  else if n = 0x01D then y.sys.trbase
  else if n = 0x01E then y.sys.trhead
  else if 0x020 ≤ n ∧ n ≤ 0x023 then (x.strand (n - 0x020)).wstate
  else if n = 0x024 then s.whead c
  else if n = 0x025 then BitVec.ofNat 64 x.winocc
  else if 0x026 ≤ n ∧ n ≤ 0x029 then s.intakeHandle c (n - 0x026)
  else if n = 0x100 then x.rsel
  else 0

/-- Whether a register number is reserved to SUPER mode (Table 13.3). -/
def sysSuper (n : Nat) : Bool := n = 0x100 || n = 0x101 || 0x400 ≤ n

/-- The core and strand that the remote window of the moving core reaches (Table 13.6). -/
def State.selected (s : State) : Nat × Nat := (bitsOf s.here.rsel.toNat 7 0, bitsOf s.here.rsel.toNat 10 9)

/-- SYSR or SYSW on a register: the mode check, then the target, its own or through the remote window (R285, R286). -/
def State.onSys (s : State) (num : BitVec 12) (go : Nat → Nat → Nat → Bool → State → Out) : Out :=
  let n := num.toNat
  if sysSuper n && !s.me.sys.super then .next (s.trap Cause.priv s.ir)
  else if n < 0x400 then go s.myCore s.myStrand n false s
  else if bitsOf s.here.rsel.toNat 8 8 = 0 then .next (s.trap Cause.protect (Config.unstated s.tick))
  else go s.selected.1 s.selected.2 (n - 0x400) true s

/-- SYSR (R285): through the remote window the result stays pending for longer. -/
def execSysr (d : Reg) (num : BitVec 12) (s : State) : Out :=
  s.onSys num fun c k n remote s =>
    let v := s.sysRead c k n
    .next (if remote then s.later d v else s.result d v 4)

/-! ## Writing system registers -/

/-- The bits of ECAUSE that are not reserved (Table 13.4). -/
def ecauseMask : Word := 0x187FF
/-- The bits of TRCTL that are not reserved (Table 19.2). -/
def trctlMask : Word := 0xFFF1FB

/-- REGISTER_WRITE: a register without behaviour of its own is written field by field; a write to an RO register has no effect
(R4, R285). -/
def execRegisterWrite (core strand : Nat) (num : BitVec 12) (value : Word) (s : State) : Out :=
  let n := num.toNat
  let put (f : StrandSys → StrandSys) : Out := .next (s.modStrand core strand fun t => { t with sys := f t.sys })
  if n = 0x000 then put fun y => { y with fflags := value.setWidth 5 }
  else if n = 0x008 then put fun y => { y with tvec := value }
  else if n = 0x009 then put fun y => { y with epc := value }
  else if n = 0x00A then put fun y => { y with ecause := value &&& ecauseMask }
  else if n = 0x00B then put fun y => { y with eval := value }
  else if n = 0x010 then put fun y => { y with evpend := y.evpend &&& ~~~(value.setWidth 16) }
  else if n = 0x012 then put fun y => { y with timer := value }
  else if n = 0x018 then .next (s.modCore core fun x => { x with rpfail := value })
  else if n = 0x100 then .next (s.modCore core fun x => { x with rsel := value &&& 0x7FF#64 })
  else .next s

/-- The key under which what EVSETs to a strand have released is kept. -/
def evKey (c k : Nat) : Nat := 2 ^ 70 + c * 4 + k

/-- What EVSETs to a strand have released (R289). -/
def State.evReleased (s : State) (c k : Nat) : List Nat := ((s.barSeen.find? (·.1 == evKey c k)).map (·.2)).getD []

/-- An EVSET releases what is ordered before it to a strand (R289). -/
def State.evRelease (s : State) (c k : Nat) : State :=
  if s.late.isEmpty then s
  else { s with barSeen := (evKey c k, s.joinLate (s.evReleased c k) s.me.after) :: s.barSeen.filter (·.1 != evKey c k) }

/-- EVSET: the events of bits [7:0] are set in the strand of bits [17:16], by the moving strand (R289). -/
def execEvset (core : Nat) (value : Word) (s : State) : Out :=
  .next ((s.evRelease core (bitsOf value.toNat 17 16)).modStrand core (bitsOf value.toNat 17 16) fun t => t.setEvents (maskBits (value.toNat % 2 ^ 8) 8) s.meArriver)

/-- TRCTL: TRHEAD becomes 0, and a full ring takes records again (R365, R366). -/
def execTrctlWrite (core strand : Nat) (value : Word) (s : State) : Out :=
  .next (s.modStrand core strand fun t =>
    { t with sys := { t.sys with trctl := value &&& trctlMask, trhead := 0 }, tr := { t.tr with full := false } })

/-- TRBASE: TRHEAD becomes 0, and a full ring takes records again (R365, R366). -/
def execTrbaseWrite (core strand : Nat) (value : Word) (s : State) : Out :=
  .next (s.modStrand core strand fun t =>
    { t with sys := { t.sys with trbase := value, trhead := 0 }, tr := { t.tr with full := false } })

/-! ## CORECTL (R286, Table 13.7) -/

/-- The tasks of a core that pass a test fail with a cause, oldest first. -/
def State.failTasks (s : State) (c cause : Nat) (p : Task → Bool) : State :=
  ((s.core c).window.filter p).foldl (fun s t =>
    match (s.core c).task t.seq with
    | some u => s.failTask c u cause
    | none => s) s

/-- Whether a strand of a mask posted a task. -/
def Task.ofMask (t : Task) (mask : BitVec 4) : Bool :=
  match t.owner with
  | .strand k => mask.getLsbD k
  | .remote _ _ => false

/-- Acting on each strand of a mask in turn. -/
def forMask (mask : BitVec 4) (s : State) (f : Nat → State → State) : State :=
  (List.range 4).foldl (fun s k => if mask.getLsbD k then f k s else s) s

/-- CORECTL.FLUSH: every task of each named strand fails with WATCHDOG (R40). -/
def execCorectlFlush (core : Nat) (mask : BitVec 4) (s : State) : Out :=
  .next (s.failTasks core Cause.watchdog fun t => t.ofMask mask)

/-- CORECTL.FLUSHIN: every admitted remote task in the window fails with WATCHDOG. -/
def execCorectlFlushin (core : Nat) (s : State) : Out :=
  .next (s.failTasks core Cause.watchdog fun t => match t.owner with | .remote _ _ => true | .strand _ => false)

/-- A fatal WATCHDOG stop of a strand in RUN, WAIT or PARKED (Table 13.7, R80). -/
def State.watchdogStop (s : State) (c k : Nat) : State :=
  let t := s.strand c k
  if t.state == .idle || t.state == .stopped then s
  else s.stopStrand c k Cause.watchdog (Config.unstated s.tick) t.pc

/-- CORECTL.STOP. -/
def execCorectlStop (core : Nat) (mask : BitVec 4) (s : State) : Out :=
  .next (forMask mask s fun k s => s.watchdogStop core k)

/-- The scratchpad, accumulator banks and vector registers of a core are zeroed and every tag is cleared (R423, R443). -/
def State.zeroPads (s : State) (c : Nat) : State :=
  let keys := (s.live.filter fun l => spBase c ≤ l.1 && l.1 < spBase c + 2 ^ 21).map (·.1)
  let s := keys.foldl State.tbKill s
  let s := (s.zeroRange (spBase c) (2 ^ 21)).zeroRange (accBase c) (2 ^ 20)
  s.modCore c fun x => { x with ctxs := x.ctxs.map fun y => { y with v := Vector.replicate 64 0 } }

/-- CORECTL.RESET: the tasks of each named STOPPED strand fail with WATCHDOG, and it becomes IDLE. Naming all four strands of a frozen
core, each STOPPED or IDLE, ends the freeze (R423). -/
def execCorectlReset (core : Nat) (mask : BitVec 4) (s : State) : Out :=
  let thaw : Bool := mask == 15 && (s.core core).frozen &&
    (s.core core).strands.toList.all fun t => t.state == .stopped || t.state == .idle
  let s := forMask mask s fun k s =>
    if (s.strand core k).state != .stopped then s
    else
      let s := s.failTasks core Cause.watchdog fun t => t.owner == .strand k
      s.modStrand core k fun t => { t with state := .idle, launch := none, stopCause := none, tr := { t.tr with debugStop := none } }
  .next (if thaw then (s.zeroPads core).modCore core fun x => { x with frozen := false } else s)

/-- The state of an answer; a fault or refusal leaves the state before it. -/
def Out.thenState (o : Out) (s : State) (go : State → Out) : Out :=
  match o with
  | .next s => go s
  | .fault _ => go s
  | .refused _ => go s

/-- CORECTL: FLUSH and FLUSHIN act first, then STOP, then RESET (R286). -/
def State.corectl (s : State) (core : Nat) (value : Word) : Out :=
  let field (hi lo : Nat) : BitVec 4 := BitVec.ofNat 4 (bitsOf value.toNat hi lo)
  Out.thenState (execCorectlFlush core (field 3 0) s) s fun s =>
  Out.thenState (if bitsOf value.toNat 4 4 = 1 then execCorectlFlushin core s else .next s) s fun s =>
  Out.thenState (execCorectlStop core (field 8 5) s) s fun s => execCorectlReset core (field 12 9) s

/-- SYSW (R285): a write to EVSET is a release at CORE scope (R289). -/
def execSysw (num : BitVec 12) (a : Reg) (s : State) : Out :=
  s.onSys num fun c k n _ s =>
    let v := s.reg a
    if n = 0x011 then s.release 0 fun s => execEvset c v (s.finish 4)
    else if n = 0x01C then execTrctlWrite c k v (s.finish 4)
    else if n = 0x01D then execTrbaseWrite c k v (s.finish 4)
    else if n = 0x101 then (s.finish 4).corectl c v
    else execRegisterWrite c k (BitVec.ofNat 12 n) v (s.finish 4)

/-! ## Events (R289) -/

/-- The arriver of a WAITEV that returns some events: the greatest path length with transit, the lowest bit among equals; the strand itself has no
transit, so that a TIMER event leaves the path length as it is (R371). -/
def Strand.eventArriver (t : Strand) (self : Arriver) (bits : List Nat) (now : Nat) : Option Arriver :=
  let own (a : Arriver) : Arriver := if a.who = self.who ∧ a.seq = self.seq then { a with when_ := now } else a
  (bits.filterMap fun b => (t.evSetter.find? (·.1 == b)).map fun p => own p.2).foldl (fun best a =>
    match best with
    | none => some a
    | some b => if plAfter 0 t.waited now b 10 < plAfter 0 t.waited now a 10 then some a else some b) none

/-- WAITEV: one that returns events of EVSET is an acquire at CORE scope (R289). -/
def execWaitev (d a : Reg) (s : State) : Out :=
  let k := BitVec.ofNat 16 (s.reg a).toNat
  let got := s.me.sys.evpend &&& k
  if k ≠ 0 ∧ got = 0 then .next (s.waitFor 7 0)
  else
    let s := match s.me.eventArriver s.meArriver (maskBits got.toNat 16) s.now with | some x => s.leave x 10 | none => s
    let s := if got.toNat % 256 = 0 then s else (s.meet (s.evReleased s.myCore s.myStrand)).acquire 0
    let s := s.modMe fun t => { t with sys := { t.sys with evpend := t.sys.evpend &&& ~~~got } }
    .next (s.result d (BitVec.ofNat 64 got.toNat) 4)

/-- TIMER_EXPIRY: TIMER reaches 0 and sets event 11 (R289). -/
def execTimerExpiry (core strand : Nat) (s : State) : Out :=
  if (s.strand core strand).sys.timer = 1 then
    .next (s.modStrand core strand fun t =>
      ({ t with sys := { t.sys with timer := 0 } }).setEvent 11 (s.strandArriver core strand))
  else .next s

/-! ## Accumulator banks (R290) -/

/-- Whether banks b to b + n − 1 are all free. -/
def Core.banksFree (x : Core) (b n : Nat) : Bool := (List.range n).all fun i => !x.held.getLsbD (b + i)

/-- ACC.ALLOC: the lowest run of free banks. -/
def execAccAlloc (d a : Reg) (s : State) : Out :=
  let n := (s.reg a).toNat
  let x := s.here
  if n = 0 ∨ 512 < n then .next (s.later d minusOne)
  else match (List.range (513 - n)).find? fun b => x.banksFree b n with
    | none => .next (s.later d minusOne)
    | some b =>
      let run := BitVec.ofNat 512 ((2 ^ n - 1) * 2 ^ b)
      .next ((s.modCore s.myCore fun x => { x with held := x.held ||| run }).later d (BitVec.ofNat 64 b))

/-- ACC.FREE. -/
def execAccFree (d a b : Reg) (s : State) : Out :=
  let base := (s.reg a).toNat
  let n := (s.reg b).toNat
  let x := s.here
  if n = 0 ∨ 512 < base + n ∨ !((List.range n).all fun i => x.held.getLsbD (base + i)) then .next (s.later d minusOne)
  else
    let run := BitVec.ofNat 512 ((2 ^ n - 1) * 2 ^ base)
    .next ((s.modCore s.myCore fun x => { x with held := x.held &&& ~~~run }).later d 0)

/-! ## Sparse pages (R98, R99, R291) -/

/-- The leaf of a page, by the walk: an instruction that changes a leaf works on the entry itself. -/
def State.walkLeaf (s : State) (die space va : Nat) : Stage1 :=
  match s.spaceEntry space with
  | none => .fail Cause.xlate
  | some (partno, root) => s.s1Walk die partno va 3 root

/-- A leaf with C and the intermediate address set, held copies of the old one dropped (R99). -/
def State.setLeaf (s : State) (l : Leaf) (new : Nat) : State :=
  { s.writeNat l.place 8 new with tlb := s.tlb.filter fun e => e.leaf != l.bits }

/-- A fault of the walk, or of the granule's stage 2, holds the strand at the instruction until it is disposed of (log 21). -/
def State.holdSparse (s : State) (va : Word) (kind level ipa : Nat) : State :=
  (s.openFault (.fetch s.myCore s.myStrand) s.myCore s.me.sys.spaceid.toNat 0 accWrite va.toNat kind level ipa).waitFor 9 va.toNat

/-- MEM.COMMIT and MEM.DECOMMIT on the leaf of the page at a, after the checks of R291: alignment, checks 1 to 5 of Table 4.4 with W,
and the mode. While a fault of the walk is open the strand stands at the instruction (log 21). -/
def State.onSparse (s : State) (d a : Reg) (go : Leaf → State → Out) : Out :=
  let va := s.reg a
  if va.toNat % 2 ^ 16 ≠ 0 then .next (s.trap Cause.misalign va)
  else if !inPaged va.toNat then .next (s.trap Cause.xlate va)
  else match s.walkLeaf (dieOf s.myCore) s.me.sys.spaceid.toNat va.toNat with
    | .fail c => .next (s.trap c va)
    | .open k l i => .next (s.holdSparse va k l i)
    | .leaf l =>
      let m := leafMode l.bits
      if 6 ≤ m ∨ ((m = 2 ∨ m = 3 ∨ m = 4) ∧ s.badPeer l) ∨ (m = 5 ∧ leafEndpoint l.bits = none) then .next (s.trap Cause.xlate va)
      else if !leafW l.bits ∨ (!s.me.sys.super ∧ !leafU l.bits) then .next (s.trap Cause.protect va)
      else if 1 < m then .next (s.trap Cause.xlate va)
      else if l.level = 2 then .next (s.later d (wordOfInt (-2)))
      else go l s

/-- MEM.COMMIT: a granule of the tile pool, zeroed, backs the page; the leaf takes its intermediate address, and a granule that stage 2 does not
map is a fault of check 7 (R98; log 23). -/
def execMemCommit (d a : Reg) (s : State) : Out :=
  s.onSparse d a fun l s =>
    if leafC l.bits then .next (s.later d 1)
    else match s.part s.here.partno with
      | some p => match p.tpool with
        | [] => .next (s.later d minusOne)
        | g :: rest =>
          match s.stage2 (dieOf s.myCore) l.partno g with
          | .pa a =>
            let s := (s.modPart s.here.partno fun p => { p with tpool := rest }).zeroRange a 65536
            .next ((s.setLeaf l (putBits (putBits l.bits 43 12 (g / 2 ^ 16)) 6 6 1)).later d 0)
          | .invalid n => .next (s.holdSparse (s.reg a) 2 n g)
          | .reserved => .next (s.trap Cause.xlate (s.reg a))
      | none => .next (s.later d minusOne)

/-- MEM.DECOMMIT: the granule returns to the pool. -/
def execMemDecommit (d a : Reg) (s : State) : Out :=
  s.onSparse d a fun l s =>
    if !leafC l.bits then .next (s.later d 1)
    else
      let s := s.modPart s.here.partno fun p => { p with tpool := p.tpool ++ [leafOut l.bits] }
      .next ((s.setLeaf l (putBits l.bits 6 6 0)).later d 0)

/-! ## Marks and steps (R292) -/

/-- TRACE.MARK. -/
def execTraceMark (a b : Reg) (s : State) : Out :=
  let s := if trClass s.me.sys.trctl 3 then
      s.strandRecord s.myCore s.myStrand 1 (s.reg a).toNat ((s.reg b).toNat % 2 ^ 16)
    else s
  .next (s.finish 4)

/-- STEP.END: the step's path length, its STEP record, and the next step (R292, R370, R372). -/
def execStepEnd (d a : Reg) (s : State) : Out :=
  let step := BitVec.ofNat 32 (s.reg a).toNat
  let pl := s.me.sys.plen
  let s := if trClass s.me.sys.trctl 6 then
      s.record s.myCore s.myStrand 4 step.toNat pl step.toNat s.me.tr.safePoint
    else s
  let s := s.modMe fun t => { t with sys := { t.sys with spstep := step, plen := 0 }, tr := { t.tr with stepOpen := step + 1 } }
  .next (s.result d (BitVec.ofNat 64 pl) 4)

end Sys2Proof.Machine
end

