-- ==== Sys2Proof/Machine/Landing.lean ====
section
/-!
DEFINITION. Landing zones: the LZ instructions, reservations, and what the receiver of a CP.R does (R336 to R352).
-/
namespace Sys2Proof.Machine

/-! ## Zones and slots (R336, R340) -/

/-- Entry z of the zone table. -/
def Core.zone (x : Core) (z : Nat) : Zone := if h : z < 16 then x.zones[z] else Zone.reset

/-- The core with a zone entry changed. -/
def Core.modZone (x : Core) (z : Nat) (f : Zone → Zone) : Core :=
  if h : z < 16 then { x with zones := x.zones.set z (f x.zones[z]) } else x

/-- The state with a zone entry changed. -/
def State.modZone (s : State) (c z : Nat) (f : Zone → Zone) : State := s.modCore c fun x => x.modZone z f

/-- The state with slot i of a zone changed. -/
def State.modSlot (s : State) (c z i : Nat) (f : Slot → Slot) : State :=
  s.modZone c z fun y => { y with slots := y.slots.modify i f }

/-- A FREE slot that has never been reserved (R339). -/
def Slot.fresh : Slot := ⟨.free, 0, 0, 0, none, 0, 0, [], 0⟩

/-- Slot i of a zone. -/
def Zone.slot (y : Zone) (i : Nat) : Slot := y.slots.getD i Slot.fresh

/-- Whether a slot is in RESERVED or LANDING. -/
def Slot.isOpen (x : Slot) : Bool := x.st == .reserved || x.st == .landing

/-- The key of the barrier of slot i, and of the first byte of the slot, of a zone of core c (R337). -/
def Zone.barKey (y : Zone) (c i : Nat) : Nat := spBase c + (y.bars - ownBase) + 32 * i
def Zone.slotKey (y : Zone) (c i : Nat) : Nat := spBase c + (y.base - ownBase) + i * y.slotsz * 512

/-- The handle of a zone and a reservation of slot i (Table 17.3). -/
def zoneHandle (core z zgen : Nat) : Word := BitVec.ofNat 64 (core * 2 ^ 12 + z * 2 ^ 8 + zgen)
def resvWord (slotsz core z zgen i gen : Nat) : Word :=
  BitVec.ofNat 64 ((slotsz - 1) * 2 ^ 49 + core * 2 ^ 26 + z * 2 ^ 22 + zgen * 2 ^ 14 + i * 2 ^ 8 + gen)

/-- A generation counter of 8 bits that never takes 0 (R336, R341). -/
def nextGen8 (g : Nat) : Nat := g % 255 + 1

/-- An open slot fails with a cause: FailPhase on its barrier (R342). A frozen scratchpad takes no transition (R351). -/
def State.failSlot (s : State) (c z i cause : Nat) : State :=
  let y := (s.core c).zone z
  if !y.active || !(y.slot i).isOpen || (s.core c).frozen then s
  else (s.tbFail (y.barKey c i) cause).modSlot c z i fun x => { x with st := .failed, code := cause }

/-! ## LZ.DEF (R337, R339, R344) -/

/-- The zone that a descriptor gives (Table 17.1), with ZGEN still to come. -/
def zoneOf (raw : Nat) : Zone :=
  { active := true, zgen := 0, base := bitsOf raw 63 0, bars := bitsOf raw 127 64, slotsz := bitsOf raw 137 128,
    scope := bitsOf raw 154 152, sbuf := if bitsOf raw 155 155 = 1 then some (bitsOf raw 167 160) else none,
    lease := if bitsOf raw 223 192 = 0 then 2 ^ 24 else bitsOf raw 223 192,
    slots := List.replicate (bitsOf raw 150 144) Slot.fresh, raw := BitVec.ofNat 512 raw }

/-- Whether buffer n meets R344 for a zone. -/
def Core.slotBuffer (x : Core) (y : Zone) (n : Nat) : Bool :=
  match x.buf n with
  | none => false
  | some b =>
    b.rank == 2 && b.versions == 0 && b.policy != 0 && b.base == y.base && b.strideAt 1 == y.slotsz * 512 &&
      b.extAt 1 == y.slots.length && b.tileAt 1 == 1 && b.tileAt 0 == b.extAt 0

/-- Step 2 of R339: the descriptor's fields, and the places of the slots and the barrier array. -/
def Core.zoneOk (x : Core) (raw : Nat) (y : Zone) : Bool :=
  let n := y.slots.length
  let span := n * y.slotsz * 512
  bitsOf raw 511 224 == 0 && bitsOf raw 191 168 == 0 && bitsOf raw 159 156 == 0 && bitsOf raw 151 151 == 0 && bitsOf raw 143 138 == 0 &&
  1 ≤ n && n ≤ 64 && 1 ≤ y.slotsz && y.slotsz ≤ 512 && y.scope ≤ 5 &&
  inOwn y.base && y.base % 512 == 0 && inOwn y.bars && y.bars % 32 == 0 &&
  y.base + span ≤ ownBase + 0x200000 && y.bars + 32 * n ≤ ownBase + 0x200000 &&
  (y.base + span ≤ y.bars || y.bars + 32 * n ≤ y.base) &&
  (match y.sbuf with | some b => x.slotBuffer y b | none => true)

/-- Whether an instruction that writes slot barriers of the moving core is refused because its scratchpad is frozen (R80, R351). -/
def State.zoneFrozen (s : State) : Bool := s.here.frozen

/-- LZ.DEF (R339): a bit of b that Table 17.2 does not name comes before everything (R338). A service core has no zone (R83). -/
def execLzDef (d a b : Reg) (s : State) : Out :=
  let c := s.myCore
  let z := (s.reg b).toNat % 16
  if 16 ≤ (s.reg b).toNat then .next (s.later d minusOne)
  else if (s.reg a).toNat % 64 = 0 ∧ isService c then .next (s.trap Cause.xlate (s.reg a))
  else s.readDescriptor (s.reg a) 64 fun raw s =>
    let y := zoneOf raw
    let n := y.slots.length
    if !s.here.zoneOk raw y then .next (s.later d minusOne)
    else if (s.here.zone z).active then .next (s.later d (wordOfInt (-2)))
    else if s.tagged (y.barKey c 0) (32 * n) then .next (s.later d (wordOfInt (-3)))
    else if s.zoneFrozen then .next (s.trap Cause.protect (BitVec.ofNat 64 y.bars))
    else
      let g := nextGen8 (s.here.zone z).zgen
      let s := (List.range n).foldl (fun s i => s.tbInit (y.barKey c i) 1 y.scope true) s
      let s := s.modZone c z fun _ => { y with zgen := g }
      .next (s.later d (zoneHandle (s.identity c) z g))

/-! ## Reservations (R341) -/

/-- The package of the core that a zone handle names. -/
def handleHome (a : Word) : Nat := bitsOf a.toNat 34 12

/-- LZ.RESV sends its request to the zone's home (R341). A home in a group that does not exist answers ESTALE. -/
def execLzResv (d a b : Reg) (s : State) : Out :=
  let c := s.myCore
  let k := s.myStrand
  let r : ResvRequest := ⟨s.identity c, s.here.partno, s.reg a, s.reg b, (s.routeTo (handleHome (s.reg a) / 256)).getD [], some (c, k, d.toNat)⟩
  let pkg := handleHome r.a / 256
  let sent : State := { s with outbox := s.outbox ++ [.resvRequest r] }
  if pkg = s.marten.values.pkg then .next ((sent.modMe fun t => t.mark d .resv).finish 4)
  else if s.marten.values.ngroups ≤ pkg / 32 then .next (s.later d (negCode Cause.estale))
  else
    let s := sent.sendReq c k .resv (.peer pkg 0) ⟨s.me.pc, 0, 8, .load d false⟩ false []
    .next ((s.modMe fun t => t.mark d .resv).finish 4)

/-- What a zone's home answers to a request, and its state after it: one atomic on the slot map (R341). A service core updates no slot (R8): it is
answered with ESTALE (DESIGN CHOICE, log 56: no rule gives the code). -/
def State.grantSlot (s : State) (r : ResvRequest) : Word × State :=
  let a := r.a.toNat
  let b := r.b.toNat
  let n := bitsOf b 18 0
  let e := bitsOf b 31 31 = 1
  match s.coreOfIdentity (handleHome r.a) with
  | none => (negCode Cause.estale, s)
  | some c =>
    let x := s.core c
    let z := bitsOf a 11 8
    let y := x.zone z
    if bitsOf a 63 35 ≠ 0 ∨ bitsOf b 30 19 ≠ 0 ∨ 2 ^ 23 ≤ r.who then (negCode Cause.estale, s)
    else if x.partno = 0 ∨ r.partno ≠ x.partno ∨ !y.active ∨ y.zgen ≠ bitsOf a 7 0 then (negCode Cause.estale, s)
    else if x.frozen then (negCode Cause.protect, s)
    else if y.slotsz * 512 < n then (negCode Cause.regionEscape, s)
    else if e ∧ y.sbuf.isNone then (negCode Cause.regionInvalid, s)
    else match (List.range y.slots.length).find? fun i => (y.slot i).st == .free with
      | none => (0, s)
      | some i =>
        let g := nextGen8 (y.slot i).gen
        let k := y.barKey c i
        let s := s.putTb k (putBits (tbSetName (putBits (s.tb k) 39 0 n) 0 r.who) 55 53 1)
        let step := if e then some (BitVec.ofNat 32 (bitsOf b 63 32)) else none
        let s := s.modSlot c z i fun _ => ⟨.reserved, g, n, 0, step, 0, r.who, r.route, 0⟩
        (resvWord y.slotsz (s.identity c) z y.zgen i g, s)

/-- LZ_RESV_REQUEST: a request is performed at the zone's home and answered (R341). A core of this package has sent it, or it comes from
another package. -/
def execLzResvRequest (req : ResvRequest) (s : State) : Out :=
  let mine : Bool := req.reply.isSome || req.who / 256 == s.marten.values.pkg
  let got := if mine then s.takeOut (.resvRequest req) else some s
  match got with
  | none => .next s
  | some s' =>
    if handleHome req.a / 256 ≠ s.marten.values.pkg then .next s
    else
      let (v, s) := s'.grantSlot req
      .next { s with outbox := s.outbox ++ [OutMsg.resvAnswer req v] }

/-- A register that waits for a reservation takes the answer. -/
def Strand.takeAnswer (t : Strand) (r : Reg) (v : Word) : Strand :=
  if t.pend.contains ⟨r, .resv⟩ then ({ t with pend := t.pend.erase ⟨r, .resv⟩ } : Strand).setReg r v else t

/-- LZ_RESV_ANSWER: the answer to the reservation that register idx of a strand waits for has arrived (R341). A zone of this package has
sent it, or it comes from another package. -/
def execLzResvAnswer (core strand idx : Nat) (answer : Word) (s : State) : Out :=
  let mine (m : OutMsg) : Bool := match m with
    | .resvAnswer r v => r.reply == some (core, strand, idx) && v == answer
    | _ => false
  let ask (r : Req) : Bool := r.kind == .resv && r.core == core && r.strand == strand &&
    (match r.acc.op with | .load d _ => d.toNat == idx | _ => false)
  let put (s : State) : Out := .next (s.modStrand core strand fun t => t.takeAnswer (BitVec.ofNat 5 idx) answer)
  match s.outbox.find? mine, s.reqs.find? ask with
  | some m, _ => put { s with outbox := s.outbox.erase m }
  | none, some r => put { s with reqs := s.reqs.erase r }
  | none, none => .next s

/-! ## LZ.REL, LZ.STAT, LZ.UNDEF (R346 to R348) -/

/-- LZ.REL (R346). -/
def execLzRel (d a b : Reg) (s : State) : Out :=
  let c := s.myCore
  let z := (s.reg a).toNat
  let i := (s.reg b).toNat
  let y := s.here.zone z
  if 16 ≤ z ∨ !y.active ∨ y.slots.length ≤ i ∨ (y.slot i).st == .free then .next (s.result d minusOne 4)
  else if s.zoneFrozen then .next (s.trap Cause.protect (BitVec.ofNat 64 (y.bars + 32 * i)))
  else s.release y.scope fun s =>
    let s := s.failSlot c z i Cause.estale
    let s := (s.tbKill (y.barKey c i)).tbInit (y.barKey c i) 1 y.scope true
    let s := s.modSlot c z i fun x => { Slot.fresh with gen := x.gen, rbytes := x.rbytes, rcvd := x.rcvd }
    .next (s.result d 0 4)

/-- The code of a slot's state (Table 17.5). -/
def SlotState.code : SlotState → Nat
  | .free => 0
  | .reserved => 1
  | .landing => 2
  | .full => 3
  | .failed => 4

/-- The number of slots of a zone in a state. -/
def Zone.count (y : Zone) (st : SlotState) : Nat := (y.slots.filter (·.st == st)).length

/-- The value of a selector (Table 17.5). -/
def Zone.stat (y : Zone) (core z sel : Nat) : Word :=
  if sel < y.slots.length then
    let x := y.slot sel
    BitVec.ofNat 64 (x.rcvd * 2 ^ 35 + x.rbytes * 2 ^ 16 + x.gen * 2 ^ 8 + x.st.code)
  else if sel = 64 then
    BitVec.ofNat 64 (y.count .failed * 2 ^ 32 + y.count .full * 2 ^ 24 + y.count .landing * 2 ^ 16 + y.count .reserved * 2 ^ 8 + y.count .free)
  else if sel = 65 then
    BitVec.ofNat 64 (((List.range y.slots.length).find? fun i => (y.slot i).st == .full || (y.slot i).st == .failed).getD 64)
  else if sel = 66 then zoneHandle core z y.zgen
  else minusOne

/-- LZ.STAT (R347): a selector beyond the table is a bit of b that the table does not name, or an invalid one. -/
def execLzStat (d a b : Reg) (s : State) : Out :=
  let z := (s.reg a).toNat
  let y := s.here.zone z
  .next (s.result d (if 16 ≤ z ∨ !y.active then minusOne else y.stat (s.identity s.myCore) z (s.reg b).toNat) 4)

/-- A zone entry becomes UNDEFINED: its open slots fail with ESTALE and its barriers stop being live (R348). -/
def State.undefZone (s : State) (c z : Nat) : State :=
  let y := (s.core c).zone z
  let is := List.range y.slots.length
  let s := is.foldl (fun s i => s.failSlot c z i Cause.estale) s
  let s := is.foldl (fun s i => s.tbKill (y.barKey c i)) s
  s.modZone c z fun y => { Zone.reset with zgen := y.zgen }

/-- LZ.UNDEF (R348). -/
def execLzUndef (d a : Reg) (s : State) : Out :=
  let z := (s.reg a).toNat
  let y := s.here.zone z
  if 16 ≤ z ∨ !y.active then .next (s.result d minusOne 4)
  else if s.zoneFrozen then .next (s.trap Cause.protect (BitVec.ofNat 64 y.bars))
  else .next ((s.undefZone s.myCore z).result d 0 4)

/-! ## The receiver of a CP.R (R342, R343, R351) -/

/-- The core, zone and slot that a reservation names, or the cause with which an update under it is refused (R342, R351). -/
def State.slotOf (s : State) (resv : Word) : (Nat × Nat × Nat) ⊕ Nat :=
  let r := resv.toNat
  match s.coreOfIdentity (resvCore resv) with
  | none => .inr Cause.estale
  | some c =>
    let z := bitsOf r 25 22
    let i := bitsOf r 13 8
    let y := (s.core c).zone z
    if bitsOf r 63 59 ≠ 0 ∨ !y.active ∨ y.zgen ≠ bitsOf r 21 14 ∨ y.slots.length ≤ i then .inr Cause.estale
    else if (s.core c).frozen then .inr Cause.protect
    else if (y.slot i).gen ≠ bitsOf r 7 0 ∨ !(y.slot i).isOpen then .inr Cause.estale
    else .inl (c, z, i)

/-- The reply to a chunk or an arrival: it comes back to the copy of this package, or leaves for another (R237). The first one stands. -/
def State.replyCopy (s : State) (who : Nat) (seq : BitVec 32) (code : Nat) : State :=
  match s.coreOfIdentity who with
  | some c => s.modTask c seq fun t => if t.reply.isNone then { t with reply := some (-(code : Int)) } else t
  | none => { s with outbox := s.outbox ++ [.cprReply who seq (-(code : Int))] }

/-- A chunk is refused with a cause. -/
def State.refuseChunk (s : State) (k : CprChunk) (cause : Nat) : Out := .next (s.replyCopy k.who k.seq cause)

/-- Who writes a chunk's bytes: a copy of this package, or another package. -/
def State.chunkWriter (s : State) (k : CprChunk) : Writer :=
  match s.coreOfIdentity k.who with
  | some w => .cpy w k.seq
  | none => .outside

/-- A chunk at its slot: checked, written and credited in one step, and the credit releases its bytes to who waits for it (R114, R343). -/
def State.landChunk (s : State) (k : CprChunk) (c z i : Nat) : Out :=
  let y := (s.core c).zone z
  let x := y.slot i
  let n := k.bytes.length
  let base := y.slotKey c i
  if x.rbytes < x.rcvd + n then (s.failSlot c z i Cause.regionEscape).refuseChunk k Cause.regionEscape
  else if k.bytes.any fun p => s.tagged (base + p.1) 1 then (s.failSlot c z i Cause.barrierStore).refuseChunk k Cause.barrierStore
  else
    let first := s.nextLate
    let s := s.writeMarked (s.chunkWriter k) noDie [] (k.bytes.map fun p => (base + p.1, p.2, k.bad.contains p.1))
    let s := s.tbRelease (y.barKey c i) ((s.late.map (·.id)).filter (first ≤ ·))
    let s := s.modSlot c z i fun x => { x with st := .landing, rcvd := x.rcvd + n, lease := 0, route := k.route }
    .next (s.tbUpdate (y.barKey c i) .credit n k.who 4 k.seq.toNat k.pl).1

/-- CPR_CHUNK_ARRIVAL: a chunk of a core of this package, or one of another package, reaches its slot (R343); none is a service core's (R8). -/
def execCprChunkArrival (chunk : CprChunk) (s : State) : Out :=
  let mine : Bool := chunk.who / 256 == s.marten.values.pkg
  let fits : Bool := chunk.bytes.all fun p => p.1 < resvSize chunk.resv
  if resvCore chunk.resv / 256 ≠ s.marten.values.pkg ∨ !fits ∨ 2 ^ 23 ≤ chunk.who then .next s
  else match if mine then s.takeOut (.chunk chunk) else some s with
    | none => .next s
    | some s => match s.slotOf chunk.resv with
      | .inr e => s.refuseChunk chunk e
      | .inl (c, z, i) => s.landChunk chunk c z i

/-- Whether a chunk of a copy is still on its way. -/
def State.chunkUnderWay (s : State) (who : Nat) (seq : BitVec 32) : Bool :=
  s.outbox.any fun m => match m with | .chunk k => k.who == who && k.seq == seq | _ => false

/-- A slot becomes FULL, and the tile of its buffer takes the reservation's step, which a task that meets it follows: the core's engines then
read no byte of the slot as it was before (R114, R343, R344). -/
def State.fillSlot (s : State) (c z i : Nat) (a : Arriver) : State :=
  let y := (s.core c).zone z
  let s := s.modSlot c z i fun x => { x with st := .full }
  match y.sbuf, (y.slot i).step with
  | some n, some step =>
    (s.modLate fun w => if w.touches (y.slotKey c i) (y.slotsz * 512) then { w with engines := w.engines.filter (· != c) } else w).stampRegion
      c n i step a
  | _, _ => s

/-- A CP.R's arrival at its slot (R343). -/
def State.landArrival (s : State) (m : CprArrival) (c z i : Nat) : Out :=
  let y := (s.core c).zone z
  let x := y.slot i
  if x.rcvd ≠ x.rbytes then .next ((s.failSlot c z i Cause.regionEscape).replyCopy m.who m.seq Cause.regionEscape)
  else
    let (s, code) := s.tbUpdate (y.barKey c i) .arrive 0 m.who 4 m.seq.toNat m.pl
    let s := if code = 0 then s.fillSlot c z i ⟨m.who, 4, m.seq.toNat, m.pl, s.now⟩ else s
    .next (s.replyCopy m.who m.seq code)

/-- CPR_ARRIVAL: the single arrival of a CP.R, which its chunks precede (R343). -/
def execCprArrival (arr : CprArrival) (s : State) : Out :=
  let mine : Bool := arr.who / 256 == s.marten.values.pkg
  if resvCore arr.resv / 256 ≠ s.marten.values.pkg ∨ 2 ^ 23 ≤ arr.who ∨ s.chunkUnderWay arr.who arr.seq then .next s
  else match if mine then s.takeOut (.cprArrival arr) else some s with
    | none => .next s
    | some s => match s.slotOf arr.resv with
      | .inr e => .next (s.replyCopy arr.who arr.seq e)
      | .inl (c, z, i) => s.landArrival arr c z i

/-- CPR_FAILURE_REPORT: a sending copy has failed, and its slot fails with the copy's code (R238, Table 17.4). A copy of this package has
reported it, or one of another package. -/
def execCprFailureReport (resv : Word) (code : Nat) (s : State) : Out :=
  match s.takeOut (.cprFailure resv code) with
  | some s =>
    if resvCore resv / 256 ≠ s.marten.values.pkg then .next s
    else match s.slotOf resv with
      | .inr _ => .next s
      | .inl (c, z, i) => .next (s.failSlot c z i code)
  | none =>
    match s.slotOf resv with
    | .inr _ => .next s
    | .inl (c, z, i) =>
      if (((s.core c).zone z).slot i).sender / 256 = s.marten.values.pkg then .next s else .next (s.failSlot c z i code)

/-- SLOT_LEASE_EXPIRY: the lease of a slot has passed (R345). -/
def execSlotLeaseExpiry (core zone slot : Nat) (s : State) : Out :=
  let y := (s.core core).zone zone
  if y.lease ≤ (y.slot slot).lease then .next (s.failSlot core zone slot Cause.estale) else .next s

end Sys2Proof.Machine
end

