-- ==== Sys2Proof/Machine/Returns.lean ====
section
/-!
DEFINITION. What comes back to a strand and what is performed at a home after its instruction has issued: returns, acknowledgements,
buffered stores, requests of other packages, results within their latency, and arrivals at hierarchical barriers (R42, R94, R101, R119,
R124, R168, R189, R199).
-/
namespace Sys2Proof.Machine

/-! ## Results and returns (R168, R189) -/

/-- The entry of the scoreboard for a register. -/
def Strand.pendOf (t : Strand) (r : Reg) : Option Pend := t.pend.find? (·.reg == r)

/-- PENDING_RESULT_WRITTEN: a result's latency has passed (R168). -/
def execPendingResultWritten (core strand idx : Nat) (s : State) : Out :=
  match (s.strand core strand).pendOf (BitVec.ofNat 5 idx) with
  | some p =>
    if p.kind == .latency || p.kind == .divider then .next (s.modStrand core strand fun t => t.unmark p) else .next s
  | none => .next s

/-- A load of this package returns: performed only now where the free choice says so and nothing has bound it since (R109). -/
def State.returnHere (s : State) (c k : Nat) (p : Pend) (a : Acc) (d : Dest) (late : Bool) : State :=
  match d, a.op with
  | .here key, .load r signed =>
    if late && Config.loadLate s.tick && !s.poisoned key a.size then
      let v := extendLoad a.size signed (s.loadValue c k key a.va a.size none)
      (s.noteRead c k key a.size).modStrand c k fun t => (t.unmark p).setReg r v
    else s.modStrand c k fun t => t.unmark p
  | _, _ => s.modStrand c k fun t => t.unmark p

/-- The value that a response writes, and for an atomic the flags that it raises (R135, R192). -/
def Acc.answer (a : Acc) (v : Word) : Word × Flags :=
  match a.op with
  | .load _ signed => (extendLoad a.size signed v.toNat, 0)
  | .store _ _ => (v, 0)
  | .atomic code _ x e _ _ =>
    let n := 8 * a.size
    (BitVec.ofNat 64 (v.toNat % 2 ^ n), (atomicNew code n (v.toNat % 2 ^ n) (x.toNat % 2 ^ n) (e.toNat % 2 ^ n)).2)

/-- A held word of a CACHED page, or of code of another package (R95, R152). -/
def State.holdWord (s : State) (die : Nat) (d : Dest) (size : Nat) (v : Word) : State :=
  { s with rline := ⟨die, destKey d, size, v⟩ :: s.rline.filter fun w => !(w.die == die && w.key == destKey d && w.size == size) }

/-- A value with the bytes of the strand's own stores in flight over it (R109). -/
def Req.overlay (r : Req) (v : Word) : Word :=
  BitVec.ofNat 64 (leNat ((leBytes r.acc.size v.toNat).mapIdx fun i b => match r.own.find? (·.1 == i) with | some x => x.2 | none => b))

/-- The register that a request writes. -/
def Req.reg (r : Req) : Option Reg :=
  match r.acc.op with
  | .load d _ => some d
  | .atomic _ d _ _ _ _ => some d
  | .store _ _ => none

/-- A strand's buffered store to a host leaves the buffer. -/
def Strand.dropHostStore (t : Strand) (a : Acc) : Strand :=
  match t.stores.findIdx? fun b => b.sent && b.acc == a with
  | some i => { t with stores := t.stores.eraseIdx i }
  | none => t

/-- A strand's access elsewhere has been performed with a value, and what waited behind it may leave. A CACHED page's word that no store of the
die has met since is held by the die (R95, R109, R168, R402). -/
def State.strandDone (s : State) (r : Req) (v : Word) : State :=
  let (w, f) := r.acc.answer (r.overlay v)
  let s := if r.cached ∧ r.kind == .load ∧ r.own.isEmpty then s.holdWord (dieOf r.core) r.dest r.acc.size v else s
  let s := match r.reg with
    | some d => s.modStrand r.core r.strand fun t => (t.unmark ⟨d, .request r.id⟩).setReg d w
    | none =>
      (s.modStrand r.core r.strand fun t => t.dropHostStore r.acc).headsDone r.core r.strand (if r.acc.pc = tracePc 1 then 1 else 0)
  (s.raiseFlags r.core r.strand f).sendReady r.core r.strand

/-- A strand's access elsewhere has failed with a cause, which the strand takes at its next instruction boundary; a trace write tells nobody
(R94, R97, R101, R366, R470). -/
def State.strandFails (s : State) (r : Req) (cause : Nat) : State :=
  let s := match r.reg with
    | some d => s.modStrand r.core r.strand fun t => (t.unmark ⟨d, .request r.id⟩).defer cause r.acc.va
    | none =>
      (s.modStrand r.core r.strand fun t =>
        if r.acc.pc.toNat % 2 = 1 then t.dropHostStore r.acc else (t.dropHostStore r.acc).defer cause r.acc.va).headsDone r.core r.strand
          (if r.acc.pc = tracePc 1 then 1 else 0)
  s.sendReady r.core r.strand

/-- Instruction bytes of another package reach the unit that asked for them (R152). -/
def State.codeDone (s : State) (r : Req) (v : Word) : State :=
  let line : Nat × List Byte := (destKey r.dest, leBytes r.acc.size v.toNat)
  if r.strand < 4 then s.modCore r.core fun x => { x with icache := line :: x.icache.filter (·.1 != line.1) }
  else s.modCore r.core fun x =>
    { x with ctxs := x.ctxs.mapIdx fun i y => if i + 4 = r.strand then { y with code := line :: y.code.filter (·.1 != line.1) } else y }

/-- A fetch from another package has failed: the strand traps at the fetched address, or the VRUN fails (R94, R153). -/
def State.codeFails (s : State) (r : Req) (cause : Nat) : State :=
  if r.strand < 4 then
    (if (s.strand r.core r.strand).pc = r.acc.pc then s.trapAt r.core r.strand cause 0 false false (BitVec.ofNat 64 r.acc.va) r.acc.pc else s)
  else match (s.core r.core).ctxs.toList[r.strand - 4]?.bind (·.task) with
    | some q => match (s.core r.core).task q with
      | some t => s.failTask r.core t cause
      | none => s
    | none => s

/-! ## Streams (R124) -/

/-- Whether a stream number lies after a and not after b. -/
def seqWithin (a b x : BitVec 32) : Bool := (x - a).toNat ≤ (b - a).toNat && x != a

/-- Whether an entry of a buffer is a store of the stream to a package, numbered after a and not after b. -/
def Buffered.inStream (b : Buffered) (pkg : Nat) (first last : BitVec 32) : Bool :=
  match b.dest with
  | some (.peer p _) => p == pkg && b.sent && seqWithin first last b.streamSeq
  | _ => false

/-- REMOTE_STORE_ACK: every store of the stream up to the acknowledged one has been performed at its home, or refused by the stage 2 there: a
refusal reaches the strand as any other, with a trace write telling nobody (R101, R124, R366, Table 4.4 check 7). -/
def execRemoteStoreAck (core strand pkg : Nat) (ack : StreamAck) (s : State) : Out :=
  let x := (s.strand core strand).stream pkg
  if pkg = s.marten.values.pkg ∨ x.lost ∨ !seqWithin x.acked x.sent ack.upTo then .next s
  else
    let gone := (s.strand core strand).stores.filter fun b => b.inStream pkg x.acked ack.upTo
    let bad := gone.filterMap fun b =>
      if b.acc.pc.toNat % 2 = 1 then none else (ack.refused.find? (·.1 == b.streamSeq)).map fun r => (r.2, b.acc.va)
    let heads := (gone.filter fun b => b.acc.pc == tracePc 1).length
    let s := s.modStrand core strand fun t =>
      bad.foldl (fun t r => t.defer r.1 r.2)
        { t.setStream { x with acked := ack.upTo } with stores := t.stores.filter fun b => !b.inStream pkg x.acked ack.upTo }
    .next ((s.headsDone core strand heads).sendReady core strand)

/-! ## Performing at the home (R109, R119, R189) -/

/-- The numbers of the last store performed and of the last one acknowledged for a stream of another package. -/
def State.inStreamAt (s : State) (who strand : Nat) : BitVec 32 × BitVec 32 :=
  match s.inStreams.find? fun x => x.1 == who && x.2.1 == strand with
  | some x => x.2.2
  | none => (0, 0)

/-- The number of the last store performed for a stream of another package. -/
def State.inStream (s : State) (who strand : Nat) : BitVec 32 := (s.inStreamAt who strand).1

/-- The numbers of a stream of another package are noted. -/
def State.noteStream (s : State) (who strand : Nat) (last acked : BitVec 32) : State :=
  { s with inStreams := (who, strand, last, acked) :: s.inStreams.filter fun x => !(x.1 == who && x.2.1 == strand) }

/-- The answer to a request of another package. -/
def State.answer (s : State) (r : RemoteReq) (v : Word) (ok : Bool) : State :=
  { s with outbox := s.outbox ++ [.response r.pkg r.who r.seq v ok] }

/-- The late writes that a packet of another package's strand (4 for an atomic, which names none) is ordered after: its stores that have been
acknowledged, and those that its stamp counts, which comes from outside (R116, R120, R125). -/
def State.stampLate (s : State) (who strand : Nat) : List Nat :=
  (s.late.filter fun w => Config.stamped s.tick w.id || (match w.by_ with
    | .stream x k q => x == who && (k == strand || strand == 4) && decide (((s.inStreamAt x k).2 - q).toNat < 2 ^ 31)
    | _ => false)).map (·.id)

/-- A cumulative acknowledgement of a stream of another package. -/
def State.ackStream (s : State) (r : RemoteReq) (strand : Nat) (n : BitVec 32) : State :=
  { s.noteStream r.who strand (s.inStream r.who strand) n with outbox := s.outbox ++ [.streamAck r.pkg r.who strand n] }

/-- The next store of a stream of another package has been performed or refused; it is acknowledged after each 64th store or a flush bit (R124,
R126). -/
def State.streamPast (s : State) (r : RemoteReq) (strand : Nat) (q : BitVec 32) (flush : Bool) : State :=
  let s := s.noteStream r.who strand q (s.inStreamAt r.who strand).2
  if flush ∨ q.toNat % 64 = 0 then s.ackStream r strand q else s

/-- A store of a stream of another package is performed once, in its stream's order (R124, R127). -/
def State.storeIn (s : State) (r : RemoteReq) (key : Nat) (v : Word) (strand : Nat) (q : BitVec 32) (flush : Bool) : State :=
  let last := s.inStream r.who strand
  if q = last + 1 then
    (s.lateBytes (.stream r.who strand q) noDie (s.stampLate r.who strand) key (leBytes r.size v.toNat)).streamPast r strand q flush
  else if (last - q).toNat < 2 ^ 31 then s.ackStream r strand last
  else s

/-- An atomic of another package, performed once: a duplicate is answered from the recorded result (R119, R470). -/
def State.atomicIn (s : State) (r : RemoteReq) (key code : Nat) (x e : Word) : State :=
  match s.atomLog.find? fun m => m.who == r.who && m.seq == r.seq with
  | some m => s.answer r m.value true
  | none =>
    let n := 8 * r.size
    let by_ : Writer := .stream r.who 4 (r.seq.setWidth 32)
    let s := s.settleFor by_ noDie key r.size
    let old := s.readNat key r.size
    let s := match (atomicNew code n old (x.toNat % 2 ^ n) (e.toNat % 2 ^ n)).1 with
      | some v => s.lateBytes by_ noDie (s.stampLate r.who 4) key (leBytes r.size v)
      | none => s
    let v : Word := BitVec.ofNat 64 old
    let others := s.atomLog.filter fun m => m.who != r.who
    let mine := (⟨r.who, r.seq, v⟩ :: s.atomLog.filter fun m => m.who == r.who).take 1024
    ({ s with atomLog := mine ++ others } : State).answer r v true

/-- A request of another package at its place. -/
def State.performIn (s : State) (r : RemoteReq) (key : Nat) : State :=
  let s := s.detect key r.size
  match r.op with
  | .load => s.answer r (BitVec.ofNat 64 (s.readNat key r.size)) (!s.poisoned key r.size)
  | .store v strand q flush => s.storeIn r key v strand q flush
  | .marker _ => s
  | .atomic code x e => if s.poisoned key r.size then s.answer r 0 false else s.atomicIn r key code x e

/-- The access kind of a request, as Table 25.2 codes it. -/
def RemoteOp.kind : RemoteOp → Nat
  | .load => accRead
  | .store .. => accWrite
  | .marker _ => accWrite
  | .atomic .. => accAtomic

/-- A request of another package is refused; a store counts as passed in its stream, so that later ones are performed (R101, R124). -/
def State.refuseIn (s : State) (r : RemoteReq) : State :=
  let s := match r.op with
    | .store _ strand q flush => if q = s.inStream r.who strand + 1 then s.streamPast r strand q flush else s
    | _ => s
  s.answer r 0 false

/-- A fault or a migration wait of a request of another package opens (R101, Table 25.2). -/
def State.holdIn (s : State) (r : RemoteReq) (kind level : Nat) : State :=
  { s with faults := s.faults ++ [⟨s.nextFault, 0, .incoming r, 0, r.ipa, 0, r.partno, 0, accField (RemoteOp.kind r.op), kind, level, none, 0⟩],
           nextFault := s.nextFault + 1 }

/-- A request of another package: one for a page that has moved on is forwarded to its new home, one for a page that is moving waits; stage 2 of
its partition applies here, and an invalid entry opens a fault (R94, R96, R101, R128). -/
def State.incoming (s : State) (r : RemoteReq) : State :=
  let page := r.ipa / 65536
  match s.moved.find? fun m => m.partno == r.partno && m.page == page with
  | some m => { s with outbox := s.outbox ++ [.forward m.pkg { r with ipa := m.dest * 65536 + r.ipa % 65536 }] }
  | none =>
    match s.stage2 0 r.partno r.ipa with
    | .reserved => s.refuseIn r
    | .invalid n => s.holdIn r 3 n
    | .pa a => if s.moving.any (fun m => m.home == some (r.partno, page)) then s.holdIn r 4 0 else s.performIn r a

/-- Whether another package may send a request here: a package of the group that holds cores of a partition of this package. -/
def State.mayAsk (s : State) (r : RemoteReq) : Bool :=
  r.pkg != s.marten.values.pkg && r.pkg / 32 == s.marten.values.pkg / 32 && r.who / 256 == r.pkg &&
    (r.size == 1 || r.size == 2 || r.size == 4 || r.size == 8) && r.ipa % r.size == 0 &&
    (match s.part r.partno with | some p => p.packages.contains r.pkg | none => false)

/-- ACCESS_PERFORMED_AT_HOME: an entry of a strand's buffer, or a request of another package, is performed at its home (R189). -/
def execAccessPerformedAtHome (acc : HomeAccess) (s : State) : Out :=
  match acc with
  | .buffered c k idx => match s.performable c k idx with
    | some (b, key) => .next ((s.performBuffered c k idx b key).sendReady c k)
    | none => .next s
  | .incoming r =>
    if !s.mayAsk r then .next s
    else match r.op with
      | .marker strand => .next (s.ackStream r strand (s.inStream r.who strand))
      | _ => .next (s.incoming r)

/-! ## Arrivals at hierarchical barriers (R42, R43, R199) -/

/-- Whether another package may send an item for a barrier of a scope: a GRP or SYS instance that holds both (R42). -/
def State.mayArrive (s : State) (scope who : Nat) : Bool :=
  (scope == 4 || scope == 5) && who / 256 != s.marten.values.pkg && (scope == 5 || who / 2 ^ 13 == s.marten.values.pkg / 32)

/-- The late writes that an arrival of another package releases: those of its own stores, and those that its stamp counts (R114, R120). -/
def State.outsideLate (s : State) (who : Nat) : List Nat :=
  (s.late.filter fun w => Config.stamped s.tick w.id || (match w.by_ with | .stream x _ _ => x == who | _ => false)).map (·.id)

/-- BARRIER_ARRIVAL: an item of this package reaches its network, after those that its strand sent to the barrier before; or one of another package
a GRP or SYS instance (R42, R199). -/
def execBarrierArrival (arr : BarArrival) (s : State) : Out :=
  match arr with
  | .sent idx => match s.arrivals[idx]? with
    | some a =>
      if (s.arrivals.take idx).any (·.follows a) then .next s
      else .next (({ s with arrivals := s.arrivals.eraseIdx idx } : State).serveItem a)
    | none => .next s
  | .outside scope id who pl =>
    if !s.mayArrive scope who then .next s
    else .next (s.serveItem ⟨scope, s.instOf 0 scope, id, ⟨who, 0, 0xFFFFFFF0, pl, s.now⟩, none, s.outsideLate who, none⟩)
  | .outsideCfg scope id who expect =>
    if !s.mayArrive scope who ∨ expect = 0 ∨ 67108863 < expect then .next s
    else .next (s.serveItem ⟨scope, s.instOf 0 scope, id, ⟨who, 0, 0xFFFFFFF0, 0, s.now⟩, some expect, [], none⟩)

end Sys2Proof.Machine
end

