-- ==== Sys2Proof/Machine/Host.lean ====
section
/-!
DEFINITION. The port, the queue transport, host messages, host memory through RoCE v2, notify lines and event ports (R396 to R402, R405,
R446).
-/
namespace Sys2Proof.Machine

/-! ## Writes of the part's own units -/

/-- The 64-byte lines that n bytes from a key touch. -/
def linesOf (k n : Nat) : List Nat := if n = 0 then [] else (List.range ((k + n - 1) / 64 - k / 64 + 1)).map (k / 64 + ·)

/-- Bytes written at their home by a unit of the part, its own fields among them, as a release that every reader sees at once (R416). -/
def State.unitWrite (s : State) (k : Nat) (bs : List Byte) : State :=
  (s.settleOver k bs.length).putMem k bs.length (Memory.setBytes s.mem k bs)

/-- A value of n bytes written by a unit of the part. -/
def State.unitNat (s : State) (k n v : Nat) : State := s.unitWrite k (leBytes n v)

/-- The core cycles of a number of microseconds at the present clock (log 24). -/
def State.micros (s : State) (us : Nat) : Nat := us * s.power.freq

/-! ## Headers (Table 24.1) -/

def eqtAddr (h : BitVec 256) : Nat := bitsOf h.toNat 255 192
def eqtLen (h : BitVec 256) : Nat := bitsOf h.toNat 191 160
def eqtSpace (h : BitVec 256) : Nat := bitsOf h.toNat 127 108
def eqtOp (h : BitVec 256) : Nat := bitsOf h.toNat 103 96
def eqtStatus (h : BitVec 256) : Nat := bitsOf h.toNat 95 64
def eqtAck (h : BitVec 256) : BitVec 32 := BitVec.ofNat 32 (bitsOf h.toNat 63 32)
def eqtSeq (h : BitVec 256) : BitVec 32 := BitVec.ofNat 32 h.toNat

/-- A header without its sequence numbers. -/
def eqtHdr (op addr len status space vec eq : Nat) : BitVec 256 :=
  BitVec.ofNat 256 (addr % 2 ^ 64 * 2 ^ 192 + len * 2 ^ 160 + eq % 2 ^ 16 * 2 ^ 144 + vec % 2 ^ 16 * 2 ^ 128 + space * 2 ^ 108 +
    op * 2 ^ 96 + status % 2 ^ 32 * 2 ^ 64)

/-- A header with its sequence numbers filled in. -/
def eqtNumber (h : BitVec 256) (seq ack : BitVec 32) : BitVec 256 :=
  BitVec.ofNat 256 (h.toNat / 2 ^ 64 * 2 ^ 64 + ack.toNat * 2 ^ 32 + seq.toNat)

/-- Whether a message from a host is one that a package takes (R398). -/
def eqtOk (h : BitVec 256) (payload : List Byte) : Bool :=
  let op := eqtOp h
  let n := eqtLen h
  bitsOf h.toNat 107 104 == 0 && payload.length == n &&
    (match op with
     | 1 => 1 ≤ n && n ≤ 8192
     | 2 => n == 8
     | 3 => n == 0 && 1 ≤ eqtStatus h && eqtStatus h ≤ 8192
     | 4 => n == 0
     | 6 => n == 0
     | 7 => n == 0
     | _ => false)

/-! ## Connections (R397, R399) -/

/-- Entry n of the connection table. -/
def State.conn (s : State) (n : Nat) : Option Conn := (s.conns.find? (·.1 == n)).map (·.2)

/-- The state with a connection changed. -/
def State.modConn (s : State) (n : Nat) (f : Conn → Conn) : State :=
  { s with conns := s.conns.map fun c => if c.1 = n then (c.1, f c.2) else c }

/-- The messages that a sender may have sent (R399). -/
def sendWindow : Nat := 1024

/-- A message on an OPEN connection is numbered, and sent where the window allows (R397, R399). -/
def State.sendEqt (s : State) (n : Nat) (h : BitVec 256) (payload : List Byte) : State :=
  match (s.conn n).filter (·.st == .open) with
  | none => s
  | some c =>
    let h := eqtNumber h c.txNext c.rxNext
    let u : Unacked := ⟨c.txNext, h, payload, s.now, 0⟩
    let s := s.modConn n fun c => { c with txNext := c.txNext + 1, unacked := c.unacked ++ [u] }
    if c.unacked.length < sendWindow then { s with outbox := s.outbox ++ [.eqt n h payload] } else s

/-- An ACK or a NACK of this package: SEQ 0, ACKSEQ the next expected number, and for a NACK the bitmap of what is held (R398). -/
def Conn.ackMsg (c : Conn) (op : Nat) : BitVec 256 :=
  let bits : Nat := (List.range 64).foldl (fun b i => if c.rxHeld.any fun m => m.1 == c.rxNext + BitVec.ofNat 32 i then b + 2 ^ i else b) 0
  eqtNumber (eqtHdr op (if op = 7 then bits else 0) 0 0 0 0 0) 0 c.rxNext

/-- An ACK is sent, and the count of deliveries starts anew. -/
def State.sendAck (s : State) (n : Nat) : State :=
  match s.conn n with
  | none => s
  | some c =>
    let m : OutMsg := .eqt n (c.ackMsg 6) []
    { s.modConn n fun c => { c with sinceAck := 0, ackDue := none } with outbox := s.outbox ++ [m] }

/-- The place of the event port of a service core (R446). -/
def State.port (s : State) (svc : Nat) : Nat := s.marten.values.faultRings.getD svc 0 + 16384

/-- RESULT is written and GO cleared in one step; a load may still be served by a data cache that holds the line (R446). -/
def State.portResult (s : State) (svc code : Nat) : State :=
  let p := s.port svc
  let s := s.noteLate .outside noDie [] [p + 33, p + 38, p + 39]
  let go := (s.byte (p + 33)).toNat / 2 * 2
  let m := Memory.setBytes (Memory.set s.mem (p + 33) (BitVec.ofNat 8 go)) (p + 38) (leBytes 2 code)
  { s with mem := m, ports := s.ports.filter (·.1 != svc) }

/-- The EVENT messages with the given numbers end with a code: those of event ports, and those of packets (R409, R446). -/
def State.endEvents (s : State) (n : Nat) (seqs : List (BitVec 32)) (code : Nat) : State :=
  let s := (s.ports.filter fun p => p.2.1 == n && seqs.contains p.2.2).foldl (fun s p => s.portResult p.1 code) s
  let mark (p : Packet) : Packet := match p.event with
    | some (c, q) => if c = n ∧ seqs.contains q then { p with event := none, status := some (-(code : Int)) } else p
    | none => p
  { s with packets := s.packets.map mark }

/-- Whether a cumulative acknowledgement covers a message. -/
def ackCovers (ack seq : BitVec 32) : Bool := seq != ack && (ack - seq).toNat < 2 ^ 31

/-- Messages sent anew, oldest first. -/
def State.resend (s : State) (n : Nat) (us : List Unacked) : State :=
  let qs := us.map (·.seq)
  let stamp (u : Unacked) : Unacked := if qs.contains u.seq then { u with sentAt := s.now } else u
  let s := s.modConn n fun c => { c with unacked := c.unacked.map stamp }
  { s with outbox := s.outbox ++ us.map fun u => OutMsg.eqt n u.hdr u.payload }

/-- ACKSEQ of a message frees the messages below it, and those that the window had kept back are sent (R399). -/
def State.acked (s : State) (n : Nat) (ack : BitVec 32) : State :=
  match s.conn n with
  | none => s
  | some c =>
    let sent := c.unacked.take sendWindow
    let freed := sent.filter fun u => ackCovers ack u.seq
    let rest := c.unacked.filter fun u => !(freed.any fun f => f.seq == u.seq)
    let fresh := (rest.take sendWindow).drop (sent.length - freed.length)
    let s := s.modConn n fun c => { c with unacked := rest }
    (s.resend n fresh).endEvents n (freed.map (·.seq)) 0

/-- The next message of a connection has been delivered and answered: 64 deliveries call for an ACK at once (R399). -/
def State.delivered (s : State) (n : Nat) : State :=
  match s.conn n with
  | none => s
  | some c =>
    let due := match c.ackDue with | some d => d | none => s.now + s.micros 2
    let s := s.modConn n fun c =>
      { c with rxHeld := c.rxHeld.filter (·.1 != c.rxNext), rxNext := c.rxNext + 1, sinceAck := c.sinceAck + 1, ackDue := some due,
               fault := none }
    if 64 ≤ c.sinceAck + 1 then s.sendAck n else s

/-- A host message is answered by one RESP (R400). -/
def State.respond (s : State) (n addr : Nat) (cause : Nat) (payload : List Byte) : State :=
  let status := ((-(cause : Int)) % (2 ^ 32 : Int)).toNat
  (s.sendEqt n (eqtHdr 8 addr payload.length status 0 0 0) payload).delivered n

/-! ## Responses of other packages and hosts (R94, R97, R104, R400, R402, R409, R410, R470) -/

/-- The endpoint of a request, when it goes to a host. -/
def Req.endpoint (r : Req) : Option Nat := match r.dest with | .host e _ => some e | _ => none

/-- The late writes of a connection: what it writes later follows them (R122, R400). -/
def State.hostLate (s : State) (n : Nat) : List Nat := (s.late.filter fun w => w.by_ == .host n).map (·.id)

/-- Bytes of a host's write in this package. -/
def State.hostPut (s : State) (n : Nat) (cells : List (Nat × Byte)) : State :=
  s.writeMarked (.host n) noDie (s.hostLate n) (cells.map fun x => (x.1, x.2, false))

/-- The requests of a unit that await a response are given up. -/
def State.dropReqs (s : State) (c : Nat) (user : ReqUser) : State :=
  { s with reqs := s.reqs.filter fun r => !(r.core == c && r.user == user) }

/-- The accesses of a host message have been performed elsewhere: its own bytes follow here, and it is answered (R400). -/
def State.hostDone (s : State) (n : Nat) (r : Req) (v : Word) : State :=
  match r.kind with
  | .atomic => s.respond n v.toNat 0 []
  | .copyRead =>
    s.respond n 0 0 ((List.range r.acc.size).map fun i =>
      match r.own.find? (·.1 == i) with | some x => x.2 | none => Config.remoteByte s.tick (destKey r.dest) i)
  | _ => (s.hostPut n r.own).respond n 0 0 []

/-- The state with the packet of a queue with an index changed. -/
def State.modPacketOf (s : State) (q i : Nat) (f : Packet → Packet) : State :=
  { s with packets := s.packets.map fun p => if p.queue = q ∧ p.index = i then f p else p }

/-- A packet's completion record is on its way no more: the packet has completed. -/
def State.dropRecorded (s : State) (q i : Nat) : State :=
  { s with packets := s.packets.filter fun p => !(p.queue == q && p.index == i && p.stage == 3) }

/-- The ring header of a queue counts one more refusal (Table 24.3). -/
def State.countRefusal (s : State) (ring : Nat) : State := s.unitNat (ring + 16) 8 (min (s.readNat (ring + 16) 8 + 1) (2 ^ 64 - 1))

/-- The completion record of a packet could not be written: it is dropped and counted (R410). -/
def State.lostRecord (s : State) (q i : Nat) : State :=
  let s' := s.dropRecorded q i
  match s.queues.find? (·.no == q) with
  | some x => if s.packets.any fun p => p.queue == q && p.index == i && p.stage == 3 then s'.countRefusal x.entry.ring else s'
  | none => s'

/-- A request to another package or a host has been performed there, with a value where it has one: what awaited it goes on when it awaits no
other. -/
def State.reqDone (s : State) (r : Req) (v : Word) : State :=
  let s := { s with reqs := s.reqs.erase r }
  match r.user with
  | .strand => (match r.kind with
    | .fetch => s.codeDone r v
    | .resv => s
    | _ => s.strandDone r v)
  | .task _ => s
  | .host n => if s.awaits r.core r.user then s else s.hostDone n r v
  | .packet q i => if s.awaits r.core r.user then s else s.dropRecorded q i
  | .shipment _ => s
  | .load p => if s.awaits r.core r.user then s else { s with outbox := s.outbox ++ [.loaded p []] }

/-- A request has failed with a cause: so does what awaited it. -/
def State.reqFails (s : State) (r : Req) (cause : Nat) : State :=
  let s := { s with reqs := s.reqs.erase r }
  match r.user with
  | .strand => (match r.kind, r.acc.op with
    | .fetch, _ => s.codeFails r cause
    | .resv, .load d _ => s.modStrand r.core r.strand fun t => t.takeAnswer d (negCode cause)
    | .resv, _ => s
    | _, _ => s.strandFails r cause)
  | .task q => (match (s.core r.core).task q with
    | some t => (s.dropReqs r.core r.user).failTask r.core t cause
    | none => s.dropReqs r.core r.user)
  | .host n => (s.dropReqs r.core r.user).respond n 0 cause []
  | .packet q i =>
    let s := (s.dropReqs r.core r.user).lostRecord q i
    s.modPacketOf q i fun p => { p with stage := 0, status := some (-(cause : Int)) }
  | .shipment n => (match s.ships.find? (·.num == n) with
    | some h => s.endShipment h false (some cause)
    | none => s)
  | .load p =>
    let s := s.dropReqs r.core r.user
    { s with outbox := s.outbox ++ [.loaded p (leBytes 48 (6 + 2 ^ 192 + 0xFFFFFFFF * 2 ^ 224))] }

/-- Requests fail one after the other, those that are still under way when their turn comes. -/
def State.reqsFail (s : State) (cause : Nat) (which : Req → Bool) : State :=
  (s.reqs.filter which).foldl (fun s r => match s.reqs.find? (·.id == r.id) with
    | some r' => s.reqFails r' cause
    | none => s) s

/-- LOAD_RETURN: the value of the load or atomic that register idx waits for returns (R168); an idx of 32 + n is the request to another
package numbered n, of a unit of any kind (R94, R104, R152). What another package answers comes from outside. -/
def execLoadReturn (core strand idx : Nat) (data : Reply) (s : State) : Out :=
  let answered (r : Req) : Out := match data with
    | .data v => .next (s.reqDone r v)
    | .failed cause => .next (s.reqFails r cause)
  if 32 ≤ idx then
    match s.reqs.find? fun r => r.id == idx - 32 && r.endpoint.isNone && r.kind != .resv && r.kind != .shipment with
    | some r => answered r
    | none => .next s
  else match (s.strand core strand).pendOf (BitVec.ofNat 5 idx) with
    | none => .next s
    | some p => match p.kind with
      | .load a d late => .next (s.returnHere core strand p a d late)
      | .request id => (match s.reqs.find? fun r => r.id == id && (r.kind == .load || r.kind == .atomic) with
        | some r => answered r
        | none => .next s)
      | .token _ => .next s
      | .queued => .next s
      | .fault _ _ => .next s
      | .resv => .next s
      | .latency => .next s
      | .divider => .next s

/-! ## Connections that fail (R397, R399) -/

/-- A connection becomes DOWN: nothing that is not acknowledged is delivered, its messages under way end without an answer, host accesses through
its endpoint fail, and EVENT messages that have not been sent count as dropped (R97, R399, R446). -/
def State.downConn (s : State) (n : Nat) : State :=
  match s.conn n with
  | none => s
  | some c =>
    let unsent := ((c.unacked.drop sendWindow).filter fun u => eqtOp u.hdr == 5).length
    let s := s.endEvents n (c.unacked.map (·.seq)) Cause.estale
    let s := (s.dropReqs 0 (.host n)).modConn n fun c => { c with st := .down, unacked := [], rxHeld := [], ackDue := none, fault := none }
    let gone := (s.endpoints.filter fun e => e.2.ip == c.ip).map (·.1)
    let close (e : Nat × Endpoint) : Nat × Endpoint := if gone.contains e.1 then (e.1, { e.2 with up := false }) else e
    let s := { s with endpoints := s.endpoints.map close, drops := { s.drops with events := s.drops.events + unsent },
                      faults := s.faults.filter fun f => match f.holder with | .host m _ _ => m != n || f.recNo.isSome | _ => true }
    s.reqsFail Cause.linkFailed fun r => match r.endpoint with | some e => gone.contains e | none => false

/-- A message has been sent for the given time without acknowledgement or its gap has been named: it is sent again, and after 16 resends
the connection becomes DOWN (R399). -/
def State.resendOne (s : State) (n : Nat) (u : Unacked) : State :=
  if 16 ≤ u.resends then s.downConn n
  else
    let count (v : Unacked) : Unacked := if v.seq = u.seq then { v with resends := v.resends + 1 } else v
    (s.resend n [u]).modConn n fun c => { c with unacked := c.unacked.map count }

/-! ## Frames (R396 to R399) -/

/-- Whether a receiver holds a message above a number that has not come (R399). -/
def Conn.hasGap (c : Conn) : Bool :=
  c.rxHeld.any fun m => (List.range (m.1 - c.rxNext).toNat).any fun i => !c.rxHeld.any fun x => x.1 == c.rxNext + BitVec.ofNat 32 i

/-- A message whose number lies in the receive window is held until its turn; a duplicate, or one outside the window, is acknowledged
again; a message above a gap is answered with a NACK (R399). -/
def State.holdMessage (s : State) (n : Nat) (c : Conn) (h : BitVec 256) (payload : List Byte) : State :=
  let q := eqtSeq h
  if 1024 ≤ (q - c.rxNext).toNat ∨ c.rxHeld.any (fun m => m.1 == q) then s.sendAck n
  else
    let c := { c with rxHeld := c.rxHeld ++ [(q, h, payload)] }
    let s := s.modConn n fun _ => c
    if !c.hasGap then s
    else { s with outbox := s.outbox ++ [.eqt n (c.ackMsg 7) []] }

/-- A NACK: the messages that it shows missing below one received are sent at once (R399). -/
def State.nacked (s : State) (n : Nat) (h : BitVec 256) : State :=
  let s := s.acked n (eqtAck h)
  match s.conn n with
  | none => s
  | some c =>
    let bit (i : Nat) : Bool := eqtAddr h / 2 ^ i % 2 == 1
    let gap := (List.range 64).filter fun i => !bit i && (List.range 64).any fun j => i < j && bit j
    let us := (c.unacked.take sendWindow).filter fun u => gap.any fun i => u.seq == eqtAck h + BitVec.ofNat 32 i
    us.foldl (fun s u => s.resendOne n u) s

/-- A message of a host on an OPEN connection (R398, R399). -/
def State.takeMessage (s : State) (n : Nat) (c : Conn) (h : BitVec 256) (payload : List Byte) : State :=
  if !eqtOk h payload then { s with drops := { s.drops with messages := s.drops.messages + 1 } }
  else if eqtOp h = 6 then s.acked n (eqtAck h)
  else if eqtOp h = 7 then s.nacked n h
  else
    let s := s.acked n (eqtAck h)
    s.holdMessage n ((s.conn n).getD c) h payload

/-- The EQT datagram of a frame. -/
def State.takeDatagram (s : State) (f : Frame) : State :=
  match s.conns.find? fun c => c.2.st == .open && c.2.ip == f.srcIp && c.2.port == f.srcPort with
  | some (n, c) => s.takeMessage n c f.hdr f.payload
  | none => { s with drops := { s.drops with messages := s.drops.messages + 1 } }

/-- FRAME_RECEIVE: a frame is dropped and counted, or sorted to Marten, to the queue transport or to RoCE, whose requests and responses
have rows of their own (R396). The port is up from step 7 of the boot. -/
def execFrameReceive (frame : Frame) (s : State) : Out :=
  let drop : State := { s with drops := { s.drops with frames := s.drops.frames + 1 } }
  if s.marten.bootStep < 7 then .next s
  else if 9216 < frame.size ∨ !frame.fcsOk ∨ !frame.plainIp ∨ !frame.sumsOk then .next drop
  else if frame.mgmtVlan then .next s
  else if frame.udpPort = s.marten.values.eqtPort then .next (s.takeDatagram frame)
  else if frame.udpPort = 4791 then .next s
  else .next drop

/-- EQT_ACK: an ACK arrives on a connection (R399). -/
def execEqtAck (conn : Nat) (hdr : BitVec 256) (s : State) : Out :=
  match s.conn conn with
  | some c => if c.st == .open then .next (s.acked conn (eqtAck hdr)) else .next s
  | none => .next s

/-- EQT_NACK: a NACK arrives on a connection (R399). -/
def execEqtNack (conn : Nat) (hdr : BitVec 256) (s : State) : Out :=
  match s.conn conn with
  | some c => if c.st == .open then .next (s.nacked conn hdr) else .next s
  | none => .next s

/-- EQT_RETRANSMIT: a message's retransmission time has passed (R399). -/
def execEqtRetransmit (conn : Nat) (seq : BitVec 32) (s : State) : Out :=
  match s.conn conn with
  | none => .next s
  | some c =>
    match (c.unacked.take sendWindow).find? (·.seq == seq) with
    | some u => if c.st == .open && s.micros c.rto ≤ s.now - u.sentAt then .next (s.resendOne conn u) else .next s
    | none => .next s

/-- EQT_ACK_TIMER: 2 µs after a delivery (R399). -/
def execEqtAckTimer (conn : Nat) (s : State) : Out :=
  match s.conn conn with
  | some c => match c.ackDue with
    | some d => if c.st == .open && d ≤ s.now then .next (s.sendAck conn) else .next s
    | none => .next s
  | none => .next s

/-! ## The effect of host messages (R400) -/

/-- The 64 KiB pages that n bytes from an address touch, each by its first touched byte and the bytes touched. -/
def pagesOf (va n : Nat) : List (Nat × Nat) :=
  if n = 0 then []
  else (List.range ((va + n - 1) / 65536 - va / 65536 + 1)).map fun i =>
    let lo := max va ((va / 65536 + i) * 65536)
    (lo, min (va + n) ((va / 65536 + i + 1) * 65536) - lo)

/-- A part of an access within one page: its address and bytes, where it goes (none for a page with C = 0), and the page's mode. -/
structure PagePart where
  va : Nat
  size : Nat
  dest : Option Dest
  mode : Nat
deriving DecidableEq, Repr

/-- What the checks of every page of an access find: its parts, a cause, or an open fault at an address. -/
inductive PageCheck where
  | parts (ps : List PagePart)
  | refuse (cause : Nat)
  | hold (va kind level ipa : Nat)
deriving DecidableEq, Repr

/-- The check of every page of an access, in ascending order. -/
def State.pageChecks (s : State) (c space : Nat) (super : Bool) (path acc : Nat) : List (Nat × Nat) → PageCheck
  | [] => .parts []
  | (va, n) :: ps =>
    match s.translate c space super path acc va with
    | .fail e => .refuse e
    | .open k l i => .hold va k l i
    | .zero => match s.pageChecks c space super path acc ps with
      | .parts qs => .parts (⟨va, n, none, 0⟩ :: qs)
      | x => x
    | .to d mode => match s.pageChecks c space super path acc ps with
      | .parts qs => .parts (⟨va, n, some d, mode⟩ :: qs)
      | x => x

/-- The checks of R400 on n bytes at the address of a message of a connection; U is not checked. -/
def State.hostCheck (s : State) (c : Conn) (h : BitVec 256) (acc n : Nat) : PageCheck :=
  match s.spaceEntry (eqtSpace h) with
  | none => .refuse Cause.estale
  | some (p, _) =>
    if p ≠ c.partno then .refuse Cause.protect
    else if acc = accAtomic ∧ eqtAddr h % 8 ≠ 0 then .refuse Cause.misalign
    else s.pageChecks 0 (eqtSpace h) true 7 acc (pagesOf (eqtAddr h) n)

/-- The next message of a connection, when it is the given one, no fault holds it and none of its accesses is under way elsewhere, checked and
performed by go. -/
def State.hostMessage (s : State) (n op : Nat) (h : BitVec 256) (payload : List Byte) (go : Conn → State → Out) : Out :=
  match s.conn n with
  | none => .next s
  | some c =>
    if c.st != .open || c.fault.isSome || s.awaits 0 (.host n) || eqtOp h != op || !c.rxHeld.contains (c.rxNext, h, payload) then .next s
    else go c s

/-- A message checked over n bytes: it is refused, held by a fault that opens now, or performed at its places by go. -/
def State.hostAccess (s : State) (n : Nat) (c : Conn) (h : BitVec 256) (payload : List Byte) (acc len : Nat)
    (go : List PagePart → State) : Out :=
  match s.hostCheck c h acc len with
  | .refuse cause => .next (s.respond n 0 cause [])
  | .hold va k l i =>
    let fid := s.nextFault
    let s := s.openFault (.host n h payload) 0 (eqtSpace h) 7 acc va k l i
    .next (s.modConn n fun c => { c with fault := some fid })
  | .parts ps => .next (go ps)

/-- The bytes of an access that lie in this package, by their keys, and those that go elsewhere. -/
def splitParts : List PagePart → List Byte → List (Nat × Byte) × List (Dest × List Byte)
  | [], _ => ([], [])
  | p :: ps, bs =>
    let (own, away) := splitParts ps (bs.drop p.size)
    match p.dest with
    | some (.here k) => ((bs.take p.size).mapIdx (fun i b => (k + i, b)) ++ own, away)
    | some d => (own, (d, bs.take p.size) :: away)
    | none => (own, away)

/-- EQT_WRITE (R400): bytes elsewhere are performed first, and the message is answered when all have been. -/
def execEqtWrite (conn : Nat) (hdr : BitVec 256) (payload : List Byte) (s : State) : Out :=
  s.hostMessage conn 1 hdr payload fun c s =>
    s.hostAccess conn c hdr payload accWrite payload.length fun ps =>
      let (own, away) := splitParts ps payload
      if away.isEmpty then (s.hostPut conn own).respond conn 0 0 [] else s.sendWrites 0 (.host conn) own away

/-- Bytes read at the parts of an access as the home has them, each with whether it is poisoned. -/
def State.getParts (s : State) : List PagePart → List (Byte × Bool)
  | [] => []
  | p :: ps =>
    (match p.dest with
     | some (.here k) => (List.range p.size).map fun i => (s.byte (k + i), s.poisoned (k + i) 1)
     | some d => (List.range p.size).map fun i => (Config.remoteByte s.tick (destKey d) i, false)
     | none => List.replicate p.size (0, false)) ++ s.getParts ps

/-- The places of other packages and hosts among the parts of an access. -/
def awayParts (ps : List PagePart) : List Dest :=
  ps.filterMap fun p => match p.dest with | some (.here _) => none | some d => some d | none => none

/-- The bytes of an access that lie in this package, by their offsets. -/
def State.ownParts (s : State) : Nat → List PagePart → List (Nat × Byte)
  | _, [] => []
  | o, p :: ps =>
    (match p.dest with
     | some (.here k) => (List.range p.size).map fun i => (o + i, s.byte (k + i))
     | some _ => []
     | none => (List.range p.size).map fun i => (o + i, 0)) ++ s.ownParts (o + p.size) ps

/-- Latent soft errors under the parts of an access are found (R473). -/
def State.detectParts (s : State) (ps : List PagePart) : State :=
  ps.foldl (fun s p => match p.dest with | some (.here k) => s.detect k p.size | _ => s) s

/-- EQT_READ: poison is answered with its negative code and no byte (R400, Table 30.2); bytes elsewhere come first. -/
def execEqtRead (conn : Nat) (hdr : BitVec 256) (payload : List Byte) (s : State) : Out :=
  s.hostMessage conn 3 hdr payload fun c s =>
    s.hostAccess conn c hdr payload accRead (eqtStatus hdr) fun ps =>
      let s := s.detectParts ps
      let bs := s.getParts ps
      if bs.any (·.2) then s.respond conn 0 Cause.poison []
      else if (awayParts ps).isEmpty then s.respond conn 0 0 (bs.map (·.1))
      else s.sendReads 0 (.host conn) (eqtStatus hdr) (s.ownParts 0 ps) (awayParts ps)

/-- EQT_FADD: an acquire-release fetch-add of 64 bits on the value last in home order, which no HOST page takes (R97, R119, R400). What the
connection has written before comes before it, and so does what it reads. -/
def execEqtFadd (conn : Nat) (hdr : BitVec 256) (payload : List Byte) (s : State) : Out :=
  s.hostMessage conn 2 hdr payload fun c s =>
    s.hostAccess conn c hdr payload accAtomic 8 fun ps =>
      let s := s.detectParts ps
      match ps.head?.bind (·.dest) with
      | some (.host _ _) => s.respond conn 0 Cause.protect []
      | some (.here k) =>
        if s.poisoned k 8 then s.respond conn 0 Cause.poison []
        else
          let old := s.readNat k 8
          let got := (s.late.filter (·.touches k 8)).flatMap fun w => w.id :: w.clock
          (s.lateBytes (.host conn) noDie (s.hostLate conn ++ got) k (leBytes 8 ((old + leNat payload) % 2 ^ 64))).respond conn old 0 []
      | some d =>
        let a : Acc := ⟨0, eqtAddr hdr, 8, .atomic 0 0 (BitVec.ofNat 64 (leNat payload)) 0 true 5⟩
        let (s, r) := s.awaitReq 0 0 .atomic d a false (.host conn) []
        { s with outbox := s.outbox ++ [r.message] }
      | none => s.respond conn 0 Cause.xlate []

/-! ## Notify lines (R405) -/

/-- Entry q of the queue table; one that is not listed is CLOSED. -/
def State.queue (s : State) (q : Nat) : Option Queue := s.queues.find? (·.no == q)

/-- Event 10 is set in every strand of a service core (R289). -/
def State.notifyCore (s : State) (svc : Nat) : State := (List.range 4).foldl (fun s k => s.serviceEvent svc k 10) s

/-- The notify of queue q: its summary bit and event 10 of the service core that serves it; a queue that is not OPEN wakes nothing
(R403, R405). -/
def State.setNotify (s : State) (q : Nat) : State :=
  match s.queue q with
  | some x =>
    if x.entry.state ≠ 1 then s
    else
      let k := s.marten.values.notifySummary + 8 * (q / 64)
      (s.unitNat k 8 ((s.readNat k 8) ||| 2 ^ (q % 64))).notifyCore (q / 256)
  | none => s

/-- EQT_NOTIFY (R400, R405). -/
def execEqtNotify (conn : Nat) (hdr : BitVec 256) (payload : List Byte) (s : State) : Out :=
  s.hostMessage conn 4 hdr payload fun c s =>
    let q := eqtAddr hdr % 2 ^ 10
    match s.queue q with
    | some x => if x.entry.partno = c.partno then .next ((s.setNotify q).respond conn 0 0 []) else .next (s.respond conn 0 Cause.protect [])
    | none => .next (s.respond conn 0 Cause.protect [])

/-- NOTIFY_LINE_WRITE: a write to a notify line, performed at its home, wakes the service core (R405). -/
def execNotifyLineWrite (phys : Nat) (s : State) : Out :=
  if !s.notified.contains phys then .next s
  else
    let s := { s with notified := s.notified.erase phys }
    match (List.range s.marten.values.notifyPages.length).find? fun i =>
        let p := s.marten.values.notifyPages.getD i 0
        p ≤ phys && phys < p + 4096 with
    | some i => .next (s.setNotify (64 * i + (phys - s.marten.values.notifyPages.getD i 0) / 64))
    | none => .next s

/-! ## Host memory (R97, R401, R402) -/

/-- RDMA_RESPONSE: the response to request idx, the first that its unit awaits of its endpoint (R402). -/
def execRdmaResponse (idx : Nat) (data : List Byte) (s : State) : Out :=
  match s.reqs[idx]? with
  | none => .next s
  | some r =>
    if r.endpoint.isNone || (s.reqs.take idx).any fun q =>
        q.core == r.core && q.strand == r.strand && q.user == r.user && q.endpoint == r.endpoint then .next s
    else .next (s.reqDone r (BitVec.ofNat 64 (leNat (data.take r.acc.size))))

/-- RDMA_INBOUND_REQUEST: nothing is performed (R401). -/
def execRdmaInboundRequest (endpoint : Nat) (s : State) : Out := .next { s with outbox := s.outbox ++ [.rdmaError endpoint] }

/-- RDMA_TRANSPORT_GIVE_UP: the endpoint does not answer, and every access through it fails (R97). -/
def execRdmaTransportGiveUp (endpoint : Nat) (s : State) : Out :=
  let close (e : Nat × Endpoint) : Nat × Endpoint := if e.1 = endpoint then (e.1, { e.2 with up := false }) else e
  .next (({ s with endpoints := s.endpoints.map close } : State).reqsFail Cause.linkFailed fun r => r.endpoint == some endpoint)

/-! ## Event ports (R446) -/

/-- The check that fails first: a RESULT, or none. -/
def State.portCheck (s : State) (x conn : Nat) : Option Nat :=
  let h := BitVec.ofNat 256 x
  if eqtOp h ≠ 5 ∨ eqtLen h ≠ 0 ∨ eqtStatus h ≠ 0 ∨ bitsOf x 107 104 ≠ 0 ∨ bitsOf x 511 320 ≠ 0 ∨ bitsOf x 303 265 ≠ 0 then some 1
  else match s.spaceEntry (eqtSpace h), s.conn conn with
    | none, _ => some Cause.estale
    | some (p, _), some c => if p ≠ c.partno then some Cause.protect else if c.st == .open then none else some Cause.estale
    | some (p, _), none => if p ≠ 0 then some Cause.protect else some Cause.estale

/-- EVENT_PORT_SEND: GO is 1 and nothing is on its way from the port. -/
def execEventPortSend (svc : Nat) (s : State) : Out :=
  let x := s.readNat (s.port svc) 64
  let n := bitsOf x 263 256
  if 4 ≤ svc ∨ s.marten.values.faultRings.length ≤ svc ∨ bitsOf x 264 264 = 0 ∨ s.ports.any (fun p => p.1 == svc) then .next s
  else match s.portCheck x n, s.conn n with
    | some code, _ => .next (s.portResult svc code)
    | none, none => .next (s.portResult svc Cause.estale)
    | none, some c => .next { s.sendEqt n (BitVec.ofNat 256 x) [] with ports := s.ports ++ [(svc, n, c.txNext)] }

end Sys2Proof.Machine
end

