-- ==== Sys2Proof/Machine/Queues.lean ====
section
/-!
DEFINITION. Work queues, packets and launches (R27 to R29, R403 to R411, R415, R429, R453).
-/
namespace Sys2Proof.Machine

/-! ## Queues (R403, R404) -/

/-- The service core that serves queue q, as a core number (R403). -/
def servingCore (q : Nat) : Nat := 256 + q / 256

/-- The state with a queue changed. -/
def State.modQueue (s : State) (q : Nat) (f : Queue → Queue) : State :=
  { s with queues := s.queues.map fun x => if x.no = q then f x else x }

/-- Every field of a ring header and byte 0 of every slot become 0 (R403). -/
def State.clearRing (s : State) (e : QueueEntry) : State :=
  (List.range (2 ^ e.log2sz)).foldl (fun s k => s.unitWrite (e.ring + 64 + 64 * k) [0]) (s.unitNat e.ring 64 0)

/-- The 64 bytes of a queue table entry (Table 24.2). -/
def queueEntryWord (e : QueueEntry) : Nat :=
  e.ring % 2 ^ 64 + 2 ^ 128 * (e.ldesc % 2 ^ 64) +
    2 ^ 192 * (e.state % 8 + 2 ^ 3 * (e.log2sz % 32) + 2 ^ 16 * (e.partno % 2 ^ 16) + 2 ^ 32 * (e.wdog % 2 ^ 32))

/-- The place of queue q's entry in the queue table (Table 27.2, log 25). -/
def State.queueEntryKey (s : State) (q : Nat) : Nat := s.marten.values.queueTable + 64 * q

/-- The partition manager writes an entry of the queue table. -/
def State.putQueueEntry (s : State) (q : Nat) (e : QueueEntry) : State := s.unitNat (s.queueEntryKey q) 64 (queueEntryWord e)

/-- QUEUE_OPEN: a CLOSED queue takes its entry and a cleared ring; a STALLED one keeps its ring as it stands (R403, Table 25.11). -/
def execQueueOpen (queue : Nat) (entry : QueueEntry) (s : State) : Out :=
  match s.queue queue with
  | some q =>
    if q.entry.state = 2 then
      .next ((s.modQueue queue fun q => { q with entry := { q.entry with state := 1 }, unwritten := 0 }).putQueueEntry queue
        { q.entry with state := 1 })
    else .next s
  | none =>
    if 1024 ≤ queue ∨ entry.log2sz < 6 ∨ 16 < entry.log2sz ∨ entry.ring % 4096 ≠ 0 ∨ (entry.partno ≠ 0 ∧ (s.part entry.partno).isNone) then .next s
    else
      let s := s.clearRing entry
      .next (({ s with queues := s.queues ++ [⟨queue, { entry with state := 1 }, 0, 0⟩] } : State).putQueueEntry queue
        { entry with state := 1 })

/-- QUEUE_WATCHDOG_EXPIRY: the budget, or the wait for a claimed index, has reached WDOG: the queue is STALLED and reported (R404, R429,
R453). -/
def execQueueWatchdogExpiry (queue : Nat) (s : State) : Out :=
  match s.queue queue with
  | none => .next s
  | some q =>
    let limit := q.entry.wdog * 1024
    if q.entry.state ≠ 1 ∨ limit = 0 ∨ (q.budget < limit ∧ q.unwritten < limit) then .next s
    else
      let svc := queue / 256
      let k := s.marten.values.faultRings.getD svc 0 + 16448 + queue % 256 / 8
      let s := (s.modQueue queue fun q => { q with entry := { q.entry with state := 2 } }).putQueueEntry queue { q.entry with state := 2 }
      .next ((s.unitWrite k [s.byte k ||| BitVec.ofNat 8 (2 ^ (queue % 8))]).serviceEvent svc 1 5)

/-! ## Packets (Table 24.6) -/

def pktKind (x : Nat) : Nat := bitsOf x 15 8
def pktCrec (x : Nat) : Bool := bitsOf x 16 16 = 1
def pktOrd (x : Nat) : Bool := bitsOf x 17 17 = 1
def pktSpace (x : Nat) : Nat := bitsOf x 51 32
def pktCaddr (x : Nat) : Nat := bitsOf x 127 64

/-- Whether a reserved bit of a packet is set, or its kind is invalid (check 1 of Table 24.7). -/
def pktBad (x : Nat) : Bool :=
  bitsOf x 63 52 != 0 || bitsOf x 31 18 != 0 ||
    (match pktKind x with
     | 0 => bitsOf x 511 128 != 0
     | 1 => bitsOf x 511 384 != 0 || bitsOf x 191 160 != 0
     | 2 => bitsOf x 511 296 != 0
     | 3 => bitsOf x 511 256 != 0 || bitsOf x 191 144 != 0
     | _ => true)

/-- Whether n bytes from an address touch a scratchpad window or the accumulator name range (Table 4.1). -/
def touchesWindow (va n : Nat) : Bool :=
  let hits (lo size : Nat) : Bool := va < lo + size && lo < va + n
  hits ownBase 0x200000 || hits memberBase 0x800000 || hits accNames 0x100000

/-- Whether a list of identities ascends strictly. -/
def ascending : List Nat → Bool
  | [] => true
  | [_] => true
  | a :: b :: l => decide (a < b) && ascending (b :: l)

/-- The core list of a LAUNCH, none when it cannot be read (check 5 of Table 24.7). -/
def State.coreList (s : State) (c space va n : Nat) : Option (List Nat) :=
  match s.pageChecks c space true 0 accRead (pagesOf va (4 * n)) with
  | .parts ps =>
    let bs := (s.getParts ps).map (·.1)
    some ((List.range n).map fun i => leNat ((bs.drop (4 * i)).take 4))
  | _ => none

/-- Whether a core identity names a core of a partition, on this package or, as far as this one knows, on another (check 6). -/
def State.coreOfPart (s : State) (partno ident : Nat) : Bool :=
  match s.coreOfIdentity ident with
  | some w => (s.core w).partno == partno && partno != 0
  | none => ident < 2 ^ 23 && ident / 256 != s.marten.values.pkg &&
      (match s.part partno with | some p => p.packages.contains (ident / 256) | none => false)

/-- The checks of Table 24.7 in order: the cause of the first that fails, or the cores that a LAUNCH names. -/
def State.packetCheck (s : State) (q : Queue) (x : Nat) : Nat ⊕ List Nat :=
  if pktBad x then .inl Cause.illegal
  else match s.spaceEntry (pktSpace x) with
    | none => .inl Cause.estale
    | some (p, _) =>
      if p ≠ q.entry.partno then .inl Cause.protect
      else if pktCrec x ∧ pktCaddr x % 16 ≠ 0 then .inl Cause.misalign
      else if pktKind x = 1 then
        let n := bitsOf x 159 128
        let most := match s.part p with | some r => r.systemCores | none => 0
        if n = 0 ∨ most < n then .inl Cause.regionInvalid
        else match s.coreList (servingCore q.no) (pktSpace x) (bitsOf x 255 192) n with
          | none => .inl Cause.xlate
          | some cs =>
            if !ascending cs then .inl Cause.regionInvalid
            else if cs.all (s.coreOfPart p) then .inr cs else .inl Cause.protect
      else if pktKind x = 2 then
        let n := bitsOf x 295 256
        if touchesWindow (bitsOf x 191 128) n ∨ touchesWindow (bitsOf x 255 192) n then .inl Cause.xlate else .inr []
      else .inr []

/-- A refusal, or a failure without a record, in the ring header: the E fields, and ERRN rises by one (R408, R415). -/
def State.headerError (s : State) (q : Queue) (index x cause : Nat) : State :=
  let r := q.entry.ring
  let fields := bitsOf x 63 0 * 2 ^ 128 + (pktKind x * 2 ^ 24 + pktSpace x) * 2 ^ 96 + cause * 2 ^ 64 + index % 2 ^ 64
  ((s.unitNat (r + 32) 24 fields).unitNat (r + 56) 8 s.now).countRefusal r

/-- Where a completion record goes: none where its address does not translate under SPACE with W (R408, R410). entry is what the space table
gave as the packet was read, which the packet keeps (R413). -/
def State.recordAt (s : State) (q : Queue) (x : Nat) (entry : Option (Nat × Nat)) : Option Dest :=
  let s := match entry with | some e => s.underSpace (pktSpace x) e | none => s
  if pktCaddr x % 16 ≠ 0 then none
  else match s.translate (servingCore q.no) (pktSpace x) true 0 accWrite (pktCaddr x) with
    | .to d _ => some d
    | _ => none

/-- The 16 bytes of a completion record (R410). -/
def recordBytes (index : Nat) (status : Int) : List Byte := leBytes 16 ((status % (2 ^ 64 : Int)).toNat + index % 2 ^ 64 * 2 ^ 64)

/-- A completion record at a place: one of this package is written after what the queue copy units have written; one elsewhere leaves as a request
of its packet (R410). -/
def State.putCompletion (s : State) (q : Queue) (index : Nat) (d : Dest) (status : Int) : State :=
  match d with
  | .here k =>
    s.lateBytes .outside noDie ((s.late.filter fun w => w.by_ == .outside).map (·.id)) k (recordBytes index status)
  | _ => s.sendWrites (servingCore q.no) (.packet q.no index) [] [(d, recordBytes index status)]

/-- A packet is refused: it completes at once with the cause; a record that goes elsewhere is then still on its way (R408). -/
def State.refusePacket (s : State) (q : Queue) (index x cause : Nat) : State :=
  let s := s.headerError q index x cause
  match if pktCrec x then s.recordAt q x none else none with
  | none => s
  | some (.here k) => s.putCompletion q index (.here k) (-(cause : Int))
  | some d =>
    let p : Packet := { queue := q.no, index := index, bits := BitVec.ofNat 512 x, cores := [], started := true, done := 0, stage := 3,
                        spaceOf := (0, 0), launch := none, status := some (-(cause : Int)), event := none, fault := none }
    ({ s with packets := s.packets ++ [p] } : State).putCompletion q index d (-(cause : Int))

/-- The intake takes a queue's bit from the notify summary before it reads the ring (R405). -/
def State.takeNotify (s : State) (q : Nat) : State :=
  let k := s.marten.values.notifySummary + 8 * (q / 64)
  if (s.readNat k 8) / 2 ^ (q % 64) % 2 = 1 then s.unitNat k 8 (s.readNat k 8 - 2 ^ (q % 64)) else s

/-- FENCE.X.PKG HOST, SCL of the intake: what hosts have written has entered every view of the package (R406). -/
def State.hostFence (s : State) : State := s.enterDies [0, 1, 2, 3] fun w => match w.by_ with | .host _ => true | _ => false

/-- QUEUE_PACKET_READ: the intake takes the queue's notify bit and reads the next whole packet of an OPEN queue of a partition that runs and is not
asked to park, stores RIDX + 1, and checks it (R405, R406, R408, Table 25.6). A poisoned packet is not read. -/
def execQueuePacketRead (queue : Nat) (s : State) : Out :=
  match s.queue queue with
  | none => .next s
  | some q =>
    let runs : Bool := match s.part q.entry.partno with | some p => p.st == .active && p.preempt.isNone | none => q.entry.partno == 0
    if q.entry.state ≠ 1 ∨ !runs then .next s
    else
      let s := s.takeNotify queue
      let i := s.readNat (q.entry.ring + 8) 8
      let k := q.slotAt i
      if (s.byte k).toNat ≠ packetSeq q.entry.log2sz i ∨ s.poisoned k 64 then .next s
      else
        let s := s.hostFence
        let x := s.readNat k 64
        let s := (s.unitNat (q.entry.ring + 8) 8 (i + 1)).modQueue queue fun q => { q with unwritten := 0 }
        match s.packetCheck q x with
        | .inl cause => .next (s.refusePacket q i x cause)
        | .inr cs =>
          let p : Packet := { queue := queue, index := i, bits := BitVec.ofNat 512 x, cores := cs, started := false, done := 0, stage := 0,
                              spaceOf := (s.spaceEntry (pktSpace x)).getD (0, 0), launch := none, status := none, event := none, fault := none }
          .next { s with packets := s.packets ++ [p] }

/-! ## Starting and performing packets (R406, R409) -/

/-- Whether packet idx may start: the packets of its queue before it have started, or have completed when its ORD is 1 (R406). -/
def State.mayStart (s : State) (idx : Nat) (p : Packet) : Bool :=
  let before := (s.packets.take idx).filter (·.queue == p.queue)
  if pktOrd p.bits.toNat then before.isEmpty else before.all (·.started)

/-- The state with packet idx changed. -/
def State.modPacket (s : State) (idx : Nat) (f : Packet → Packet) : State := { s with packets := s.packets.modify idx f }

/-- Packet idx, when it is of a kind, has not ended and stands under no fault, and has started or may start. -/
def State.onPacket (s : State) (idx kind : Nat) (go : Packet → State → Out) : Out :=
  match s.packets[idx]? with
  | none => .next s
  | some p =>
    if pktKind p.bits.toNat ≠ kind ∨ p.status.isSome ∨ p.fault.isSome ∨ p.event.isSome ∨ !(p.started || s.mayStart idx p) then .next s
    else go p s

/-- PACKET_NOP (R409). -/
def execPacketNop (idx : Nat) (s : State) : Out :=
  s.onPacket idx 0 fun _ s => .next (s.modPacket idx fun p => { p with started := true, status := some 0 })

/-- PACKET_EVENT: an EVENT message through the lowest matching entry of the remap table (R409, R411). -/
def execPacketEvent (idx : Nat) (s : State) : Out :=
  s.onPacket idx 3 fun p s =>
    let x := p.bits.toNat
    let vec := bitsOf x 143 128
    let found := (s.remap.filter fun r => r.space == pktSpace x && r.vec == vec).foldl (fun (best : Option Remap) r =>
      match best with | none => some r | some b => if r.no < b.no then some r else some b) none
    let fail : Out := .next (s.modPacket idx fun p => { p with started := true, status := some (-(Cause.estale : Int)) })
    match found.bind fun r => (s.conn r.conn).map fun c => (r, c) with
    | none => fail
    | some (r, c) =>
      if c.st != .open then fail
      else
        let s := s.sendEqt r.conn (eqtHdr 5 (bitsOf x 255 192) 0 0 (pktSpace x) vec r.eq) []
        .next (s.modPacket idx fun p => { p with started := true, event := some (r.conn, c.txNext) })

/-! ### The queue copy unit (R239, R409) -/

/-- The place of byte i of an access, as its parts give it. -/
def placeAt : List PagePart → Nat → Option Dest
  | [], _ => none
  | p :: ps, i =>
    if i < p.size then p.dest.map fun d => match d with
      | .here k => .here (k + i)
      | .peer q a => .peer q (a + i)
      | .host e a => .host e (a + i)
    else placeAt ps (i - p.size)

/-- The bytes of a chunk in ascending order: an earlier byte of the chunk may have been written before a later one is read (R239). -/
def State.chunkCells (s : State) (src dst : List PagePart) : Nat → List (Nat × Byte × Bool) → List (Nat × Byte × Bool)
  | 0, acc => acc
  | n + 1, acc =>
    let acc := s.chunkCells src dst n acc
    let b : Byte × Bool := match placeAt src n with
      | none => (0, false)
      | some (.here k) =>
        let old := (s.byte k, s.poisoned k 1)
        (match acc.find? (·.1 == k) with
         | some x => if Config.readsOld s.tick k then old else x.2
         | none => old)
      | some d => (Config.remoteByte s.tick (destKey d) 0, false)
    match placeAt dst n with
    | some d => (destKey d, b) :: acc
    | none => acc

/-- The 64-byte parts of MIGRATE pages among the parts of an access are counted (R96). -/
def State.countParts (s : State) (space : Nat) (ps : List PagePart) : State :=
  ps.foldl (fun s p => s.countMigrate space p.va (linesOf p.va p.size).length p.mode) s

/-- A chunk performed: bytes of this package written with the poison they carry, those of other places sent under the packet's name (R409,
R474). -/
def State.putChunk (s : State) (p : Packet) (src dst : List PagePart) (n : Nat) : State :=
  let s := s.detectParts src
  let cells := (s.chunkCells src dst n []).reverse
  let away := dst.filterMap fun x => match x.dest with
    | some (.here _) => none
    | some d => some (d, (cells.filter fun y => destKey d ≤ y.1 && y.1 < destKey d + x.size).map (·.2.1))
    | none => none
  (s.writeMarked .outside noDie [] (cells.filter fun x => x.1 < 2 ^ 64)).sendWrites (servingCore p.queue) (.packet p.queue p.index) [] away

/-- A resolvable fault holds a packet's copy (R409). -/
def State.holdPacket (s : State) (idx : Nat) (p : Packet) (acc va kind level ipa : Nat) : State :=
  let fid := s.nextFault
  let s := s.openFault (.packet p.queue p.index) (servingCore p.queue) (pktSpace p.bits.toNat) 4 acc va kind level ipa
  s.modPacket idx fun p => { p with started := true, fault := some fid }

/-- PACKET_COPY: the next chunk of 4 KiB of a COPY, over the CPY path under the space that the packet was read under (R409, R413; U is not
checked, log 26). The bytes that it reads elsewhere are asked for first, and it is done when those that it writes elsewhere have been performed
there. -/
def execPacketCopy (idx : Nat) (s : State) : Out :=
  s.onPacket idx 2 fun p s =>
    let x := p.bits.toNat
    let c := servingCore p.queue
    let space := pktSpace x
    let user : ReqUser := .packet p.queue p.index
    let n := min 4096 (bitsOf x 295 256 - p.done)
    let sp := s.underSpace space p.spaceOf
    let fail (cause : Nat) : Out := .next (s.modPacket idx fun p => { p with started := true, status := some (-(cause : Int)) })
    if s.awaits c user then .next s
    else if n = 0 then .next (s.modPacket idx fun p => { p with started := true, status := some 0 })
    else if p.stage = 2 then .next (s.modPacket idx fun p => { p with done := p.done + n, stage := 0 })
    else match sp.pageChecks c space true 4 accRead (pagesOf ((bitsOf x 191 128 + p.done) % 2 ^ 64) n),
        sp.pageChecks c space true 4 accWrite (pagesOf ((bitsOf x 255 192 + p.done) % 2 ^ 64) n) with
      | .refuse e, _ => fail e
      | .hold va k l i, _ => .next (s.holdPacket idx p accRead va k l i)
      | .parts _, .refuse e => fail e
      | .parts _, .hold va k l i => .next (s.holdPacket idx p accWrite va k l i)
      | .parts src, .parts dst =>
        if p.stage = 0 ∧ !(awayParts src).isEmpty then
          .next ((s.sendReads c user 8 [] (awayParts src)).modPacket idx fun p => { p with started := true, stage := 1 })
        else
          let s := ((s.putChunk p src dst n).countParts space src).countParts space dst
          .next (s.modPacket idx fun p =>
            if (awayParts dst).isEmpty then { p with started := true, done := p.done + n, stage := 0 } else { p with started := true, stage := 2 })

/-! ## Launches (R27, R28, R407) -/

/-- A record of n bytes of a launch's tables, when its pages can be read under the launch's space. -/
def State.tableRecord (s : State) (c space va n : Nat) : Option Nat :=
  match s.pageChecks c space true 0 accRead (pagesOf va n) with
  | .parts ps => if (s.getParts ps).any (·.2) then none else some (leNat ((s.getParts ps).map (·.1)))
  | _ => none

/-- More records than any table of a launch holds: their addresses ascend strictly (R306, R307). -/
def tableLimit : Nat := 2 ^ 64

/-- Whether an address does not lie after the last one. -/
def notAfter (last : Option Nat) (pc : Nat) : Bool := match last with | some l => decide (pc ≤ l) | none => false

/-- The SAFEPOINT table at an address: entries in ascending order of address, up to the first that breaks it (R306, R309; log 27). -/
def State.readSafePoints (s : State) (c space : Nat) : Nat → Nat → Option Nat → List (Nat × SafePoint)
  | 0, _, _ => []
  | n + 1, va, last =>
    match s.tableRecord c space va 16 with
    | none => []
    | some x =>
      let pc := bitsOf x 63 0
      if bitsOf x 127 96 ≠ 0 ∨ notAfter last pc then []
      else (pc, ⟨BitVec.ofNat 16 (bitsOf x 79 64), BitVec.ofNat 16 (bitsOf x 95 80)⟩) :: s.readSafePoints c space n (va + 16) (some pc)

/-- The entries of 8 bytes that follow the head of a CKPT record. -/
def State.ckptWords (s : State) (c space va n : Nat) : List Nat :=
  (List.range n).map fun i => (s.tableRecord c space (va + 8 * i) 8).getD 0

/-- The CKPT table at an address, in the same way (R307). -/
def State.readCkpts (s : State) (c space : Nat) : Nat → Nat → Option Nat → List CkptRecord
  | 0, _, _ => []
  | n + 1, va, last =>
    match s.tableRecord c space va 32 with
    | none => []
    | some x =>
      let pc := bitsOf x 63 0
      if bitsOf x 255 144 ≠ 0 ∨ notAfter last pc then []
      else
        let nr := bitsOf x 127 112
        let nu := bitsOf x 143 128
        let ranges := (s.ckptWords c space (va + 32) nr).map fun w => (bitsOf w 20 0, bitsOf w 42 21)
        let runs := (s.ckptWords c space (va + 32 + 8 * nr) nu).map fun w => (bitsOf w 8 0, bitsOf w 18 9)
        ⟨pc, BitVec.ofNat 32 (bitsOf x 95 64), BitVec.ofNat 16 (bitsOf x 111 96), ranges, runs⟩ ::
          s.readCkpts c space n (va + 32 + 8 * (nr + nu)) (some pc)

/-- The launch that a packet makes, with the descriptor of its queue (Table 24.5). -/
def State.launchOfPacket (s : State) (q : Queue) (p : Packet) : Launch :=
  let x := p.bits.toNat
  let d := s.readNat q.entry.ldesc 64
  let c := servingCore q.no
  let space := pktSpace x
  { id := s.nextLaunch, partno := q.entry.partno, queue := q.no, packet := p.index, cores := p.cores, ncores := p.cores.length,
    entry := BitVec.ofNat 64 (bitsOf x 319 256), args := BitVec.ofNat 64 (bitsOf x 383 320), space := space,
    gp := BitVec.ofNat 64 (bitsOf d 63 0), stkbase := bitsOf d 127 64, stksz := bitsOf d 191 128,
    sptab := s.readSafePoints c space tableLimit (bitsOf d 255 192) none,
    cktab := s.readCkpts c space tableLimit (bitsOf d 319 256) none,
    started := false, failure := none, stopping := false, home := none,
    away := ((p.cores.map (· / 256)).filter (· != s.marten.values.pkg)).eraseDups.map fun k => (k, .asked) }

/-- What the partition manager of another package is asked for a launch (R409). -/
def State.guestOf (s : State) (l : Launch) (q : Queue) : GuestLaunch :=
  let d := s.readNat q.entry.ldesc 64
  ⟨s.marten.values.pkg, l.id, l.partno, l.cores, l.entry, l.args, l.space, l.gp, l.stkbase, l.stksz, bitsOf d 255 192, bitsOf d 319 256⟩

/-- PACKET_LAUNCH: a LAUNCH packet whose turn has come makes its launch, which waits for its cores; the partition managers of the other packages
that hold cores of it are asked for theirs (R27, R409). -/
def execPacketLaunch (idx : Nat) (s : State) : Out :=
  s.onPacket idx 1 fun p s =>
    if p.launch.isSome then .next s
    else match s.queue p.queue with
      | none => .next s
      | some q =>
        let l : Launch := (s.underSpace (pktSpace p.bits.toNat) p.spaceOf).launchOfPacket q p
        let s := { s with launches := s.launches ++ [l], nextLaunch := s.nextLaunch + 1,
                          outbox := s.outbox ++ l.away.map fun (a : Nat × AwayState) => OutMsg.launch a.1 (s.guestOf l q) }
        .next (s.modPacket idx fun p => { p with launch := some l.id })

/-- The cores of this package that a launch names, by number, in rank order. -/
def State.launchCores (s : State) (l : Launch) : List Nat := l.cores.filterMap s.coreOfIdentity

/-- The state with a launch changed. -/
def State.modLaunch (s : State) (id : Nat) (f : Launch → Launch) : State :=
  { s with launches := s.launches.map fun x => if x.id = id then f x else x }

/-- A launch with the part of a package changed. -/
def Launch.setAway (l : Launch) (pkg : Nat) (st : AwayState) : Launch :=
  { l with away := l.away.map fun a => if a.1 = pkg then (pkg, st) else a }

/-- Whether the cores of a launch in this package are free for it: every strand of theirs is IDLE, and none is promised to another package's launch
(R27). -/
def State.coresIdle (s : State) (l : Launch) : Bool :=
  let promised := (s.launches.filter fun x => x.id != l.id && !x.started && x.home.isSome && x.away.any fun a => a.2 == .ready).flatMap s.launchCores
  (s.launchCores l).all fun c => (s.core c).strands.toList.all (·.state == .idle) && !promised.contains c

/-- Strand 0 of a core as a launch starts it (Table 2.1); the core's instruction lines are dropped (R152). -/
def State.startStrand (s : State) (l : Launch) (c : Nat) : State :=
  let r := s.rankOf l c
  (s.dropFetch c 0).modCore c fun x => { (x.modStrand 0 fun t =>
    let t := t.start l.entry (l.stackTop r 0) false (BitVec.ofNat 20 l.space) (some l.id)
    (((t.setReg 3 l.gp).setReg 4 (BitVec.ofNat 64 r)).setReg 5 (BitVec.ofNat 64 l.ncores)).setReg 6 l.args) with icache := [] }

/-- The cores of a launch in this package start; those of other packages are told to (R27, R28, R409). -/
def State.beginLaunch (s : State) (l : Launch) : State :=
  let s := (s.launchCores l).foldl (fun s c => s.startStrand l c) s
  let begun (p : Packet) : Packet := if p.launch = some l.id then { p with started := true } else p
  let go : List OutMsg := if l.home.isSome then [] else l.away.map fun (a : Nat × AwayState) => OutMsg.launchGo a.1 l.id
  ({ s with packets := s.packets.map begun, outbox := s.outbox ++ go } : State).modLaunch l.id fun x =>
    { x with started := true, away := x.away.map fun a => if a.2 == .ended then a else (a.1, .running) }

/-- Whether a launch's partition runs here. -/
def State.launchRuns (s : State) (l : Launch) : Bool := match s.part l.partno with | some p => p.st == .active | none => false

/-- Another package's launch of which this package holds cores. -/
def State.guest (s : State) (pkg id : Nat) : Option Launch := s.launches.find? (·.home == some (pkg, id))

/-- A launch of another package is taken in: its cores here are of the partition, which holds cores of that package; the tables that its descriptor
names are read under its space (R409). -/
def State.takeGuest (s : State) (g : GuestLaunch) : State :=
  let l : Launch :=
    { id := s.nextLaunch, partno := g.partno, queue := 1024, packet := 0, cores := g.cores, ncores := g.cores.length, entry := g.entry,
      args := g.args, space := g.space, gp := g.gp, stkbase := g.stkbase, stksz := g.stksz,
      sptab := s.readSafePoints 256 g.space tableLimit g.sptab none, cktab := s.readCkpts 256 g.space tableLimit g.cktab none,
      started := false, failure := none, stopping := false, home := some (g.pkg, g.id), away := [(g.pkg, .asked)] }
  let fits : Bool := (s.launchCores l).all (fun c => (s.core c).partno == g.partno && g.partno != 0) && !(s.launchCores l).isEmpty &&
    (match s.part g.partno with | some p => p.packages.contains g.pkg | none => false)
  if g.pkg = s.marten.values.pkg ∨ !fits then s else { s with launches := s.launches ++ [l], nextLaunch := s.nextLaunch + 1 }

/-- LAUNCH_START: once every strand of every named core is IDLE, here and at the other packages, which say so, strand 0 of each starts (R27, R28,
R409, R429). -/
def execLaunchStart (launch : LaunchBegin) (s : State) : Out :=
  match launch with
  | .ours id => (match s.launches.find? (·.id == id) with
    | none => .next s
    | some l =>
      if l.started || l.home.isSome || !s.coresIdle l || !s.launchRuns l || l.away.any (·.2 == .asked) then .next s
      else .next ((s.beginLaunch l).modQueue l.queue fun q => { q with budget := 0 }))
  | .guest g => (match s.guest g.pkg g.id with
    | none => .next (s.takeGuest g)
    | some l =>
      if l.started || !s.coresIdle l || !s.launchRuns l || l.away.all (·.2 != .asked) then .next s
      else .next { s.modLaunch l.id fun x => x.setAway g.pkg .ready with outbox := s.outbox ++ [OutMsg.launchReady g.pkg g.id] })
  | .ready pkg id => (match s.launches.find? fun l => l.id == id && l.home.isNone with
    | none => .next s
    | some l => if l.away.contains (pkg, .asked) then .next (s.modLaunch id fun x => x.setAway pkg .ready) else .next s)
  | .go pkg id => (match s.guest pkg id with
    | none => .next s
    | some l => if l.started || !l.away.contains (pkg, .ready) then .next s else .next (s.beginLaunch l))

/-- Whether a strand has performed everything it has issued. -/
def Strand.quiet (t : Strand) : Bool := t.stores.isEmpty && t.streams.all fun x => x.sent == x.acked

/-- A launch ends with a status: its packet has it for the completion record (R29, R410, R415). -/
def State.endLaunch (s : State) (l : Launch) (status : Int) : State :=
  let mark (p : Packet) : Packet := if p.launch = some l.id then { p with status := some status } else p
  { s with launches := s.launches.filter (·.id != l.id), packets := s.packets.map mark }

/-- Whether the part of a launch in this package is over: every strand of it is IDLE and every access of theirs and of their tasks performed. -/
def State.endedHere (s : State) (l : Launch) : Bool :=
  (s.launchCores l).all fun c => (s.core c).strands.toList.all (fun t => t.launch != some l.id && t.quiet) &&
    !s.reqs.any fun r => r.core == c && (match r.user with | .task _ => true | _ => r.kind == .rdmaWrite)

/-- The status of a launch: 0 or its first failure (R415). -/
def Launch.status (l : Launch) : Int := match l.failure with | none => 0 | some f => -(f.cause : Int)

/-- A launch of another package ends here, and its package is told (R29, R415). -/
def State.endGuest (s : State) (l : Launch) : State :=
  let told := match l.home with
    | some h => [OutMsg.launchEnded h.1 h.2 (l.failure.map fun f => (f.cause, f.fatal))]
    | none => []
  { s with launches := s.launches.filter (·.id != l.id), outbox := s.outbox ++ told }

/-- LAUNCH_COMPLETE: every strand of the launch has ended, here and at the other packages, which say so, and every access of theirs has been
performed; the status is 0 or the first failure (R29, R410, R415). A fatal trap elsewhere stops the launch here too (R420). -/
def execLaunchComplete (launch : LaunchFinish) (s : State) : Out :=
  match launch with
  | .ours id => (match s.launches.find? (·.id == id) with
    | none => .next s
    | some l =>
      if !l.started ∨ l.stopping ∨ !s.endedHere l then .next s
      else if l.home.isSome then .next (s.endGuest l)
      else if l.away.any (·.2 != .ended) then .next s
      else .next (s.endLaunch l l.status))
  | .ended pkg id failure => (match s.launches.find? fun l => l.id == id && l.home.isNone with
    | none => .next s
    | some l =>
      if !l.away.any (fun a => a.1 == pkg && a.2 != .ended) then .next s
      else
        let v := Config.unstated s.tick
        let x := l.setAway pkg .ended
        let x := match failure with
          | none => x
          | some (c, true) => x.stop ⟨c, true, v, v⟩
          | some (c, false) => x.fail ⟨c, false, v, v⟩
        if !l.started && failure.isSome then .next (s.endLaunch x x.status) else .next (s.modLaunch id fun _ => x))

/-- Packet idx, which has ended with a status, is reported: its record is written, or is on its way elsewhere, or is lost and counted; without a
record a failure goes into the ring header (R410, R415). -/
def State.recordPacket (s : State) (q : Queue) (idx : Nat) (p : Packet) (v : Int) : State :=
  let x := p.bits.toNat
  let gone (s : State) : State := { s with packets := s.packets.eraseIdx idx }
  if pktCrec x then
    match s.recordAt q x (some p.spaceOf) with
    | none => (gone s).countRefusal q.entry.ring
    | some (.here k) => (gone s).putCompletion q p.index (.here k) v
    | some d => (s.modPacket idx fun p => { p with stage := 3, launch := none }).putCompletion q p.index d v
  else if v ≠ 0 then (gone s).headerError q p.index x v.natAbs
  else gone s

/-- PACKET_COMPLETE: a packet's work has ended (R410, R415). -/
def execPacketComplete (idx : Nat) (s : State) : Out :=
  match s.packets[idx]? with
  | none => .next s
  | some p =>
    match p.status, s.queue p.queue with
    | some v, some q => if p.stage = 3 then .next s else .next (s.recordPacket q idx p v)
    | _, _ => .next s

end Sys2Proof.Machine
end

