-- ==== Sys2Proof/Machine/Faults.lean ====
section
/-!
DEFINITION. Fault rings and dispositions, moving pages, and invalidation (R96, R101 to R104, R413, R416 to R419, R444).
-/
namespace Sys2Proof.Machine

/-! ## Fault records (R416, R417, R419) -/

/-- PSEQ, CORE and ADDR of a fault record (Table 25.2); the spec states none for a packet, and no strand, task or address for an access of
another package (log 19). ADDR is the virtual address that faulted, as Table 25.2 has it, and no instruction's address is recorded, though R101
says that the record names it (DESIGN CHOICE, log 64). CORE of a service core is its service identity modulo 2^23 (DESIGN CHOICE, log 56). -/
def State.holderFields (s : State) (f : OpenFault) : Nat × Nat × Nat :=
  let free := (Config.unstated s.tick).toNat
  match f.holder with
  | .scl c k _ => (0xFFFFFFF0 + k, s.identity c, f.va)
  | .fetch c k => (0xFFFFFFF0 + k, s.identity c, f.va)
  | .task c q => (q.toNat, s.identity c, f.va)
  | .host _ _ _ => (0xFFFFFFF7, 0, f.va)
  | .packet q _ => (free, s.identity (servingCore q), f.va)
  | .incoming r => (free, r.who, free)

/-- The 512 bits of the record of a fault that is number n of its die, counting from 0 (Table 25.2). -/
def State.faultRecord (s : State) (f : OpenFault) (n : Nat) : Nat :=
  let (pseq, core, addr) := s.holderFields f
  let space := match f.holder with | .incoming _ => (Config.unstated s.tick).toNat | _ => f.space
  let ipa := if f.kind = 2 ∨ f.kind = 3 then f.ipa else 0
  addr % 2 ^ 64 * 2 ^ 384 + ipa % 2 ^ 64 * 2 ^ 320 + (n + 1) % 2 ^ 64 * 2 ^ 256 + pseq % 2 ^ 32 * 2 ^ 224 + core % 2 ^ 23 * 2 ^ 201 +
    space % 2 ^ 20 * 2 ^ 181 + f.partno % 2 ^ 16 * 2 ^ 165 + f.path % 8 * 2 ^ 162 + f.acc % 16 * 2 ^ 158 + f.kind % 8 * 2 ^ 155 +
    f.level % 4 * 2 ^ 153 + (1 + n / 256 % 255)

/-- The place of record n of a die's ring. -/
def State.recordPlace (s : State) (die n : Nat) : Nat := s.marten.values.faultRings.getD die 0 + 64 * (n % 256)

/-- A fault is recorded, unless the record 256 places earlier is still open (R416, R419). -/
def State.recordFault (s : State) (f : OpenFault) : State :=
  let n := s.fids.getD f.die 0
  if f.recNo.isSome ∨ s.faults.any (fun g => g.die == f.die && 256 ≤ n && g.recNo == some (n - 256)) then s
  else
    let s := s.unitNat (s.recordPlace f.die n) 64 (s.faultRecord f n)
    let mark (g : OpenFault) : OpenFault := if g.fid = f.fid then { g with recNo := some n } else g
    ({ s with faults := s.faults.map mark, fids := s.fids.set f.die (n + 1) } : State).serviceEvent f.die 0 7

/-- RESOLVABLE_FAULT: open fault idx is recorded in the ring of its die (R101, R416). -/
def execResolvableFault (idx : Nat) (s : State) : Out :=
  match s.faults[idx]? with
  | some f => .next (s.recordFault f)
  | none => .next s

/-- HELD_FAULT_RECORD: the oldest unrecorded fault of a die is recorded once its slot is free (R419). -/
def execHeldFaultRecord (die : Nat) (s : State) : Out :=
  match s.faults.find? fun f => f.die == die && f.recNo.isNone with
  | some f => .next (s.recordFault f)
  | none => .next s

/-! ## Acting on a disposition (R418) -/

/-- A held SCL access fails with a cause at its strand's next instruction boundary (R101). -/
def State.sclFails (s : State) (c k : Nat) (f : OpenFault) (a : Acc) (cause : Nat) : State :=
  let s := s.modStrand c k fun t =>
    let t := { t with stores := t.stores.filter fun b => b.fault != some f.fid }
    match a.op with
    | .load r _ => (t.unmark ⟨r, .fault f.fid a⟩).defer cause a.va
    | .store _ _ => t.defer cause a.va
    | .atomic _ r _ _ _ _ => (t.unmark ⟨r, .queued⟩).defer cause a.va
  s.sendReady c k

/-- A held SCL access meets another fault: it is held by that one from now on. -/
def State.sclHeldAgain (s : State) (c k : Nat) (f : OpenFault) (a : Acc) (kind level ipa : Nat) : State :=
  let y := (s.strand c k).sys
  let fid := s.nextFault
  let s := s.openFault (.scl c k a) c y.spaceid.toNat 0 a.kind a.va kind level ipa
  let other (n : Nat) : Nat := if n = f.fid then fid else n
  s.modStrand c k fun t =>
    { t with
      pend := t.pend.map fun p => match p.kind with | .fault n b => if n = f.fid then { p with kind := .fault fid b } else p | _ => p,
      stores := t.stores.map fun b => { b with fault := b.fault.map other, behind := b.behind.map other } }

/-- A held load proceeds at its place (R189): it returns as any load does. -/
def State.sclLoads (s : State) (c k : Nat) (f : OpenFault) (a : Acc) (r : Reg) (signed : Bool) (d : Dest) : State :=
  let p : Pend := ⟨r, .fault f.fid a⟩
  match d with
  | .here key =>
    let s := s.detect key a.size
    if s.poisoned key a.size then s.sclFails c k f a Cause.poison
    else
      let v := extendLoad a.size signed (s.loadValue c k key a.va a.size (some f.fid))
      (s.noteRead c k key a.size).modStrand c k fun t => ((t.unmark p).setReg r v).mark r (.load a d false)
  | _ =>
    let id := s.nextReq
    let t := s.strand c k
    let own := ({ t with stores := t.stores.filter fun b => !b.behind.contains f.fid } : Strand).ownBytes (destKey d) a.va a.size
    let s := s.sendReq c k (match d with | .host _ _ => .rdmaRead | _ => .load) d a false own
    s.modStrand c k fun t => (t.unmark p).mark r (.request id)

/-- A held SCL access proceeds at the place to which it now translates, after the checks that follow translation (R186, R191). -/
def State.sclProceeds (s : State) (c k : Nat) (f : OpenFault) (a : Acc) (d : Dest) (mode : Nat) : State :=
  let s := s.countMigrate (s.strand c k).sys.spaceid.toNat a.va 1 mode
  let place (s : State) : State :=
    let put (b : Buffered) : Buffered := if b.fault = some f.fid then { b with dest := some d, fault := none } else b
    (s.modStrand c k fun t => { t with stores := t.stores.map put }).sendReady c k
  match a.op with
  | .load r signed => (s.sclLoads c k f a r signed d).sendReady c k
  | .store _ _ =>
    if s.frozenAt d then s.sclFails c k f a Cause.protect
    else if s.tagAt d a.size then s.sclFails c k f a Cause.barrierStore
    else place s
  | .atomic code _ _ _ ar _ =>
    if mode = 5 ∧ ¬ (code = 0 ∧ a.size = 8 ∧ !ar) then s.sclFails c k f a Cause.protect
    else if s.frozenAt d then s.sclFails c k f a Cause.protect
    else if s.tagAt d a.size then s.sclFails c k f a Cause.barrierStore
    else place s

/-- A page with C = 0 gives a held load zero; it takes no write (R98). -/
def State.sclZero (s : State) (c k : Nat) (f : OpenFault) (a : Acc) : State :=
  match a.op with
  | .load r _ => (s.modStrand c k fun t => ((t.unmark ⟨r, .fault f.fid a⟩).setReg r 0).mark r (.load a (.here (2 ^ 62)) false)).sendReady c k
  | _ => s.sclFails c k f a Cause.xlate

/-- A held SCL access is translated again from check 1 (R418). -/
def State.sclAgain (s : State) (c k : Nat) (f : OpenFault) (a : Acc) : State :=
  let y := (s.strand c k).sys
  match s.translate c y.spaceid.toNat y.super 0 a.kind a.va with
  | .fail e => s.sclFails c k f a e
  | .open kind l i => s.sclHeldAgain c k f a kind l i
  | .zero => s.sclZero c k f a
  | .to d mode => s.sclProceeds c k f a d mode

/-- Whether an earlier atomic of the strand to the bytes of a held load has still to be performed (R109). -/
def State.loadMustWait (s : State) (f : OpenFault) : Bool :=
  match f.holder with
  | .scl c k a => (match a.op with
    | .load _ _ =>
      ((s.strand c k).stores.any fun b => b.isAtomic && !b.behind.contains f.fid && overlaps b.acc.va b.acc.size a.va a.size) ||
      s.reqs.any fun r => r.core == c && r.strand == k && (r.kind == .atomic || r.kind == .rdmaFadd) && overlaps r.acc.va r.acc.size a.va a.size
    | _ => false)
  | _ => false

/-- A suspended task re-enters READY, to be replayed or resumed; a VRUN that may not be replayed fails (R34, R103, R104). -/
def State.taskAgain (s : State) (c : Nat) (t : Task) : State :=
  let vrun : Bool := match t.cmd with | .vrun _ _ => true | _ => false
  if vrun ∧ t.stored then s.failTask c t Cause.xlate
  else s.modTask c t.seq fun t => { t with state := .ready, fault := none, waited := 0, age := 0 }

/-- The suspended task of a fault. -/
def State.suspended (s : State) (c : Nat) (q : BitVec 32) (f : OpenFault) : Option Task :=
  match (s.core c).task q with
  | some t => if t.state == .suspended && t.fault == some f.fid then some t else none
  | none => none

/-- Whether a strand stands at a fetch that a fault holds. -/
def State.standsAt (s : State) (c k : Nat) (f : OpenFault) : Bool :=
  let t := s.strand c k
  t.state == .wait && t.reason == 9 && t.obj == f.va

/-- The packets that a fault holds change. -/
def State.modHeld (s : State) (f : OpenFault) (g : Packet → Packet) : State :=
  { s with packets := s.packets.map fun p => if p.fault = some f.fid then g p else p }

/-- RETRY of a fault: what it holds is translated again from check 1 of Table 4.4 (R418). -/
def State.retryFault (s : State) (f : OpenFault) : State :=
  let s := { s with faults := s.faults.erase f }
  match f.holder with
  | .scl c k a => s.sclAgain c k f a
  | .fetch c k =>
    if s.standsAt c k f then s.modStrand c k fun t => { t with state := .run, reason := 0, obj := 0, waited := 0 } else s
  | .task c q => match s.suspended c q f with
    | some t => s.taskAgain c t
    | none => s
  | .host n _ _ => s.modConn n fun c => if c.fault = some f.fid then { c with fault := none } else c
  | .packet _ _ => s.modHeld f fun p => { p with fault := none }
  | .incoming r => s.incoming r

/-- REFUSE of a fault: what it holds fails with XLATE (R101, R104, R418). -/
def State.refuseFault (s : State) (f : OpenFault) : State :=
  let s := { s with faults := s.faults.erase f }
  match f.holder with
  | .scl c k a => s.sclFails c k f a Cause.xlate
  | .fetch c k =>
    if s.standsAt c k f then
      let s := s.modCore c fun x => { x with defining := x.defining.filter fun d => d.2 != k }
      s.trapAt c k Cause.xlate 0 false false (BitVec.ofNat 64 f.va) (s.strand c k).pc
    else s
  | .task c q => match s.suspended c q f with
    | some t => s.failTask c t Cause.xlate
    | none => s
  | .host n _ _ => match s.conn n with
    | some c => if c.fault = some f.fid then s.respond n 0 Cause.xlate [] else s
    | none => s
  | .packet _ _ => s.modHeld f fun p => { p with fault := none, status := some (-(Cause.xlate : Int)) }
  | .incoming r => s.refuseIn r

/-- The fault whose record lies in a slot of a die's ring and has a disposition. -/
def State.disposed (s : State) (die slot : Nat) : Option OpenFault :=
  s.faults.find? fun f => f.die == die && f.disp != 0 && (match f.recNo with | some n => n % 256 == slot | none => false)

/-- Whether a disposition is RETRY: 1 in its low byte, and any on a migration wait (R418). -/
def OpenFault.isRetry (f : OpenFault) : Bool := f.kind == 4 || f.disp % 256 == 1

/-- DISP_RETRY (R418). -/
def execDispRetry (die slot : Nat) (s : State) : Out :=
  match s.disposed die slot with
  | some f => if f.isRetry && !s.loadMustWait f then .next (s.retryFault f) else .next s
  | none => .next s

/-- DISP_REFUSE (R418). -/
def execDispRefuse (die slot : Nat) (s : State) : Out :=
  match s.disposed die slot with
  | some f => if f.isRetry then .next s else .next (s.refuseFault f)
  | none => .next s

/-! ## Moving pages (R96) -/

/-- The threshold of a migration class; class 3 never moves. -/
def migThreshold (cls : Nat) : Option Nat :=
  match cls with
  | 0 => some 256
  | 1 => some 4096
  | 2 => some 65536
  | _ => none

/-- The access counter of a page. -/
def State.migCount (s : State) (space page : Nat) : Nat :=
  match s.migCounts.find? fun x => x.space == space && x.page == page with | some x => x.count | none => 0

/-- The access counter of a page is cleared. -/
def State.clearCount (s : State) (space page : Nat) : State :=
  { s with migCounts := s.migCounts.filter fun x => !(x.space == space && x.page == page) }

/-- The leaf of level 3 that maps a page of a space here. -/
def State.pageLeaf (s : State) (space page : Nat) : Option Leaf :=
  match s.walkLeaf 0 space (page * 65536) with
  | .leaf l => if l.level = 3 then some l else none
  | _ => none

/-- Whether this package may move a page to itself: a MIGRATE leaf whose counter has passed the threshold of its class (R96). -/
def State.mayMove (s : State) (space page : Nat) (l : Leaf) : Bool :=
  leafMode l.bits == 4 && (match migThreshold (leafClass l.bits) with | some n => decide (n < s.migCount space page) | none => false)

/-- Where the bytes of a page lie in this package: its partition and intermediate page, when this package is its home (R96). -/
def Leaf.home (l : Leaf) : Option (Nat × Nat) := if leafMode l.bits ≤ 1 then some (l.partno, leafOut l.bits / 65536) else none

/-- MIGRATION_START: a counter of this package has passed its threshold: with a free granule the page is marked moving, without one the counter is
cleared and no move is made. Or another package moves a page that this one maps, as its home or not (R96). -/
def execMigrationStart (space page : Nat) (goal : MoveGoal) (s : State) : Out :=
  match s.pageLeaf space page with
  | none => .next s
  | some l =>
    let mark (g : Nat) (home : Option (Nat × Nat)) : State := { s with moving := s.moving ++ [⟨space, page, g, goal.mover, home⟩] }
    if s.moving.any fun m => m.space == space && m.page == page then .next s
    else if goal.mover = s.marten.values.pkg then
      (if !s.mayMove space page l then .next s
       else match goal.granule with
        | none => .next (s.clearCount space page)
        | some g => match s.stage2 0 l.partno g with
          | .pa _ => if g % 65536 ≠ 0 then .next s else .next (mark g none)
          | _ => .next s)
    else
      let fits : Bool := goal.mover / 32 == s.marten.values.pkg / 32 && (match s.part l.partno with | some p => p.packages.contains goal.mover | none => false)
      match goal.granule with
      | some g => if fits ∧ g % 65536 = 0 ∧ leafMode l.bits ≤ 4 then .next (mark g l.home) else .next s
      | none => .next s

/-- Whether a fault is the wait for a move of a page. -/
def OpenFault.waitsFor (f : OpenFault) (space page : Nat) : Bool := f.kind == 4 && f.space == space && f.va / 65536 == page

/-- The trace records that a core has held while a page moved are written in order, a GAP record of reason 1 before the first that follows dropped
ones, with a GAP record of reason 2 in the ring of the last of them when more were dropped (R367). -/
def State.writeHeld (s : State) (c : Nat) : State :=
  let x := s.core c
  match x.traceHeld.getLast? with
  | none => s
  | some (k, _) =>
    let s := s.setCore c { x with traceHeld := [], traceLost := 0 }
    let s := x.traceHeld.foldl (fun s p => s.writeRecord c p.1 p.2) s
    let t := s.strand c k
    if x.traceLost = 0 then s
    else s.writeRecord c k (s.recordBits c k 6 x.traceLost 2 t.tr.stepOpen.toNat t.tr.safePoint)

/-- A page stops moving: its counter is cleared and what waited proceeds (R96). -/
def State.endMove (s : State) (m : Moving) : State :=
  let waits (f : OpenFault) : Bool := f.waitsFor m.space m.page ||
    (f.kind == 4 && match f.holder with | .incoming r => m.home == some (r.partno, r.ipa / 65536) | _ => false)
  let s := ({ s with moving := s.moving.filter (· != m) } : State).clearCount m.space m.page
  let s := (s.faults.filter waits).foldl State.retryFault s
  (List.range 260).foldl State.writeHeld s

/-- MIGRATION_COMPLETE: at the package that moves the page, its bytes, which the old home sends, stand in the granule, and the leaf becomes LHBM and
committed. At every other package that maps it the leaf becomes DIRECT with the mover as peer, and the old home forwards what still comes for it.
What waited proceeds (R96). -/
def execMigrationComplete (space page : Nat) (moved : MovedPage) (s : State) : Out :=
  match s.moving.find? fun m => m.space == space && m.page == page && m.mover == moved.mover with
  | none => .next s
  | some m =>
    match s.pageLeaf space page with
    | none => .next (s.endMove m)
    | some l =>
      let leaf (peer mode c : Nat) : Nat := putBits (putBits (putBits (putBits l.bits 58 44 peer) 43 12 (m.granule / 65536)) 9 7 mode) 6 6 c
      if moved.mover = s.marten.values.pkg then
        (match s.stage2 0 l.partno m.granule with
         | .pa k => if moved.bytes.length ≠ 65536 then .next s else .next (((s.writeBytes k moved.bytes).setLeaf l (leaf 0 0 1)).endMove m)
         | _ => .next s)
      else
        let s := s.setLeaf l (leaf moved.mover 2 1)
        let s : State := match m.home with
          | some (p, i) => { s with moved := ⟨p, i, moved.mover, m.granule / 65536⟩ :: s.moved.filter fun x => !(x.partno == p && x.page == i) }
          | none => s
        .next (s.endMove m)

/-! ## Invalidation (R413, R444) -/

/-- The place of the invalidation word of a service core. -/
def State.invWord (s : State) (svc : Nat) : Nat := s.marten.values.faultRings.getD svc 0 + 16576

/-- Whether a strand has an access that was translated and has not been performed. -/
def Strand.underWay (t : Strand) : Bool :=
  (t.stores.any fun b => b.dest.isSome) || t.pend.any fun p => match p.kind with
    | .load _ _ late => late
    | .request _ => true
    | _ => false

/-- The space of the strand in whose name a task acts. -/
def State.taskSpace (s : State) (c : Nat) (q : BitVec 32) : Nat :=
  match (s.core c).task q with
  | some t => (s.strand c t.ring).sys.spaceid.toNat
  | none => 2 ^ 20

/-- The space and the partition under which a request was translated. -/
def State.reqUnder (s : State) (r : Req) : Nat × Nat :=
  let own := (s.core r.core).partno
  match r.user with
  | .strand =>
    if r.strand < 4 then ((s.strand r.core r.strand).sys.spaceid.toNat, own)
    else (match (s.core r.core).ctxs.toList[r.strand - 4]?.bind (·.task) with | some q => (s.taskSpace r.core q, own) | none => (2 ^ 20, own))
  | .task q => (s.taskSpace r.core q, own)
  | .host n => (match s.conn n with
    | some c => (match c.rxHeld.find? (·.1 == c.rxNext) with | some m => (eqtSpace m.2.1, c.partno) | none => (2 ^ 20, c.partno))
    | none => (2 ^ 20, 0))
  | .packet q i => (match s.packets.find? fun p => p.queue == q && p.index == i with
    | some p => (pktSpace p.bits.toNat, p.spaceOf.1)
    | none => (2 ^ 20, 0))
  | .shipment _ => (2 ^ 20, own)
  | .load _ => (2 ^ 20, own)

/-- Whether an access translated under a space and partition that a test picks is under way: a strand's, or what any unit has sent elsewhere. -/
def State.anyUnderWay (s : State) (p : Nat → Nat → Bool) : Bool :=
  (s.cores.toList.any fun x => x.strands.toList.any fun t => p t.sys.spaceid.toNat x.partno && t.underWay) ||
  s.reqs.any fun r => r.user != .strand && p (s.reqUnder r).1 (s.reqUnder r).2 || (r.kind == .fetch && p (s.reqUnder r).1 (s.reqUnder r).2)

/-- A request in the invalidation word of a service core: a word that names no kind is cleared; a request of the given kind is
performed, and the word cleared, once every access translated under an old entry has been performed (R413, R444). -/
def State.invalidate (s : State) (svc kind : Nat) (stale : Nat → TlbEntry → Bool) (busy : Nat → Nat → Nat → Bool) : Out :=
  let w := s.readNat (s.invWord svc) 8
  if 4 ≤ svc ∨ s.marten.values.faultRings.length ≤ svc ∨ w = 0 then .next s
  else if bitsOf w 63 38 ≠ 0 ∨ bitsOf w 37 36 = 0 then .next (s.unitNat (s.invWord svc) 8 0)
  else if bitsOf w 37 36 ≠ kind ∨ s.anyUnderWay (busy w) then .next s
  else .next (({ s with tlb := s.tlb.filter fun e => !stale w e } : State).unitNat (s.invWord svc) 8 0)

/-- INVALIDATE_SPACE: KIND 1. -/
def execInvalidateSpace (svc : Nat) (s : State) : Out :=
  s.invalidate svc 1 (fun w e => e.space == bitsOf w 19 0) (fun w space _ => space == bitsOf w 19 0)

/-- INVALIDATE_PARTITION: KIND 2. -/
def execInvalidatePartition (svc : Nat) (s : State) : Out :=
  s.invalidate svc 2 (fun w e => e.partno == bitsOf w 35 20) (fun w _ part => part == bitsOf w 35 20)

/-- INVALIDATE_ALL: KIND 3. -/
def execInvalidateAll (svc : Nat) (s : State) : Out :=
  s.invalidate svc 3 (fun _ _ => true) (fun _ _ _ => true)

end Sys2Proof.Machine
end

