-- ==== Sys2Proof/Machine/Recovery.lean ====
section
/-!
DEFINITION. Fatal stops, pre-emption, save and resume, the partition stop, creation and release (R51 to R53, R198, R334, R351, R420 to R428,
R441 to R443, R454).
-/
namespace Sys2Proof.Machine

/-! ## The fatal stop of a launch (R420, R421) -/

/-- Whether a core holds a strand of a launch that has been stopped. -/
def Core.holdsStopped (x : Core) (l : Nat) : Bool := x.strands.toList.any fun t => t.launch == some l && t.state == .stopped

/-- Whether a partition holds a barrier id at a scope: those of CORE with its cores, those of QUAD to SYS by Table 26.5 (R198). -/
def Partition.holdsId (p : Partition) (scope id : Nat) : Bool := scope == 0 || p.barids.toNat / 2 ^ (16 * (scope - 1) + id) % 2 == 1

/-- A barrier of a partition whose instance contains one of a list of cores and whose phase has arrivals pending is released by failure (R43,
R421). -/
def State.releaseBars (s : State) (p : Partition) (cs : List Nat) : State :=
  let hit (b : Bar) : Bool := p.holdsId b.scope b.id && cs.any fun c => s.instOf c b.scope == b.inst
  let pending (b : Bar) : Bool :=
    b.count != 0 || s.arrivals.any fun a => a.scope == b.scope && a.inst == b.inst && a.id == b.id && a.expect.isNone
  let fail (b : Bar) : Bar := if hit b && pending b && b.failed.isNone then { b with failed := some Cause.producerFailed } else b
  let fresh := (s.arrivals.filter fun a => !(s.bars.any fun b => b.scope == a.scope && b.inst == a.inst && b.id == a.id)).map fun a =>
    s.bar a.scope a.inst a.id
  { s with bars := s.bars.map fail ++ (fresh.eraseDups.filter hit).map fail }

/-- Open slots of a core's zones whose barrier's NAME0 is one of a list of identities fail (R421). -/
def State.failNamedSlots (s : State) (c : Nat) (ids : List Nat) : State :=
  (List.range 16).foldl (fun s z =>
    let y := (s.core c).zone z
    (List.range y.slots.length).foldl (fun s i =>
      if y.active && ids.contains (tbName (s.tb (y.barKey c i)) 0) then s.failSlot c z i Cause.producerFailed else s) s) s

/-- The live objects in a core's scratchpad with STATUS 0 that name one of a list of identities fail (R421); a slot's barrier in a frozen scratchpad
is left as it stands (R351). -/
def State.failNamedBars (s : State) (c : Nat) (ids : List Nat) : State :=
  (s.live.filter fun l => spBase c ≤ l.1 && l.1 < spBase c + 2 ^ 21 && !(l.2 && (s.core c).frozen)).foldl (fun s l =>
    let x := s.tb l.1
    let names := (List.range (tbNamed x)).map (tbName x)
    if tbStatus x = 0 ∧ names.any ids.contains then s.tbFail l.1 Cause.producerFailed else s) s

/-- Step 4 of Table 25.3: the edges from the cores that hold stopped strands fail, on the cores of their partition. -/
def State.failEdges (s : State) (p : Partition) (cs : List Nat) : State :=
  let ids := cs.map s.identity
  let s := s.releaseBars p cs
  let s := p.cores.foldl (fun s c => (s.failNamedSlots c ids).failNamedBars c ids) s
  cs.foldl (fun s c => (List.range 4).foldl (fun s g => s.failGrid c g Cause.producerFailed) s) s

/-- Tasks in POSTED or READY that a stopped strand of a launch posted fail (step 3 of Table 25.3). -/
def State.failPosted (s : State) (l c : Nat) : State :=
  s.failTasks c Cause.producerFailed fun t =>
    (t.state == .posted || t.state == .ready) && (match t.owner with
      | .strand k => (s.strand c k).state == .stopped && (s.strand c k).launch == some l
      | .remote _ _ => false)

/-- Steps 2 to 4 of Table 25.3 for a launch, on the cores of this package (R420). -/
def State.stopHere (s : State) (l : Launch) : State :=
  let mine := (List.range 256).filter fun c => (s.core c).strands.toList.any fun u => u.launch == some l.id
  let s := mine.foldl (fun s c => (List.range 4).foldl (fun s k =>
    if (s.strand c k).launch = some l.id then s.watchdogStop c k else s) s) s
  let s := mine.foldl (fun s c => s.failPosted l.id c) s
  match s.part l.partno with
  | some p => s.failEdges p (mine.filter fun c => (s.core c).holdsStopped l.id)
  | none => s

/-- Step 5: the launch ends with its cause here when no other package holds strands of it; else those packages are told to stop, and it ends with
LAUNCH_COMPLETE once they say that they have (R29, R409, R420). -/
def State.endStopped (s : State) (id : Nat) : State :=
  match s.launches.find? (·.id == id) with
  | none => s
  | some l =>
    if l.home.isSome then s.endGuest l
    else
      let away := l.away.filter (·.2 != .ended)
      if away.isEmpty then s.endLaunch l l.status
      else
        ({ s with outbox := s.outbox ++ away.map fun (a : Nat × AwayState) => OutMsg.launchStop a.1 id } : State).modLaunch id fun x =>
          { x with stopping := false, cores := x.cores.filter fun i => (s.coreOfIdentity i).isNone }

/-- The launch that a source of a fatal stop names: that of a core here, whatever has become of the strand since; one of this package's queues that
a strand elsewhere has stopped; or another package's that its package stops (R420). -/
def State.stoppedLaunch (s : State) (source : FatalSource) (no : Nat) : Option Launch :=
  match source with
  | .core core => s.launches.find? fun l => l.stopping && l.started && (s.launchCores l).contains core
  | .package pkg =>
    if pkg = s.marten.values.pkg then s.launches.find? fun l => l.id == no && l.home.isNone && l.stopping
    else s.guest pkg no

/-- FATAL_STOP: steps 2 to 5 of Table 25.3 for a launch of which a strand has stopped fatally, here or at another package (R29, R420). -/
def execFatalStop (source : FatalSource) (no : Nat) (s : State) : Out :=
  match s.stoppedLaunch source no with
  | some l => .next ((s.stopHere l).endStopped l.id)
  | none => .next s

/-! ## The reset of cores (R423, R443, step 7 of Table 25.10) -/

/-- A core after its reset, in no partition: strands IDLE, tables UNDEFINED, banks freed; ZGEN, intake generations and the post sequence
go on. -/
def Core.afterReset (x : Core) : Core :=
  { Core.reset with
    strands := x.strands.map fun t => { Strand.reset with streams := t.streams },
    nextSeq := x.nextSeq, lastGrant := x.lastGrant, lastIntake := x.lastIntake, nextGen := x.nextGen,
    zones := x.zones.map fun z => { Zone.reset with zgen := z.zgen },
    intakes := x.intakes.map fun i => ⟨.closed, i.gen, []⟩ }

/-- The stores that a strand has issued and that have a place in this package are performed. -/
def State.settle (s : State) (c k : Nat) : State :=
  (s.strand c k).stores.foldl (fun s _ =>
    match (List.range (s.strand c k).stores.length).findSome? fun i => (s.performable c k i).map fun x => (i, x) with
    | some (i, b, key) => s.performBuffered c k i b key
    | none => s) s

/-- Whether a fault is held by a strand or task of a core. -/
def OpenFault.heldBy (f : OpenFault) (core : Nat) : Bool :=
  match f.holder with
  | .scl c _ _ => c == core
  | .fetch c _ => c == core
  | .task c _ => c == core
  | .packet _ _ => false
  | .host _ _ _ => false
  | .incoming _ => false

/-- A stop of the partition disposes of an open record: what it held fails, a host's message with PART_STOPPED and a request of another package as
refused (R419; log 43). -/
def State.stopFault (s : State) (f : OpenFault) : State :=
  let s := { s with faults := s.faults.erase f }
  match f.holder with
  | .host n _ _ => (match s.conn n with
    | some c => if c.fault = some f.fid then s.respond n 0 Cause.partStopped [] else s
    | none => s)
  | .incoming r => s.refuseIn r
  | _ => s

/-- Core c is zeroed and reset; what its strands had under way goes with it. -/
def State.resetCore (s : State) (c : Nat) : State :=
  let s := (s.zeroPads c).modCore c Core.afterReset
  { s with reqs := s.reqs.filter (·.core != c), faults := s.faults.filter fun f => !f.heldBy c,
           arrivals := s.arrivals.filter fun a => match a.src with | some (d, _) => d != c | none => true,
           ships := s.ships.filter (·.core != c), fills := s.fills.filter (·.core != c) }

/-! ## Barriers of a partition (R198) -/

/-- The number of a partition's cores in an instance (R198). -/
def State.coresIn (s : State) (p : Partition) (scope inst : Nat) : Nat :=
  if scope = 4 then p.groupCores
  else if scope = 5 then p.systemCores
  else (p.cores.filter fun c => s.instOf c scope == inst).length

/-- Every barrier of a partition is configured: E and phase 0 (R198). -/
def State.configureBars (s : State) (p : Partition) : State :=
  let one (s : State) (scope inst id e : Nat) : State := s.setBar ⟨scope, inst, id, e, 0, 0, none, ⟨0, 0, 0, 0, 0⟩, [], []⟩
  let s := p.cores.foldl (fun s c => (List.range 16).foldl (fun s id => one s 0 c id 4) s) s
  [1, 2, 3, 4, 5].foldl (fun s scope =>
    (p.cores.map fun c => s.instOf c scope).eraseDups.foldl (fun s inst =>
      ((List.range 16).filter (p.holdsId scope)).foldl (fun s id => one s scope inst id (s.coresIn p scope inst)) s) s) s

/-- The intakes of a partition are opened, each with its next generation (R75). -/
def State.openIntakes (s : State) (p : Partition) : State :=
  p.intakes.foldl (fun s i => s.modCore i.1 fun x => x.modIntake i.2 fun y => ⟨.open, nextGen8 y.gen, []⟩) s

/-! ## The partition stop (R427, R428) -/

/-- An entry of the stop report (Table 25.12). -/
def reportEntry (id kind aux core : Nat) : Nat :=
  id % 2 ^ 64 * 2 ^ 64 + kind * 2 ^ 56 + Cause.partStopped * 2 ^ 48 + aux % 2 ^ 16 * 2 ^ 32 + core % 2 ^ 23

/-- The open slots of a core: zone, slot, reservation. -/
def State.openSlots (s : State) (c : Nat) : List (Nat × Nat × Word) :=
  (List.range 16).flatMap fun z =>
    let y := (s.core c).zone z
    ((List.range y.slots.length).filter fun i => y.active && (y.slot i).isOpen).map fun i =>
      (z, i, resvWord y.slotsz (s.identity c) z y.zgen i (y.slot i).gen)

/-- The queues of a partition. -/
def State.queuesOf (s : State) (no : Nat) : List Queue := s.queues.filter fun q => q.entry.partno == no

/-- The packets of a partition that have been read and have not completed. -/
def State.packetsOf (s : State) (no : Nat) : List Packet := s.packets.filter fun k => (s.queuesOf no).any fun q => q.no == k.queue

/-- The entry of a task: the strand, or bit 15 for an admitted remote one. -/
def taskEntry (ident : Nat) (t : Task) : Nat :=
  reportEntry t.seq.toNat 1 (match t.owner with | .strand k => k | .remote _ _ => 2 ^ 15) ident

/-- The items of a partition that a stop fails, as the entries of its report: tasks and posts, packets, slots, shipments. -/
def State.stopItems (s : State) (p : Partition) : List Nat :=
  (p.cores.flatMap fun c => (s.core c).window.map (taskEntry (s.identity c))) ++
  (p.cores.flatMap fun c => (s.core c).intakes.toList.flatMap fun i =>
    i.entries.map fun r => reportEntry r.seq.toNat 1 (2 ^ 15) (s.identity c)) ++
  ((s.packetsOf p.no).map fun k => reportEntry k.index 2 k.queue 0) ++
  (p.cores.flatMap fun c => (s.openSlots c).map fun o => reportEntry o.2.2.toNat 3 0 (s.identity c)) ++
  ((s.ships.filter fun h => p.cores.contains h.core).map fun h => reportEntry (h.step.toNat + h.region * 2 ^ 32) 4 0 (s.identity h.core))

/-- A slot fails with PART_STOPPED, and the copy that fills it learns so where one is in flight (R351). -/
def State.stopSlot (s : State) (c z i : Nat) (resv : Word) : State :=
  let sender := (((s.core c).zone z).slot i).sender
  let s := s.failSlot c z i Cause.partStopped
  match s.coreOfIdentity sender with
  | some w => ((s.core w).window.filter fun t => t.cmd.resv == some resv && t.resvRead).foldl (fun s t =>
      s.replyCopy sender t.seq Cause.partStopped) s
  | none => { s with outbox := s.outbox ++ [.cprFailure resv Cause.partStopped] }

/-- Posts that wait in the intakes of a core fail with PART_STOPPED, reported to their senders (R244, R245). -/
def State.stopPosts (s : State) (x : Core) : State :=
  (x.intakes.toList.flatMap (·.entries)).foldl (fun s r => s.sendReport r.who r.tag (some Cause.partStopped)) s

/-- The launches of a partition end: those of other packages with PART_STOPPED to their package unless they failed before; the other packages that
hold cores of one are told to stop it (R409, step 5). -/
def State.stopLaunches (s : State) (no : Nat) : State :=
  (s.launches.filter (·.partno == no)).foldl (fun s l =>
    let v := Config.unstated s.tick
    if l.home.isSome then s.endGuest (l.fail ⟨Cause.partStopped, false, v, v⟩)
    else { s with launches := s.launches.filter (·.id != l.id),
                  outbox := s.outbox ++ (l.away.filter (·.2 != .ended)).map fun (a : Nat × AwayState) => OutMsg.launchStop a.1 l.id }) s

/-- The packets of a partition complete with PART_STOPPED, its launches with an earlier cause where one was recorded (step 5). A packet whose record
is under way has completed. -/
def State.stopPackets (s : State) (no : Nat) : State :=
  let status (s : State) (k : Packet) : Int :=
    match k.status with
    | some v => v
    | none => match (k.launch.bind fun i => s.launches.find? (·.id == i)).bind (·.failure) with
      | some f => -(f.cause : Int)
      | none => -(Cause.partStopped : Int)
  let ks := (s.packetsOf no).filter (·.stage != 3)
  let s := ks.foldl (fun s k =>
    match s.queue k.queue, s.packets.findIdx? (· == k) with
    | some q, some i => s.recordPacket q i k (status s k)
    | _, _ => s) s
  s.stopLaunches no

/-- The header of a save area and what follows it are written (Table 25.7). -/
def State.saveHeader (s : State) (p : Partition) (state nrep : Nat) : State :=
  s.unitNat p.savearea 64 (s.now % 2 ^ 64 * 2 ^ 128 + nrep * 2 ^ 96 + p.cores.length * 2 ^ 48 + p.no * 2 ^ 32 + state)

/-- The stop report (R428). -/
def State.writeReport (s : State) (p : Partition) (items : List Nat) : State :=
  let s := (items.mapIdx fun j e => (j, e)).foldl (fun s e => s.unitNat (p.savearea + 64 + 16 * e.1) 16 e.2) s
  s.saveHeader p 4 items.length

/-- The queues of a partition go to a state. -/
def State.setQueues (s : State) (no st : Nat) : State :=
  (s.queuesOf no).foldl (fun s q => s.putQueueEntry q.no { q.entry with state := st })
    { s with queues := s.queues.map fun q => if q.entry.partno = no then { q with entry := { q.entry with state := st } } else q }

/-- Table 25.10, up to the queues' last state: an ACTIVE partition is stopped, drained and reported, and its cores are reset. -/
def State.stopPartition (s : State) (p : Partition) : State :=
  let items := s.stopItems p
  let s := s.setQueues p.no 3
  let s := p.cores.foldl (fun s c => (List.range 4).foldl (fun s k =>
    (s.settle c k).modStrand c k fun t => { t with state := .stopped, reason := 0, obj := 0 }) s) s
  let s := p.cores.foldl (fun s c => s.failTasks c Cause.partStopped fun _ => true) s
  let s := p.cores.foldl (fun s c => s.stopPosts (s.core c)) s
  let s := p.cores.foldl (fun s c => (s.openSlots c).foldl (fun s o => s.stopSlot c o.1 o.2.1 o.2.2) s) s
  let s := s.stopPackets p.no
  let s := s.writeReport p items
  let s := (s.faults.filter (·.partno == p.no)).foldl State.stopFault s
  let s := p.cores.foldl (fun s c => (s.resetCore c).modCore c fun x => { x with partno := p.no }) s
  let s := (s.configureBars p).openIntakes p
  (s.setQueues p.no 2).modPart p.no fun p => { p with preempt := none, preemptHeld := false, haltReq := [] }

/-- The stop of a partition by number, while it is ACTIVE. -/
def State.stopNo (s : State) (no : Nat) : State :=
  match s.part no with
  | some p => if p.st == .active then s.stopPartition p else s
  | none => s

/-- PARTITION_STOP (R427). -/
def execPartitionStop (part : Nat) (s : State) : Out := .next (s.stopNo part)

/-- Whether a partition has a launch running or an item in flight (R454). -/
def State.partBusy (s : State) (p : Partition) : Bool :=
  (s.launches.any fun l => l.partno == p.no && l.started) || !(s.stopItems p).isEmpty

/-- PARTITION_STOP_REQUEST: the stop word of a service core (Table 28.1): a partition with nothing running or in flight is left as it is,
and a word that asks for nothing is cleared (R454). -/
def execPartitionStopRequest (svc : Nat) (s : State) : Out :=
  let k := s.marten.values.faultRings.getD svc 0 + 16512
  let w := s.readNat k 8
  let clear (s : State) : Out := .next (s.unitNat k 8 0)
  if 4 ≤ svc ∨ s.marten.values.faultRings.length ≤ svc ∨ w = 0 then .next s
  else if bitsOf w 63 18 ≠ 0 ∨ bitsOf w 17 16 ≠ 1 then clear s
  else match s.part (bitsOf w 15 0) with
    | some p => if p.st == .active && s.partBusy p then clear (s.stopPartition p) else clear s
    | none => clear s

/-! ## Pre-emption (R51, R52, R364, R424) -/

/-- PREEMPT_REQUEST: a request to an ACTIVE partition, held while a debug stop holds it (R51, R364). -/
def execPreemptRequest (part : Nat) (s : State) : Out :=
  match s.part part with
  | some p =>
    if p.st != .active || p.preempt.isSome then .next s
    else if s.debugHolds part then .next (s.modPart part fun p => { p with preemptHeld := true })
    else .next (s.modPart part fun p => { p with preempt := some s.now })
  | none => .next s

/-- PREEMPT_LIMIT: the limit has passed, with no debug stop to hold the request: the partition is stopped (R52, R364). -/
def execPreemptLimit (part : Nat) (s : State) : Out :=
  match s.part part with
  | some p => match p.preempt with
    | some t => if p.st == .active && !s.debugHolds part && p.plimit ≤ s.now - t then .next (s.stopPartition p) else .next s
    | none => .next s
  | none => .next s

/-! ## The save area (R425, Tables 25.7 and 25.8) -/

/-- A list of bytes with zeros to a length. -/
def padTo (n : Nat) (bs : List Byte) : List Byte := bs ++ List.replicate (n - bs.length) 0

/-- The record of a strand: its debug block, then its trap and trace registers. -/
def Strand.record (t : Strand) : List Byte :=
  let y := t.sys
  let words : List Word := [y.tvec, y.epc, y.ecause, y.eval, y.evpend.setWidth 64, y.timer, y.spcnt, BitVec.ofNat 64 y.plen,
    y.spstep.setWidth 64, y.trctl, y.trbase, y.trhead]
  padTo 1024 (leBytes 768 (t.debugBlock t.pc) ++ words.flatMap fun w => leBytes 8 w.toNat)

/-- The record of a zone entry. -/
def Zone.record (y : Zone) (core z : Nat) : List Byte :=
  if !y.active then List.replicate 1024 0
  else
    let n := y.slots.length
    let slots := padTo 512 ((List.range n).flatMap fun i => leBytes 8 (y.stat core z i).toNat)
    let leases := padTo 256 ((List.range n).flatMap fun i => leBytes 4 (y.lease - (y.slot i).lease))
    padTo 1024 (leBytes 64 y.raw.toNat ++ padTo 64 [BitVec.ofNat 8 y.zgen] ++ slots ++ leases)

/-- The record of a grid entry: its descriptor, then the declared step, the rules and constants, a byte and 8 bytes for each face, and its CREDIT
shipments in the order in which they were started, as far as the 512 bytes reach, of 8 bytes each: step, destination and region. The spec gives
the order of these parts and not their places (R334, Table 25.8; log 29). -/
def State.gridRecord (s : State) (c no : Nat) (g : Grid) : List Byte :=
  if g.st == .undefined then List.replicate 512 0
  else
    let ships := (s.ships.filter fun h => h.core == c && h.grid == no && h.st == .credit).flatMap fun h =>
      leBytes 8 (h.step.toNat + 2 ^ 32 * (h.dst % 2 ^ 23) + 2 ^ 55 * h.region)
    padTo 512 ((leBytes 128 g.raw.toNat ++ leBytes 8 g.declared.toNat ++ padTo 8 (g.rules.map (BitVec.ofNat 8)) ++
      padTo 64 (g.consts.flatMap fun w => leBytes 8 w.toNat) ++ ships).take 512)

/-- A grid entry with its declared step, rules and constants as the 512 bytes of its record give them. -/
def Grid.restore (g : Grid) (bytes : Nat) : Grid :=
  if g.st == .undefined then g
  else
    { g with declared := BitVec.ofNat 32 (bitsOf bytes 1055 1024),
             rules := g.rules.mapIdx fun i _ => bitsOf bytes (1088 + 8 * i + 7) (1088 + 8 * i),
             consts := g.consts.mapIdx fun i _ => BitVec.ofNat 64 (bitsOf bytes (1152 + 64 * i + 63) (1152 + 64 * i)) }

/-- The entry of a tile. -/
def Tile.entry (t : Tile) : Nat :=
  let live := t.gens.find? (·.live)
  let failed : Bool := t.stampFailed || (match t.newest with | some g => g.st == .failed | none => false)
  (match live with | some g => g.stamp.toNat + g.slot % 4 * 2 ^ 32 | none => 0) + (if failed then 2 ^ 34 else 0)

/-- The tile entries of a core, in ascending order of buffer and tile. -/
def Core.tileRecord (x : Core) : List Byte :=
  let bs := x.bufs.mergeSort fun a b => a.1 ≤ b.1
  padTo 32768 (bs.flatMap fun b => b.2.tiles.flatMap fun t => leBytes 8 t.entry)

/-- The barrier part of a core's record: what each strand remembers, then E, count and phase of the CORE barriers. -/
def State.barRecord (s : State) (c : Nat) : List Byte :=
  let mem (t : Strand) : List Byte := (List.range 96).flatMap fun j =>
    match t.barMemOf (j / 16) (j % 16) with
    | some m => leBytes 8 (m.phase.toNat + 2 ^ 32)
    | none => List.replicate 8 0
  let core := (List.range 16).flatMap fun id =>
    let b := s.bar 0 c id
    leBytes 4 b.expect ++ leBytes 4 b.count ++ leBytes 4 b.phase.toNat ++ List.replicate 4 0
  padTo 4096 ((s.core c).strands.toList.flatMap mem ++ core)

/-- Runs of banks held, in ascending order. -/
def bankRuns (held : BitVec 512) : List (Nat × Nat) :=
  ((maskBits held.toNat 512).foldl (fun (acc : List (Nat × Nat)) b =>
    match acc with
    | (lo, n) :: rest => if lo + n = b then (lo, n + 1) :: rest else (b, 1) :: acc
    | [] => [(b, 1)]) []).reverse

/-- The live set of a parked strand: its .ckpt record, or everything where its CKPT has none (R287). -/
def State.liveSet (s : State) (x : Core) (t : Strand) : CkptRecord :=
  match (s.launchOf t).bind fun l => l.cktab.find? fun r => r.addr == (t.pc - 4).toNat with
  | some r => r
  | none => ⟨(t.pc - 4).toNat, 0xFFFFFFFF, 0xFFFF, [(0, 2 ^ 21)], bankRuns x.held⟩

/-- The parked strands of a core. -/
def Core.parked (x : Core) : List Strand := x.strands.toList.filter fun t => t.state == .parked

/-- The live ranges and the runs of banks of a core, in the order of its record. -/
def State.liveRanges (s : State) (x : Core) : List (Nat × Nat) := x.parked.flatMap fun t => (s.liveSet x t).ranges
def State.liveRuns (s : State) (x : Core) : List (Nat × Nat) := x.parked.flatMap fun t => (s.liveSet x t).runs

/-- The places that the variable part of a core's record holds, in order: key and length. -/
def State.livePlaces (s : State) (c : Nat) (x : Core) : List (Nat × Nat) :=
  (s.liveRanges x).map (fun r => (spBase c + r.1, r.2)) ++ (s.liveRuns x).map fun r => (accBase c + 2048 * r.1, 2048 * r.2)

/-- RECLEN of a core. -/
def State.recLen (s : State) (c : Nat) (x : Core) : Nat := 0x12840 + (s.livePlaces c x).foldl (fun n p => n + p.2) 0

/-- The places of the cores' records: each on the next 64 KiB boundary (R425). -/
def State.recordPlaces (s : State) (xs : List (Nat × Core)) (base : Nat) : List (Nat × Core × Nat) :=
  (xs.foldl (fun (acc : List (Nat × Core × Nat) × Nat) p =>
    (acc.1 ++ [(p.1, p.2, acc.2)], (acc.2 + s.recLen p.1 p.2 + 0xFFFF) / 0x10000 * 0x10000)) ([], base)).1

/-- The fixed part of a core's record. -/
def State.coreRecord (s : State) (c : Nat) (x : Core) : List Byte :=
  let me := s.identity c
  x.strands.toList.flatMap Strand.record ++
  (List.range 256).flatMap (fun n => match x.buf n with | some b => leBytes 64 b.raw.toNat | none => List.replicate 64 0) ++
  (List.range 16).flatMap (fun z => (x.zone z).record me z) ++
  (List.range 4).flatMap (fun g => s.gridRecord c g (x.grid g)) ++
  x.tileRecord ++ s.barRecord c ++
  padTo 64 (leBytes 8 (s.recLen c x) ++ leBytes 8 (s.liveRanges x).length ++ leBytes 8 (s.liveRuns x).length ++ leBytes 8 x.banksHeld)

/-- Bytes of on-chip memory moved to or from a record, with the poison they carry (R474). -/
def State.moveBytes (s : State) (src dst n : Nat) : State :=
  (s.settleOver dst n).putMarked ((List.range n).map fun i => (dst + i, s.byte (src + i), s.poisoned (src + i) 1))

/-- A core's record is written. -/
def State.writeCore (s : State) (r : Nat × Core × Nat) : State :=
  let (c, x, at_) := r
  let s := s.unitWrite at_ (s.coreRecord c x)
  ((s.livePlaces c x).foldl (fun (acc : State × Nat) p => (acc.1.moveBytes p.1 acc.2 p.2, acc.2 + p.2)) (s, at_ + 0x12840)).1

/-- The conditions of the save: every strand PARKED or IDLE with nothing outstanding, every window empty, and no shipment, chunk or post of
the partition in flight (R51, R334, R351, Table 25.6). -/
def State.saveReady (s : State) (p : Partition) : Bool :=
  let calm (t : Strand) : Bool := (t.state == .parked || t.state == .idle) && t.quiet && t.pend.isEmpty && t.deferred.isEmpty
  let mine (ident : Nat) : Bool := match s.coreOfIdentity ident with | some c => p.cores.contains c | none => false
  p.cores.all (fun c => (s.core c).strands.toList.all calm && (s.core c).window.isEmpty) &&
  !(s.ships.any fun h => p.cores.contains h.core && h.st != .credit) && !(s.fills.any fun h => p.cores.contains h.core) &&
  !(s.arrivals.any fun a => match a.src with | some (c, _) => p.cores.contains c | none => false) &&
  !(s.outbox.any fun m => match m with
    | .chunk k => mine (resvCore k.resv)
    | .cprArrival a => mine (resvCore a.resv)
    | .post r _ => mine (handlePkg r.handle * 256 + handleCore r.handle)
    | .shipment d => mine d.core
    | _ => false)

/-- Barriers whose words fall inside a live range of their core (R53). -/
def State.liveInside (s : State) (c : Nat) (x : Core) : List (Nat × Bool) :=
  s.live.filter fun l => (s.liveRanges x).any fun r => spBase c + r.1 ≤ l.1 && l.1 + 32 ≤ spBase c + r.1 + r.2

/-- A core as the save keeps it: its intakes SWAPPED; its vector registers, its report table and what else Table 25.8 does not list are not saved
(R51, R75). -/
def Core.saved (x : Core) : Core :=
  let swap (i : Intake) : Intake := if i.st == .open then { i with st := .swapped } else i
  { x with intakes := x.intakes.map swap, ctxs := Core.reset.ctxs, reports := [], rpfail := 0, rsel := 0, dcache := [], icache := [] }

/-- PARTITION_SAVE (R424, R425): the records are written, intakes become SWAPPED, and the cores leave the partition's use, zeroed. -/
def execPartitionSave (part : Nat) (s : State) : Out :=
  match s.part part with
  | none => .next s
  | some p =>
    if p.st != .active || p.preempt.isNone || s.debugHolds part || !s.saveReady p then .next s
    else
      let xs := p.cores.map fun c => (c, (s.core c).saved)
      let ships := s.ships.filter fun h => p.cores.contains h.core
      let bars := s.bars.filter fun b => b.scope == 0 && p.cores.contains b.inst
      let lives := xs.flatMap fun y => s.liveInside y.1 y.2
      let s := (s.recordPlaces xs (p.savearea + 0x10000)).foldl State.writeCore s
      let s := s.saveHeader p 2 0
      let s := p.cores.foldl State.resetCore s
      .next (s.modPart part fun p =>
        { p with st := .saved, preempt := none, haltReq := [], saved := xs, savedShips := ships, savedBars := bars, savedLive := lives })

/-! ## Resume (R53, R426) -/

/-- A strand as its record gives it: a parked one returns to RUN with its live registers, all others zero or cleared. -/
def Strand.restore (t : Strand) (live : CkptRecord) (bytes : Nat) : Strand :=
  if t.state != .parked then t
  else
    let w (i : Nat) : Nat := bitsOf bytes (6144 + 64 * i + 63) (6144 + 64 * i)
    let t := t.reload bytes
    let y := t.sys
    { t with
      state := .run, reason := 0, obj := 0, waited := 0,
      regs := Vector.ofFn fun i => if live.slive.getLsbD i.val then t.regs[i] else 0,
      rgn := Vector.ofFn fun i => if live.qlive.getLsbD i.val then t.rgn[i] else 0,
      sys := { y with tvec := BitVec.ofNat 64 (w 0), epc := BitVec.ofNat 64 (w 1), ecause := BitVec.ofNat 64 (w 2) &&& ecauseMask,
                      eval := BitVec.ofNat 64 (w 3), evpend := BitVec.ofNat 16 (w 4), timer := BitVec.ofNat 64 (w 5),
                      spcnt := BitVec.ofNat 64 (w 6), plen := satPl (w 7), spstep := BitVec.ofNat 32 (w 8),
                      trctl := BitVec.ofNat 64 (w 9) &&& trctlMask, trbase := BitVec.ofNat 64 (w 10), trhead := BitVec.ofNat 64 (w 11) } }

/-- A core is restored from its record: strands, live ranges and banks from its bytes, the grid entries' declared steps, rules
and constants too, its other tables as the save left them (log 29). -/
def State.restoreCore (s : State) (r : Nat × Core × Nat) : State :=
  let (c, x, at_) := r
  let s := ((s.livePlaces c x).foldl (fun (acc : State × Nat) p => (acc.1.moveBytes acc.2 p.1 p.2, acc.2 + p.2)) (s, at_ + 0x12840)).1
  let back (i : Intake) : Intake := if i.st == .swapped then { i with st := .open } else i
  let strands : Vector Strand 4 := x.strands.mapFinIdx fun k t _ => t.restore (s.liveSet x t) (s.readNat (at_ + 1024 * k) 864)
  let grids : Vector Grid 4 := x.grids.mapFinIdx fun g y _ => y.restore (s.readNat (at_ + 0x9000 + 512 * g) 512)
  s.setCore c { x with strands := strands, grids := grids, intakes := x.intakes.map back, zeroed := false }

/-- PARTITION_RESUME: on the same cores, free again and zeroed; all strands return to RUN in one step (R53, R426). -/
def execPartitionResume (part : Nat) (s : State) : Out :=
  match s.part part with
  | none => .next s
  | some p =>
    if p.st != .saved || !(p.cores.all fun c => (s.core c).partno == 0 && (s.core c).zeroed) then .next s
    else
      let s := (s.recordPlaces p.saved (p.savearea + 0x10000)).foldl State.restoreCore s
      let s := p.savedBars.foldl State.setBar { s with live := s.live ++ p.savedLive, ships := s.ships ++ p.savedShips }
      let s := s.saveHeader p 0 0
      .next (s.modPart part fun p => { p with st := .active, preempt := none, saved := [], savedShips := [], savedBars := [], savedLive := [] })

/-! ## Creation and release (R441 to R443) -/

/-- Whether a core may be taken by a partition: a compute core in no partition, zeroed since its last owner (R441, R443). -/
def State.coreFree (s : State) (c : Nat) : Bool := c < 256 && (s.core c).partno == 0 && (s.core c).zeroed

/-- Whether a request can be met in every step of R441. -/
def State.canCreate (s : State) (r : PartRequest) : Bool :=
  1 ≤ r.partno && r.partno < 65536 && (s.part r.partno).isNone && r.cores.all s.coreFree && ascending r.cores &&
  r.breakpoints.all (·.1 < 16) && 1 ≤ r.keyslot && r.keyslot < 1024 && !(s.marten.keys.any fun k => k.1 == r.keyslot) &&
  r.intakes.all (fun i => r.cores.contains i.1 && i.2 < 4) &&
  r.queues.all (fun q => q.1 < 1024 && (s.queue q.1).isNone && 6 ≤ q.2.log2sz && q.2.log2sz ≤ 16 && q.2.ring % 4096 == 0) &&
  r.conns.all (fun c => c.1 < 256 && (s.conn c.1).isNone) && r.endpoints.all (fun e => e.1 < 256) && r.remap.all (fun e => e.1 < 4096)

/-- The retransmission time of a connection when the partition manager sets no other, in microseconds (R399). -/
def defaultRto : Nat := 20

/-- A connection as it opens (R397, R399). -/
def Conn.opened (ip port partno rto : Nat) : Conn := ⟨.open, ip, port, partno, 0, 0, [], [], 0, none, rto, none⟩

/-- The record of a partition that a request makes (Table 26.5). -/
def PartRequest.toRecord (r : PartRequest) : Partition :=
  { no := r.partno, st := .active, cores := r.cores, keyslot := r.keyslot, s2root := r.s2root, savearea := r.savearea,
    plimit := r.plimit, packages := r.packages, others := r.others, tpool := r.tpool, cmap := r.cmap, barids := r.barids, preempt := none, preemptHeld := false,
    breakpoints := r.breakpoints, haltReq := [], groupCores := r.groupCores, systemCores := r.systemCores, intakes := r.intakes,
    saved := [], savedShips := [], savedBars := [], savedLive := [] }

/-- The 16 bytes of a valid remap entry (R411). -/
def remapWord (r : Remap) : Nat :=
  r.eq % 2 ^ 16 + 2 ^ 64 * (r.conn % 2 ^ 8) + 2 ^ 80 * (r.vec % 2 ^ 16) + 2 ^ 96 * (r.space % 2 ^ 20) + 2 ^ 127

/-- The partition manager writes remap entry no. -/
def State.putRemap (s : State) (no word : Nat) : State := s.unitNat (s.marten.values.remapTable + 16 * no) 16 word

/-- Endpoints and remap entries that the partition manager writes (R401, R411). -/
def State.writeTables (s : State) (r : PartRequest) : State :=
  let eps := r.endpoints.map fun e => (e.1, (⟨true, e.2.1, e.2.2.1, e.2.2.2, r.partno, true⟩ : Endpoint))
  let rms := r.remap.map fun e => (⟨e.1, e.2.1, e.2.2.1, e.2.2.2.1, e.2.2.2.2⟩ : Remap)
  rms.foldl (fun s m => s.putRemap m.no (remapWord m))
    { s with endpoints := s.endpoints.filter (fun e => !eps.any fun n => n.1 == e.1) ++ eps,
             remap := s.remap.filter (fun e => !rms.any fun n => n.no == e.no) ++ rms }

/-- PARTITION_CREATE: the steps of R441, from step 8 of the boot; a request that cannot be met leaves no partition. -/
def execPartitionCreate (req : PartRequest) (s : State) : Out :=
  if s.marten.bootStep < 8 ∨ !s.canCreate req then .next s
  else
    let p := PartRequest.toRecord req
    let s := { s with parts := s.parts ++ [p], marten := { s.marten with keys := s.marten.keys ++ [(req.keyslot, Config.random s.tick)] } }
    let s := req.cores.foldl (fun s c => s.modCore c fun x => { x with partno := req.partno, zeroed := false }) s
    let s := s.unitNat req.cmap 32 (req.cores.foldl (fun n c => n + 2 ^ c) 0)
    let s := (s.configureBars p).openIntakes p
    let s := req.queues.foldl (fun s q =>
      let e := { q.2 with state := 1, partno := req.partno }
      ({ s.clearRing e with queues := s.queues ++ [⟨q.1, e, 0, 0⟩] } : State).putQueueEntry q.1 e) s
    let conns := req.conns.map fun c => (c.1, Conn.opened c.2.1 c.2.2 req.partno (((req.rtos.find? (·.1 == c.1)).map (·.2)).getD defaultRto))
    .next ({ s with conns := s.conns ++ conns }.writeTables req)

/-- The leaves of a partition's stage-2 tables, as physical ranges: what it holds of device memory. -/
def State.granules (s : State) (p : Partition) : List (Nat × Nat) :=
  (List.range 64).flatMap fun i =>
    let e1 := s.tableEntry (p.s2root + 8 * i)
    if !s2Valid e1 || s2Leaf e1 then []
    else (List.range 8192).flatMap fun j =>
      let e2 := s.tableEntry (s2Out e1 + 8 * j)
      if !s2Valid e2 then []
      else if s2Leaf e2 then (if bitsOf e2 25 13 ≠ 0 then [] else [(s2Out e2, 2 ^ 29)])
      else (List.range 8192).filterMap fun k =>
        let e3 := s.tableEntry (s2Out e2 + 8 * k)
        if s2Valid e3 && s2Leaf e3 then some (s2Out e3, 65536) else none

/-- Bytes left under a destroyed key: under any later one they read as unrelated bits (R440, R442). -/
def State.scramble (s : State) (g : Nat × Nat) : State :=
  { s with mem := (List.range g.2).foldl (fun m i => Memory.set m (g.1 + i) (Config.raceByte s.tick (g.1 + i))) s.mem }

/-- The spaces of a partition. -/
def State.spacesOf (s : State) (no : Nat) : List Nat :=
  (List.range s.marten.values.nspaces).filter fun sp => match s.spaceEntry sp with | some (p, _) => p == no | none => false

/-- Step 2 of R442: connections, queues, spaces, remap entries and endpoints of a partition go, and it is invalidated. -/
def State.closeAll (s : State) (no : Nat) : State :=
  let sps := s.spacesOf no
  let s := (s.queuesOf no).foldl (fun s q => s.unitNat (s.queueEntryKey q.no) 64 0) s
  let s := (s.remap.filter fun r => sps.contains r.space).foldl (fun s r => s.putRemap r.no 0) s
  let s := { s with conns := s.conns.filter (·.2.partno != no), queues := s.queues.filter (·.entry.partno != no),
                    remap := s.remap.filter fun r => !sps.contains r.space, endpoints := s.endpoints.filter (·.2.partno != no),
                    moved := s.moved.filter (·.partno != no), moving := s.moving.filter fun m => !sps.contains m.space, tlb := s.tlb.filter (·.partno != no), faults := s.faults.filter (·.partno != no) }
  sps.foldl (fun s sp =>
    let k := s.marten.values.spaceTable + 16 * sp
    s.unitNat k 16 (putBits (s.readNat k 16) 80 80 0)) s

/-- A SAVED partition's save area is discarded, and its items in flight are reported as in a stop (R442). -/
def State.dropSaved (s : State) (p : Partition) : State :=
  (p.saved.foldl (fun s y => s.stopPosts y.2) s).stopPackets p.no

/-- PARTITION_RELEASE: the steps of R442. -/
def execPartitionRelease (part : Nat) (s : State) : Out :=
  match s.part part with
  | none => .next s
  | some p =>
    if part = 0 then .next s else
    let s := if p.st == .active then s.stopPartition p else s.dropSaved p
    let gs := s.granules p
    let s := s.closeAll part
    let s := { s with marten := { s.marten with keys := s.marten.keys.filter (·.1 != p.keyslot) } }
    let s := gs.foldl State.scramble s
    let free (x : Core) : Core := if x.partno = part then { x with partno := 0, intakes := x.intakes.map fun i => ⟨.closed, i.gen, []⟩ } else x
    .next { s with cores := s.cores.map free, parts := s.parts.filter (·.no != part) }

end Sys2Proof.Machine
end

