-- ==== Sys2Proof/Machine/Boot.lean ====
section
/-!
DEFINITION. The boot sequence, the cabling plan, and attestation (R432 to R438, R461, R462, R464).
-/
namespace Sys2Proof.Machine

/-! ## Firmware images (R433, Table 26.2) -/

/-- The bytes of a header. -/
def FwImage.bytes (f : FwImage) : List Byte := leBytes 256 f.hdr.toNat

/-- DIGEST of an image, as 64 bytes. -/
def FwImage.digest (f : FwImage) : List Byte := (FwImage.bytes f).drop 96 |>.take 64

/-- SVN of an image. -/
def FwImage.svn (f : FwImage) : Nat := bitsOf f.hdr.toNat 63 32

/-- Whether Marten or the boot ROM accepts an image as one of a type (R433). -/
def BootInput.accepts (b : BootInput) (ty : Nat) (f : FwImage) : Bool :=
  let h := f.hdr.toNat
  let bs := FwImage.bytes f
  let key := bs.drop 160 |>.take 32
  bitsOf h 23 0 == 0x57465A && bitsOf h 31 24 == ty && bitsOf h 767 128 == 0 &&
  bitsOf h 127 64 == f.body.length && 1 ≤ f.body.length && f.body.length ≤ 2 ^ 28 &&
  (b.rootHashes.any fun r => !r.2 && leBytes 64 r.1.toNat == sha512 key) &&
  sha512 f.body == FwImage.digest f &&
  edVerify key (bs.take 192) (bs.drop 192) &&
  b.minSvn.getD (ty - 1) 0 ≤ FwImage.svn f

/-- Whether the values of a configuration block lie in their ranges (Table 26.4). -/
def BootValues.inRange (v : BootValues) : Bool :=
  v.notifyPages.length == 16 && v.faultRings.length == 4 && 1 ≤ v.nspaces && v.nspaces ≤ 2 ^ 20 && v.pkg < 2 ^ 15 &&
  1 ≤ v.ngroups && v.ngroups ≤ 1024

/-! ## The links at boot (R461, R464) -/

/-- The state in which training at a width leaves link n (R464). -/
def trainedState (n width : Nat) : LinkState :=
  if n < 31 then (if width = 4 then .up else if 2 ≤ width ∧ width < 4 then .degraded else .down)
  else if width = 64 then .up else if 56 ≤ width ∧ width < 64 then .degraded else .down

/-- Link n as step 6 leaves it. -/
def bootLink (v : BootValues) (b : BootInput) (n : Nat) : Link :=
  match b.linkPeers.getD n none with
  | none => Link.reset
  | some far =>
    if n = 31 ∨ 96 ≤ n then Link.reset
    else
      let w := b.linkWidths.getD n 0
      let st := if planOf v.ngroups v.pkg n = some far then trainedState n w else .disabled
      { Link.reset with st := st, kind := if n < 31 then 1 else 2, width := w, peer := far.1, peerLink := far.2,
                        downs := if st = .down then 1 else 0 }

/-! ## The boot sequence (R432, Table 26.1) -/

/-- M0 to M3 with one of them extended by a digest (R434). -/
def extend (m : List (List Byte)) (i : Nat) (d : List Byte) : List (List Byte) := m.modify i fun x => sha512 (x ++ d)

/-- A service core as step 5 starts it: strand 0 in SUPER mode, at an entry that the spec does not name (log 12). -/
def State.startService (s : State) (c : Nat) : State :=
  s.modStrand c 0 fun t => { t with state := .run, pc := Config.unstated s.tick &&& ~~~3#64, sys := { t.sys with super := true } }

/-- The record of partition 0 (R438). -/
def partitionZero : Partition :=
  { no := 0, st := .active, cores := [], keyslot := 0, s2root := 0, savearea := 0, plimit := 210000, packages := [], others := [], tpool := [],
    cmap := 0, barids := 0, preempt := none, preemptHeld := false, breakpoints := [], haltReq := [], groupCores := 0,
    systemCores := 0, intakes := [], saved := [], savedShips := [], savedBars := [], savedLive := [] }

/-- Steps 6 to 8. -/
def State.bootPort (s : State) (b : BootInput) : State :=
  let s := { s with links := (List.range 96).map (bootLink b.values b) }
  if b.cabledPkg = b.values.pkg then { s with marten := { s.marten with bootStep := 8 } } else s

/-- Step 5. -/
def State.bootCores (s : State) (b : BootInput) : State :=
  let s := { s with parts := [partitionZero], marten := { s.marten with keys := [(0, Config.random s.tick)], bootStep := 5 } }
  ([256, 257, 258, 259].foldl State.startService s).bootPort b

/-- Step 4. -/
def State.bootImages (s : State) (b : BootInput) : State :=
  if !(BootInput.accepts b 2 b.service && BootInput.accepts b 3 b.phy) then s
  else
    let m := extend (extend s.marten.m 1 (FwImage.digest b.service)) 2 (FwImage.digest b.phy)
    let attSeed := (sha512 (b.uds ++ [0x02] ++ (m.take 3).flatten)).take 32
    let key := edPublic attSeed
    ({ s with marten := { s.marten with
        m := m, attSeed := attSeed, attKey := key, endorsement := edSign s.marten.idSeed (key ++ (m.take 3).flatten),
        svn := ((s.marten.svn.set 1 (FwImage.svn b.service)).set 2 (FwImage.svn b.phy)), bootStep := 4 } } : State).bootCores b

/-- The bits of a byte of device memory that no field of the part's own tables with a reset value of 0 holds: event ports, stop words, space,
queue and remap tables, link records, and DISP and the reserved bits of fault records (R5, Tables 24.2, 24.9, 25.2, 27.1, 28.1 and 29.4). -/
def BootValues.keeps (v : BootValues) (k : Nat) : Byte :=
  let inside (base n : Nat) : Bool := base ≤ k && k < base + n
  let rec_ := (v.faultRings.find? fun r => inside r 16384).map fun r => (k - r) % 64
  if inside v.spaceTable (16 * v.nspaces) || inside v.queueTable 65536 || inside v.remapTable 65536 || inside v.linkRecords 6144 ||
      v.faultRings.any (fun r => inside (r + 16384) 64 || inside (r + 16512) 8) then 0
  else match rec_ with
    | none => 0xFF
    | some o => if 56 ≤ o ∨ (1 ≤ o ∧ o < 19) then 0 else if o = 19 then 0xFE else 0xFF

/-- Those fields take their reset value, once the configuration has placed the tables (R5). -/
def State.clearTables (s : State) (v : BootValues) : State :=
  { s with mem := (s.mem.map fun c => (c.1, c.2 &&& BootValues.keeps v c.1)).filter fun c => c.2 != 0 }

/-- Step 3. -/
def State.bootConfig (s : State) (b : BootInput) : State :=
  let s := { s with marten := { s.marten with idSeed := (sha512 (b.uds ++ [0x01])).take 32 } }
  if !(b.configOk && BootValues.inRange b.values) then s
  else
    let s := { s.clearTables b.values with marten := { s.marten with
      m := extend s.marten.m 3 (sha512 b.config), svn := s.marten.svn.set 3 b.configSvn, values := b.values } }
    if b.memoryOk then ({ s with marten := { s.marten with bootStep := 3 } } : State).bootImages b else s

/-- Steps 1 and 2. -/
def State.bootRom (s : State) (b : BootInput) : State :=
  let go (f : FwImage) : State :=
    ({ s with marten := { s.marten with
        m := extend s.marten.m 0 (FwImage.digest f), svn := s.marten.svn.set 0 (FwImage.svn f), bootStep := 2 } } : State).bootConfig b
  if BootInput.accepts b 1 b.copyA then go b.copyA
  else if BootInput.accepts b 1 b.copyB then go b.copyB
  else { s with marten := { s.marten with bootStep := 1 } }

/-- What device memory holds after a package reset: bytes written under keys that are gone (R440). -/
def State.memoryAfterReset (s : State) : List Host.Cell :=
  (s.mem.filter fun c => isDevice c.1).foldl (fun m c => Memory.set m c.1 (Config.raceByte s.tick c.1)) []

/-- PACKAGE_RESET: everything takes its reset value, and the boot runs to its end or to the step that fails (R432). -/
def execPackageReset (boot : BootInput) (s : State) : Out :=
  .next ({ State.reset with mem := s.memoryAfterReset, tick := s.tick }.bootRom boot)

/-! ## Attestation (R436, Table 26.3) -/

/-- ATTESTATION_REQUEST: the report, once step 7 has brought up the port. -/
def execAttestationRequest (nonce : BitVec 256) (s : State) : Out :=
  let y := s.marten
  if y.bootStep < 7 then .next s
  else
    let body := leBytes 32 nonce.toNat ++ y.svn.flatMap (leBytes 4) ++ leBytes 8 (y.values.pkg % 2 ^ 15) ++ leBytes 8 (y.count + 1) ++
      y.m.flatten ++ y.attKey ++ y.endorsement
    .next { s with outbox := s.outbox ++ [.management (body ++ edSign y.attSeed body)],
                   marten := { y with count := (y.count + 1) % 2 ^ 64 } }

end Sys2Proof.Machine
end

