-- ==== Sys2Proof/Machine/Define.lean ====
section
/-!
DEFINITION. Buffer definitions, region registers, and the posting of the task forms (R54 to R57, R86, R89, R213 to R219).
-/
namespace Sys2Proof.Machine

/-! ## Buffer definitions (R213 to R215) -/

/-- The element size of an ESIZE code, in half bytes. -/
def esizeOf (code : Nat) : Nat := if code = 0 then 1 else 2 ^ code

/-- The entry that a descriptor gives (R214), with its tiles still to come. -/
def bufOf (raw : Nat) : Buf :=
  let rank := bitsOf raw 402 400
  let vers := bitsOf raw 410 408
  let policy := bitsOf raw 412 411
  let dims := List.range (min rank 4)
  { base := bitsOf raw 63 0, rank := rank, esize4 := esizeOf (bitsOf raw 405 403),
    ext := dims.map fun d => raw / 2 ^ (64 + 16 * d) % 2 ^ 16,
    stride := dims.map fun d => if d = 0 then 0 else raw / 2 ^ (128 + 40 * (d - 1)) % 2 ^ 40,
    layout := bitsOf raw 407 406,
    tile := if vers = 0 ∧ policy = 0 then [] else dims.map fun d => raw / 2 ^ (256 + 16 * d) % 2 ^ 16,
    versions := vers, vstride := if vers = 0 then 0 else bitsOf raw 367 320, policy := policy,
    stale := if policy = 2 then bitsOf raw 399 368 else 0, aliasGroup := bitsOf raw 255 248, grid := none, tiles := [],
    raw := BitVec.ofNat 512 raw }

/-- The 512 KiB bank group that an address of a scratchpad window lies in (R84). -/
def groupNo (va : Nat) : Nat := va / 2 ^ 19

/-- Whether an entry's fields lie within Table 3.1, with the conditions of R86 and R89. -/
def Buf.fieldsOk (b : Buf) (esize : Nat) : Bool :=
  let unit := max 1 (b.esize4 / 2)
  1 ≤ b.rank && b.rank ≤ 4 && esize ≤ 4 && b.layout != 3 && b.policy != 3 && b.versions ≤ 4 && b.base % 64 == 0 &&
  (inPaged b.base || inOwn b.base || inMember b.base || inAccNames b.base) &&
  b.ext.all (1 ≤ ·) && (b.stride.drop 1).all (fun x => x != 0 && x % unit == 0) &&
  (!b.hasTiles || b.tile.all (1 ≤ ·)) && (b.policy != 2 || b.stale != 0) &&
  (!b.renamed || (b.vstride % 64 == 0 && b.span ≤ b.vstride && b.aliasGroup == 0)) &&
  (b.layout == 0 ||
    ((inOwn b.base || inMember b.base) && groupNo b.base == groupNo (b.base + b.span - 1))) &&
  (!inAccNames b.base ||
    (b.layout == 0 && b.versions == 0 && b.policy == 0 && b.aliasGroup == 0 && b.base + b.span ≤ accNames + 0x100000))

/-- Whether a core can take an entry: its tile entries fit, and its alias group shares its layout (R56). -/
def Core.bufFits (x : Core) (b : Buf) : Bool :=
  (!b.hasTiles || x.tileEntries + b.tileCount ≤ 4096) &&
  (b.aliasGroup == 0 || x.bufs.all fun p => p.2.aliasGroup != b.aliasGroup || p.2.layout == b.layout)

/-- The core with entry n defined anew: slot 0 of each tile is its only valid generation, with stamp 0 (R56). -/
def Core.define (x : Core) (n : Nat) (b : Buf) : Core :=
  let tile : Tile := ⟨[⟨x.nextGen, 0, .valid, none, [], 0, true⟩], false, none⟩
  let b := { b with tiles := if b.hasTiles then List.replicate b.tileCount tile else [] }
  { x.setBuf n b with nextGen := x.nextGen + 1 }

/-- Whether a grid entry names buffer n (R321). -/
def Core.gridNames (x : Core) (n : Nat) : Bool := match x.buf n with | some b => b.grid.isSome | none => false

/-- BUF.DEF (R215): the old definition goes first; a refused descriptor leaves the entry undefined. -/
def execBufDef (d a b : Reg) (s : State) : Out :=
  let n := (s.reg a).toNat
  s.readDescriptor (s.reg b) 64 fun raw s =>
    if s.here.gridNames n then .next (s.dropDefining.result d minusOne 4)
    else s.whenUnnamed [n] fun s =>
      let x := s.here.dropBuf n
      let e := bufOf raw
      if 255 < n ∨ bitsOf raw 511 413 ≠ 0 ∨ !e.fieldsOk (bitsOf raw 405 403) ∨ !x.bufFits e then
        .next ((s.setCore s.myCore x).result d minusOne 4)
      else .next ((s.setCore s.myCore (x.define n e)).result d 0 4)

/-- BUF.UNDEF (R215). -/
def execBufUndef (d a : Reg) (s : State) : Out :=
  let n := (s.reg a).toNat
  if 255 < n ∨ (s.here.buf n).isNone ∨ s.here.gridNames n then .next (s.dropDefining.result d minusOne 4)
  else s.whenUnnamed [n] fun s => .next ((s.modCore s.myCore fun x => x.dropBuf n).result d 0 4)

/-! ## Region registers (R216, Table 10.2) -/

/-- A region instruction writes its register in the cycle it issues (R217). -/
def State.setRegion (s : State) (q : QReg) (f : Nat → Nat) : Out :=
  .next ((s.modMe fun t => t.setRgn q (BitVec.ofNat 192 (f (t.rgnAt q).toNat))).finish 4)

/-- RGN.B: BUF, MODE, E and STEP. -/
def execRgnB (q : QReg) (a b : Reg) (s : State) : Out :=
  s.setRegion q fun x => putBits (putBits x 170 160 (s.reg a).toNat) 159 128 (s.reg b).toNat

/-- RGN.O: the four offsets. -/
def execRgnO (q : QReg) (a : Reg) (s : State) : Out := s.setRegion q fun x => putBits x 63 0 (s.reg a).toNat

/-- RGN.E: the four extents. -/
def execRgnE (q : QReg) (a : Reg) (s : State) : Out := s.setRegion q fun x => putBits x 127 64 (s.reg a).toNat

/-- RGN.CLR: all 192 bits. -/
def execRgnClr (q : QReg) (s : State) : Out := s.setRegion q fun _ => 0

/-! ## Task forms (R218, R219) -/

/-- MM (R222). -/
def execMm (h : TaskHead) (fa fb : BitVec 4) (s : State) : Out := s.post h (.mm fa.toNat fb.toNat) none

/-- MMD (R225); CLR = 0 is no clamp. -/
def execMmd (h : TaskHead) (f : DrainFields) (s : State) : Out := s.post h (.mmd f (s.reg f.clr)) none

/-- MMZ (R226). -/
def execMmz (h : TaskHead) (s : State) : Out := s.post h .mmz none

/-- XP (R227). -/
def execXp (h : TaskHead) (s : State) : Out := s.post h .xp none

/-- ROW (R228). -/
def execRow (h : TaskHead) (f : RowFields) (s : State) : Out := s.post h (.row f (s.reg f.preg)) none

/-- VRUN (R231). -/
def execVrun (h : TaskHead) (ent arg : Reg) (s : State) : Out := s.post h (.vrun (s.reg ent) (s.reg arg)) none

/-- The barrier address of a copy: BAR = s0 names none (R232). -/
def State.barArg (s : State) (bar : Reg) : Option Word := if bar = 0 then none else some (s.reg bar)

/-- CP (R232). -/
def execCp (h : TaskHead) (map bar : Reg) (s : State) : Out := s.post h (.cp (s.reg map) (s.barArg bar)) none

/-- CP.W (R232). -/
def execCpW (h : TaskHead) (map bar : Reg) (s : State) : Out := s.post h (.cpW (s.reg map) (s.barArg bar)) none

/-- CP.G (R232). -/
def execCpG (h : TaskHead) (map bar : Reg) (s : State) : Out := s.post h (.cpG (s.reg map) (s.barArg bar)) none

/-- CP.S (R232). -/
def execCpS (h : TaskHead) (map bar : Reg) (s : State) : Out := s.post h (.cpS (s.reg map) (s.barArg bar)) none

/-- CP.F (R232). -/
def execCpF (h : TaskHead) (map bar : Reg) (s : State) : Out := s.post h (.cpF (s.reg map) (s.barArg bar)) none

/-- CP.R (R240). -/
def execCpR (h : TaskHead) (map res : Reg) (s : State) : Out := s.post h (.cpR (s.reg map) (s.reg res)) none

/-- TASK.RPOST (R243): TGR = 0 is untagged. -/
def execTaskRpost (h : TaskHead) (hreg dreg tgr : Reg) (s : State) : Out :=
  s.post h (.rpost (s.reg hreg) (s.reg dreg) (if tgr = 0 then none else some (s.reg tgr)) h.rcnt.toNat h.wcnt.toNat) none

/-- TASK.RSTAT (R244): it fails at posting with ESTALE when no entry of the report table holds its tag, and else waits for the report of the
task that reserved the entry. -/
def execTaskRstat (h : TaskHead) (tgr : Reg) (s : State) : Out :=
  let tag := (s.reg tgr).setWidth 16
  s.post h (.rstat tag) (if s.here.reports.any (fun r => r.tag == tag) then none else some Cause.estale)

end Sys2Proof.Machine
end

