-- ==== Sys2Proof/Machine/Fabric.lean ====
section
/-!
DEFINITION. Links, failures and link records (R43, R127, R350, R463 to R472).
-/
namespace Sys2Proof.Machine

/-! ## Links -/

/-- Link n of this package; link 31 and numbers above 95 are ABSENT (R462). -/
def State.linkAt (s : State) (n : Nat) : Link := s.links.getD n Link.reset

/-- The state with a link changed. -/
def State.modLink (s : State) (n : Nat) (f : Link → Link) : State := { s with links := s.links.modify n f }

/-- Whether a link carries flits. -/
def Link.carries (x : Link) : Bool := x.st == .up || x.st == .degraded

/-- A counter that saturates at n bits. -/
def satTo (n v : Nat) : Nat := min v (2 ^ n - 1)

/-! ## What a failed link takes with it (R43, R127, R350, R469) -/

/-- Whether a route crosses a link, named by either end. -/
def State.crosses (s : State) (route : List (Nat × Nat)) (e : Nat × Nat) : Bool :=
  route.any fun h => h == e || s.farEnd h == e

/-- Slots of a core in RESERVED or LANDING whose request or last chunk crossed a link fail (R350). -/
def State.failRouted (s : State) (c : Nat) (e : Nat × Nat) : State :=
  (List.range 16).foldl (fun s z =>
    (List.range ((s.core c).zone z).slots.length).foldl (fun s i =>
      if s.crosses (((s.core c).zone z).slot i).route e then s.failSlot c z i Cause.linkFailed else s) s) s

/-- The streams of a strand after the failure of a link: those to packages that can no longer be reached are lost, and a flush marker of the others
is sent again by the release that waits (R125, R127). -/
def State.loseStreams (s : State) (t : Strand) : Strand :=
  { t with streams := t.streams.map fun x =>
      if x.sent = x.acked then x else if s.reachable x.pkg then { x with marked := x.acked } else { x with lost := true } }

/-- The stores of a core's strands that are not acknowledged, with their sequence numbers, for the packages that can be reached (R127). -/
def State.storesAgain (s : State) (c : Nat) : List OutMsg :=
  (List.range 4).flatMap fun k =>
    let t := s.strand c k
    (t.streams.filter fun x => x.sent != x.acked && s.reachable x.pkg).flatMap fun x =>
      (t.stores.filter fun b => b.inStream x.pkg x.acked x.sent).filterMap fun b =>
        match b.dest, b.acc.op with
        | some (.peer p i), .store v fl => some (.streamStore c k p i b.acc.size v b.streamSeq fl)
        | _, _ => none

/-- The GRP and SYS barriers of a partition of which a package in the instance has no path are released by failure (R43, R470). -/
def State.failNetBars (s : State) : State :=
  let cut (b : Bar) : Bool := s.parts.any fun p =>
    p.holdsId b.scope b.id && p.packages.any fun q => (b.scope == 5 || q / 32 == b.inst) && !s.reachable q
  let fail (b : Bar) : Bar := if 4 ≤ b.scope && b.failed.isNone && cut b then { b with failed := some Cause.linkFailed } else b
  { s with bars := s.bars.map fail }

/-- This package learns that a link, named by an end, is out of use by failure. -/
def State.linkFails (s : State) (e : Nat × Nat) : State :=
  let s := if e.1 = s.marten.values.pkg ∨ s.news.contains e then s else { s with news := s.news ++ [e] }
  let s := (List.range 256).foldl (fun s c =>
    (s.failTasks c Cause.linkFailed fun t => s.crosses t.route e).failRouted c e) s
  let lose (x : Core) : Core := { x with strands := x.strands.map s.loseStreams }
  let again := (List.range 260).flatMap s.storesAgain
  ({ s with cores := s.cores.map lose, outbox := s.outbox ++ again } : State).failNetBars

/-- A link that carries flits goes DOWN: packets in flight on it are lost, and both ends stop using it (R464, R469). -/
def State.goDown (s : State) (n : Nat) : State :=
  let lost := Config.traffic s.tick (16 * n + 1)
  let s := s.modLink n fun x =>
    { x with st := .down, width := 0, downs := satTo 16 (x.downs + 1), drop := (x.drop + lost) % 2 ^ 64, disabling := false, inRow := 0 }
  s.linkFails (s.marten.values.pkg, n)

/-! ## Link events (R463, R464, R471) -/

/-- FLIT_CRC_ERROR: a flit is replayed with the later ones of its buffer; the sixteenth replay of one flit in a row takes the link down.
Whether it is the flit replayed last, and how many follow it, is free. -/
def execFlitCrcError (link : Nat) (s : State) : Out :=
  let x := s.linkAt link
  if !x.carries then .next s
  else
    let row := if Config.traffic s.tick (16 * link + 2) % 2 = 0 then 1 else x.inRow + 1
    let more := Config.traffic s.tick (16 * link + 3)
    let s := s.modLink link fun x =>
      { x with crcErr := satTo 32 (x.crcErr + 1), replay := satTo 32 (x.replay + 1 + more), inRow := row }
    .next (if 16 ≤ row then s.goDown link else s)

/-- LINK_DOWN: a case of R464. -/
def execLinkDown (link : Nat) (s : State) : Out := .next (if (s.linkAt link).carries then s.goDown link else s)

/-- LINK_WIDTH_CHANGE: between full and reduced width; below the least width the link keeps its state until LINK_DOWN. -/
def execLinkWidthChange (link width : Nat) (s : State) : Out :=
  if !(s.linkAt link).carries then .next s
  else .next (s.modLink link fun x =>
    { x with width := width, st := match trainedState link width with | .up => .up | .degraded => .degraded | _ => x.st })

/-- LINK_RETRAIN: a DOWN link is trained again. -/
def execLinkRetrain (link : Nat) (s : State) : Out :=
  if (s.linkAt link).st != .down then .next s else .next (s.modLink link fun x => { x with st := .training })

/-- LINK_TRAINING_DONE: the link returns at full or reduced width, or goes DOWN. -/
def execLinkTrainingDone (link width : Nat) (s : State) : Out :=
  if (s.linkAt link).st != .training then .next s
  else
    let st := trainedState link width
    let s := s.modLink link fun x =>
      { x with st := st, width := if st = .down then 0 else width, inRow := 0, downs := if st = .down then satTo 16 (x.downs + 1) else x.downs }
    let ends := [(s.marten.values.pkg, link), s.farEnd (s.marten.values.pkg, link)]
    .next (if st = .down then s else { s with news := s.news.filter fun e => !ends.contains e })

/-- LINK_FAILURE_NEWS: the failure of a link of another package becomes known here (R469). -/
def execLinkFailureNews (pkg link : Nat) (s : State) : Out :=
  if pkg = s.marten.values.pkg then .next s else .next (s.linkFails (pkg, link))

/-- LINK_DISABLE: a link that carries flits takes no new packet. -/
def execLinkDisable (link : Nat) (s : State) : Out :=
  if !(s.linkAt link).carries then .next s else .next (s.modLink link fun x => { x with disabling := true })

/-- Whether a CP.R that has bound a route over a link of this package is still under way. -/
def State.boundTo (s : State) (link : Nat) : Bool :=
  s.cores.toList.any fun x => x.window.any fun t => t.route.contains (s.marten.values.pkg, link)

/-- LINK_DISABLE_DRAINED: what was bound to the link has crossed it, and it is DISABLED. -/
def execLinkDisableDrained (link : Nat) (s : State) : Out :=
  if !(s.linkAt link).disabling || s.boundTo link then .next s
  else .next (s.modLink link fun x => { x with st := .disabled, disabling := false, inRow := 0 })

/-- LINK_ENABLE: a DISABLED link is trained. -/
def execLinkEnable (link : Nat) (s : State) : Out :=
  if (s.linkAt link).st != .disabled then .next s else .next (s.modLink link fun x => { x with st := .training })

/-! ## Requests without response (R470) -/

/-- The message that carries a request again: bytes written and shipments whole (R470). -/
def State.again (s : State) (r : Req) : List OutMsg :=
  match r.kind, r.user with
  | .copyWrite, _ => (s.outbox.find? fun m => match m with | .copyWrite id _ _ => id == r.id | _ => false).toList
  | .shipment, .shipment n => ((s.ships.find? (·.num == n)).bind fun h =>
      h.data.map fun d => OutMsg.shipment { d with pl := s.crossPl d.pl (h.dst / 256) }).toList
  | _, _ => [r.message]

/-- A request to another package of the list of those that await a response. -/
def State.peerRequest (s : State) (idx : Nat) : Option (Req × Nat) :=
  match s.reqs[idx]? with
  | some r => match r.dest with
    | .peer p _ => some (r, p)
    | _ => none
  | none => none

/-- REQUEST_RESEND: 50 µs have passed without a response; after 8 resends the request fails. -/
def execRequestResend (idx : Nat) (s : State) : Out :=
  match s.peerRequest idx with
  | none => .next s
  | some (r, _) =>
    if s.now < r.sentAt + s.micros 50 then .next s
    else if 8 ≤ r.resends then .next (s.reqFails r Cause.linkFailed)
    else
      let r' := { r with resends := r.resends + 1, sentAt := s.now }
      .next { s with reqs := s.reqs.set idx r', outbox := s.outbox ++ s.again r' }

/-- NO_ROUTE_TIMEOUT: a request that has had no route for 200 µs fails. -/
def execNoRouteTimeout (idx : Nat) (s : State) : Out :=
  match s.peerRequest idx with
  | none => .next s
  | some (r, p) => if s.reachable p ∨ s.now < r.sentAt + s.micros 200 then .next s else .next (s.reqFails r Cause.linkFailed)

/-! ## Link records (R472, Table 29.4) -/

/-- STATE of a link. -/
def LinkState.code : LinkState → Nat
  | .absent => 0
  | .training => 1
  | .up => 2
  | .degraded => 3
  | .down => 4
  | .disabled => 5

/-- A link record. -/
def Link.record (x : Link) : Nat :=
  x.st.code + x.kind * 2 ^ 8 + x.width % 256 * 2 ^ 16 + x.peer % 2 ^ 15 * 2 ^ 33 + x.peerLink % 2 ^ 16 * 2 ^ 48 + x.drop * 2 ^ 128 +
    x.divert * 2 ^ 192 + x.qPeak * 2 ^ 256 + x.rttNs * 2 ^ 288 + x.downs * 2 ^ 304 + x.crcErr * 2 ^ 320 + x.replay * 2 ^ 352 +
    x.rx * 2 ^ 384 + x.tx * 2 ^ 448

/-- What a link has carried since the last update: amounts that the model does not follow (log 32). -/
def Link.count (f : Nat → Nat) (n : Nat) (x : Link) : Link :=
  if !x.carries then { x with qPeak := 0 }
  else { x with tx := (x.tx + f (16 * n + 4)) % 2 ^ 64, rx := (x.rx + f (16 * n + 5)) % 2 ^ 64, qPeak := f (16 * n + 6) % 2 ^ 32,
                divert := (x.divert + f (16 * n + 7)) % 2 ^ 64 }

/-- LINK_RECORD_UPDATE: Marten writes the 96 records. -/
def execLinkRecordUpdate (s : State) : Out :=
  if s.marten.bootStep < 6 then .next s
  else
    let xs := s.links.mapIdx fun n x => x.count (Config.traffic s.tick) n
    let s := { s with links := xs }
    .next (s.unitWrite s.marten.values.linkRecords (xs.flatMap fun x => leBytes 64 x.record))

/-- RTT_MEASURE: the round trip of a link, in ns, saturating. -/
def execRttMeasure (link ns : Nat) (s : State) : Out :=
  if !(s.linkAt link).carries then .next s else .next (s.modLink link fun x => { x with rttNs := satTo 16 ns })

/-- LINK_RECORD_REQUEST: Marten sends the records as they stand. -/
def execLinkRecordRequest (s : State) : Out :=
  if s.marten.bootStep < 7 then .next s
  else .next { s with outbox := s.outbox ++ [.management (s.bytes s.marten.values.linkRecords (64 * 96))] }

end Sys2Proof.Machine
end

