-- ==== Sys2Proof/Machine/Loader.lean ====
section
/-!
DEFINITION. The loader: the checks of an image, its relocations, its error record and its placing (R302 to R309).
-/
namespace Sys2Proof.Machine

/-! ## The file -/

/-- The n bytes at an offset of a file, as a little-endian value. -/
def fileNat (f : List Byte) (off n : Nat) : Nat := leNat ((f.drop off).take n)

/-- Header fields (Table 14.4). -/
def hdrNsect (f : List Byte) : Nat := fileNat f 10 2
def hdrNsym (f : List Byte) : Nat := fileNat f 12 4
def hdrSectoff (f : List Byte) : Nat := fileNat f 16 8
def hdrSymoff (f : List Byte) : Nat := fileNat f 24 8
def hdrStroff (f : List Byte) : Nat := fileNat f 32 4
def hdrEntry (f : List Byte) : Nat := fileNat f 36 4
def hdrBase (f : List Byte) : Nat := fileNat f 40 8
def hdrFixed (f : List Byte) : Nat := fileNat f 48 1

/-- A section entry (Table 14.5). -/
structure Sect where
  idx : Nat
  ty : Nat
  align : Nat
  addr : Nat
  size : Nat
  foff : Nat
  name : Nat
  link : Nat
  bits : Nat
deriving DecidableEq, Repr

/-- Section i of a file. -/
def fileSect (f : List Byte) (i : Nat) : Sect :=
  let x := fileNat f (hdrSectoff f + 48 * i) 48
  ⟨i, bitsOf x 7 0, bitsOf x 11 8, bitsOf x 127 64, bitsOf x 191 128, bitsOf x 255 192, bitsOf x 287 256, bitsOf x 303 288, x⟩

/-- Whether a section holds content of the program; section 0 holds nothing (R303). -/
def Sect.content (x : Sect) : Bool := x.idx ≠ 0 && x.ty ≤ 4

/-- The sections of a file from section 1. -/
def fileSects (f : List Byte) : List Sect := (List.range (hdrNsect f - 1)).map fun i => fileSect f (i + 1)

/-- A symbol entry (Table 14.6). -/
structure Symb where
  value : Nat
  skind : Nat
  bind_ : Nat
  sect : Nat
  name : Nat
  bits : Nat
deriving DecidableEq, Repr

/-- Symbol i of a file. -/
def fileSym (f : List Byte) (i : Nat) : Symb :=
  let x := fileNat f (hdrSymoff f + 24 * i) 24
  ⟨bitsOf x 127 64, bitsOf x 51 50, bitsOf x 49 48, bitsOf x 47 32, bitsOf x 31 0, x⟩

def Symb.undefined (y : Symb) : Bool := y.sect == 0xFFFE

/-- A relocation entry (Table 14.7), with the section it applies to. -/
structure Reloc where
  sect : Nat
  offset : Nat
  sym : Nat
  ty : Nat
  addend : Int
  bits : Nat
deriving DecidableEq, Repr

/-- The relocations of a section. -/
def fileRelocs (f : List Byte) (x : Sect) : List Reloc :=
  if x.ty ≠ 7 then []
  else (List.range (x.size / 24)).map fun i =>
    let y := fileNat f (x.foff + 24 * i) 24
    ⟨x.link, bitsOf y 63 0, bitsOf y 95 64, bitsOf y 103 96, sextInt (bitsOf y 191 128) 64, y⟩

/-! ## Relocation types (Table 14.8) -/

/-- What a relocation places, before any test: the sum, the distance in units, or a part of the sum. -/
inductive RelForm where
  | sum
  | hi16 | lo16 | lo32 | hi32
  | dist (unit skip : Nat)
deriving DecidableEq, Repr

/-- A type: the first bit it fills, the width, the value and the range accepted of it. -/
structure RelType where
  lo : Nat
  width : Nat
  form : RelForm
  range : Option (Int × Int)
deriving DecidableEq, Repr

/-- Table 14.8. -/
def relType : Nat → Option RelType
  | 1 => some ⟨0, 64, .sum, none⟩
  | 2 => some ⟨0, 32, .sum, some (-2147483648, 4294967295)⟩
  | 3 => some ⟨0, 16, .sum, some (-32768, 32767)⟩
  | 4 => some ⟨0, 16, .hi16, some (-2147516416, 2147450879)⟩
  | 5 => some ⟨0, 16, .lo16, none⟩
  | 6 => some ⟨4, 12, .sum, some (-2048, 2047)⟩
  | 7 => some ⟨0, 16, .dist 4 0, some (-32768, 32767)⟩
  | 8 => some ⟨0, 21, .dist 4 0, some (-1048576, 1048575)⟩
  | 9 => some ⟨32, 32, .sum, some (-2147483648, 2147483647)⟩
  | 10 => some ⟨32, 32, .sum, some (0, 4294967295)⟩
  | 11 => some ⟨32, 32, .lo32, none⟩
  | 12 => some ⟨32, 32, .hi32, none⟩
  | 13 => some ⟨32, 32, .dist 4 0, some (-2147483648, 2147483647)⟩
  | 14 => some ⟨0, 32, .sum, some (-2147483648, 2147483647)⟩
  | 15 => some ⟨0, 32, .dist 8 0, some (-2147483648, 2147483647)⟩
  | 16 => some ⟨0, 32, .dist 8 1, some (0, 4294967295)⟩
  | _ => none

/-- The bytes of its place that a type fills, counted from P. -/
def RelType.bytes (t : RelType) : Nat := (t.lo + t.width + 7) / 8

/-- The part of x that HI16, LO16, LO32 or HI32 places, as a pattern; the sum itself otherwise. -/
def RelType.part (t : RelType) (x : Int) : Int :=
  match t.form with
  | .hi16 => (x + 0x8000) / 65536
  | .hi32 => x / 4294967296
  | _ => x

/-- What a relocation of a type gives: the value tested, or the kind of failure, 2 for a distance that is no multiple. -/
def RelType.value (t : RelType) (sum p : Int) : Except Int Int :=
  match t.form with
  | .dist u skip => if (sum - p) % u ≠ 0 then .error (sum - p) else .ok ((sum - p) / u - skip)
  | _ => .ok sum

/-- Whether a type accepts the value tested. -/
def RelType.accepts (t : RelType) (v : Int) : Bool :=
  match t.range with
  | none => true
  | some (lo, hi) => lo ≤ v && v ≤ hi

/-! ## Failures (Table 14.9; log 31) -/

/-- A failure: the section and offset it is found at, and the fields of its record. -/
structure LoadFail where
  sect : Nat
  offset : Nat
  kind : Nat
  ty : Nat
  sym : Nat
  width : Nat
  value : Int
deriving DecidableEq, Repr

/-- A malformed entry. -/
def malformed (sect offset : Nat) : LoadFail := ⟨sect, offset, 5, 0, 0xFFFFFFFF, 0, 0⟩

/-- A section or table that finds no room or no permission. -/
def noRoom (sect : Nat) : LoadFail := ⟨sect, 0, 6, 0, 0xFFFFFFFF, 0, 0⟩

/-- A failure where a condition does not hold. -/
def check (ok : Bool) (x : LoadFail) : List LoadFail := if ok then [] else [x]

/-! ## Step 1: header, tables and fields -/

/-- Whether a string of UTF-8 begins a list and ends in a zero byte, within n bytes. -/
def utf8z : Nat → List Byte → Bool
  | 0, _ => false
  | n + 1, bs =>
    let tail (b : Byte) : Bool := b.toNat / 64 == 2
    match bs with
    | [] => false
    | b :: rest =>
      let x := b.toNat
      if x = 0 then true
      else if x < 0x80 then utf8z n rest
      else
        let k := if 0xC2 ≤ x ∧ x < 0xE0 then 1 else if 0xE0 ≤ x ∧ x < 0xF0 then 2 else if 0xF0 ≤ x ∧ x < 0xF5 then 3 else 0
        let y := (rest.headD 0).toNat
        let first : Bool := !(x == 0xE0 && y < 0xA0) && !(x == 0xED && 0xA0 ≤ y) && !(x == 0xF0 && y < 0x90) && !(x == 0xF4 && 0x90 ≤ y)
        if k = 0 ∨ rest.length < k ∨ !(rest.take k).all tail ∨ !first then false else utf8z n (rest.drop k)

/-- Whether a string offset names a name. -/
def nameOk (f : List Byte) (off : Nat) : Bool :=
  let bs := f.drop (hdrStroff f + off)
  utf8z (bs.length + 1) bs

/-- Whether a file begins as an image does and its tables lie in it, so that their entries can be read (R302). -/
def readable (f : List Byte) : Bool :=
  64 ≤ f.length && fileNat f 0 4 == 0x024F5A47 && fileNat f 4 4 == 1 && fileNat f 8 2 == 2 && 1 ≤ hdrNsect f &&
  hdrSectoff f + 48 * hdrNsect f ≤ f.length && hdrSymoff f + 24 * hdrNsym f ≤ f.length && hdrStroff f ≤ f.length

/-- The header of an image, and the places of its tables (R302, Table 14.4). -/
def headerOk (f : List Byte) : Bool :=
  readable f && hdrNsect f ≤ 65533 && 1 ≤ hdrNsym f && fileNat f 49 15 == 0 && hdrFixed f ≤ 1 && hdrBase f % 65536 == 0 &&
  hdrSectoff f % 8 == 0 && hdrSymoff f % 8 == 0 && hdrStroff f % 8 == 0 &&
  (hdrEntry f == 0xFFFFFFFF || (1 ≤ hdrEntry f && hdrEntry f < hdrNsym f))

/-- The section that a table may apply to, by its type (R303, R305, R306, R307). -/
def linkTypeOk (ty target : Nat) : Bool := if ty = 7 then target ≤ 3 else target == 0

/-- The content section that stands before section i, and the type of the section directly before it. -/
def contentBefore (f : List Byte) (i : Nat) : Nat :=
  (fileSects f).foldl (fun k x => if x.content && x.idx < i then x.idx else k) 0

/-- A section entry from section 1 (R303, Table 14.5). -/
def sectOk (f : List Byte) (x : Sect) : Bool :=
  let before := fileSect f (x.idx - 1)
  let prior := contentBefore f x.idx
  bitsOf x.bits 383 304 == 0 && bitsOf x.bits 63 12 == 0 && x.ty ≤ 7 && nameOk f x.name &&
  (if x.ty = 4 then x.foff == 0 else (x.ty ≤ 4 || x.foff % 8 == 0) && x.foff + x.size ≤ f.length) &&
  (if x.ty ≤ 4 then x.link == 0 && x.addr % 2 ^ x.align == 0 && x.addr + x.size ≤ 2 ^ 64
   else prior ≠ 0 && x.link == prior && linkTypeOk x.ty (fileSect f prior).ty && x.size ≠ 0 &&
     (before.idx == prior || before.ty < x.ty) &&
     (if x.ty = 5 then x.size % 16 == 0 else if x.ty = 7 then x.size % 24 == 0 else x.size % 8 == 0))

/-- A symbol entry from symbol 1 (R304, Table 14.6). -/
def symOk (f : List Byte) (y : Symb) : Bool :=
  bitsOf y.bits 63 52 == 0 && y.bind_ ≤ 1 && nameOk f y.name &&
  (0xFFFE ≤ y.sect || (1 ≤ y.sect && y.sect < hdrNsect f && (fileSect f y.sect).content && y.value ≤ (fileSect f y.sect).size))

/-- A relocation entry (R305, Table 14.7). -/
def relocOk (f : List Byte) (r : Reloc) : Bool :=
  bitsOf r.bits 127 104 == 0 && 1 ≤ r.sym && r.sym < hdrNsym f &&
  (match relType r.ty with
   | some t => r.offset + t.bytes ≤ (fileSect f r.sect).size
   | none => false)

/-- The entries of a SAFEPOINT section: offset in the section, OFFSET, FUNC and ORD (R306). -/
def filePoints (f : List Byte) (x : Sect) : List (Nat × Nat) :=
  (List.range (x.size / 16)).map fun i => (16 * i, fileNat f (x.foff + 16 * i) 16)

/-- Failures of a SAFEPOINT section. -/
def pointFails (f : List Byte) (x : Sect) : List LoadFail :=
  let es := filePoints f x
  let ok (e : Nat × Nat) : Bool :=
    bitsOf e.2 127 96 == 0 && bitsOf e.2 1 0 == 0 && bitsOf e.2 63 0 < (fileSect f x.link).size &&
      (e.1 == 0 || bitsOf (fileNat f (x.foff + e.1 - 16) 16) 63 0 < bitsOf e.2 63 0)
  es.flatMap fun e => check (ok e) (malformed x.idx e.1)

/-- A CKPT record in a section: its offset, its length, its head and whether its entries are well formed (R307). -/
structure CkptPlace where
  at_ : Nat
  len : Nat
  head : Nat
  ok : Bool
deriving DecidableEq, Repr

/-- A range entry and a run entry (R307). -/
def rangeOk (w : Nat) : Bool := bitsOf w 63 43 == 0 && 1 ≤ bitsOf w 42 21 && bitsOf w 20 0 + bitsOf w 42 21 ≤ 2097152
def runOk (w : Nat) : Bool := bitsOf w 63 19 == 0 && 1 ≤ bitsOf w 18 9 && bitsOf w 8 0 + bitsOf w 18 9 ≤ 512

/-- The records of a CKPT section from an offset. -/
def fileCkpts (f : List Byte) (x : Sect) : Nat → Nat → List CkptPlace
  | 0, _ => []
  | n + 1, o =>
    if x.size ≤ o then []
    else
      let h := fileNat f (x.foff + o) 32
      let nr := bitsOf h 127 112
      let nu := bitsOf h 143 128
      let len := 32 + 8 * (nr + nu)
      if x.size < o + len then [⟨o, x.size - o, h, false⟩]
      else
        let w (i : Nat) : Nat := fileNat f (x.foff + o + 32 + 8 * i) 8
        let ok : Bool := bitsOf h 255 144 == 0 && bitsOf h 64 64 == 0 && bitsOf h 1 0 == 0 && bitsOf h 63 0 < (fileSect f x.link).size &&
          (List.range nr).all (fun i => rangeOk (w i)) && (List.range nu).all fun i => runOk (w (nr + i))
        ⟨o, len, h, ok⟩ :: fileCkpts f x n (o + len)

/-- Failures of a CKPT section. -/
def ckptFails (f : List Byte) (x : Sect) : List LoadFail :=
  let rs := fileCkpts f x (x.size / 32 + 1) 0
  let rises (r : CkptPlace) : Bool := (rs.filter fun y => y.at_ < r.at_).all fun y => bitsOf y.head 63 0 < bitsOf r.head 63 0
  rs.flatMap fun r => check (r.ok && rises r) (malformed x.idx r.at_)

/-- The failures of step 1 in the tables of a readable file. -/
def tableFails (f : List Byte) : List LoadFail :=
  let syms := List.range (hdrNsym f)
  check ((fileSect f 0).bits == 0) (malformed 0 0) ++
  syms.flatMap (fun i => check (if i = 0 then (fileSym f 0).bits == 0 else symOk f (fileSym f i)) (malformed 0 (24 * i))) ++
  (fileSects f).flatMap fun x =>
    if !sectOk f x then [malformed x.idx 0]
    else if x.ty = 5 then pointFails f x
    else if x.ty = 6 then ckptFails f x
    else (List.range (fileRelocs f x).length).flatMap fun i =>
      check (((fileRelocs f x)[i]?.map (relocOk f)).getD true) (malformed x.idx (24 * i))

/-! ## Step 2: room and permissions -/

/-- Where a byte of a space lies, here or elsewhere, when its page is mapped with the permissions asked for (Table 4.4). -/
def State.loadPlace (s : State) (space va : Nat) (need : Leaf → Bool) : Option Dest :=
  if !inPaged va then none
  else match s.stage1 0 space va with
    | .leaf l =>
      if !need l || !leafC l.bits then none
      else match s.leafChecks 0 space va 0 false l with
        | .to d _ => some d
        | _ => none
    | _ => none

/-- The permissions that a section's type implies, 8 standing for the read-only tables (R309). -/
def needOf (ty : Nat) (l : Leaf) : Bool :=
  leafR l.bits && (if ty ≤ 1 then leafX l.bits else if ty = 2 ∨ ty = 4 then leafW l.bits else if ty = 8 then !leafW l.bits else true)

/-- Whether the pages of n bytes at an address of a space are all mapped as a type needs. -/
def State.roomFor (s : State) (space va n ty : Nat) : Bool :=
  n == 0 || (pagesOf va n).all fun p => (s.loadPlace space p.1 (needOf ty)).isSome

/-- Whether the page of each strand's stack region that is left unmapped is so, for every core of a partition, and the regions are as the
descriptor states them (R300, R407, Table 24.5). -/
def State.stacksOk (s : State) (part space : Nat) (at_ : LoadPlace) : Bool :=
  let n := match s.part part with | some p => p.cores.length + p.others.length | none => 0
  at_.stkbase % 65536 == 0 && at_.stksz % 65536 == 0 && 131072 ≤ at_.stksz &&
  (List.range (4 * n)).all fun i => match s.stage1 0 space (at_.stkbase + i * at_.stksz) with | .leaf _ => false | _ => true

/-- Where bytes at an address of a space go, page by page. -/
def State.loadParts (s : State) (space va : Nat) (bs : List Byte) : List (Dest × List Byte) :=
  if bs.isEmpty then []
  else (pagesOf va bs.length).filterMap fun p =>
    (s.loadPlace space p.1 fun _ => true).map fun d => (d, (bs.drop (p.1 - va)).take p.2)

/-- Bytes of this package among them are written. -/
def State.loadBytes (s : State) (parts : List (Dest × List Byte)) : State :=
  parts.foldl (fun s p => match p.1 with | .here k => s.unitWrite k p.2 | _ => s) s

/-! ## Step 3: relocations -/

/-- The base of a load (Table 14.4). -/
def baseOf (f : List Byte) (at_ : LoadPlace) : Nat := if hdrFixed f = 1 then hdrBase f else at_.base

/-- The address of a symbol: absolute, or within the image (R308). -/
def symAddr (f : List Byte) (base i : Nat) : Int :=
  let y := fileSym f i
  if y.sect = 0xFFFF then sextInt y.value 64 else ((base + (fileSect f y.sect).addr + y.value : Nat) : Int)

/-- S + A of a relocation, and P. -/
def relocSum (f : List Byte) (base : Nat) (r : Reloc) : Int := symAddr f base r.sym + r.addend
def relocPlace (f : List Byte) (base : Nat) (r : Reloc) : Nat := base + (fileSect f r.sect).addr + r.offset

/-- The well-formed relocations of an image, in order of section and entry. -/
def allRelocs (f : List Byte) : List Reloc :=
  ((fileSects f).filter (sectOk f)).flatMap fun x => (fileRelocs f x).filter fun r => relocOk f r && symOk f (fileSym f r.sym)

/-- Whether two relocations fill a common bit. -/
def overlap (a b : Reloc) : Bool :=
  match relType a.ty, relType b.ty with
  | some x, some y =>
    let la := 8 * a.offset + x.lo
    let lb := 8 * b.offset + y.lo
    a.sect == b.sect && la < lb + y.width && lb < la + x.width
  | _, _ => false

/-- The failure of a relocation by its value (Table 14.8). -/
def valueFail (f : List Byte) (base : Nat) (r : Reloc) : List LoadFail :=
  match relType r.ty with
  | none => []
  | some t =>
    let fail (k : Nat) (v : Int) : LoadFail := ⟨r.sect, r.offset, k, r.ty, r.sym, t.width, v⟩
    if (fileSym f r.sym).undefined then [fail 3 0]
    else match t.value (relocSum f base r) (relocPlace f base r) with
      | .error d => [fail 2 d]
      | .ok v => if t.accepts v then [] else [fail 1 v]

/-- The failures of relocations that fill bits which an earlier one fills. -/
def overlapFails (rs : List Reloc) : List LoadFail :=
  ((List.range rs.length).zip rs).flatMap fun (i, r) =>
    if (rs.take i).any (overlap r) then
      [⟨r.sect, r.offset, 4, r.ty, r.sym, (relType r.ty).elim 0 (·.width), 0⟩] else []

/-- The failures of steps 2 and 3, of what is well formed in a readable file. -/
def State.placeFails (s : State) (part space : Nat) (at_ : LoadPlace) (f : List Byte) (tables : List Byte) : List LoadFail :=
  let base := baseOf f at_
  let rs := allRelocs f
  let lone (i : Nat) : Bool := symOk f (fileSym f i) && (fileSym f i).undefined && !rs.any fun r => r.sym == i
  check (hdrFixed f == 1 || base % 65536 == 0) (malformed 0 0) ++
  (((List.range (hdrNsym f)).drop 1).filter lone).map (fun i => (⟨0, 24 * i, 3, 0, i, 0, 0⟩ : LoadFail)) ++
  (fileSects f).flatMap (fun x =>
    if x.content && sectOk f x then check (s.roomFor space (base + x.addr) x.size x.ty) (noRoom x.idx) else []) ++
  check (s.roomFor space at_.tables tables.length 8) (noRoom 0) ++ check (s.stacksOk part space at_) (noRoom 0) ++
  rs.flatMap (valueFail f base) ++ overlapFails rs

/-! ## Step 4: the record -/

/-- The error record of the failure with the least section and offset (Table 14.9). -/
def failRecord (base : Nat) (x : LoadFail) (n : Nat) : List Byte :=
  leBytes 48 (x.kind + x.ty * 2 ^ 8 + x.sect * 2 ^ 16 + x.width * 2 ^ 32 + base % 2 ^ 64 * 2 ^ 128 + n % 2 ^ 32 * 2 ^ 192 +
    x.sym * 2 ^ 224 + x.offset % 2 ^ 64 * 2 ^ 256 + (x.value % (2 ^ 64 : Nat)).toNat * 2 ^ 320)

/-- The least of a list of failures by section and offset, the first of equals. -/
def leastFail (x : LoadFail) (xs : List LoadFail) : LoadFail :=
  xs.foldl (fun m y => if y.sect < m.sect ∨ (y.sect = m.sect ∧ y.offset < m.offset) then y else m) x

/-! ## Step 5: placing -/

/-- The tables as they are placed: SAFEPOINT entries and CKPT records in ascending order of the instruction's address, which stands in
OFFSET, each table closed by an entry that breaks its form (log 27). -/
def placedPoints (f : List Byte) (base : Nat) : List Byte :=
  let es := (fileSects f).flatMap fun x =>
    if x.ty = 5 then (filePoints f x).map fun e =>
      (base + (fileSect f x.link).addr + bitsOf e.2 63 0, bitsOf e.2 95 64) else []
  (es.mergeSort fun a b => a.1 ≤ b.1).flatMap (fun e => leBytes 16 (e.1 % 2 ^ 64 + e.2 * 2 ^ 64)) ++ List.replicate 16 0xFF

def placedCkpts (f : List Byte) (base : Nat) : List Byte :=
  let rs := (fileSects f).flatMap fun x =>
    if x.ty = 6 then (fileCkpts f x (x.size / 32 + 1) 0).map fun r =>
      let va := base + (fileSect f x.link).addr + bitsOf r.head 63 0
      (va, leBytes 8 va ++ ((f.drop (x.foff + r.at_ + 8)).take (r.len - 8))) else []
  (rs.mergeSort fun a b => a.1 ≤ b.1).flatMap (·.2) ++ List.replicate 32 0xFF

/-- The contents of a section before relocation; BSS is zero. -/
def sectBytes (f : List Byte) (x : Sect) : List Byte :=
  if x.ty = 4 then List.replicate x.size 0 else (f.drop x.foff).take x.size

/-- A relocation writes the low bits of its value into the bits it fills and leaves every other bit (R305). -/
def applyReloc (f : List Byte) (base : Nat) (bs : List Byte) (r : Reloc) : List Byte :=
  match relType r.ty with
  | none => bs
  | some t =>
    match t.value (relocSum f base r) (relocPlace f base r) with
    | .error _ => bs
    | .ok v =>
      let n := t.bytes
      let old := leNat ((bs.drop r.offset).take n)
      let new := putBits old (t.lo + t.width - 1) t.lo ((t.part v % (2 ^ 64 : Nat)).toNat)
      bs.take r.offset ++ leBytes n new ++ bs.drop (r.offset + n)

/-- A content section as it is loaded. -/
def placedSect (f : List Byte) (base : Nat) (x : Sect) : List Byte :=
  ((allRelocs f).filter fun r => r.sect == x.idx).foldl (applyReloc f base) (sectBytes f x)

/-- The launch descriptor names the stacks and the two tables (Table 24.5); GP is left as it is. -/
def State.nameTables (s : State) (at_ : LoadPlace) (points : Nat) : State :=
  ((s.unitNat (at_.ldesc + 8) 8 at_.stkbase).unitNat (at_.ldesc + 16) 8 at_.stksz).unitWrite (at_.ldesc + 24)
    (leBytes 8 at_.tables ++ leBytes 8 (at_.tables + points))

/-- The failures of a load in every step (R309). -/
def State.loadFails (s : State) (part space : Nat) (at_ : LoadPlace) (f : List Byte) (tables : List Byte) : List LoadFail :=
  let owned : Bool := match s.spaceEntry space with | some (p, _) => p == part && (s.part part).isSome | none => false
  check (headerOk f) (malformed 0 0) ++ check owned (noRoom 0) ++
    if readable f then tableFails f ++ s.placeFails part space at_ f tables else []

/-- IMAGE_LOAD: the loader checks an image, and either writes nothing and reports the failure, or places it whole and reports once bytes of
other packages have been performed there (R309). A load of a partition that has not reported keeps the next one waiting. -/
def execImageLoad (part space : Nat) (at_ : LoadPlace) (file : List Byte) (s : State) : Out :=
  let base := if readable file then baseOf file at_ else at_.base
  let answer (s : State) (r : List Byte) : Out := .next { s with outbox := s.outbox ++ [.loaded part r] }
  let points := if readable file then placedPoints file base else []
  let tables := points ++ if readable file then placedCkpts file base else []
  if s.awaits 0 (.load part) then .next s
  else match s.loadFails part space at_ file tables with
    | x :: xs => answer s (failRecord base (leastFail x xs) (xs.length + 1))
    | [] =>
      let sects := (fileSects file).filter Sect.content
      let parts := sects.flatMap (fun x => s.loadParts space (base + x.addr) (placedSect file base x)) ++ s.loadParts space at_.tables tables
      let away := parts.filter fun p => match p.1 with | .here _ => false | _ => true
      let s := (s.loadBytes parts).nameTables at_ points.length
      if away.isEmpty then answer s [] else .next (s.sendWrites 0 (.load part) [] away)

end Sys2Proof.Machine
end

