-- ==== Sys2Proof/Machine/Ras.lean ====
section
/-!
DEFINITION. Scrubbing, the activity forecast, the core clock, power, heat and telemetry (R477 to R482).
-/
namespace Sys2Proof.Machine

/-! ## Scrubbing (R477) -/

/-- MEMORY_SCRUB: a 64-byte line of device memory is read, and what it holds wrong is corrected or poisoned. -/
def execMemoryScrub (line : Nat) (s : State) : Out :=
  if isDevice (64 * line) ∧ !reservedPa (64 * line) then .next (s.detect (64 * line) 64) else .next s

/-- SCRATCHPAD_SCRUB: an 8-byte word of a scratchpad is read in the same way. -/
def execScratchpadScrub (core word : Nat) (s : State) : Out :=
  if core < 256 ∧ word < 2 ^ 18 then .next (s.detect (spBase core + 8 * word) 8) else .next s

/-! ## The activity forecast (R478, Table 30.3) -/

/-- The cores of a die with a task of a class in the window. -/
def State.activeCores (s : State) (die : Nat) (cls : EngineClass) : Nat :=
  ((List.range 64).filter fun c => (s.core (64 * die + c)).window.any fun t => t.cmd.cls == cls).length

/-- Shipments of a die's halo engine in CREDIT to FLIGHT, saturating. -/
def State.activeShips (s : State) (die : Nat) : Nat :=
  min 127 (s.ships.filter fun h => h.core / 64 == die && h.st != .notice).length

/-- The forecast register of a die with a number of updates. -/
def State.forecastOf (s : State) (die seq : Nat) : Nat :=
  s.activeCores die .mat + s.activeCores die .vec * 2 ^ 7 + s.activeCores die .xp * 2 ^ 14 + s.activeCores die .cpy * 2 ^ 21 +
    s.activeCores die .row * 2 ^ 28 + s.activeShips die * 2 ^ 35 + seq % 2 ^ 16 * 2 ^ 48

/-- FORECAST_UPDATE: the register of a die is written. -/
def execForecastUpdate (die : Nat) (s : State) : Out :=
  let next (r : BitVec 64) : BitVec 64 := BitVec.ofNat 64 (s.forecastOf die (bitsOf r.toNat 63 48 + 1))
  .next { s with power := { s.power with forecast := s.power.forecast.modify die next } }

/-! ## The core clock (R479 to R481) -/

/-- The sum of the MAT fields, and the greatest field of the classes VEC, XP, CPY and ROW. -/
def Power.matSum (p : Power) : Nat := (p.forecast.map fun r => bitsOf r.toNat 6 0).sum
def Power.otherMax (p : Power) : Nat :=
  (p.forecast.flatMap fun r => [bitsOf r.toNat 13 7, bitsOf r.toNat 20 14, bitsOf r.toNat 27 21, bitsOf r.toNat 34 28]).foldl max 0

/-- The power predicted at a clock in MHz, in units of 1 / 537,600 W: the scaled blocks of Table 1.8 in proportion to activity and clock, the
others, 938 W together, at their full figures. -/
def Power.predicted (p : Power) (mhz : Nat) : Nat :=
  mhz * (1540 * p.matSum + 512 * 4 * p.otherMax + 120 * 256) + 938 * 537600

/-- Whether the prediction at a clock is at or below CAP. -/
def Power.allows (p : Power) (mhz : Nat) : Bool := p.predicted mhz ≤ p.cap * 537600

/-- The clocks, highest first. -/
def clocks : List Nat := (List.range 23).map fun i => 2100 - 50 * i

/-- The highest clock whose prediction is at or below CAP; the lowest clock where none is. -/
def Power.choice (p : Power) : Nat := (clocks.find? p.allows).getD 1000

/-- The dies above their thermal limit: those above 100 °C, and those that have been and have not fallen below 97 °C. -/
def Power.hotDies (p : Power) (x : Sensors) : List Nat :=
  (List.range x.dies.length).filter fun d => 1000 < x.dies.getD d 0 || (p.hot.contains d && 970 ≤ x.dies.getD d 0)

/-- A reading of the sensors as the telemetry record keeps it. -/
def Power.read (p : Power) (x : Sensors) : Power :=
  { p with tmax := x.dies.foldl max 0 % 2 ^ 16, tcool := x.coolant % 2 ^ 16, pwr := x.power % 2 ^ 16, hot := p.hotDies x }

/-- The clock after a microsecond: not raised while a die is hot, one step after a trip, and otherwise the choice. -/
def Power.clock (p : Power) : Power :=
  let c := p.choice
  if !p.hot.isEmpty then { p with freq := min p.freq c }
  else if p.tripped then
    let f := if p.freq < c then min c (p.freq + 50) else c
    { p with freq := f, tripped := f != c }
  else { p with freq := c }

/-- CLOCK_SELECT: the power manager chooses the core clock. -/
def execClockSelect (sensors : Sensors) (s : State) : Out := .next { s with power := (s.power.read sensors).clock }

/-- POWER_TRIP: measured power has stayed above its limits, and the clock falls to 1.00 GHz. -/
def execPowerTrip (power : Nat) (s : State) : Out :=
  if power ≤ s.power.cap then .next s
  else .next { s with power := { s.power with pwr := power % 2 ^ 16, freq := 1000, tripped := true } }

/-- CAP_SET: from 1,000 W to 3,200 W. -/
def execCapSet (watts : Nat) (s : State) : Out :=
  if watts < 1000 ∨ 3200 < watts then .next s else .next { s with power := { s.power with cap := watts } }

/-- THERMAL_THROTTLE: while a die is above its limit the clock falls by a step. -/
def execThermalThrottle (sensors : Sensors) (s : State) : Out :=
  let p := s.power.read sensors
  .next { s with power := if p.hot.isEmpty then p else { p with freq := max 1000 (p.freq - 50) } }

/-- THERMAL_SHUTDOWN: at 115 °C every job partition is stopped, and the C-dies and memory lose power. -/
def execThermalShutdown (sensors : Sensors) (s : State) : Out :=
  let s : State := { s with power := s.power.read sensors }
  if sensors.dies.all fun t => t < 1150 then .next s
  else
    let jobs := (s.parts.filter fun p => p.no != 0 && p.st == .active).map (·.no)
    let s := jobs.foldl State.stopNo s
    .next { s with power := { s.power with pstop := (s.power.pstop + jobs.length) % 2 ^ 64, on := false } }

/-! ## Telemetry (R482, Table 30.5) -/

/-- The telemetry record. -/
def Power.record (p : Power) : Nat :=
  p.pwr * 2 ^ 96 + p.cap * 2 ^ 112 + p.freq * 2 ^ 128 + p.tcool * 2 ^ 144 + p.tmax * 2 ^ 160 + (p.forecast.headD 0).toNat * 2 ^ 256 +
    p.pstop * 2 ^ 320 + p.rescnt * 2 ^ 384 + p.uecnt * 2 ^ 416 + p.cecnt % 2 ^ 64 * 2 ^ 448

/-- TELEMETRY_REQUEST: Marten returns the record, and the forecast registers of dies 1 to 3 after it. -/
def execTelemetryRequest (s : State) : Out :=
  if s.marten.bootStep < 7 then .next s
  else .next { s with outbox := s.outbox ++
    [.management (leBytes 64 s.power.record ++ (s.power.forecast.drop 1).flatMap fun r => leBytes 8 r.toNat)] }

end Sys2Proof.Machine
end

