-- ==== Sys2Proof/Machine/Scalar.lean ====
section
/-!
DEFINITION. The meanings of the integer operations, immediate operations, long forms, branches, jumps, loads and stores
(R167 to R189).
-/
namespace Sys2Proof.Machine

/-- ADD: d := a + b (R171). -/
def execAdd (d a b : Reg) (s : State) : Out := .next (s.arith d (s.reg a + s.reg b) 4)

/-- SUB: d := a − b (R171). -/
def execSub (d a b : Reg) (s : State) : Out := .next (s.arith d (s.reg a - s.reg b) 4)

/-- AND (R171). -/
def execAnd (d a b : Reg) (s : State) : Out := .next (s.result d (s.reg a &&& s.reg b) 4)

/-- OR (R171). -/
def execOr (d a b : Reg) (s : State) : Out := .next (s.result d (s.reg a ||| s.reg b) 4)

/-- XOR (R171). -/
def execXor (d a b : Reg) (s : State) : Out := .next (s.result d (s.reg a ^^^ s.reg b) 4)

/-- ANDN: a AND NOT b (R171). -/
def execAndn (d a b : Reg) (s : State) : Out := .next (s.result d (s.reg a &&& ~~~(s.reg b)) 4)

/-- SLL by the low 6 bits of b (R171, R172). -/
def execSll (d a b : Reg) (s : State) : Out := .next (s.arith d (s.reg a <<< amount6 (s.reg b)) 4)

/-- SRL (R171, R172). -/
def execSrl (d a b : Reg) (s : State) : Out := .next (s.arith d (s.reg a >>> amount6 (s.reg b)) 4)

/-- SRA (R171, R172). -/
def execSra (d a b : Reg) (s : State) : Out := .next (s.arith d ((s.reg a).sshiftRight (amount6 (s.reg b))) 4)

/-- ROR: bit i of d is bit (i + n) mod 64 of a (R171). -/
def execRor (d a b : Reg) (s : State) : Out := .next (s.arith d ((s.reg a).rotateRight (amount6 (s.reg b))) 4)

/-- SLT: S(a) < S(b) (R171). -/
def execSlt (d a b : Reg) (s : State) : Out := .next (s.result d (flagWord ((s.reg a).slt (s.reg b))) 4)

/-- SLTN: Z(a) < Z(b) (R171). -/
def execSltn (d a b : Reg) (s : State) : Out := .next (s.result d (flagWord ((s.reg a).ult (s.reg b))) 4)

/-- MIN, signed (R171). -/
def execMin (d a b : Reg) (s : State) : Out := .next (s.result d (if (s.reg a).sle (s.reg b) then s.reg a else s.reg b) 4)

/-- MAX, signed (R171). -/
def execMax (d a b : Reg) (s : State) : Out := .next (s.result d (if (s.reg b).sle (s.reg a) then s.reg a else s.reg b) 4)

/-- MINN, natural (R171). -/
def execMinn (d a b : Reg) (s : State) : Out := .next (s.result d (if (s.reg a).ule (s.reg b) then s.reg a else s.reg b) 4)

/-- MAXN, natural (R171). -/
def execMaxn (d a b : Reg) (s : State) : Out := .next (s.result d (if (s.reg b).ule (s.reg a) then s.reg a else s.reg b) 4)

/-- MUL: the low 64 bits of the product (R171), pending for 3 cycles (Table 8.1). -/
def execMul (d a b : Reg) (s : State) : Out := .next (s.multiply d (s.reg a * s.reg b))

/-- MULH: the high 64 bits of the signed product (R171). -/
def execMulh (d a b : Reg) (s : State) : Out := .next (s.multiply d (highWord ((s.reg a).toInt * (s.reg b).toInt)))

/-- MULHN: the high 64 bits of the natural product (R171). -/
def execMulhn (d a b : Reg) (s : State) : Out := .next (s.multiply d (BitVec.ofNat 64 ((s.reg a).toNat * (s.reg b).toNat / 2 ^ 64)))

/-- DIV (R174). -/
def execDiv (d a b : Reg) (s : State) : Out := .next (s.divide d (divS (s.reg a) (s.reg b)))

/-- DIVN (R174). -/
def execDivn (d a b : Reg) (s : State) : Out := .next (s.divide d (divU (s.reg a) (s.reg b)))

/-- REM (R174). -/
def execRem (d a b : Reg) (s : State) : Out := .next (s.divide d (remS (s.reg a) (s.reg b)))

/-- REMN (R174). -/
def execRemn (d a b : Reg) (s : State) : Out := .next (s.divide d (remU (s.reg a) (s.reg b)))

/-- CLZ (R171). -/
def execClz (d a : Reg) (s : State) : Out := .next (s.result d (BitVec.ofNat 64 (clzFrom (s.reg a).toNat 64)) 4)

/-- CTZ (R171). -/
def execCtz (d a : Reg) (s : State) : Out := .next (s.result d (BitVec.ofNat 64 (ctzFrom (s.reg a).toNat 64)) 4)

/-- POPC (R171). -/
def execPopc (d a : Reg) (s : State) : Out := .next (s.result d (BitVec.ofNat 64 (popFrom (s.reg a).toNat 64)) 4)

/-- BREV (R171). -/
def execBrev (d a : Reg) (s : State) : Out := .next (s.result d (BitVec.ofNat 64 (revBits (s.reg a).toNat 64)) 4)

/-- BSWAP (R171). -/
def execBswap (d a : Reg) (s : State) : Out := .next (s.result d (bswap (s.reg a)) 4)

/-- CLMUL: the low 64 bits of the carry-less product (R173). -/
def execClmul (d a b : Reg) (s : State) : Out := .next (s.multiply d (BitVec.ofNat 64 (clmul64 (s.reg a) (s.reg b))))

/-- CLMULH: bits 127 to 64 of the carry-less product (R173). -/
def execClmulh (d a b : Reg) (s : State) : Out := .next (s.multiply d (BitVec.ofNat 64 (clmul64 (s.reg a) (s.reg b) / 2 ^ 64)))

/-- ADDW (R171, R172). -/
def execAddw (d a b : Reg) (s : State) : Out := .next (s.arith d (wResult (low32 (s.reg a) + low32 (s.reg b))) 4)

/-- SUBW (R171, R172). -/
def execSubw (d a b : Reg) (s : State) : Out := .next (s.arith d (wResult (low32 (s.reg a) - low32 (s.reg b))) 4)

/-- SLLW (R171, R172). -/
def execSllw (d a b : Reg) (s : State) : Out := .next (s.arith d (wResult (low32 (s.reg a) <<< amount5 (s.reg b))) 4)

/-- SRLW (R171, R172). -/
def execSrlw (d a b : Reg) (s : State) : Out := .next (s.arith d (wResult (low32 (s.reg a) >>> amount5 (s.reg b))) 4)

/-- SRAW (R171, R172). -/
def execSraw (d a b : Reg) (s : State) : Out := .next (s.arith d (wResult ((low32 (s.reg a)).sshiftRight (amount5 (s.reg b)))) 4)

/-- EXTS (R175). -/
def execExts (d a b : Reg) (s : State) : Out := .next (s.result d (extBits true (s.reg a) (s.reg b)) 4)

/-- EXTZ (R175). -/
def execExtz (d a b : Reg) (s : State) : Out := .next (s.result d (extBits false (s.reg a) (s.reg b)) 4)

/-- SEQ (R171). -/
def execSeq (d a b : Reg) (s : State) : Out := .next (s.result d (flagWord (s.reg a == s.reg b)) 4)

/-- SNE (R171). -/
def execSne (d a b : Reg) (s : State) : Out := .next (s.result d (flagWord (s.reg a != s.reg b)) 4)

/-- ADDI (R176). -/
def execAddi (d a : Reg) (imm : BitVec 16) (s : State) : Out := .next (s.arith d (s.reg a + imm16 imm) 4)

/-- ANDI (R176). -/
def execAndi (d a : Reg) (imm : BitVec 16) (s : State) : Out := .next (s.result d (s.reg a &&& imm16 imm) 4)

/-- ORI (R176). -/
def execOri (d a : Reg) (imm : BitVec 16) (s : State) : Out := .next (s.result d (s.reg a ||| imm16 imm) 4)

/-- XORI (R176). -/
def execXori (d a : Reg) (imm : BitVec 16) (s : State) : Out := .next (s.result d (s.reg a ^^^ imm16 imm) 4)

/-- SLTI (R176). -/
def execSlti (d a : Reg) (imm : BitVec 16) (s : State) : Out := .next (s.result d (flagWord ((s.reg a).slt (imm16 imm))) 4)

/-- SLTNI (R176). -/
def execSltni (d a : Reg) (imm : BitVec 16) (s : State) : Out := .next (s.result d (flagWord ((s.reg a).ult (imm16 imm))) 4)

/-- SLLI (R177). -/
def execSlli (d a : Reg) (n : BitVec 6) (s : State) : Out := .next (s.arith d (s.reg a <<< n.toNat) 4)

/-- SRLI (R177). -/
def execSrli (d a : Reg) (n : BitVec 6) (s : State) : Out := .next (s.arith d (s.reg a >>> n.toNat) 4)

/-- SRAI (R177). -/
def execSrai (d a : Reg) (n : BitVec 6) (s : State) : Out := .next (s.arith d ((s.reg a).sshiftRight n.toNat) 4)

/-- RORI (R177). -/
def execRori (d a : Reg) (n : BitVec 6) (s : State) : Out := .next (s.arith d ((s.reg a).rotateRight n.toNat) 4)

/-- LIH: k × 2^16 (R178). -/
def execLih (d : Reg) (imm : BitVec 16) (s : State) : Out := .next (s.result d (imm16 imm <<< 16) 4)

/-- ADDPC: pc + k × 4, pc the address of the word (R178). -/
def execAddpc (d : Reg) (imm : BitVec 16) (s : State) : Out := .next (s.arith d (s.me.pc + imm16 imm * 4) 4)

/-- BEQ: taken when a = b (R180). -/
def execBeq (a b : Reg) (off : BitVec 16) (s : State) : Out := .next (s.branch (s.reg a == s.reg b) off)

/-- BNE: taken when a ≠ b (R180). -/
def execBne (a b : Reg) (off : BitVec 16) (s : State) : Out := .next (s.branch (s.reg a != s.reg b) off)

/-- BLT: taken when S(a) < S(b) (R180). -/
def execBlt (a b : Reg) (off : BitVec 16) (s : State) : Out := .next (s.branch ((s.reg a).slt (s.reg b)) off)

/-- BGE: taken when S(a) ≥ S(b) (R180). -/
def execBge (a b : Reg) (off : BitVec 16) (s : State) : Out := .next (s.branch (!((s.reg a).slt (s.reg b))) off)

/-- BLTN: taken when Z(a) < Z(b) (R180). -/
def execBltn (a b : Reg) (off : BitVec 16) (s : State) : Out := .next (s.branch ((s.reg a).ult (s.reg b)) off)

/-- BGEN: taken when Z(a) ≥ Z(b) (R180). -/
def execBgen (a b : Reg) (off : BitVec 16) (s : State) : Out := .next (s.branch (!((s.reg a).ult (s.reg b))) off)

/-- JAL (R181). -/
def execJal (d : Reg) (off : BitVec 21) (s : State) : Out := .next (s.link d 4 (s.me.pc + off.signExtend 64 * 4))

/-- JALR: a is read before d is written, and bits [1:0] of the target are cleared (R182). -/
def execJalr (d a : Reg) (imm : BitVec 16) (s : State) : Out := .next (s.link d 4 ((s.reg a + imm16 imm) &&& ~~~3#64))

/-- A load of 1 byte, sign-extended (R184 to R189). -/
def execLdI8 (d a : Reg) (imm : BitVec 12) (s : State) : Out := .next (s.load 1 true d a imm)

/-- A load of 2 bytes, sign-extended (R184 to R189). -/
def execLdI16 (d a : Reg) (imm : BitVec 12) (s : State) : Out := .next (s.load 2 true d a imm)

/-- A load of 4 bytes, sign-extended (R184 to R189). -/
def execLdI32 (d a : Reg) (imm : BitVec 12) (s : State) : Out := .next (s.load 4 true d a imm)

/-- A load of 8 bytes, zero-extended (R184 to R189). -/
def execLd64 (d a : Reg) (imm : BitVec 12) (s : State) : Out := .next (s.load 8 false d a imm)

/-- A load of 1 byte, zero-extended (R184 to R189). -/
def execLdN8 (d a : Reg) (imm : BitVec 12) (s : State) : Out := .next (s.load 1 false d a imm)

/-- A load of 2 bytes, zero-extended (R184 to R189). -/
def execLdN16 (d a : Reg) (imm : BitVec 12) (s : State) : Out := .next (s.load 2 false d a imm)

/-- A load of 4 bytes, zero-extended (R184 to R189). -/
def execLdN32 (d a : Reg) (imm : BitVec 12) (s : State) : Out := .next (s.load 4 false d a imm)

/-- A store of 1 byte (R184 to R189). -/
def execSt8 (d a : Reg) (imm : BitVec 12) (s : State) : Out := .next (s.store 1 false d a imm)

/-- A store of 2 bytes (R184 to R189). -/
def execSt16 (d a : Reg) (imm : BitVec 12) (s : State) : Out := .next (s.store 2 false d a imm)

/-- A store of 4 bytes (R184 to R189). -/
def execSt32 (d a : Reg) (imm : BitVec 12) (s : State) : Out := .next (s.store 4 false d a imm)

/-- A store of 8 bytes (R184 to R189). -/
def execSt64 (d a : Reg) (imm : BitVec 12) (s : State) : Out := .next (s.store 8 false d a imm)

/-- A store of 8 bytes with the flush bit (R126) (R184 to R189). -/
def execSt64F (d a : Reg) (imm : BitVec 12) (s : State) : Out := .next (s.store 8 true d a imm)

/-- LI (R179). -/
def execLi (d : Reg) (imm : BitVec 32) (s : State) : Out := .next (s.result d (imm32 imm) 8)

/-- LIHI: imm in bits [63:32], bits [31:0] of a below (R179). -/
def execLihi (d a : Reg) (imm : BitVec 32) (s : State) : Out := .next (s.result d (imm ++ low32 (s.reg a)) 8)

/-- ADDL (R179). -/
def execAddl (d a : Reg) (imm : BitVec 32) (s : State) : Out := .next (s.arith d (s.reg a + imm32 imm) 8)

/-- JALL (R179). -/
def execJall (d : Reg) (imm : BitVec 32) (s : State) : Out := .next (s.link d 8 (s.me.pc + imm32 imm * 4))

end Sys2Proof.Machine
end

