-- ==== Sys2Proof/Machine/VecFloat.lean ====
section
/-!
DEFINITION. Vector floating-point members and conversions (R258 to R264).
-/
namespace Sys2Proof.Machine

/-- A one-source member that rounds: the exact result encoded once (R258). -/
def State.float1 (s : State) (vd va : VReg) (ty : BitVec 4) (rm : BitVec 3) (sat m : Bool) (f : Ext → Ext × Flags) : Out :=
  s.lane1 vd va ty m fun x => deliver ty.toNat (f (decodeTy ty.toNat x)) rm.toNat sat

/-- A two-source member that rounds. -/
def State.float2 (s : State) (vd va vb : VReg) (ty : BitVec 4) (rm : BitVec 3) (sat m : Bool) (f : Ext → Ext → Ext × Flags) : Out :=
  s.lane2 vd va vb ty m fun x y => deliver ty.toNat (f (decodeTy ty.toNat x) (decodeTy ty.toNat y)) rm.toNat sat

/-- The exact value of ±(x × y) + z with the flags of its operands: one rounding follows (R258). -/
def fusedExt (x y z : Ext) (rm : Nat) : Ext × Flags :=
  let p := mulExt x y
  let r := sumExt [p.1, z] rm
  (r.1, p.2 ||| r.2 ||| snanFlag [z])

/-- A fused multiply-add: the product's sign and the addend's sign may be changed first. -/
def State.fused (s : State) (vd va vb vc : VReg) (ty : BitVec 4) (rm : BitVec 3) (sat m negP negZ : Bool) : Out :=
  s.lane3 vd va vb vc ty m fun x y z =>
    let d (b : Nat) : Ext := decodeTy ty.toNat b
    deliver ty.toNat (fusedExt (if negP then (d x).flip else d x) (d y) (if negZ then (d z).flip else d z) rm.toNat) rm.toNat sat

/-- Whether x is below y with −0 below +0 (R259). -/
def belowZeros (x y : Ext) : Bool := x.lt y || (x.isZero && y.isZero && x.neg && !y.neg)

/-- Minimum (up = false) and maximum (up = true) of R259: with num, a single NaN gives the other operand. -/
def minMaxBits (up num : Bool) (ty x y : Nat) : Nat × Flags :=
  let a := decodeTy ty x
  let b := decodeTy ty y
  let f := snanFlag [a, b]
  if a.isNan && b.isNan then (canonNan ty, f)
  else if a.isNan || b.isNan then (if num then (if a.isNan then y else x) else canonNan ty, f)
  else if up then (if belowZeros a b then y else x, f)
  else (if belowZeros b a then y else x, f)

/-- VFRND of a value (R261). -/
def roundIntegral (ty x rm : Nat) : Nat × Flags :=
  match decodeTy ty x with
  | .nan b => encodeTy ty (.nan b) rm false
  | .inf b => encodeTy ty (.inf b) rm false
  | .fin neg n e =>
    let (k, exact) := roundUnit rm neg n e 0
    ((encodeTy ty (.fin neg k 0) rm false).1, if exact then 0 else Flag.nx)

/-- The class bit of a value (Table 11.6). -/
def classBits (ty x : Nat) : Nat :=
  match decodeTy ty x with
  | .nan b => if b then 2 ^ 8 else 2 ^ 9
  | .inf b => if b then 2 ^ 0 else 2 ^ 7
  | .fin neg n _ =>
    let sub := x / 2 ^ fracBits ty % 2 ^ expBits ty == 0
    if n = 0 then (if neg then 2 ^ 3 else 2 ^ 4)
    else if sub then (if neg then 2 ^ 2 else 2 ^ 5)
    else (if neg then 2 ^ 1 else 2 ^ 6)

/-- x × 2^k (R261): beyond ±4,096 every format overflows or underflows in the same way. -/
def scaleBy (x : Ext) (k : Int) : Ext × Flags :=
  (match x with
    | .fin neg n e => .fin neg n (e + max (-4096) (min 4096 k))
    | y => y, snanFlag [x])

/-- One conversion (R264): between integer types no flag is set (R140); between a type and itself x is returned unchanged but for a NaN, which
becomes the canonical one, with NV when it is signalling; to E8M0, R139 applies, so that the NaN of E8M0 sets NV there. -/
def convertElem (ty ty2 rm : Nat) (sat : Bool) (x : Nat) : Nat × Flags :=
  let v := decodeTy ty2 x
  if tyInt ty && tyInt ty2 then (match v with | .fin neg n _ => (storeInt ty (if neg then -(n : Int) else n) sat, 0) | _ => (0, 0))
  else if ty = ty2 ∧ ty ≠ Ty.e8m0 then (if v.isNan then (canonNan ty, snanFlag [v]) else (x, 0))
  else encodeTy ty v rm sat

/-- VFADD (Table 11.5). -/
def execVfadd (vd va vb : VReg) (ty : BitVec 4) (rm : BitVec 3) (sat m : Bool) (s : State) : Out :=
  s.float2 vd va vb ty rm sat m fun x y => sumExt [x, y] rm.toNat

/-- VFSUB (Table 11.5). -/
def execVfsub (vd va vb : VReg) (ty : BitVec 4) (rm : BitVec 3) (sat m : Bool) (s : State) : Out :=
  s.float2 vd va vb ty rm sat m fun x y => sumExt [x, y.flip] rm.toNat

/-- VFMUL (Table 11.5). -/
def execVfmul (vd va vb : VReg) (ty : BitVec 4) (rm : BitVec 3) (sat m : Bool) (s : State) : Out :=
  s.float2 vd va vb ty rm sat m mulExt

/-- VFMA: x × y + z (Table 11.5). -/
def execVfma (vd va vb vc : VReg) (ty : BitVec 4) (rm : BitVec 3) (sat m : Bool) (s : State) : Out :=
  s.fused vd va vb vc ty rm sat m false false

/-- VFMS: x × y − z (Table 11.5). -/
def execVfms (vd va vb vc : VReg) (ty : BitVec 4) (rm : BitVec 3) (sat m : Bool) (s : State) : Out :=
  s.fused vd va vb vc ty rm sat m false true

/-- VFNMA: z − x × y (Table 11.5). -/
def execVfnma (vd va vb vc : VReg) (ty : BitVec 4) (rm : BitVec 3) (sat m : Bool) (s : State) : Out :=
  s.fused vd va vb vc ty rm sat m true false

/-- VFMIN (R259). -/
def execVfmin (vd va vb : VReg) (ty : BitVec 4) (m : Bool) (s : State) : Out :=
  s.lane2 vd va vb ty m fun x y => minMaxBits false false ty.toNat x y

/-- VFMAX (R259). -/
def execVfmax (vd va vb : VReg) (ty : BitVec 4) (m : Bool) (s : State) : Out :=
  s.lane2 vd va vb ty m fun x y => minMaxBits true false ty.toNat x y

/-- VFMINP (R259). -/
def execVfminp (vd va vb : VReg) (ty : BitVec 4) (m : Bool) (s : State) : Out :=
  s.lane2 vd va vb ty m fun x y => minMaxBits false true ty.toNat x y

/-- VFMAXP (R259). -/
def execVfmaxp (vd va vb : VReg) (ty : BitVec 4) (m : Bool) (s : State) : Out :=
  s.lane2 vd va vb ty m fun x y => minMaxBits true true ty.toNat x y

/-- VFABS: the sign bit cleared (R260). -/
def execVfabs (vd va : VReg) (ty : BitVec 4) (m : Bool) (s : State) : Out :=
  s.lane1 vd va ty m fun x => (x % 2 ^ (tyBits ty.toNat - 1), 0)

/-- VFNEG: the sign bit inverted (R260). -/
def execVfneg (vd va : VReg) (ty : BitVec 4) (m : Bool) (s : State) : Out :=
  s.lane1 vd va ty m fun x => (x ^^^ 2 ^ (tyBits ty.toNat - 1), 0)

/-- VFCPYS: the sign bit of y (R260). -/
def execVfcpys (vd va vb : VReg) (ty : BitVec 4) (m : Bool) (s : State) : Out :=
  s.lane2 vd va vb ty m fun x y =>
    let h := 2 ^ (tyBits ty.toNat - 1)
    (x % h + y / h * h, 0)

/-- VFDIV (R262). -/
def execVfdiv (vd va vb : VReg) (ty : BitVec 4) (rm : BitVec 3) (sat m : Bool) (s : State) : Out :=
  s.float2 vd va vb ty rm sat m divExt

/-- VFSQRT (R262). -/
def execVfsqrt (vd va : VReg) (ty : BitVec 4) (rm : BitVec 3) (sat m : Bool) (s : State) : Out :=
  s.float1 vd va ty rm sat m sqrtExt

/-- VEXP2 (R262). -/
def execVexp2 (vd va : VReg) (ty : BitVec 4) (rm : BitVec 3) (sat m : Bool) (s : State) : Out :=
  s.lane1 vd va ty m fun x => exp2Bits ty.toNat x rm.toNat sat

/-- VLOG2 (R262). -/
def execVlog2 (vd va : VReg) (ty : BitVec 4) (rm : BitVec 3) (sat m : Bool) (s : State) : Out :=
  s.lane1 vd va ty m fun x => log2Bits ty.toNat x rm.toNat sat

/-- VRCP: 1 / x (R262). -/
def execVrcp (vd va : VReg) (ty : BitVec 4) (rm : BitVec 3) (sat m : Bool) (s : State) : Out :=
  s.float1 vd va ty rm sat m fun x => divExt (.fin false 1 0) x

/-- VRSQRT (R262). -/
def execVrsqrt (vd va : VReg) (ty : BitVec 4) (rm : BitVec 3) (sat m : Bool) (s : State) : Out :=
  s.float1 vd va ty rm sat m rsqrtExt

/-- VSINPI (R262). -/
def execVsinpi (vd va : VReg) (ty : BitVec 4) (rm : BitVec 3) (sat m : Bool) (s : State) : Out :=
  s.lane1 vd va ty m fun x => sinpiBits false ty.toNat x rm.toNat sat

/-- VCOSPI (R262). -/
def execVcospi (vd va : VReg) (ty : BitVec 4) (rm : BitVec 3) (sat m : Bool) (s : State) : Out :=
  s.lane1 vd va ty m fun x => sinpiBits true ty.toNat x rm.toNat sat

/-- VFRND (R261). -/
def execVfrnd (vd va : VReg) (ty : BitVec 4) (rm : BitVec 3) (m : Bool) (s : State) : Out :=
  s.lane1 vd va ty m fun x => roundIntegral ty.toNat x rm.toNat

/-- VFCLASS (R261). -/
def execVfclass (vd va : VReg) (ty : BitVec 4) (m : Bool) (s : State) : Out :=
  s.lane1 vd va ty m fun x => (classBits ty.toNat x, 0)

/-- VFSCALE (R261). -/
def execVfscale (vd va vb : VReg) (ty : BitVec 4) (rm : BitVec 3) (sat m : Bool) (s : State) : Out :=
  s.lane2 vd va vb ty m fun x y =>
    deliver ty.toNat (scaleBy (decodeTy ty.toNat x) (sextInt y (tyBits ty.toNat))) rm.toNat sat

/-- VCVT: types of equal width (R263, R264). -/
def execVcvt (vd va : VReg) (ty ty2 : BitVec 4) (rm : BitVec 3) (sat m : Bool) (s : State) : Out :=
  s.writeLanes vd (tyBits ty.toNat) 1 m ((s.ctx.lanes va ty2.toNat).map (convertElem ty.toNat ty2.toNat rm.toNat sat))

/-- VCVTW: to a group of wider registers (R248, R263, R264). -/
def execVcvtw (vd va : VReg) (ty ty2 : BitVec 4) (rm : BitVec 3) (sat m : Bool) (s : State) : Out :=
  let n := tyBits ty.toNat
  s.writeLanes vd n (n / tyBits ty2.toNat) m ((s.ctx.lanes va ty2.toNat).map (convertElem ty.toNat ty2.toNat rm.toNat sat))

/-- VCVTN: from a group of wider registers (R248, R263, R264). -/
def execVcvtn (vd va : VReg) (ty ty2 : BitVec 4) (rm : BitVec 3) (sat m : Bool) (s : State) : Out :=
  let n2 := tyBits ty2.toNat
  s.writeLanes vd (tyBits ty.toNat) 1 m
    ((s.ctx.groupLanes va n2 (n2 / tyBits ty.toNat)).map (convertElem ty.toNat ty2.toNat rm.toNat sat))

end Sys2Proof.Machine
end

