-- ==== Sys2Proof/Machine/VecInt.lean ====
section
/-!
DEFINITION. Vector integer, logic and carry-less members (R253 to R257).
-/
namespace Sys2Proof.Machine

/-- V(e): the value of an element under an integer type (R253). -/
def laneVal (ty e : Nat) : Int := if tySigned ty then sextInt e (tyBits ty) else (e : Int)

/-- An integer result stored modulo 2^n, with no flag (R253). -/
def laneInt (ty : Nat) (v : Int) : Nat × Flags := (wrapBits v (tyBits ty), 0)

/-- An integer result clamped into its type (R253). -/
def laneClamp (ty : Nat) (v : Int) : Nat × Flags := laneInt ty (clampInt ty v)

/-- A two-source integer member. -/
def State.intOp (s : State) (vd va vb : VReg) (ty : BitVec 4) (m : Bool) (f : Int → Int → Int) : Out :=
  s.lane2 vd va vb ty m fun x y => laneInt ty.toNat (f (laneVal ty.toNat x) (laneVal ty.toNat y))

/-- A two-source member that saturates. -/
def State.satOp (s : State) (vd va vb : VReg) (ty : BitVec 4) (m : Bool) (f : Int → Int → Int) : Out :=
  s.lane2 vd va vb ty m fun x y => laneClamp ty.toNat (f (laneVal ty.toNat x) (laneVal ty.toNat y))

/-- A two-source member on bits. -/
def State.bitOp (s : State) (vd va vb : VReg) (ty : BitVec 4) (m : Bool) (f : Nat → Nat → Nat) : Out :=
  s.lane2 vd va vb ty m fun x y => (f x y, 0)

/-- A shift of a lane by k (R254): 0 left, 1 right logical, 2 right arithmetic. -/
def shiftLane (kind ty x k : Nat) : Nat × Flags :=
  let n := tyBits ty
  match kind with
  | 0 => (x * 2 ^ k % 2 ^ n, 0)
  | 1 => (x / 2 ^ k, 0)
  | _ => (wrapBits (sextInt x n / (2 ^ k : Nat)) n, 0)

/-- A shift in register form: the lane of vb modulo n (R254). -/
def State.shiftReg (s : State) (kind : Nat) (vd va vb : VReg) (ty : BitVec 4) (m : Bool) : Out :=
  s.lane2 vd va vb ty m fun x y => shiftLane kind ty.toNat x (y % tyBits ty.toNat)

/-- A shift in immediate form (R254). -/
def State.shiftImm (s : State) (kind : Nat) (vd va : VReg) (k : BitVec 5) (ty : BitVec 4) (m : Bool) : Out :=
  s.lane1 vd va ty m fun x => shiftLane kind ty.toNat x k.toNat

/-- A widening member with g = 2 (R255). -/
def State.wideOp (s : State) (vd va vb : VReg) (ty ty2 : BitVec 4) (m : Bool) (f : Int → Int → Int) : Out :=
  let n := tyBits ty.toNat
  s.writeLanes vd n (n / tyBits ty2.toNat) m
    (List.zipWith (fun x y => laneInt ty.toNat (f (laneVal ty2.toNat x) (laneVal ty2.toNat y)))
      (s.ctx.lanes va ty2.toNat) (s.ctx.lanes vb ty2.toNat))

/-- The dot product of VDOT4 for destination lane j (R256). -/
def dot4 (ty ty2 : Nat) (sat : Bool) (xs ys : List Nat) (j z : Nat) : Nat × Flags :=
  let t : Int := (List.range 4).foldl (fun (t : Int) k =>
    t + laneVal ty2 (xs.getD (4 * j + k) 0) * laneVal ty2 (ys.getD (4 * j + k) 0)) (laneVal ty z)
  if sat then laneClamp ty t else laneInt ty t

/-- VADD (Table 11.4). -/
def execVadd (vd va vb : VReg) (ty : BitVec 4) (m : Bool) (s : State) : Out :=
  s.intOp vd va vb ty m fun x y => x + y

/-- VSUB (Table 11.4). -/
def execVsub (vd va vb : VReg) (ty : BitVec 4) (m : Bool) (s : State) : Out :=
  s.intOp vd va vb ty m fun x y => x - y

/-- VMUL (Table 11.4). -/
def execVmul (vd va vb : VReg) (ty : BitVec 4) (m : Bool) (s : State) : Out :=
  s.intOp vd va vb ty m fun x y => x * y

/-- VMULH: the high half of the 2n-bit product (Table 11.4). -/
def execVmulh (vd va vb : VReg) (ty : BitVec 4) (m : Bool) (s : State) : Out :=
  s.intOp vd va vb ty m fun x y => x * y / (2 ^ tyBits ty.toNat : Nat)

/-- VMAD (Table 11.4). -/
def execVmad (vd va vb vc : VReg) (ty : BitVec 4) (m : Bool) (s : State) : Out :=
  s.lane3 vd va vb vc ty m fun x y z =>
    laneInt ty.toNat (laneVal ty.toNat x * laneVal ty.toNat y + laneVal ty.toNat z)

/-- VMIN (Table 11.4). -/
def execVmin (vd va vb : VReg) (ty : BitVec 4) (m : Bool) (s : State) : Out :=
  s.intOp vd va vb ty m fun x y => if x ≤ y then x else y

/-- VMAX (Table 11.4). -/
def execVmax (vd va vb : VReg) (ty : BitVec 4) (m : Bool) (s : State) : Out :=
  s.intOp vd va vb ty m fun x y => if x ≥ y then x else y

/-- VABS (Table 11.4). -/
def execVabs (vd va : VReg) (ty : BitVec 4) (sat m : Bool) (s : State) : Out :=
  s.lane1 vd va ty m fun x =>
    let v : Int := (laneVal ty.toNat x).natAbs
    if sat then laneClamp ty.toNat v else laneInt ty.toNat v

/-- VNEG (Table 11.4). -/
def execVneg (vd va : VReg) (ty : BitVec 4) (sat m : Bool) (s : State) : Out :=
  s.lane1 vd va ty m fun x =>
    let v : Int := -(laneVal ty.toNat x)
    if sat then laneClamp ty.toNat v else laneInt ty.toNat v

/-- VAND (Table 11.4). -/
def execVand (vd va vb : VReg) (ty : BitVec 4) (m : Bool) (s : State) : Out :=
  s.bitOp vd va vb ty m fun x y => x &&& y

/-- VOR (Table 11.4). -/
def execVor (vd va vb : VReg) (ty : BitVec 4) (m : Bool) (s : State) : Out :=
  s.bitOp vd va vb ty m fun x y => x ||| y

/-- VXOR (Table 11.4). -/
def execVxor (vd va vb : VReg) (ty : BitVec 4) (m : Bool) (s : State) : Out :=
  s.bitOp vd va vb ty m fun x y => x ^^^ y

/-- VNOT (Table 11.4). -/
def execVnot (vd va : VReg) (ty : BitVec 4) (m : Bool) (s : State) : Out :=
  s.lane1 vd va ty m fun x => (2 ^ tyBits ty.toNat - 1 - x, 0)

/-- VSLL, register form (R254). -/
def execVsll (vd va vb : VReg) (ty : BitVec 4) (m : Bool) (s : State) : Out :=
  s.shiftReg 0 vd va vb ty m

/-- VSLL, immediate form (R254). -/
def execVsllImm (vd va : VReg) (k : BitVec 5) (ty : BitVec 4) (m : Bool) (s : State) : Out :=
  s.shiftImm 0 vd va k ty m

/-- VSRL, register form (R254). -/
def execVsrl (vd va vb : VReg) (ty : BitVec 4) (m : Bool) (s : State) : Out :=
  s.shiftReg 1 vd va vb ty m

/-- VSRL, immediate form (R254). -/
def execVsrlImm (vd va : VReg) (k : BitVec 5) (ty : BitVec 4) (m : Bool) (s : State) : Out :=
  s.shiftImm 1 vd va k ty m

/-- VSRA, register form (R254). -/
def execVsra (vd va vb : VReg) (ty : BitVec 4) (m : Bool) (s : State) : Out :=
  s.shiftReg 2 vd va vb ty m

/-- VSRA, immediate form (R254). -/
def execVsraImm (vd va : VReg) (k : BitVec 5) (ty : BitVec 4) (m : Bool) (s : State) : Out :=
  s.shiftImm 2 vd va k ty m

/-- VADDS (Table 11.4). -/
def execVadds (vd va vb : VReg) (ty : BitVec 4) (m : Bool) (s : State) : Out :=
  s.satOp vd va vb ty m fun x y => x + y

/-- VSUBS (Table 11.4). -/
def execVsubs (vd va vb : VReg) (ty : BitVec 4) (m : Bool) (s : State) : Out :=
  s.satOp vd va vb ty m fun x y => x - y

/-- VAVG: floor((x + y + 1) / 2) (Table 11.4). -/
def execVavg (vd va vb : VReg) (ty : BitVec 4) (m : Bool) (s : State) : Out :=
  s.intOp vd va vb ty m fun x y => (x + y + 1) / 2

/-- VCLZ (Table 11.4). -/
def execVclz (vd va : VReg) (ty : BitVec 4) (m : Bool) (s : State) : Out :=
  s.lane1 vd va ty m fun x => (clzFrom x (tyBits ty.toNat), 0)

/-- VPOPC (Table 11.4). -/
def execVpopc (vd va : VReg) (ty : BitVec 4) (m : Bool) (s : State) : Out :=
  s.lane1 vd va ty m fun x => (popFrom x (tyBits ty.toNat), 0)

/-- VCLMUL: the low half of the carry-less product (R257). -/
def execVclmul (vd va vb : VReg) (ty : BitVec 4) (m : Bool) (s : State) : Out :=
  s.bitOp vd va vb ty m fun x y => clmulFrom x y 64 % 2 ^ 64

/-- VCLMULH: the high half (R257). -/
def execVclmulh (vd va vb : VReg) (ty : BitVec 4) (m : Bool) (s : State) : Out :=
  s.bitOp vd va vb ty m fun x y => clmulFrom x y 64 / 2 ^ 64

/-- VMULW (R255). -/
def execVmulw (vd va vb : VReg) (ty ty2 : BitVec 4) (m : Bool) (s : State) : Out :=
  s.wideOp vd va vb ty ty2 m fun x y => x * y

/-- VADDW (R255). -/
def execVaddw (vd va vb : VReg) (ty ty2 : BitVec 4) (m : Bool) (s : State) : Out :=
  s.wideOp vd va vb ty ty2 m fun x y => x + y

/-- VDOT4 (R256). -/
def execVdot4 (vd va vb vc : VReg) (ty ty2 : BitVec 4) (sat m : Bool) (s : State) : Out :=
  let xs := s.ctx.lanes va ty2.toNat
  let ys := s.ctx.lanes vb ty2.toNat
  s.writeLanes vd (tyBits ty.toNat) 1 m ((s.ctx.lanes vc ty.toNat).mapIdx fun j z => dot4 ty.toNat ty2.toNat sat xs ys j z)

end Sys2Proof.Machine
end

