-- ==== Sys2Proof/Machine/VecMove.lean ====
section
/-!
DEFINITION. Mask members, permutes and reductions (R265 to R271).
-/
namespace Sys2Proof.Machine

/-! ## Mask members (Table 12.1) -/

/-- The predicate of VCMP on two elements with its flags (Table 12.2). -/
def compareElem (pred ty x y : Nat) : Bool × Flags :=
  let a := decodeTy ty x
  let b := decodeTy ty y
  let nan := a.isNan || b.isNan
  let quiet := snanFlag [a, b]
  match pred with
  | 0 => (a.eqv b, quiet)
  | 1 => (!a.eqv b, quiet)
  | 2 => (a.lt b, if nan then Flag.nv else 0)
  | 3 => (!nan && !b.lt a, if nan then Flag.nv else 0)
  | 4 => (b.lt a, if nan then Flag.nv else 0)
  | 5 => (!nan && !a.lt b, if nan then Flag.nv else 0)
  | _ => (nan, quiet)

/-- Pushing an entry of lane bits, ANDed with the old top under m = 1 (Table 12.1). -/
def State.pushLanes (s : State) (m : Bool) (bs : List (Bool × Flags)) : Out :=
  match s.ctx.activity m with
  | none => .next (s.vfail Cause.maskstack)
  | some act =>
    s.pushMask (maskOf (bs.mapIdx fun i b => b.1 && act i)) ((bs.mapIdx fun i b => if act i then b.2 else 0).foldl (· ||| ·) 0)

/-- The bits 0 to cnt − 1 of an entry. -/
def topBits (t : BitVec 1024) (cnt : Nat) : List Bool := (List.range cnt).map fun i => t.getLsbD i

/-- The number of set bits. -/
def countBits (bs : List Bool) : Nat := (bs.filter id).length

/-! ## Permutes (Table 12.3) -/

/-- Lanes packed by the mask (VCMPRS of R270), before the zeros. -/
def compress : List Bool → List Nat → List Nat
  | true :: bs, x :: xs => x :: compress bs xs
  | false :: bs, _ :: xs => compress bs xs
  | _, _ => []

/-- Lanes spread by the mask (VEXPND of R270). -/
def expand : List Bool → List Nat → List Nat
  | [], _ => []
  | true :: bs, x :: xs => x :: expand bs xs
  | true :: bs, [] => 0 :: expand bs []
  | false :: bs, xs => 0 :: expand bs xs

/-- Counts of set bits below each lane (VIOTA of R270). -/
def iota (n : Nat) : Nat → List Bool → List Nat
  | _, [] => []
  | k, b :: bs => k % 2 ^ n :: iota n (if b then k + 1 else k) bs

/-- A permute: lane i of the result is given by the lane rule (R249, R269). -/
def State.permute (s : State) (vd : VReg) (ty : BitVec 4) (m : Bool) (f : Nat → Nat) : Out :=
  s.writeLanes vd (tyBits ty.toNat) 1 m ((List.range (lanes ty.toNat)).map fun i => (f i, 0))

/-- Writing whole registers of lanes without a mask. -/
def State.wholeLanes (s : State) (vd : VReg) (ty : BitVec 4) (xs : List Nat) : State :=
  s.modCtx fun y => y.setV vd (BitVec.ofNat 4096 (packLanes (tyBits ty.toNat) xs))

/-! ## Reductions (Table 12.4) -/

/-- The lanes of a source that a reduction folds: an inactive lane gives the identity (R271). -/
def activeLanes (act : Nat → Bool) (ident : α) (xs : List α) : List α := xs.mapIdx fun i x => if act i then x else ident

/-- A reduction: element 0 receives the result, and every other bit of vd is 0 (R271). -/
def State.reduce (s : State) (vd : VReg) (m : Bool) (go : (Nat → Bool) → Nat × Flags) : Out :=
  match s.ctx.activity m with
  | none => .next (s.vfail Cause.maskstack)
  | some act =>
    let r := go act
    .next ((s.modCtx fun y => y.setV vd (BitVec.ofNat 4096 r.1)).vdone r.2)

/-- An integer reduction. -/
def State.reduceInt (s : State) (vd va : VReg) (ty : BitVec 4) (m : Bool) (ident : Int) (f : Int → Int → Int) : Out :=
  s.reduce vd m fun act =>
    laneInt ty.toNat ((activeLanes act ident ((s.ctx.lanes va ty.toNat).map (laneVal ty.toNat))).foldl f ident)

/-- VCMP (R268). -/
def execVcmp (va vb : VReg) (ty : BitVec 4) (pred : BitVec 3) (m : Bool) (s : State) : Out :=
  s.pushLanes m (List.zipWith (compareElem pred.toNat ty.toNat) (s.ctx.lanes va ty.toNat) (s.ctx.lanes vb ty.toNat))

/-- MPUSH (Table 12.1). -/
def execMpush (va : VReg) (ty : BitVec 4) (m : Bool) (s : State) : Out :=
  s.pushLanes m ((s.ctx.lanes va ty.toNat).map fun x => (x != 0, 0))

/-- MINV (Table 12.1): the bits at and above cnt are cleared (R265). -/
def execMinv (ty : BitVec 4) (s : State) : Out :=
  s.onTop fun t s =>
    .next ((s.modCtx fun y => { y with masks := maskOf ((topBits t (lanes ty.toNat)).map not) :: y.masks.tail }).vdone 0)

/-- MAND (Table 12.1). -/
def execMand  (s : State) : Out :=
  s.onTwo fun t u => u &&& t

/-- MOR (Table 12.1). -/
def execMor  (s : State) : Out :=
  s.onTwo fun t u => u ||| t

/-- MANDN: u AND NOT t (Table 12.1). -/
def execMandn  (s : State) : Out :=
  s.onTwo fun t u => u &&& ~~~t

/-- MPOP (Table 12.1). -/
def execMpop  (s : State) : Out :=
  s.onTop fun _ s => .next ((s.modCtx fun y => { y with masks := y.masks.tail }).vdone 0)

/-- MCNT (Table 12.1). -/
def execMcnt (ad : AReg) (ty : BitVec 4) (s : State) : Out :=
  s.onTop fun t s =>
    .next ((s.modCtx fun y => y.setA ad (BitVec.ofNat 64 (countBits (topBits t (lanes ty.toNat))))).vdone 0)

/-- MFIRST (Table 12.1). -/
def execMfirst (ad : AReg) (ty : BitVec 4) (s : State) : Out :=
  s.onTop fun t s =>
    .next ((s.modCtx fun y => y.setA ad (BitVec.ofNat 64 ((topBits t (lanes ty.toNat)).findIdx id))).vdone 0)

/-- VBCAST (Table 12.3). -/
def execVbcast (vd va : VReg) (ty : BitVec 4) (m : Bool) (imm : BitVec 16) (s : State) : Out :=
  let xs := s.ctx.lanes va ty.toNat
  s.permute vd ty m fun _ => xs.getD imm.toNat 0

/-- VSPLAT (Table 12.3). -/
def execVsplat (vd : VReg) (an : AReg) (ty : BitVec 4) (m : Bool) (s : State) : Out :=
  let x := (s.ctx.areg an).toNat % 2 ^ tyBits ty.toNat
  s.permute vd ty m fun _ => x

/-- VSHUF (Table 12.3). -/
def execVshuf (vd va vb : VReg) (ty : BitVec 4) (m : Bool) (s : State) : Out :=
  let xs := s.ctx.lanes va ty.toNat
  let ix := s.ctx.lanes vb ty.toNat
  s.permute vd ty m fun i => xs.getD (ix.getD i 0 % lanes ty.toNat) 0

/-- VROT (Table 12.3). -/
def execVrot (vd va : VReg) (ty : BitVec 4) (m : Bool) (imm : BitVec 16) (s : State) : Out :=
  let xs := s.ctx.lanes va ty.toNat
  s.permute vd ty m fun i => xs.getD ((i + imm.toNat) % lanes ty.toNat) 0

/-- VSLIDE (Table 12.3). -/
def execVslide (vd va vb : VReg) (ty : BitVec 4) (m : Bool) (imm : BitVec 16) (s : State) : Out :=
  let xs := s.ctx.lanes va ty.toNat ++ s.ctx.lanes vb ty.toNat
  s.permute vd ty m fun i => xs.getD (i + imm.toNat) 0

/-- VZIP (Table 12.3). -/
def execVzip (vd va vb : VReg) (ty : BitVec 4) (s : State) : Out :=
  let n := lanes ty.toNat
  let seq := (List.zipWith (fun x y => [x, y]) (s.ctx.lanes va ty.toNat) (s.ctx.lanes vb ty.toNat)).flatten
  .next (((s.wholeLanes vd ty (seq.take n)).wholeLanes (vd + 1) ty (seq.drop n)).vdone 0)

/-- VUZP (Table 12.3). -/
def execVuzp (vd va : VReg) (ty : BitVec 4) (s : State) : Out :=
  let n := lanes ty.toNat
  let seq := s.ctx.lanes va ty.toNat ++ s.ctx.lanes (va + 1) ty.toNat
  let part (k : Nat) : List Nat := (List.range n).map fun i => seq.getD (2 * i + k) 0
  .next (((s.wholeLanes vd ty (part 0)).wholeLanes (vd + 1) ty (part 1)).vdone 0)

/-- VCMPRS (R270). -/
def execVcmprs (vd va : VReg) (an : AReg) (ty : BitVec 4) (s : State) : Out :=
  s.onTop fun t s =>
    let xs := compress (topBits t (lanes ty.toNat)) (s.ctx.lanes va ty.toNat)
    .next (((s.wholeLanes vd ty xs).modCtx fun y => y.setA an (BitVec.ofNat 64 xs.length)).vdone 0)

/-- VEXPND (R270). -/
def execVexpnd (vd va : VReg) (ty : BitVec 4) (s : State) : Out :=
  s.onTop fun t s =>
    .next ((s.wholeLanes vd ty (expand (topBits t (lanes ty.toNat)) (s.ctx.lanes va ty.toNat))).vdone 0)

/-- VIOTA (R270). -/
def execViota (vd : VReg) (ty : BitVec 4) (s : State) : Out :=
  s.onTop fun t s =>
    .next ((s.wholeLanes vd ty (iota (tyBits ty.toNat) 0 (topBits t (lanes ty.toNat)))).vdone 0)

/-- VSEL (Table 12.3). -/
def execVsel (vd va vb : VReg) (ty : BitVec 4) (s : State) : Out :=
  s.onTop fun t s =>
    let ys := s.ctx.lanes vb ty.toNat
    .next ((s.wholeLanes vd ty ((s.ctx.lanes va ty.toNat).mapIdx fun i x => if t.getLsbD i then x else ys.getD i 0)).vdone 0)

/-- VMOV (Table 12.3). -/
def execVmov (vd va : VReg) (ty : BitVec 4) (m : Bool) (s : State) : Out :=
  s.lane1 vd va ty m fun x => (x, 0)

/-- VRSUM (Table 12.4). -/
def execVrsum (vd va : VReg) (ty : BitVec 4) (sat m : Bool) (s : State) : Out :=
  s.reduce vd m fun act =>
    let v : Int := (activeLanes act 0 ((s.ctx.lanes va ty.toNat).map (laneVal ty.toNat))).foldl (· + ·) 0
    if sat then laneClamp ty.toNat v else laneInt ty.toNat v

/-- VRMAX (Table 12.4). -/
def execVrmax (vd va : VReg) (ty : BitVec 4) (m : Bool) (s : State) : Out :=
  s.reduceInt vd va ty m (intMin ty.toNat) max

/-- VRMIN (Table 12.4). -/
def execVrmin (vd va : VReg) (ty : BitVec 4) (m : Bool) (s : State) : Out :=
  s.reduceInt vd va ty m (intMax ty.toNat) min

/-- VRXOR (Table 12.4). -/
def execVrxor (vd va : VReg) (ty : BitVec 4) (m : Bool) (s : State) : Out :=
  s.reduce vd m fun act => ((activeLanes act 0 (s.ctx.lanes va ty.toNat)).foldl (· ^^^ ·) 0, 0)

/-- VRFSUM: the tree of R147 (Table 12.4). -/
def execVrfsum (vd va : VReg) (ty : BitVec 4) (rm : BitVec 3) (sat m : Bool) (s : State) : Out :=
  s.reduce vd m fun act =>
    let r := treeSum rm.toNat 9 (activeLanes act (.fin true 0 0) ((s.ctx.lanes va ty.toNat).map (decodeTy ty.toNat)))
    deliver ty.toNat r rm.toNat sat

/-- VRFMAX: the maximum under VFMAX rules (Table 12.4). -/
def execVrfmax (vd va : VReg) (ty : BitVec 4) (m : Bool) (s : State) : Out :=
  s.reduce vd m fun act =>
    let xs := activeLanes act (.inf true) ((s.ctx.lanes va ty.toNat).map (decodeTy ty.toNat))
    ((encodeTy ty.toNat (xs.foldl maxExt (.inf true)) 0 false).1, snanFlag xs)

end Sys2Proof.Machine
end

