-- ==== Sys2Proof/Machine/VecMem.lean ====
section
/-!
DEFINITION. Vector loads and stores, address registers, control words, and words that encode nothing (R153, R272 to R279).
-/
namespace Sys2Proof.Machine

/-! ## Checks (R273, R274) -/

/-- The offset in the own scratchpad at which an element with a linear address lies under a layout (R273). -/
def State.padOff (s : State) (layout va : Nat) : Option Nat :=
  (ownKey s.myCore va).map fun k => skew layout (k - spBase s.myCore)

/-- The offsets of an operand's spans, first and last byte, widened to whole lines of 512 bytes on a skewed buffer (R274). -/
def Core.wideSpans (x : Core) (c : Nat) (o : Operand) : List (Nat × Nat) :=
  if (x.opBuf o).layout = 0 then x.padSpans c o
  else (x.padSpans c o).map fun p => (p.1 / 512 * 512, p.2 / 512 * 512 + 511)

/-- The spans of the operands of a VRUN that pass a test; an empty operand has none. -/
def Core.spansWhere (x : Core) (c : Nat) (t : Task) (p : Operand → Bool) : List (Nat × Nat) :=
  (t.ops.filter fun o => !x.opEmpty o && p o).flatMap fun o => x.wideSpans c o

/-- Whether n bytes from an offset each lie in some span. -/
def within (spans : List (Nat × Nat)) (off n : Nat) : Bool :=
  (List.range n).all fun i => spans.any fun p => p.1 ≤ off + i && off + i ≤ p.2

/-- Whether n bytes from an offset touch some span. -/
def meetsSpan (spans : List (Nat × Nat)) (off n : Nat) : Bool := spans.any fun p => p.1 < off + n && off ≤ p.2

/-- The checks of R274 over the active lanes, with R80's before the tag check and poison last: none when all pass. lanes are
(active, linear address), n bytes each. -/
def State.laneFault (s : State) (store : Bool) (layout n align : Nat) (lanes : List (Bool × Nat)) (t : Task) : Option Nat :=
  let c := s.myCore
  let x := s.here
  let on := (lanes.filter (·.1)).map (·.2)
  let offs := on.filterMap fun va => s.padOff layout va
  let spans := x.spansWhere c t fun o => !store || rgnWrites o.rgn
  if on.any fun va => va % align ≠ 0 then some Cause.misalign
  else if on.any fun va => (s.padOff layout va).isNone then some Cause.xlate
  else if offs.any fun o => !within spans o n then some Cause.regionEscape
  else if store && !on.isEmpty && x.frozen then some Cause.protect
  else if store && offs.any fun o => s.tagged (spBase c + o) n then some Cause.barrierStore
  else if !store && offs.any fun o => s.poisoned (spBase c + o) n then some Cause.poison
  else none

/-- A vector access: the checks are made before any byte is read or written (R274); then the soft errors under the active lanes are found,
which may poison a word that is read (R473), and go acts with the key of every lane. -/
def State.laneAccess (s : State) (store : Bool) (layout n align : Nat) (lanes : List (Bool × Nat))
    (go : List Nat → State → Out) : Out :=
  match s.ctxTask with
  | none => .next s
  | some t =>
    let key (va : Nat) : Nat := spBase s.myCore + (s.padOff layout va).getD 0
    match s.laneFault store layout n align lanes t with
    | some e => .next (s.vfail e)
    | none =>
      let s := s.scan ((lanes.filter (·.1)).map fun l => key l.2) n
      match s.laneFault store layout n align lanes t with
      | some e => .next (s.vfail e)
      | none =>
        let kept := s.here.spansWhere s.myCore t fun o => rgnMode o.rgn == 3 && !(s.here.opBuf o).renamed
        let hit := store && lanes.any fun l => l.1 && meetsSpan kept (key l.2 - spBase s.myCore) n
        let s := if hit then s.modTask s.myCore t.seq fun t => { t with stored := true } else s
        go (lanes.map fun l => key l.2) s

/-! ## Addresses (Table 12.5) -/

/-- The bytes of an element of a type: half a byte for the 4-bit ones counts as one. -/
def tyBytes (ty : Nat) : Nat := max 1 (tyBits ty / 8)

/-- The base of VLD, VST and VLDB: a(abase) + a(aidx) + Sext(imm16, 16). -/
def Ctx.memBase (y : Ctx) (abase aidx : AReg) (imm : BitVec 16) : Word := y.areg abase + y.areg aidx + imm16 imm

/-- lin(i) of VLD and VST. -/
def linear (base : Word) (ty i : Nat) : Nat := (base.toNat + i * tyBits ty / 8) % 2 ^ 64

/-- The linear addresses of VLD and VST. -/
def Ctx.unitAddrs (y : Ctx) (abase aidx : AReg) (imm : BitVec 16) (ty : Nat) : List Nat :=
  (List.range (4096 / tyBits ty)).map fun i => linear (y.memBase abase aidx imm) ty i

/-- The linear addresses of VLDS and VSTS. -/
def Ctx.strideAddrs (y : Ctx) (abase aidx : AReg) (imm : BitVec 16) (ty : Nat) : List Nat :=
  (List.range (4096 / tyBits ty)).map fun i => (y.areg abase + imm16 imm + BitVec.ofNat 64 i * y.areg aidx).toNat

/-- The index idx(i) of VGATH and VSCAT (R272). -/
def Ctx.index (y : Ctx) (vi : VReg) (ty i : Nat) : Nat :=
  let g := if tyBits ty = 64 then 1 else 4096 / tyBits ty / 128
  (y.vreg (vi + BitVec.ofNat 6 (i % g))).toNat / 2 ^ (32 * (i / g)) % 2 ^ 32

/-- The linear addresses of VGATH and VSCAT. -/
def Ctx.indexAddrs (y : Ctx) (abase aidx : AReg) (vi : VReg) (ty : Nat) : List Nat :=
  (List.range (4096 / tyBits ty)).map fun i =>
    (y.areg abase + y.areg aidx + BitVec.ofNat 64 (y.index vi ty i * tyBytes ty)).toNat

/-! ## Loads and stores -/

/-- The half of the byte in which lane i of a type lies (R129). -/
def nibbleOf (ty i : Nat) : Nat := if tyBits ty = 4 then i % 2 else 0

/-- A vector load: every active lane takes its element, an inactive one keeps its old value. -/
def State.vecLoad (s : State) (vd : VReg) (ty layout : Nat) (m : Bool) (addrs : List Nat) : Out :=
  match s.ctx.activity m with
  | none => .next (s.vfail Cause.maskstack)
  | some act =>
    let n := tyBytes ty
    s.laneAccess false layout n n (addrs.mapIdx fun i va => (act i, va)) fun keys s =>
      s.writeLanes vd (tyBits ty) 1 m (keys.mapIdx fun i k => if act i then (s.readElem (.engine s.myCore) (tyBits ty / 4) (k, nibbleOf ty i), 0) else (0, 0))

/-- A vector store: lanes are written in rising order, so that the higher lane leaves its value (R275). -/
def State.vecStore (s : State) (vd : VReg) (ty layout : Nat) (m : Bool) (addrs : List Nat) : Out :=
  match s.ctx.activity m with
  | none => .next (s.vfail Cause.maskstack)
  | some act =>
    let n := tyBytes ty
    let xs := s.ctx.lanes vd ty
    s.laneAccess true layout n n (addrs.mapIdx fun i va => (act i, va)) fun keys s =>
      let ps := (keys.mapIdx fun i k => (i, k)).filter fun p => act p.1
      let s := ps.foldl (fun s p => s.writeElem (tyBits ty / 4) (p.2, nibbleOf ty p.1) (xs.getD p.1 0)) s
      .next ((s.coverClear (wholeBytes (tyBits ty / 4) (ps.map fun p => (p.2, nibbleOf ty p.1))) n).vdone 0)

/-- VLD (Table 12.5). -/
def execVld (vd : VReg) (abase aidx : AReg) (ty layout : BitVec 4) (m : Bool) (imm : BitVec 16) (s : State) : Out :=
  s.vecLoad vd ty.toNat layout.toNat m (s.ctx.unitAddrs abase aidx imm ty.toNat)

/-- VST (Table 12.5). -/
def execVst (vd : VReg) (abase aidx : AReg) (ty layout : BitVec 4) (m : Bool) (imm : BitVec 16) (s : State) : Out :=
  s.vecStore vd ty.toNat layout.toNat m (s.ctx.unitAddrs abase aidx imm ty.toNat)

/-- VLDS (Table 12.5). -/
def execVlds (vd : VReg) (abase aidx : AReg) (ty layout : BitVec 4) (m : Bool) (imm : BitVec 16) (s : State) : Out :=
  s.vecLoad vd ty.toNat layout.toNat m (s.ctx.strideAddrs abase aidx imm ty.toNat)

/-- VSTS (Table 12.5). -/
def execVsts (vd : VReg) (abase aidx : AReg) (ty layout : BitVec 4) (m : Bool) (imm : BitVec 16) (s : State) : Out :=
  s.vecStore vd ty.toNat layout.toNat m (s.ctx.strideAddrs abase aidx imm ty.toNat)

/-- VGATH (Table 12.5). -/
def execVgath (vd : VReg) (abase aidx : AReg) (ty layout : BitVec 4) (m : Bool) (vi : VReg) (s : State) : Out :=
  s.vecLoad vd ty.toNat layout.toNat m (s.ctx.indexAddrs abase aidx vi ty.toNat)

/-- VSCAT (Table 12.5). -/
def execVscat (vd : VReg) (abase aidx : AReg) (ty layout : BitVec 4) (m : Bool) (vi : VReg) (s : State) : Out :=
  s.vecStore vd ty.toNat layout.toNat m (s.ctx.indexAddrs abase aidx vi ty.toNat)

/-- VLDB: every lane reads the one element (Table 12.5). -/
def execVldb (vd : VReg) (abase aidx : AReg) (ty layout : BitVec 4) (m : Bool) (imm : BitVec 16) (s : State) : Out :=
  s.vecLoad vd ty.toNat layout.toNat m (List.replicate (4096 / tyBits ty.toNat) (s.ctx.memBase abase aidx imm).toNat)

/-- MLD: an entry read from 128 bytes is pushed; a full stack fails the VRUN (R265, R267). -/
def execMld (abase aidx : AReg) (imm : BitVec 16) (s : State) : Out :=
  if 16 ≤ s.ctx.masks.length then .next (s.vfail Cause.maskstack)
  else s.laneAccess false 0 128 128 [(true, (s.ctx.memBase abase aidx imm).toNat)] fun keys s =>
    s.pushMask (BitVec.ofNat 1024 (s.seenNat (.engine s.myCore) (keys.headD 0) 128)) 0

/-- MST: the top entry is written as 128 bytes (R267). -/
def execMst (abase aidx : AReg) (imm : BitVec 16) (s : State) : Out :=
  s.onTop fun t s =>
    s.laneAccess true 0 128 128 [(true, (s.ctx.memBase abase aidx imm).toNat)] fun keys s =>
      .next ((s.writeNat (keys.headD 0) 128 t.toNat).vdone 0)

/-! ## Address registers (R277, R278) -/

/-- Writing an address register. -/
def State.writeA (s : State) (ad : AReg) (v : Word) : Out := .next ((s.modCtx fun y => y.setA ad v).vdone 0)

/-- ALI (R278). -/
def execAli (ad : AReg) (imm : BitVec 32) (s : State) : Out := s.writeA ad (imm32 imm)

/-- AADD (R278). -/
def execAadd (ad aa ab : AReg) (s : State) : Out := s.writeA ad (s.ctx.areg aa + s.ctx.areg ab)

/-- AADDI (R278). -/
def execAaddi (ad aa : AReg) (imm : BitVec 32) (s : State) : Out := s.writeA ad (s.ctx.areg aa + imm32 imm)

/-- AMUL (R278). -/
def execAmul (ad aa ab : AReg) (s : State) : Out := s.writeA ad (s.ctx.areg aa * s.ctx.areg ab)

/-- ASHL (R278). -/
def execAshl (ad aa : AReg) (n : BitVec 6) (s : State) : Out := s.writeA ad (s.ctx.areg aa <<< n.toNat)

/-- AMOVV: element k sign-extended for I types, else zero-extended (R277). Its word has no masked form: the rules say nothing of m for it, and
the model decodes m = 1 as an illegal word (DESIGN CHOICE, log 62). -/
def execAmovv (ad : AReg) (va : VReg) (ty : BitVec 4) (imm : BitVec 16) (s : State) : Out :=
  let n := tyBits ty.toNat
  let x := (s.ctx.lanes va ty.toNat).getD imm.toNat 0
  s.writeA ad (if ty.toNat < 4 then wordOfInt (sextInt x n) else BitVec.ofNat 64 x)

/-! ## Control (R278, R279) -/

/-- A branch of the whole context. -/
def State.steer (s : State) (taken : Bool) (target : Word) : Out :=
  .next (if taken then s.modCtx fun y => { y with pc := target } else s.vdone 0)

/-- The target pc + Sext(imm32, 32) × 8. -/
def Ctx.target (y : Ctx) (off : BitVec 32) : Word := y.pc + imm32 off * 8

/-- The target pc + (1 + Zext(imm32, 32)) × 8. -/
def Ctx.skip (y : Ctx) (off : BitVec 32) : Word := y.pc + (off.zeroExtend 64 + 1) * 8

/-- VLOOP (R278). -/
def execVloop (ad : AReg) (off : BitVec 32) (s : State) : Out :=
  let v := s.ctx.areg ad - 1
  (s.modCtx fun y => y.setA ad v).steer (v != 0) (s.ctx.target off)

/-- VJ (R278). -/
def execVj (off : BitVec 32) (s : State) : Out := s.steer true (s.ctx.target off)

/-- VBZ (R278). -/
def execVbz (off : BitVec 32) (s : State) : Out := s.onTop fun t s => s.steer (t == 0) (s.ctx.skip off)

/-- VBNZ (R278). -/
def execVbnz (off : BitVec 32) (s : State) : Out := s.onTop fun t s => s.steer (t != 0) (s.ctx.skip off)

/-- ABNE (R278). -/
def execAbne (aa ab : AReg) (off : BitVec 32) (s : State) : Out :=
  s.steer (s.ctx.areg aa != s.ctx.areg ab) (s.ctx.target off)

/-- VEND: the stores of the run have been performed, and the VRUN completes (R231). -/
def execVend (s : State) : Out :=
  match s.ctxTask with
  | some t => .next (s.retire s.myCore t none)
  | none => .next s

/-- VTRAP: the VRUN fails with VEC_TRAP, and the code is recorded (R278). -/
def execVtrap (code : BitVec 32) (s : State) : Out :=
  .next ((s.modCtx fun y => { y with trapCode := code }).vfail Cause.vecTrap)

/-! ## Words that encode nothing (R153) -/

/-- A word that encodes no instruction: ILLEGAL with word 0 in EVAL in a strand, and a failed VRUN in a context (R153, R283). -/
def execIllegalWord (inContext : Bool) (word : Word) (s : State) : Out :=
  if inContext then .next (s.vfail Cause.illegal)
  else .next (s.trap Cause.illegal (BitVec.ofNat 64 (word.toNat % 2 ^ 32)))

end Sys2Proof.Machine
end

