-- ==== Sys2Proof/Machine/Dispatch.lean ====
section
/-!
DEFINITION. One arm per constructor of Instr: the meaning of every row of the opcode table.
-/
namespace Sys2Proof.Machine

/-- What an instruction, or an event of the part, does. -/
def exec (i : Instr) (s : State) : Host.Outcome State Fault Refusal :=
  match i with
  | .add d a b => Sys2Proof.Machine.execAdd d a b s
  | .sub d a b => Sys2Proof.Machine.execSub d a b s
  | .and d a b => Sys2Proof.Machine.execAnd d a b s
  | .or d a b => Sys2Proof.Machine.execOr d a b s
  | .xor d a b => Sys2Proof.Machine.execXor d a b s
  | .andn d a b => Sys2Proof.Machine.execAndn d a b s
  | .sll d a b => Sys2Proof.Machine.execSll d a b s
  | .srl d a b => Sys2Proof.Machine.execSrl d a b s
  | .sra d a b => Sys2Proof.Machine.execSra d a b s
  | .ror d a b => Sys2Proof.Machine.execRor d a b s
  | .slt d a b => Sys2Proof.Machine.execSlt d a b s
  | .sltn d a b => Sys2Proof.Machine.execSltn d a b s
  | .min d a b => Sys2Proof.Machine.execMin d a b s
  | .max d a b => Sys2Proof.Machine.execMax d a b s
  | .minn d a b => Sys2Proof.Machine.execMinn d a b s
  | .maxn d a b => Sys2Proof.Machine.execMaxn d a b s
  | .mul d a b => Sys2Proof.Machine.execMul d a b s
  | .mulh d a b => Sys2Proof.Machine.execMulh d a b s
  | .mulhn d a b => Sys2Proof.Machine.execMulhn d a b s
  | .div d a b => Sys2Proof.Machine.execDiv d a b s
  | .divn d a b => Sys2Proof.Machine.execDivn d a b s
  | .rem d a b => Sys2Proof.Machine.execRem d a b s
  | .remn d a b => Sys2Proof.Machine.execRemn d a b s
  | .clz d a => Sys2Proof.Machine.execClz d a s
  | .ctz d a => Sys2Proof.Machine.execCtz d a s
  | .popc d a => Sys2Proof.Machine.execPopc d a s
  | .brev d a => Sys2Proof.Machine.execBrev d a s
  | .bswap d a => Sys2Proof.Machine.execBswap d a s
  | .clmul d a b => Sys2Proof.Machine.execClmul d a b s
  | .clmulh d a b => Sys2Proof.Machine.execClmulh d a b s
  | .addw d a b => Sys2Proof.Machine.execAddw d a b s
  | .subw d a b => Sys2Proof.Machine.execSubw d a b s
  | .sllw d a b => Sys2Proof.Machine.execSllw d a b s
  | .srlw d a b => Sys2Proof.Machine.execSrlw d a b s
  | .sraw d a b => Sys2Proof.Machine.execSraw d a b s
  | .exts d a b => Sys2Proof.Machine.execExts d a b s
  | .extz d a b => Sys2Proof.Machine.execExtz d a b s
  | .seq d a b => Sys2Proof.Machine.execSeq d a b s
  | .sne d a b => Sys2Proof.Machine.execSne d a b s
  | .addi d a imm => Sys2Proof.Machine.execAddi d a imm s
  | .andi d a imm => Sys2Proof.Machine.execAndi d a imm s
  | .ori d a imm => Sys2Proof.Machine.execOri d a imm s
  | .xori d a imm => Sys2Proof.Machine.execXori d a imm s
  | .slti d a imm => Sys2Proof.Machine.execSlti d a imm s
  | .sltni d a imm => Sys2Proof.Machine.execSltni d a imm s
  | .slli d a n => Sys2Proof.Machine.execSlli d a n s
  | .srli d a n => Sys2Proof.Machine.execSrli d a n s
  | .srai d a n => Sys2Proof.Machine.execSrai d a n s
  | .rori d a n => Sys2Proof.Machine.execRori d a n s
  | .lih d imm => Sys2Proof.Machine.execLih d imm s
  | .addpc d imm => Sys2Proof.Machine.execAddpc d imm s
  | .beq a b off => Sys2Proof.Machine.execBeq a b off s
  | .bne a b off => Sys2Proof.Machine.execBne a b off s
  | .blt a b off => Sys2Proof.Machine.execBlt a b off s
  | .bge a b off => Sys2Proof.Machine.execBge a b off s
  | .bltn a b off => Sys2Proof.Machine.execBltn a b off s
  | .bgen a b off => Sys2Proof.Machine.execBgen a b off s
  | .jal d off => Sys2Proof.Machine.execJal d off s
  | .jalr d a imm => Sys2Proof.Machine.execJalr d a imm s
  | .ldI8 d a imm => Sys2Proof.Machine.execLdI8 d a imm s
  | .ldI16 d a imm => Sys2Proof.Machine.execLdI16 d a imm s
  | .ldI32 d a imm => Sys2Proof.Machine.execLdI32 d a imm s
  | .ld64 d a imm => Sys2Proof.Machine.execLd64 d a imm s
  | .ldN8 d a imm => Sys2Proof.Machine.execLdN8 d a imm s
  | .ldN16 d a imm => Sys2Proof.Machine.execLdN16 d a imm s
  | .ldN32 d a imm => Sys2Proof.Machine.execLdN32 d a imm s
  | .st8 d a imm => Sys2Proof.Machine.execSt8 d a imm s
  | .st16 d a imm => Sys2Proof.Machine.execSt16 d a imm s
  | .st32 d a imm => Sys2Proof.Machine.execSt32 d a imm s
  | .st64 d a imm => Sys2Proof.Machine.execSt64 d a imm s
  | .st64F d a imm => Sys2Proof.Machine.execSt64F d a imm s
  | .atomAdd d a b ar scope wide => Sys2Proof.Machine.execAtomAdd d a b ar scope wide s
  | .atomAnd d a b ar scope wide => Sys2Proof.Machine.execAtomAnd d a b ar scope wide s
  | .atomOr d a b ar scope wide => Sys2Proof.Machine.execAtomOr d a b ar scope wide s
  | .atomXor d a b ar scope wide => Sys2Proof.Machine.execAtomXor d a b ar scope wide s
  | .atomXchg d a b ar scope wide => Sys2Proof.Machine.execAtomXchg d a b ar scope wide s
  | .atomCas d a b ar scope wide => Sys2Proof.Machine.execAtomCas d a b ar scope wide s
  | .atomMin d a b ar scope wide => Sys2Proof.Machine.execAtomMin d a b ar scope wide s
  | .atomMax d a b ar scope wide => Sys2Proof.Machine.execAtomMax d a b ar scope wide s
  | .atomMinn d a b ar scope wide => Sys2Proof.Machine.execAtomMinn d a b ar scope wide s
  | .atomMaxn d a b ar scope wide => Sys2Proof.Machine.execAtomMaxn d a b ar scope wide s
  | .atomFadd d a b ar scope => Sys2Proof.Machine.execAtomFadd d a b ar scope s
  | .atomFmin d a b ar scope => Sys2Proof.Machine.execAtomFmin d a b ar scope s
  | .atomFmax d a b ar scope => Sys2Proof.Machine.execAtomFmax d a b ar scope s
  | .atomIncw d a b ar scope wide => Sys2Proof.Machine.execAtomIncw d a b ar scope wide s
  | .atomAddb d a b ar scope wide => Sys2Proof.Machine.execAtomAddb d a b ar scope wide s
  | .fenceAcq scope => Sys2Proof.Machine.execFenceAcq scope s
  | .fenceRel scope => Sys2Proof.Machine.execFenceRel scope s
  | .fenceAr scope => Sys2Proof.Machine.execFenceAr scope s
  | .fenceSc scope => Sys2Proof.Machine.execFenceSc scope s
  | .fenceX scope p q => Sys2Proof.Machine.execFenceX scope p q s
  | .barArv scope id => Sys2Proof.Machine.execBarArv scope id s
  | .barWait d scope id => Sys2Proof.Machine.execBarWait d scope id s
  | .barSync d scope id => Sys2Proof.Machine.execBarSync d scope id s
  | .barCfg d a scope id => Sys2Proof.Machine.execBarCfg d a scope id s
  | .tbInit d a b scope => Sys2Proof.Machine.execTbInit d a b scope s
  | .tbExpect d a b => Sys2Proof.Machine.execTbExpect d a b s
  | .tbArv d a b => Sys2Proof.Machine.execTbArv d a b s
  | .tbWait d a b => Sys2Proof.Machine.execTbWait d a b s
  | .tbTest d a => Sys2Proof.Machine.execTbTest d a s
  | .tbInval d a => Sys2Proof.Machine.execTbInval d a s
  | .tbName d a b => Sys2Proof.Machine.execTbName d a b s
  | .tkWait d a => Sys2Proof.Machine.execTkWait d a s
  | .tkTest d a => Sys2Proof.Machine.execTkTest d a s
  | .tkAfter a => Sys2Proof.Machine.execTkAfter a s
  | .tbAfter a b => Sys2Proof.Machine.execTbAfter a b s
  | .bufDef d a b => Sys2Proof.Machine.execBufDef d a b s
  | .bufUndef d a => Sys2Proof.Machine.execBufUndef d a s
  | .rgnB q a b => Sys2Proof.Machine.execRgnB q a b s
  | .rgnO q a => Sys2Proof.Machine.execRgnO q a s
  | .rgnE q a => Sys2Proof.Machine.execRgnE q a s
  | .rgnClr q => Sys2Proof.Machine.execRgnClr q s
  | .mm h fa fb => Sys2Proof.Machine.execMm h fa fb s
  | .mmd h f => Sys2Proof.Machine.execMmd h f s
  | .mmz h => Sys2Proof.Machine.execMmz h s
  | .xp h => Sys2Proof.Machine.execXp h s
  | .row h f => Sys2Proof.Machine.execRow h f s
  | .vrun h ent arg => Sys2Proof.Machine.execVrun h ent arg s
  | .cp h map bar => Sys2Proof.Machine.execCp h map bar s
  | .cpW h map bar => Sys2Proof.Machine.execCpW h map bar s
  | .cpG h map bar => Sys2Proof.Machine.execCpG h map bar s
  | .cpS h map bar => Sys2Proof.Machine.execCpS h map bar s
  | .cpF h map bar => Sys2Proof.Machine.execCpF h map bar s
  | .cpR h map res => Sys2Proof.Machine.execCpR h map res s
  | .taskRpost h hreg dreg tgr => Sys2Proof.Machine.execTaskRpost h hreg dreg tgr s
  | .taskRstat h tgr => Sys2Proof.Machine.execTaskRstat h tgr s
  | .lzDef d a b => Sys2Proof.Machine.execLzDef d a b s
  | .lzResv d a b => Sys2Proof.Machine.execLzResv d a b s
  | .lzRel d a b => Sys2Proof.Machine.execLzRel d a b s
  | .lzStat d a b => Sys2Proof.Machine.execLzStat d a b s
  | .lzUndef d a => Sys2Proof.Machine.execLzUndef d a s
  | .gridDef d a b => Sys2Proof.Machine.execGridDef d a b s
  | .gridBc d a b => Sys2Proof.Machine.execGridBc d a b s
  | .gridStep d a b => Sys2Proof.Machine.execGridStep d a b s
  | .gridStat d a b => Sys2Proof.Machine.execGridStat d a b s
  | .gridUndef d a => Sys2Proof.Machine.execGridUndef d a s
  | .ecall a => Sys2Proof.Machine.execEcall a s
  | .trap a b => Sys2Proof.Machine.execTrap a b s
  | .sysr d num => Sys2Proof.Machine.execSysr d num s
  | .sysw num a => Sys2Proof.Machine.execSysw num a s
  | .spawn d a b => Sys2Proof.Machine.execSpawn d a b s
  | .waitev d a => Sys2Proof.Machine.execWaitev d a s
  | .accAlloc d a => Sys2Proof.Machine.execAccAlloc d a s
  | .accFree d a b => Sys2Proof.Machine.execAccFree d a b s
  | .memCommit d a => Sys2Proof.Machine.execMemCommit d a s
  | .memDecommit d a => Sys2Proof.Machine.execMemDecommit d a s
  | .traceMark a b => Sys2Proof.Machine.execTraceMark a b s
  | .stepEnd d a => Sys2Proof.Machine.execStepEnd d a s
  | .li d imm => Sys2Proof.Machine.execLi d imm s
  | .lihi d a imm => Sys2Proof.Machine.execLihi d a imm s
  | .addl d a imm => Sys2Proof.Machine.execAddl d a imm s
  | .jall d imm => Sys2Proof.Machine.execJall d imm s
  | .illegalWord inContext word => Sys2Proof.Machine.execIllegalWord inContext word s
  | .vadd vd va vb ty m => Sys2Proof.Machine.execVadd vd va vb ty m s
  | .vsub vd va vb ty m => Sys2Proof.Machine.execVsub vd va vb ty m s
  | .vmul vd va vb ty m => Sys2Proof.Machine.execVmul vd va vb ty m s
  | .vmulh vd va vb ty m => Sys2Proof.Machine.execVmulh vd va vb ty m s
  | .vmad vd va vb vc ty m => Sys2Proof.Machine.execVmad vd va vb vc ty m s
  | .vmin vd va vb ty m => Sys2Proof.Machine.execVmin vd va vb ty m s
  | .vmax vd va vb ty m => Sys2Proof.Machine.execVmax vd va vb ty m s
  | .vabs vd va ty sat m => Sys2Proof.Machine.execVabs vd va ty sat m s
  | .vneg vd va ty sat m => Sys2Proof.Machine.execVneg vd va ty sat m s
  | .vand vd va vb ty m => Sys2Proof.Machine.execVand vd va vb ty m s
  | .vor vd va vb ty m => Sys2Proof.Machine.execVor vd va vb ty m s
  | .vxor vd va vb ty m => Sys2Proof.Machine.execVxor vd va vb ty m s
  | .vnot vd va ty m => Sys2Proof.Machine.execVnot vd va ty m s
  | .vsll vd va vb ty m => Sys2Proof.Machine.execVsll vd va vb ty m s
  | .vsllImm vd va k ty m => Sys2Proof.Machine.execVsllImm vd va k ty m s
  | .vsrl vd va vb ty m => Sys2Proof.Machine.execVsrl vd va vb ty m s
  | .vsrlImm vd va k ty m => Sys2Proof.Machine.execVsrlImm vd va k ty m s
  | .vsra vd va vb ty m => Sys2Proof.Machine.execVsra vd va vb ty m s
  | .vsraImm vd va k ty m => Sys2Proof.Machine.execVsraImm vd va k ty m s
  | .vadds vd va vb ty m => Sys2Proof.Machine.execVadds vd va vb ty m s
  | .vsubs vd va vb ty m => Sys2Proof.Machine.execVsubs vd va vb ty m s
  | .vavg vd va vb ty m => Sys2Proof.Machine.execVavg vd va vb ty m s
  | .vclz vd va ty m => Sys2Proof.Machine.execVclz vd va ty m s
  | .vpopc vd va ty m => Sys2Proof.Machine.execVpopc vd va ty m s
  | .vclmul vd va vb ty m => Sys2Proof.Machine.execVclmul vd va vb ty m s
  | .vclmulh vd va vb ty m => Sys2Proof.Machine.execVclmulh vd va vb ty m s
  | .vmulw vd va vb ty ty2 m => Sys2Proof.Machine.execVmulw vd va vb ty ty2 m s
  | .vaddw vd va vb ty ty2 m => Sys2Proof.Machine.execVaddw vd va vb ty ty2 m s
  | .vdot4 vd va vb vc ty ty2 sat m => Sys2Proof.Machine.execVdot4 vd va vb vc ty ty2 sat m s
  | .vfadd vd va vb ty rm sat m => Sys2Proof.Machine.execVfadd vd va vb ty rm sat m s
  | .vfsub vd va vb ty rm sat m => Sys2Proof.Machine.execVfsub vd va vb ty rm sat m s
  | .vfmul vd va vb ty rm sat m => Sys2Proof.Machine.execVfmul vd va vb ty rm sat m s
  | .vfma vd va vb vc ty rm sat m => Sys2Proof.Machine.execVfma vd va vb vc ty rm sat m s
  | .vfms vd va vb vc ty rm sat m => Sys2Proof.Machine.execVfms vd va vb vc ty rm sat m s
  | .vfnma vd va vb vc ty rm sat m => Sys2Proof.Machine.execVfnma vd va vb vc ty rm sat m s
  | .vfmin vd va vb ty m => Sys2Proof.Machine.execVfmin vd va vb ty m s
  | .vfmax vd va vb ty m => Sys2Proof.Machine.execVfmax vd va vb ty m s
  | .vfminp vd va vb ty m => Sys2Proof.Machine.execVfminp vd va vb ty m s
  | .vfmaxp vd va vb ty m => Sys2Proof.Machine.execVfmaxp vd va vb ty m s
  | .vfabs vd va ty m => Sys2Proof.Machine.execVfabs vd va ty m s
  | .vfneg vd va ty m => Sys2Proof.Machine.execVfneg vd va ty m s
  | .vfcpys vd va vb ty m => Sys2Proof.Machine.execVfcpys vd va vb ty m s
  | .vfdiv vd va vb ty rm sat m => Sys2Proof.Machine.execVfdiv vd va vb ty rm sat m s
  | .vfsqrt vd va ty rm sat m => Sys2Proof.Machine.execVfsqrt vd va ty rm sat m s
  | .vexp2 vd va ty rm sat m => Sys2Proof.Machine.execVexp2 vd va ty rm sat m s
  | .vlog2 vd va ty rm sat m => Sys2Proof.Machine.execVlog2 vd va ty rm sat m s
  | .vrcp vd va ty rm sat m => Sys2Proof.Machine.execVrcp vd va ty rm sat m s
  | .vrsqrt vd va ty rm sat m => Sys2Proof.Machine.execVrsqrt vd va ty rm sat m s
  | .vsinpi vd va ty rm sat m => Sys2Proof.Machine.execVsinpi vd va ty rm sat m s
  | .vcospi vd va ty rm sat m => Sys2Proof.Machine.execVcospi vd va ty rm sat m s
  | .vfrnd vd va ty rm m => Sys2Proof.Machine.execVfrnd vd va ty rm m s
  | .vfclass vd va ty m => Sys2Proof.Machine.execVfclass vd va ty m s
  | .vfscale vd va vb ty rm sat m => Sys2Proof.Machine.execVfscale vd va vb ty rm sat m s
  | .vcvt vd va ty ty2 rm sat m => Sys2Proof.Machine.execVcvt vd va ty ty2 rm sat m s
  | .vcvtw vd va ty ty2 rm sat m => Sys2Proof.Machine.execVcvtw vd va ty ty2 rm sat m s
  | .vcvtn vd va ty ty2 rm sat m => Sys2Proof.Machine.execVcvtn vd va ty ty2 rm sat m s
  | .vcmp va vb ty pred m => Sys2Proof.Machine.execVcmp va vb ty pred m s
  | .mpush va ty m => Sys2Proof.Machine.execMpush va ty m s
  | .minv ty => Sys2Proof.Machine.execMinv ty s
  | .mcnt ad ty => Sys2Proof.Machine.execMcnt ad ty s
  | .mfirst ad ty => Sys2Proof.Machine.execMfirst ad ty s
  | .mld abase aidx imm => Sys2Proof.Machine.execMld abase aidx imm s
  | .mst abase aidx imm => Sys2Proof.Machine.execMst abase aidx imm s
  | .vbcast vd va ty m imm => Sys2Proof.Machine.execVbcast vd va ty m imm s
  | .vsplat vd an ty m => Sys2Proof.Machine.execVsplat vd an ty m s
  | .vshuf vd va vb ty m => Sys2Proof.Machine.execVshuf vd va vb ty m s
  | .vrot vd va ty m imm => Sys2Proof.Machine.execVrot vd va ty m imm s
  | .vslide vd va vb ty m imm => Sys2Proof.Machine.execVslide vd va vb ty m imm s
  | .vzip vd va vb ty => Sys2Proof.Machine.execVzip vd va vb ty s
  | .vuzp vd va ty => Sys2Proof.Machine.execVuzp vd va ty s
  | .vcmprs vd va an ty => Sys2Proof.Machine.execVcmprs vd va an ty s
  | .vexpnd vd va ty => Sys2Proof.Machine.execVexpnd vd va ty s
  | .viota vd ty => Sys2Proof.Machine.execViota vd ty s
  | .vsel vd va vb ty => Sys2Proof.Machine.execVsel vd va vb ty s
  | .vmov vd va ty m => Sys2Proof.Machine.execVmov vd va ty m s
  | .vrsum vd va ty sat m => Sys2Proof.Machine.execVrsum vd va ty sat m s
  | .vrmax vd va ty m => Sys2Proof.Machine.execVrmax vd va ty m s
  | .vrmin vd va ty m => Sys2Proof.Machine.execVrmin vd va ty m s
  | .vrxor vd va ty m => Sys2Proof.Machine.execVrxor vd va ty m s
  | .vrfsum vd va ty rm sat m => Sys2Proof.Machine.execVrfsum vd va ty rm sat m s
  | .vrfmax vd va ty m => Sys2Proof.Machine.execVrfmax vd va ty m s
  | .vld vd abase aidx ty layout m imm => Sys2Proof.Machine.execVld vd abase aidx ty layout m imm s
  | .vst vd abase aidx ty layout m imm => Sys2Proof.Machine.execVst vd abase aidx ty layout m imm s
  | .vlds vd abase aidx ty layout m imm => Sys2Proof.Machine.execVlds vd abase aidx ty layout m imm s
  | .vsts vd abase aidx ty layout m imm => Sys2Proof.Machine.execVsts vd abase aidx ty layout m imm s
  | .vgath vd abase aidx ty layout m vi => Sys2Proof.Machine.execVgath vd abase aidx ty layout m vi s
  | .vscat vd abase aidx ty layout m vi => Sys2Proof.Machine.execVscat vd abase aidx ty layout m vi s
  | .vldb vd abase aidx ty layout m imm => Sys2Proof.Machine.execVldb vd abase aidx ty layout m imm s
  | .ali ad imm => Sys2Proof.Machine.execAli ad imm s
  | .aadd ad aa ab => Sys2Proof.Machine.execAadd ad aa ab s
  | .aaddi ad aa imm => Sys2Proof.Machine.execAaddi ad aa imm s
  | .amul ad aa ab => Sys2Proof.Machine.execAmul ad aa ab s
  | .ashl ad aa n => Sys2Proof.Machine.execAshl ad aa n s
  | .amovv ad va ty imm => Sys2Proof.Machine.execAmovv ad va ty imm s
  | .vloop ad off => Sys2Proof.Machine.execVloop ad off s
  | .vj off => Sys2Proof.Machine.execVj off s
  | .vbz off => Sys2Proof.Machine.execVbz off s
  | .vbnz off => Sys2Proof.Machine.execVbnz off s
  | .abne aa ab off => Sys2Proof.Machine.execAbne aa ab off s
  | .vtrap code => Sys2Proof.Machine.execVtrap code s
  | .eret => Sys2Proof.Machine.execEret s
  | .safept => Sys2Proof.Machine.execSafept s
  | .ckpt => Sys2Proof.Machine.execCkpt s
  | .endStrand => Sys2Proof.Machine.execEndStrand s
  | .yield => Sys2Proof.Machine.execYield s
  | .halt => Sys2Proof.Machine.execHalt s
  | .mand => Sys2Proof.Machine.execMand s
  | .mor => Sys2Proof.Machine.execMor s
  | .mandn => Sys2Proof.Machine.execMandn s
  | .mpop => Sys2Proof.Machine.execMpop s
  | .vend => Sys2Proof.Machine.execVend s
  | .registerWrite core strand num value => Sys2Proof.Machine.execRegisterWrite core strand num value s
  | .evset core value => Sys2Proof.Machine.execEvset core value s
  | .trctlWrite core strand value => Sys2Proof.Machine.execTrctlWrite core strand value s
  | .trbaseWrite core strand value => Sys2Proof.Machine.execTrbaseWrite core strand value s
  | .corectlFlush core mask => Sys2Proof.Machine.execCorectlFlush core mask s
  | .corectlFlushin core => Sys2Proof.Machine.execCorectlFlushin core s
  | .corectlStop core mask => Sys2Proof.Machine.execCorectlStop core mask s
  | .corectlReset core mask => Sys2Proof.Machine.execCorectlReset core mask s
  | .timerExpiry core strand => Sys2Proof.Machine.execTimerExpiry core strand s
  | .windowGrant core => Sys2Proof.Machine.execWindowGrant core s
  | .taskReady core seq => Sys2Proof.Machine.execTaskReady core seq s
  | .taskIssue core cls unit => Sys2Proof.Machine.execTaskIssue core cls unit s
  | .taskAging core seq => Sys2Proof.Machine.execTaskAging core seq s
  | .taskComplete core seq => Sys2Proof.Machine.execTaskComplete core seq s
  | .producerFailed core seq => Sys2Proof.Machine.execProducerFailed core seq s
  | .stampStaleLimit core seq => Sys2Proof.Machine.execStampStaleLimit core seq s
  | .launchStart launch => Sys2Proof.Machine.execLaunchStart launch s
  | .launchComplete launch => Sys2Proof.Machine.execLaunchComplete launch s
  | .loadReturn core strand idx data => Sys2Proof.Machine.execLoadReturn core strand idx data s
  | .remoteStoreAck core strand pkg ack => Sys2Proof.Machine.execRemoteStoreAck core strand pkg ack s
  | .barrierArrival arr => Sys2Proof.Machine.execBarrierArrival arr s
  | .copyChunkDone core seq => Sys2Proof.Machine.execCopyChunkDone core seq s
  | .copyArrivalReply core seq code => Sys2Proof.Machine.execCopyArrivalReply core seq code s
  | .resolvableFault idx => Sys2Proof.Machine.execResolvableFault idx s
  | .heldFaultRecord die => Sys2Proof.Machine.execHeldFaultRecord die s
  | .dispRetry die slot => Sys2Proof.Machine.execDispRetry die slot s
  | .dispRefuse die slot => Sys2Proof.Machine.execDispRefuse die slot s
  | .migrationStart space page goal => Sys2Proof.Machine.execMigrationStart space page goal s
  | .migrationComplete space page moved => Sys2Proof.Machine.execMigrationComplete space page moved s
  | .remotePostArrival post => Sys2Proof.Machine.execRemotePostArrival post s
  | .remotePostRetry core seq => Sys2Proof.Machine.execRemotePostRetry core seq s
  | .intakeAdmit core => Sys2Proof.Machine.execIntakeAdmit core s
  | .remoteReport core tag status => Sys2Proof.Machine.execRemoteReport core tag status s
  | .lzResvRequest req => Sys2Proof.Machine.execLzResvRequest req s
  | .lzResvAnswer core strand idx answer => Sys2Proof.Machine.execLzResvAnswer core strand idx answer s
  | .cprChunkArrival chunk => Sys2Proof.Machine.execCprChunkArrival chunk s
  | .cprArrival arr => Sys2Proof.Machine.execCprArrival arr s
  | .cprFailureReport resv code => Sys2Proof.Machine.execCprFailureReport resv code s
  | .slotLeaseExpiry core zone slot => Sys2Proof.Machine.execSlotLeaseExpiry core zone slot s
  | .gridMarkerRetire core grid => Sys2Proof.Machine.execGridMarkerRetire core grid s
  | .declaredStepArrival core grid who declared nf => Sys2Proof.Machine.execDeclaredStepArrival core grid who declared nf s
  | .haloShipmentCredit idx => Sys2Proof.Machine.execHaloShipmentCredit idx s
  | .haloShipmentRead idx => Sys2Proof.Machine.execHaloShipmentRead idx s
  | .haloShipmentLand src => Sys2Proof.Machine.execHaloShipmentLand src s
  | .haloFillLand idx => Sys2Proof.Machine.execHaloFillLand idx s
  | .gridFailureNotice core grid regions => Sys2Proof.Machine.execGridFailureNotice core grid regions s
  | .breakpointStop core strand entry => Sys2Proof.Machine.execBreakpointStop core strand entry s
  | .debugStepRequest core strand => Sys2Proof.Machine.execDebugStepRequest core strand s
  | .debugHaltRequest request => Sys2Proof.Machine.execDebugHaltRequest request s
  | .debugResume core request => Sys2Proof.Machine.execDebugResume core request s
  | .traceSample core strand => Sys2Proof.Machine.execTraceSample core strand s
  | .preemptRequest part => Sys2Proof.Machine.execPreemptRequest part s
  | .preemptLimit part => Sys2Proof.Machine.execPreemptLimit part s
  | .partitionSave part => Sys2Proof.Machine.execPartitionSave part s
  | .partitionResume part => Sys2Proof.Machine.execPartitionResume part s
  | .partitionStop part => Sys2Proof.Machine.execPartitionStop part s
  | .partitionStopRequest svc => Sys2Proof.Machine.execPartitionStopRequest svc s
  | .partitionCreate req => Sys2Proof.Machine.execPartitionCreate req s
  | .partitionRelease part => Sys2Proof.Machine.execPartitionRelease part s
  | .fatalStop source no => Sys2Proof.Machine.execFatalStop source no s
  | .invalidateSpace svc => Sys2Proof.Machine.execInvalidateSpace svc s
  | .invalidatePartition svc => Sys2Proof.Machine.execInvalidatePartition svc s
  | .invalidateAll svc => Sys2Proof.Machine.execInvalidateAll svc s
  | .imageLoad part space at_ file => Sys2Proof.Machine.execImageLoad part space at_ file s
  | .frameReceive frame => Sys2Proof.Machine.execFrameReceive frame s
  | .eqtWrite conn hdr payload => Sys2Proof.Machine.execEqtWrite conn hdr payload s
  | .eqtFadd conn hdr payload => Sys2Proof.Machine.execEqtFadd conn hdr payload s
  | .eqtRead conn hdr payload => Sys2Proof.Machine.execEqtRead conn hdr payload s
  | .eqtNotify conn hdr payload => Sys2Proof.Machine.execEqtNotify conn hdr payload s
  | .eqtAck conn hdr => Sys2Proof.Machine.execEqtAck conn hdr s
  | .eqtNack conn hdr => Sys2Proof.Machine.execEqtNack conn hdr s
  | .eqtRetransmit conn seq => Sys2Proof.Machine.execEqtRetransmit conn seq s
  | .eqtAckTimer conn => Sys2Proof.Machine.execEqtAckTimer conn s
  | .rdmaResponse idx data => Sys2Proof.Machine.execRdmaResponse idx data s
  | .rdmaInboundRequest endpoint => Sys2Proof.Machine.execRdmaInboundRequest endpoint s
  | .notifyLineWrite phys => Sys2Proof.Machine.execNotifyLineWrite phys s
  | .queueOpen queue entry => Sys2Proof.Machine.execQueueOpen queue entry s
  | .queuePacketRead queue => Sys2Proof.Machine.execQueuePacketRead queue s
  | .packetNop idx => Sys2Proof.Machine.execPacketNop idx s
  | .packetLaunch idx => Sys2Proof.Machine.execPacketLaunch idx s
  | .packetCopy idx => Sys2Proof.Machine.execPacketCopy idx s
  | .packetEvent idx => Sys2Proof.Machine.execPacketEvent idx s
  | .packetComplete idx => Sys2Proof.Machine.execPacketComplete idx s
  | .queueWatchdogExpiry queue => Sys2Proof.Machine.execQueueWatchdogExpiry queue s
  | .eventPortSend svc => Sys2Proof.Machine.execEventPortSend svc s
  | .flitCrcError link => Sys2Proof.Machine.execFlitCrcError link s
  | .linkDown link => Sys2Proof.Machine.execLinkDown link s
  | .linkWidthChange link width => Sys2Proof.Machine.execLinkWidthChange link width s
  | .linkRetrain link => Sys2Proof.Machine.execLinkRetrain link s
  | .linkTrainingDone link width => Sys2Proof.Machine.execLinkTrainingDone link width s
  | .linkFailureNews pkg link => Sys2Proof.Machine.execLinkFailureNews pkg link s
  | .linkDisable link => Sys2Proof.Machine.execLinkDisable link s
  | .linkDisableDrained link => Sys2Proof.Machine.execLinkDisableDrained link s
  | .linkEnable link => Sys2Proof.Machine.execLinkEnable link s
  | .requestResend idx => Sys2Proof.Machine.execRequestResend idx s
  | .noRouteTimeout idx => Sys2Proof.Machine.execNoRouteTimeout idx s
  | .linkRecordUpdate => Sys2Proof.Machine.execLinkRecordUpdate s
  | .rttMeasure link ns => Sys2Proof.Machine.execRttMeasure link ns s
  | .linkRecordRequest => Sys2Proof.Machine.execLinkRecordRequest s
  | .memoryScrub line => Sys2Proof.Machine.execMemoryScrub line s
  | .scratchpadScrub core word => Sys2Proof.Machine.execScratchpadScrub core word s
  | .forecastUpdate die => Sys2Proof.Machine.execForecastUpdate die s
  | .clockSelect sensors => Sys2Proof.Machine.execClockSelect sensors s
  | .powerTrip power => Sys2Proof.Machine.execPowerTrip power s
  | .capSet watts => Sys2Proof.Machine.execCapSet watts s
  | .thermalThrottle sensors => Sys2Proof.Machine.execThermalThrottle sensors s
  | .thermalShutdown sensors => Sys2Proof.Machine.execThermalShutdown sensors s
  | .telemetryRequest => Sys2Proof.Machine.execTelemetryRequest s
  | .packageReset boot => Sys2Proof.Machine.execPackageReset boot s
  | .attestationRequest nonce => Sys2Proof.Machine.execAttestationRequest nonce s
  | .accessPerformedAtHome acc => Sys2Proof.Machine.execAccessPerformedAtHome acc s
  | .pendingResultWritten core strand idx => Sys2Proof.Machine.execPendingResultWritten core strand idx s
  | .postAnswerArrival core seq code => Sys2Proof.Machine.execPostAnswerArrival core seq code s
  | .rdmaTransportGiveUp endpoint => Sys2Proof.Machine.execRdmaTransportGiveUp endpoint s

end Sys2Proof.Machine
end

