-- ==== Sys2Proof/Machine/Run.lean ====
section
/-!
DEFINITION. The turn of a strand and of a vector context: fetch, decoding and execution of one instruction.
-/
namespace Sys2Proof.Machine

/-- A decoded control-core instruction is executed, and a word that encodes nothing is executed as such. -/
def runDecoded (word : Nat) (s : State) : Decoded → Out
  | .instr i => s.issue i (exec i)
  | .illegal _ => exec (.illegalWord false (BitVec.ofNat 64 word)) s

/-- Fetch, decoding and execution of the instruction at which the strand that moves stands (R149, R153). -/
def runStrand (s : State) : Out :=
  s.fetchWord s.me.pc fun w0 s =>
    let s := { s with ir := BitVec.ofNat 64 w0 }
    if isLongWord w0 then s.fetchWord (s.me.pc + 4) fun w1 s => runDecoded w0 s (decodeControl w0 w1)
    else runDecoded w0 s (decodeControl w0 0)

/-- The turn of strand k of core c. -/
def stepStrand (s : State) : Out :=
  if !s.power.on || !s.me.movable s.now || !s.firstInTurn s.myCore s.myStrand then .next s
  else match s.raiseDeferred with
    | some s' => .next (s'.issuedBy s.myCore s.myStrand)
    | none => match runStrand s with
      | .next s' => .next (s'.issuedBy s.myCore s.myStrand)
      | o => o

/-- A vector word is executed as the instruction it encodes (R151). -/
noncomputable def runVector (w : Nat) (s : State) : Out :=
  match decodeVector w with
  | .instr i => exec i s
  | .illegal _ => exec (.illegalWord true (BitVec.ofNat 64 w)) s

/-- What a word does whose fields give an instruction: go when they break no rule and the word is the encoding, else no. -/
def whenEncoded (problem : Option Illegal) (encoding w : Nat) (go no : Out) : Out :=
  if problem.isNone ∧ encoding = w then go else no

/-- runVector as compiled code runs it: Lean compiles no term that builds one of the last constructors of Instr, so the majors from
0x93 call their meanings directly. -/
def runVectorCode (w : Nat) (s : State) : Out :=
  let no : Out := exec (.illegalWord true (BitVec.ofNat 64 w)) s
  if 0x93 ≤ w / 2 ^ 56 then
    if w / 2 ^ 56 = 0x93 then
      whenEncoded none
        (wordVC 0x93 (gT w 52) (gT w 48) (gT w 44) 0) w (execAmul (gT w 52) (gT w 48) (gT w 44) s) no
    else if w / 2 ^ 56 = 0x94 then
      whenEncoded none
        (wordVC 0x94 (gT w 52) (gT w 48) 0 (BitVec.ofNat 6 w).toNat) w (execAshl (gT w 52) (gT w 48) (BitVec.ofNat 6 w) s) no
    else if w / 2 ^ 56 = 0x95 then
      whenEncoded (need (decide ((BitVec.ofNat 16 w).toNat < lanes (gT w 28).toNat)) .lane)
        (wordVA 0x95 ((gT w 50).setWidth 6) (gV w 44) 0 0 (gT w 28) 0 0 false false (BitVec.ofNat 16 w).toNat) w (execAmovv (gT w 50) (gV w 44) (gT w 28) (BitVec.ofNat 16 w) s) no
    else if w / 2 ^ 56 = 0x96 then
      whenEncoded (need (gT w 52 != 0) .operand)
        (wordVC 0x96 (gT w 52) 0 0 (BitVec.ofNat 32 w).toNat) w (execVloop (gT w 52) (BitVec.ofNat 32 w) s) no
    else if w / 2 ^ 56 = 0x97 then
      whenEncoded none
        (wordVC 0x97 0 0 0 (BitVec.ofNat 32 w).toNat) w (execVj (BitVec.ofNat 32 w) s) no
    else if w / 2 ^ 56 = 0x98 then
      whenEncoded none
        (wordVC 0x98 0 0 0 (BitVec.ofNat 32 w).toNat) w (execVbz (BitVec.ofNat 32 w) s) no
    else if w / 2 ^ 56 = 0x99 then
      whenEncoded none
        (wordVC 0x99 0 0 0 (BitVec.ofNat 32 w).toNat) w (execVbnz (BitVec.ofNat 32 w) s) no
    else if w / 2 ^ 56 = 0x9A then
      whenEncoded none
        (wordVC 0x9A 0 (gT w 48) (gT w 44) (BitVec.ofNat 32 w).toNat) w (execAbne (gT w 48) (gT w 44) (BitVec.ofNat 32 w) s) no
    else if w / 2 ^ 56 = 0x9B then
      whenEncoded none
        (wordVC 0x9B 0 0 0 0) w (execVend s) no
    else if w / 2 ^ 56 = 0x9C then
      whenEncoded none
        (wordVC 0x9C 0 0 0 (BitVec.ofNat 32 w).toNat) w (execVtrap (BitVec.ofNat 32 w) s) no
    else no
  else match accept w (readLane w) with
    | .instr i => exec i s
    | .illegal _ => no

/-- Running what a word decodes to. -/
theorem run_accept (w : Nat) (i : Instr) (s : State) (no : Out) :
    (match accept w (.ok i) with | .instr i => exec i s | .illegal _ => no) = whenEncoded i.problem i.encode w (exec i s) no := by
  cases hp : i.problem <;> by_cases h : i.encode = w <;> simp [accept, whenEncoded, hp, h]

theorem run_amul (w : Nat) (s : State) (no : Out) :
    whenEncoded (Instr.problem (.amul (gT w 52) (gT w 48) (gT w 44))) (Instr.encode (.amul (gT w 52) (gT w 48) (gT w 44))) w
      (exec (.amul (gT w 52) (gT w 48) (gT w 44)) s) no =
    whenEncoded (none) (wordVC 0x93 (gT w 52) (gT w 48) (gT w 44) 0) w
      (execAmul (gT w 52) (gT w 48) (gT w 44) s) no := rfl

theorem run_ashl (w : Nat) (s : State) (no : Out) :
    whenEncoded (Instr.problem (.ashl (gT w 52) (gT w 48) (BitVec.ofNat 6 w))) (Instr.encode (.ashl (gT w 52) (gT w 48) (BitVec.ofNat 6 w))) w
      (exec (.ashl (gT w 52) (gT w 48) (BitVec.ofNat 6 w)) s) no =
    whenEncoded (none) (wordVC 0x94 (gT w 52) (gT w 48) 0 (BitVec.ofNat 6 w).toNat) w
      (execAshl (gT w 52) (gT w 48) (BitVec.ofNat 6 w) s) no := rfl

theorem run_amovv (w : Nat) (s : State) (no : Out) :
    whenEncoded (Instr.problem (.amovv (gT w 50) (gV w 44) (gT w 28) (BitVec.ofNat 16 w))) (Instr.encode (.amovv (gT w 50) (gV w 44) (gT w 28) (BitVec.ofNat 16 w))) w
      (exec (.amovv (gT w 50) (gV w 44) (gT w 28) (BitVec.ofNat 16 w)) s) no =
    whenEncoded (need (decide ((BitVec.ofNat 16 w).toNat < lanes (gT w 28).toNat)) .lane) (wordVA 0x95 ((gT w 50).setWidth 6) (gV w 44) 0 0 (gT w 28) 0 0 false false (BitVec.ofNat 16 w).toNat) w
      (execAmovv (gT w 50) (gV w 44) (gT w 28) (BitVec.ofNat 16 w) s) no := rfl

theorem run_vloop (w : Nat) (s : State) (no : Out) :
    whenEncoded (Instr.problem (.vloop (gT w 52) (BitVec.ofNat 32 w))) (Instr.encode (.vloop (gT w 52) (BitVec.ofNat 32 w))) w
      (exec (.vloop (gT w 52) (BitVec.ofNat 32 w)) s) no =
    whenEncoded (need (gT w 52 != 0) .operand) (wordVC 0x96 (gT w 52) 0 0 (BitVec.ofNat 32 w).toNat) w
      (execVloop (gT w 52) (BitVec.ofNat 32 w) s) no := rfl

theorem run_vj (w : Nat) (s : State) (no : Out) :
    whenEncoded (Instr.problem (.vj (BitVec.ofNat 32 w))) (Instr.encode (.vj (BitVec.ofNat 32 w))) w
      (exec (.vj (BitVec.ofNat 32 w)) s) no =
    whenEncoded (none) (wordVC 0x97 0 0 0 (BitVec.ofNat 32 w).toNat) w
      (execVj (BitVec.ofNat 32 w) s) no := rfl

theorem run_vbz (w : Nat) (s : State) (no : Out) :
    whenEncoded (Instr.problem (.vbz (BitVec.ofNat 32 w))) (Instr.encode (.vbz (BitVec.ofNat 32 w))) w
      (exec (.vbz (BitVec.ofNat 32 w)) s) no =
    whenEncoded (none) (wordVC 0x98 0 0 0 (BitVec.ofNat 32 w).toNat) w
      (execVbz (BitVec.ofNat 32 w) s) no := rfl

theorem run_vbnz (w : Nat) (s : State) (no : Out) :
    whenEncoded (Instr.problem (.vbnz (BitVec.ofNat 32 w))) (Instr.encode (.vbnz (BitVec.ofNat 32 w))) w
      (exec (.vbnz (BitVec.ofNat 32 w)) s) no =
    whenEncoded (none) (wordVC 0x99 0 0 0 (BitVec.ofNat 32 w).toNat) w
      (execVbnz (BitVec.ofNat 32 w) s) no := rfl

theorem run_abne (w : Nat) (s : State) (no : Out) :
    whenEncoded (Instr.problem (.abne (gT w 48) (gT w 44) (BitVec.ofNat 32 w))) (Instr.encode (.abne (gT w 48) (gT w 44) (BitVec.ofNat 32 w))) w
      (exec (.abne (gT w 48) (gT w 44) (BitVec.ofNat 32 w)) s) no =
    whenEncoded (none) (wordVC 0x9A 0 (gT w 48) (gT w 44) (BitVec.ofNat 32 w).toNat) w
      (execAbne (gT w 48) (gT w 44) (BitVec.ofNat 32 w) s) no := rfl

theorem run_vend (w : Nat) (s : State) (no : Out) :
    whenEncoded (Instr.problem (.vend)) (Instr.encode (.vend)) w
      (exec (.vend) s) no =
    whenEncoded (none) (wordVC 0x9B 0 0 0 0) w
      (execVend s) no := rfl

theorem run_vtrap (w : Nat) (s : State) (no : Out) :
    whenEncoded (Instr.problem (.vtrap (BitVec.ofNat 32 w))) (Instr.encode (.vtrap (BitVec.ofNat 32 w))) w
      (exec (.vtrap (BitVec.ofNat 32 w)) s) no =
    whenEncoded (none) (wordVC 0x9C 0 0 0 (BitVec.ofNat 32 w).toNat) w
      (execVtrap (BitVec.ofNat 32 w) s) no := rfl

@[csimp] theorem runVector_eq_code : @runVector = @runVectorCode := by
  funext w s
  unfold runVector runVectorCode decodeVector readVector
  by_cases h : 0x93 ≤ w / 2 ^ 56
  · rw [if_pos h, if_pos h]
    unfold readSteer
    by_cases h0 : w / 2 ^ 56 = 0x93
    · rw [if_pos h0, if_pos h0]
      have e := run_accept w (.amul (gT w 52) (gT w 48) (gT w 44)) s (exec (.illegalWord true (BitVec.ofNat 64 w)) s)
      rw [run_amul] at e
      rw [e]
    rw [if_neg h0, if_neg h0]
    by_cases h1 : w / 2 ^ 56 = 0x94
    · rw [if_pos h1, if_pos h1]
      have e := run_accept w (.ashl (gT w 52) (gT w 48) (BitVec.ofNat 6 w)) s (exec (.illegalWord true (BitVec.ofNat 64 w)) s)
      rw [run_ashl] at e
      rw [e]
    rw [if_neg h1, if_neg h1]
    by_cases h2 : w / 2 ^ 56 = 0x95
    · rw [if_pos h2, if_pos h2]
      have e := run_accept w (.amovv (gT w 50) (gV w 44) (gT w 28) (BitVec.ofNat 16 w)) s (exec (.illegalWord true (BitVec.ofNat 64 w)) s)
      rw [run_amovv] at e
      rw [e]
    rw [if_neg h2, if_neg h2]
    by_cases h3 : w / 2 ^ 56 = 0x96
    · rw [if_pos h3, if_pos h3]
      have e := run_accept w (.vloop (gT w 52) (BitVec.ofNat 32 w)) s (exec (.illegalWord true (BitVec.ofNat 64 w)) s)
      rw [run_vloop] at e
      rw [e]
    rw [if_neg h3, if_neg h3]
    by_cases h4 : w / 2 ^ 56 = 0x97
    · rw [if_pos h4, if_pos h4]
      have e := run_accept w (.vj (BitVec.ofNat 32 w)) s (exec (.illegalWord true (BitVec.ofNat 64 w)) s)
      rw [run_vj] at e
      rw [e]
    rw [if_neg h4, if_neg h4]
    by_cases h5 : w / 2 ^ 56 = 0x98
    · rw [if_pos h5, if_pos h5]
      have e := run_accept w (.vbz (BitVec.ofNat 32 w)) s (exec (.illegalWord true (BitVec.ofNat 64 w)) s)
      rw [run_vbz] at e
      rw [e]
    rw [if_neg h5, if_neg h5]
    by_cases h6 : w / 2 ^ 56 = 0x99
    · rw [if_pos h6, if_pos h6]
      have e := run_accept w (.vbnz (BitVec.ofNat 32 w)) s (exec (.illegalWord true (BitVec.ofNat 64 w)) s)
      rw [run_vbnz] at e
      rw [e]
    rw [if_neg h6, if_neg h6]
    by_cases h7 : w / 2 ^ 56 = 0x9A
    · rw [if_pos h7, if_pos h7]
      have e := run_accept w (.abne (gT w 48) (gT w 44) (BitVec.ofNat 32 w)) s (exec (.illegalWord true (BitVec.ofNat 64 w)) s)
      rw [run_abne] at e
      rw [e]
    rw [if_neg h7, if_neg h7]
    by_cases h8 : w / 2 ^ 56 = 0x9B
    · rw [if_pos h8, if_pos h8]
      have e := run_accept w (.vend) s (exec (.illegalWord true (BitVec.ofNat 64 w)) s)
      rw [run_vend] at e
      rw [e]
    rw [if_neg h8, if_neg h8]
    by_cases h9 : w / 2 ^ 56 = 0x9C
    · rw [if_pos h9, if_pos h9]
      have e := run_accept w (.vtrap (BitVec.ofNat 32 w)) s (exec (.illegalWord true (BitVec.ofNat 64 w)) s)
      rw [run_vtrap] at e
      rw [e]
    rw [if_neg h9, if_neg h9]
    rfl
  · rw [if_neg h, if_neg h]

/-- The turn of a vector context: the next word of the VRUN that it runs. -/
def stepCtx (s : State) : Out :=
  match s.ctxTask with
  | none => .next s
  | some t =>
    if s.power.on && t.state == .issued && s.ctxInTurn s.myCore s.at_.ctx.val then
      (s.modCore s.myCore fun x => { x with lastCtx := s.at_.ctx.val }).fetchVector t runVector
    else .next s

end Sys2Proof.Machine
end

