-- ==== Sys2Proof/Machine/Step.lean ====
section
/-!
DEFINITION. One step of the machine: the unit whose turn it is moves, and time passes; and how an instruction is placed where the
next step fetches it.
-/
namespace Sys2Proof.Machine

/-- The state after a unit has moved, at the end of the step. -/
def endOf : Out → Out
  | .next s => .next s.endStep
  | .fault f => .fault f
  | .refused r => .refused r

/-- One step: a strand, a vector context, or the part itself in an event row moves, as the turn says; a turn that names nothing
lets time pass. -/
def step (s : State) : Host.Outcome State Fault Refusal :=
  match s.turn with
  | none => .next s.endStep
  | some (.strand c k) =>
    if h : c < 260 ∧ k < 4 then endOf (stepStrand { s with at_ := ⟨⟨c, h.1⟩, ⟨k, h.2⟩, 0⟩ }) else .next s.endStep
  | some (.ctx c x) =>
    if h : c < 260 ∧ x < 16 then endOf (stepCtx { s with at_ := ⟨⟨c, h.1⟩, 0, ⟨x, h.2⟩⟩ }) else .next s.endStep
  | some (.event e) => if e.isEvent then endOf (exec e s) else .next s.endStep

/-- The state with an instruction placed where step fetches its next one, and nothing else that the fetch does not need: the bytes at
address 0x1_0000 of space 0, which is mapped for it by tables in device memory, and strand 0 of core 0 about to issue them; or, for
a vector word, context 0 of core 0 in the VRUN of that block (log 15). -/
def State.withFetchWord (s : State) (nbits w : Nat) : State :=
  let s := s.placeCode w
  if nbits ≤ 32 ∨ isLongWord (w % 2 ^ 32) then s.placeStrand else s.placeContext

end Sys2Proof.Machine
end

