-- ==== Sys2Proof/Safety.lean ====
section
/-!
DEFINITION. The terms in which claims about the machine are stated: what a step that runs is, what an instruction leaves as it was, and
the invariants.
-/
namespace Sys2Proof.Machine

/-! ## Steps that run -/

/-- An instruction, or an event, takes the machine from s to t. -/
def Runs (i : Instr) (s t : State) : Prop := exec i s = .next t

/-- An instruction runs and leaves a state of which P holds. -/
def RunsTo (i : Instr) (s : State) (P : State → Prop) : Prop := ∃ t, exec i s = .next t ∧ P t

/-- A state whose next step is neither a fault nor a refusal. -/
def State.safe (s : State) : Prop := ∃ t, step s = .next t

/-! ## Invariants -/

/-- Memory lists its bytes in the one canonical form. -/
def State.memOk (s : State) : Prop := Memory.wf s.mem = true

/-- The reserved bits of every region register read as zero (Table 3.2). -/
def State.rgnOk (s : State) : Prop := ∀ c k (q : QReg), ((s.strand c k).rgnAt q).toNat < 2 ^ 171

/-! ## Frames of the control core -/

/-- t is s but for strands, and but for no strand other than the one that moves in s: memory, every other core and strand, every table of the
cores and every other part of the package are as they were. -/
def State.onlyMe (s t : State) : Prop :=
  t = { s with cores := t.cores } ∧
  (∀ c, t.core c = { s.core c with strands := (t.core c).strands }) ∧
  (∀ c k, ¬ (c = s.myCore ∧ k = s.myStrand) → t.strand c k = s.strand c k)

/-- u is t but for its scalar registers with the notes of their tokens, its program counter, its scoreboard, its strand state with the notes
of the instruction that has completed, and the cycle until which it is held: system registers, region registers, stores, streams,
annotations and barrier memory are as they were. -/
def Strand.onlyRegs (t u : Strand) : Prop :=
  u = { t with regs := u.regs, tokArriver := u.tokArriver, pc := u.pc, pend := u.pend, state := u.state, reason := u.reason, obj := u.obj,
               waited := u.waited, arrived := u.arrived, tagsRead := u.tagsRead, defining := u.defining, gridWait := u.gridWait,
               tbWait := u.tbWait, hold := u.hold,
               tr := { t.tr with counted := u.tr.counted, passed := u.tr.passed } }

/-- The instruction of n bytes at the strand that moves has completed, has written v to register d (nothing to s0) and no other register,
and nothing else. -/
structure Wrote (s t : State) (d : Reg) (v : Word) (n : Nat) : Prop where
  frame : s.onlyMe t
  strand : s.me.onlyRegs t.me
  value : ∀ r, t.reg r = if r = d ∧ r ≠ 0 then v else s.reg r
  pend : t.me.pend = s.me.pend
  hold : t.me.hold = s.me.hold
  pc : t.me.pc = s.me.pc + BitVec.ofNat 64 n
  state : t.me.state = .run

/-- As Wrote, but the register stays pending (R168). -/
structure WroteLater (s t : State) (d : Reg) (v : Word) (k : PendKind) (n : Nat) : Prop where
  frame : s.onlyMe t
  strand : s.me.onlyRegs t.me
  value : ∀ r, t.reg r = if r = d ∧ r ≠ 0 then v else s.reg r
  pend : t.me.pend = (s.me.mark d k).pend
  hold : t.me.hold = s.me.hold
  pc : t.me.pc = s.me.pc + BitVec.ofNat 64 n
  state : t.me.state = .run

/-- The strand that moves goes on at a target, with v written to register d (nothing to s0), and the strand issues again no
earlier than in the third cycle from this one (R169). -/
structure Jumped (s t : State) (d : Reg) (v : Word) (target : Word) : Prop where
  frame : s.onlyMe t
  strand : s.me.onlyRegs t.me
  value : ∀ r, t.reg r = if r = d ∧ r ≠ 0 then v else s.reg r
  pend : t.me.pend = s.me.pend
  hold : t.me.hold = s.now + 3
  pc : t.me.pc = target
  state : t.me.state = .run

/-- The strand that moves has taken a precise trap at its instruction (R282): the saved address, the cause, the value, INTRAP and the
handler's address; no register, and nothing of any other strand, core or memory changes. -/
structure Trapped (s t : State) (cause : Nat) (val : Word) : Prop where
  frame : s.onlyMe t
  regs : t.me.regs = s.me.regs
  rgn : t.me.rgn = s.me.rgn
  stores : t.me.stores = s.me.stores
  pend : t.me.pend = s.me.pend
  epc : t.me.sys.epc = s.me.pc
  ecause : bitsOf t.me.sys.ecause.toNat 7 0 = cause
  eval : t.me.sys.eval = val
  intrap : t.me.sys.intrap = true
  super : t.me.sys.super = s.me.sys.super
  other : t.me.sys = { s.me.sys with epc := t.me.sys.epc, ecause := t.me.sys.ecause, eval := t.me.sys.eval, intrap := true }
  pc : t.me.pc = s.me.sys.tvec &&& ~~~3#64
  state : t.me.state = .run

/-- The strand that moves goes to WAIT at its instruction, which has no effect yet (R31). -/
structure Waits (s t : State) (r o : Nat) : Prop where
  frame : s.onlyMe t
  strand : t.me = { s.me with state := .wait, reason := r, obj := o, waited := t.me.waited }

/-! ## Accesses -/

/-- An aligned access of n bytes at va by the strand that moves reaches the key of a place of this package, no MIGRATE page is counted, and
no latent soft error stands in memory. -/
structure Reaches (s : State) (acc va n key : Nat) : Prop where
  aligned : va % n = 0
  place : ∃ mode, mode ≠ 4 ∧ s.myTranslate acc va = .to (.here key) mode
  sound : s.softErrors = []

/-- Such an access that reads what the home shows: no poison is there, and no store or atomic of the strand in flight touches its bytes. -/
structure ReadsMemory (s : State) (acc va n key : Nat) : Prop extends Reaches s acc va n key where
  clean : s.poisoned key n = false
  alone : ∀ b ∈ s.me.stores, b.touches key va n = false
  free : s.loadWaits (.here key) va n = none

/-- What the strand that moves reads of n bytes at a key: the home's bytes, as far as the writes to them have entered the view of its die
and of its data cache (R108, R187). -/
def State.mySeen (s : State) (key n : Nat) : Nat := s.seenNat (.scl s.myCore) key n

/-- A place that a store or an atomic may write: no frozen scratchpad, no live transaction barrier, tags read (R186, R188, R191). -/
def State.writable (s : State) (key n : Nat) : Prop :=
  s.frozenAt (.here key) = false ∧ s.tagAt (.here key) n = false ∧ s.needsTags (.here key) = false

/-- A load has issued: its value is in d, which stays pending until it returns; no other register, no byte of memory and no other strand
changes. -/
structure Loaded (s t : State) (d : Reg) (v : Word) : Prop where
  frame : s.onlyMe t
  strand : s.me.onlyRegs { t.me with read := s.me.read }
  value : ∀ r, t.reg r = if r = d ∧ r ≠ 0 then v else s.reg r
  pending : d ≠ 0 → t.me.pending d = true
  others : ∀ r, r ≠ d → t.me.pending r = s.me.pending r
  pc : t.me.pc = s.me.pc + 4
  state : t.me.state = .run

/-- A store has issued: it stands last in its strand's buffer with its place; no register, no byte of memory and no other strand changes
(R109, R189). -/
structure Stored (s t : State) (a : Acc) (key : Nat) : Prop where
  frame : s.onlyMe t
  strand : s.me.onlyRegs { t.me with stores := s.me.stores }
  stores : t.me.stores = s.me.stores ++ [⟨a, some (.here key), none, false, 0, s.me.heldLoads, s.me.after, (s.now, s.tick)⟩]
  regs : t.me.regs = s.me.regs
  pending : ∀ r, t.me.pending r = s.me.pending r
  pc : t.me.pc = s.me.pc + 4
  state : t.me.state = .run

/-- The strand that moves waits for the tags of the place that its instruction touches, which has no effect yet (R31, R188, R203). -/
structure ReadsTags (s t : State) : Prop where
  frame : s.onlyMe t
  strand : t.me = { s.me with tagsRead := true, state := .wait, reason := 15, obj := 2, waited := t.me.waited }

/-- n bytes at a key hold the value v, where one is given, and every other byte of memory is as it was. -/
def WroteBytes (s t : State) (key n : Nat) (v : Option Nat) : Prop :=
  ∀ j, t.byte j = match v with
    | some v => if key ≤ j ∧ j < key + n then BitVec.ofNat 8 (v / 2 ^ (8 * (j - key))) else s.byte j
    | none => s.byte j

/-- The strands of t are those of s, but for the strand that moves. -/
def State.sameStrands (s t : State) : Prop := ∀ c k, ¬ (c = s.myCore ∧ k = s.myStrand) → t.strand c k = s.strand c k

/-- An atomic of n bytes has been performed: d takes the old value and stays pending until it returns, the bytes take the new value where
there is one, and the flags f are collected; no other register, byte or strand changes (R192, R194). A relaxed one has completed; an
acquire-release one waits with REASON 3 for what its acquire must follow (R113). -/
structure Swapped (s t : State) (ar : Bool) (d : Reg) (key n old : Nat) (new : Option Nat) (f : Flags) : Prop where
  value : ∀ r, t.reg r = if r = d ∧ r ≠ 0 then BitVec.ofNat 64 old else s.reg r
  bytes : WroteBytes s t key n new
  flags : t.me.sys = { s.me.sys with fflags := s.me.sys.fflags ||| f }
  pending : d ≠ 0 → t.me.pending d = true
  others : ∀ r, r ≠ d → t.me.pending r = s.me.pending r
  strands : s.sameStrands t
  rgn : t.me.rgn = s.me.rgn
  stores : t.me.stores = s.me.stores
  pc : t.me.pc = if ar then s.me.pc else s.me.pc + 4
  state : t.me.state = if ar then .wait else .run
  waits : ar = true → t.me.reason = 3 ∧ t.me.arrived = true

/-! ## Waits that end, and objects -/

/-- The strand that moves leaves a wait that an arriver ended: PLEN takes the maximum of its own and the arriver's, which counts what has
passed since the arriver's update, unless the condition held as the wait began or the update itself is what the wait was for: a token, a
phase, a stamp (R370, R371). -/
def State.left (s : State) (a : Arriver) (edge : Nat) : State :=
  s.modMe fun t =>
    let passed := if t.waited = 0 ∨ edge = 3 ∨ edge = 4 ∨ edge = 5 then 0 else s.now - a.when_
    { t with sys := { t.sys with plen := min (max t.sys.plen (a.pl + passed)) (2 ^ 32 - 1) } }

/-- No WAIT record of the strand that moves is formed (Table 19.2). -/
def State.noWaitRecord (s : State) : Prop := s.me.sys.trctl.getLsbD 5 = false

/-- An address names a transaction-barrier object's place whose tags have been read: it is a multiple of 32 in the own or a quad member's
window, it translates to a scratchpad key, and nothing there is poisoned (R203, R475). -/
structure AtObject (s : State) (va key : Nat) : Prop where
  aligned : va % 32 = 0
  window : (inOwn va || inMember va) = true
  place : ∃ mode, s.myTranslate accRead va = .to (.here key) mode
  tags : s.needsTags (.here key) = false
  sound : s.softErrors = []
  clean : s.poisoned key 32 = false

/-- A member of TB that writes the object may do so (R203). -/
structure AtWritable (s : State) (va key : Nat) : Prop extends AtObject s va key where
  mem : s.memOk
  thawed : s.frozenAt (.here key) = false
  noPort : s.touchesPort key 32 = false

/-- A TB instruction has completed: the 32 bytes of the object hold x, d holds v; no other byte, register or strand changes. -/
structure ObjectSet (s t : State) (d : Reg) (v : Word) (key x : Nat) : Prop where
  value : ∀ r, t.reg r = if r = d ∧ r ≠ 0 then v else s.reg r
  bytes : WroteBytes s t key 32 (some x)
  strands : s.sameStrands t
  own : s.me.onlyRegs t.me
  pend : t.me.pend = s.me.pend
  pc : t.me.pc = s.me.pc + 4
  state : t.me.state = .run

/-! ## Posting -/

/-- A strand may take a window entry: nothing is granted, one is free, it holds fewer than 64, and no other claimant waits (R36). -/
def State.entryOpen (s : State) : Prop :=
  s.here.granted = [] ∧ s.here.window.length < 128 ∧ s.here.heldBy s.myStrand < 64 ∧
    ∀ j, j < 5 → j ≠ s.myStrand → s.here.eligible j = false

/-- The task that a task word makes of a command, before its bindings. -/
def State.taskOf (s : State) (h : TaskHead) (m : Cmd) : Task :=
  newTask s.here.nextSeq (.strand s.myStrand) h.tok h.pri.toNat m (s.me.operands h) s.meArriver 1

/-- A task form has posted: its task stands last in the window in POSTED with its command, priority, token and waits, its token register is
pending, and nothing of memory, of the registers or of another strand changes. -/
structure Posted (s t : State) (h : TaskHead) (m : Cmd) (tw : Option (BitVec 32 × Reg)) (bw : Option (Nat × BitVec 8 × Option Nat)) : Prop where
  task : ∃ u, t.here.window = s.here.window ++ [u] ∧ u.seq = s.here.nextSeq ∧ u.owner = .strand s.myStrand ∧ u.tok = h.tok ∧
    u.pri = h.pri.toNat ∧ u.cls = h.pri.toNat ∧ u.cmd = m ∧ u.state = .posted ∧ u.tokWait = tw ∧ u.barWait = bw ∧ u.launch = s.me.launch
  next : t.here.nextSeq = s.here.nextSeq + 1
  token : h.tok ≠ 0 → ⟨h.tok, .token s.here.nextSeq⟩ ∈ t.me.pend
  annotations : t.me.annTok = none ∧ t.me.annBar = none
  regs : t.me.regs = s.me.regs
  rgn : t.me.rgn = s.me.rgn
  mem : t.mem = s.mem
  strands : s.sameStrands t
  pc : t.me.pc = s.me.pc + 8
  state : t.me.state = .run

/-- A task form has failed at posting with a cause: no task of it stands in the window, and its token holds the negative code. -/
structure Refused (s t : State) (h : TaskHead) (cause : Nat) : Prop where
  window : t.here.window.map (·.seq) = s.here.window.map (·.seq)
  next : t.here.nextSeq = s.here.nextSeq + 1
  value : ∀ r, t.reg r = if r = h.tok ∧ r ≠ 0 then BitVec.ofInt 64 (-cause) else s.reg r
  pending : ∀ r, t.me.pending r = s.me.pending r
  rgn : t.me.rgn = s.me.rgn
  mem : t.mem = s.mem
  strands : s.sameStrands t
  pc : t.me.pc = s.me.pc + 8
  state : t.me.state = .run

/-- The tables of the moving core that an instruction may change are the buffer table and the list of pending definitions; d holds v. -/
structure WroteTable (s t : State) (d : Reg) (v : Word) : Prop where
  value : ∀ r, t.reg r = if r = d ∧ r ≠ 0 then v else s.reg r
  mem : t.mem = s.mem
  strands : s.sameStrands t
  window : t.here.window = s.here.window
  zones : t.here.zones = s.here.zones
  pc : t.me.pc = s.me.pc + 4
  state : t.me.state = .run

/-! ## Frames of a vector context -/

/-- Lane i of n bits of a vector register. -/
def Ctx.lane (y : Ctx) (r : VReg) (n i : Nat) : Nat := (y.vreg r).toNat / 2 ^ (n * i) % 2 ^ n

/-- t is s but for the context that moves in s. -/
def State.onlyCtx (s t : State) : Prop :=
  t = { s with cores := t.cores } ∧
  (∀ c, t.core c = { s.core c with ctxs := (t.core c).ctxs }) ∧
  (∀ c, c ≠ s.myCore → t.core c = s.core c) ∧
  (∀ x : Fin 16, x ≠ s.at_.ctx → t.here.ctxs[x] = s.here.ctxs[x])

/-- Element i of the group of g registers from r, of n bits each (R248). -/
def Ctx.elem (y : Ctx) (r : VReg) (n g i : Nat) : Nat := y.lane (r + BitVec.ofNat 6 (i % g)) n (i / g)

/-- A vector word has completed: element i of the group of g registers from vd, n bits each, holds (f i).1 where it is active and its old
value where it is not, every other register is as it was, the flags collected are those of active elements, and the context stands at
the next word (R249, R251). -/
structure WroteLanes (s t : State) (vd : VReg) (n g : Nat) (act : Nat → Bool) (f : Nat → Nat × Flags) : Prop where
  frame : s.onlyCtx t
  lanes : ∀ i, i < g * (4096 / n) → t.ctx.elem vd n g i = if act i then (f i).1 % 2 ^ n else s.ctx.elem vd n g i
  others : ∀ r : VReg, g ≤ (r - vd).toNat → t.ctx.vreg r = s.ctx.vreg r
  flags : ∀ b, t.ctx.flags.getLsbD b = true ↔
    s.ctx.flags.getLsbD b = true ∨ ∃ i, i < g * (4096 / n) ∧ act i = true ∧ (f i).2.getLsbD b = true
  rest : t.ctx = { s.ctx with v := t.ctx.v, flags := t.ctx.flags, pc := s.ctx.pc + 8 }

/-- A vector word has completed with vector registers as they were: the address registers and the mask stack may have changed. -/
structure WroteAddr (s t : State) (d : AReg) (v : Word) : Prop where
  frame : s.onlyCtx t
  value : ∀ r, t.ctx.areg r = if r = d ∧ r ≠ 0 then v else s.ctx.areg r
  rest : t.ctx = { s.ctx with a := t.ctx.a, pc := s.ctx.pc + 8 }

/-- A vector word has completed with vector and address registers as they were: the mask stack is ms, and the flags collected are those of
active lanes below cnt. -/
structure WroteMasks (s t : State) (ms : List (BitVec 1024)) (cnt : Nat) (act : Nat → Bool) (f : Nat → Flags) : Prop where
  frame : s.onlyCtx t
  masks : t.ctx.masks = ms
  flags : ∀ b, t.ctx.flags.getLsbD b = true ↔ s.ctx.flags.getLsbD b = true ∨ ∃ i, i < cnt ∧ act i = true ∧ (f i).getLsbD b = true
  rest : t.ctx = { s.ctx with masks := ms, flags := t.ctx.flags, pc := s.ctx.pc + 8 }

/-- A vector word has completed with every register, mask and flag of its context as it was. -/
def State.onlyPassed (s t : State) : Prop := t.ctx = { s.ctx with pc := s.ctx.pc + 8 }

/-- The context that moves goes on at a target, with v written to address register d (nothing to a0). -/
structure Steered (s t : State) (d : AReg) (v : Word) (target : Word) : Prop where
  frame : s.onlyCtx t
  value : ∀ r, t.ctx.areg r = if r = d ∧ r ≠ 0 then v else s.ctx.areg r
  rest : t.ctx = { s.ctx with a := t.ctx.a, pc := target }

/-- Half byte x of memory, counted two to a byte, the low one first (R129). -/
def State.half (s : State) (x : Nat) : Nat := (s.byte (x / 2)).toNat / 16 ^ (x % 2) % 16

/-- The key in the moving core's scratchpad of an element with a linear address under a layout (R273). -/
def State.elemAt (s : State) (layout va : Nat) : Nat := spBase s.myCore + (s.padOff layout va).getD 0

/-- A vector access of the elements a 0 to a (cnt − 1) that lie active passes every check of R274, and no latent soft error stands in
memory. -/
structure LanesPass (s : State) (store : Bool) (layout w cnt : Nat) (act : Nat → Bool) (a : Nat → Nat) : Prop where
  task : ∃ u, s.ctxTask = some u ∧ s.laneFault store layout w w ((List.range cnt).map fun i => (act i, a i)) u = none
  sound : s.softErrors = []

/-- The VRUN of the context that moves has ended: its context is free, no task with its number is in the window, and the token of the
strand that posted it holds v. -/
structure RunEnded (s t : State) (u : Task) (k : Nat) (v : Word) : Prop where
  context : t.ctx.task = none
  window : ∀ w ∈ t.here.window, w.seq ≠ u.seq
  token : (t.strand s.myCore k).reg u.tok = v
  mem : t.mem = s.mem

/-! ## Tasks that end, and parts of the package that stay -/

/-- Task u of core c has ended with a status (R34, R244): it has left the window, where every other task stands with its command, the token
of the strand that posted it holds the status, and no other register of that strand changes; the report of a tagged task of another
core is on its way; every other core is as it was. -/
structure Ended (s t : State) (c : Nat) (u : Task) (v : Int) : Prop where
  window : ∀ w ∈ (t.core c).window, w.seq ≠ u.seq
  others : ∀ w ∈ (s.core c).window, w.seq ≠ u.seq → ∃ w' ∈ (t.core c).window, w'.seq = w.seq ∧ w'.state = w.state ∧ w'.cmd = w.cmd
  token : ∀ k, u.owner = .strand k → k < 4 → u.tok ≠ 0 →
    ∀ r, (t.strand c k).reg r = if r = u.tok then BitVec.ofInt 64 v else (s.strand c k).reg r
  report : ∀ who tag, u.owner = .remote who tag → tag ≠ 0 → OutMsg.report who (some tag) v ∈ t.outbox
  cores : ∀ d, d ≠ c → t.core d = s.core d

/-- The elements of a task's write operand are places of half bytes that do not meet, in no event port, in no frozen scratchpad and in no
live transaction barrier (R80, R200, R446). -/
structure PlacesFree (s : State) (c : Nat) (u : Task) : Prop where
  apart : (s.results c u).Pairwise fun r r' => ∀ p p', (s.core c).place c (u.op 4) r.1.1 r.1.2 = some p →
    (s.core c).place c (u.op 4) r'.1.1 r'.1.2 = some p' →
    2 * p.1 + p.2 + ((s.core c).opBuf (u.op 4)).esize4 ≤ 2 * p'.1 + p'.2 ∨ 2 * p'.1 + p'.2 + ((s.core c).opBuf (u.op 4)).esize4 ≤ 2 * p.1 + p.2
  thawed : ∀ k ∈ (s.core c).placesOf c (u.op 4), s.frozenAt (.here k) = false
  untagged : ∀ k ∈ (s.core c).placesOf c (u.op 4), s.tagAt (.here k) (elemBytes ((s.core c).opBuf (u.op 4)).esize4) = false
  noPort : ∀ r ∈ s.results c u, ∀ p, (s.core c).place c (u.op 4) r.1.1 r.1.2 = some p →
    s.touchesPort p.1 (elemBytes ((s.core c).opBuf (u.op 4)).esize4) = false

end Sys2Proof.Machine
end

