-- ==== Sys2Proof/Certificates/Slice0/Obligations.lean ====
section
/-!
DEFINITION. The statements for the provers: what each instruction and each event of the part does, what it leaves as it was, how words
decode, and the invariant that every step keeps. Each docstring names the rules of the spec that the statement rests on.
-/
open Sys2Proof Sys2Proof.Machine


/-! ## Integer operations and immediates (chapter 8) -/

/-- Tier 2. Sums and differences (R171, R176, R178, R179): the exact value modulo 2^64, or for the W members modulo 2^32 and sign-extended;
nothing but d and the program counter changes. Constants (R178, R179): LIH, LI and LIHI. -/
def Obligations.SumsAndConstants : Prop :=
  (∀ (s : State) (d a b : Reg) (k : BitVec 16) (l : BitVec 32), s.residue = 0 →
     let x : Int := (s.reg a).toNat
     let y : Int := (s.reg b).toNat
     let pc : Int := s.me.pc.toNat
     RunsTo (.add d a b) s (Wrote s · d (BitVec.ofInt 64 (x + y)) 4) ∧
     RunsTo (.sub d a b) s (Wrote s · d (BitVec.ofInt 64 (x - y)) 4) ∧
     RunsTo (.addw d a b) s (Wrote s · d (BitVec.ofInt 64 (sextInt ((x + y) % 2 ^ 64).toNat 32)) 4) ∧
     RunsTo (.subw d a b) s (Wrote s · d (BitVec.ofInt 64 (sextInt ((x - y) % 2 ^ 64).toNat 32)) 4) ∧
     RunsTo (.addi d a k) s (Wrote s · d (BitVec.ofInt 64 (x + k.toInt)) 4) ∧
     RunsTo (.addl d a l) s (Wrote s · d (BitVec.ofInt 64 (x + l.toInt)) 8) ∧
     RunsTo (.addpc d k) s (Wrote s · d (BitVec.ofInt 64 (pc + k.toInt * 4)) 4)) ∧
  (∀ (s : State) (d a : Reg) (k : BitVec 16) (l : BitVec 32),
     RunsTo (.lih d k) s (Wrote s · d (BitVec.ofInt 64 (k.toInt * 2 ^ 16)) 4) ∧
     RunsTo (.li d l) s (Wrote s · d (BitVec.ofInt 64 l.toInt) 8) ∧
     RunsTo (.lihi d a l) s (Wrote s · d (BitVec.ofNat 64 (l.toNat * 2 ^ 32 + (s.reg a).toNat % 2 ^ 32)) 8))

/-- Tier 2. Bitwise operations and byte and bit reversal (R171, R176): each bit of d, and nothing but d and the program counter changes.
Shifts and rotations (R171, R172, R177): by the low 6 bits of b or of the word, or the low 5 bits of b for a W member, as multiplications
and floors of quotients; nothing but d and the program counter changes. -/
def Obligations.BitwiseAndShifts : Prop :=
  (∀ (s : State) (d a b : Reg) (k : BitVec 16),
     let x (i : Nat) : Bool := (s.reg a).getLsbD i
     let y (i : Nat) : Bool := (s.reg b).getLsbD i
     let z (i : Nat) : Bool := k.getLsbD (min i 15)
     let is (t : State) (f : Nat → Bool) : Prop := ∃ v : Word, Wrote s t d v 4 ∧ ∀ i, i < 64 → v.getLsbD i = f i
     RunsTo (.and d a b) s (is · fun i => x i && y i) ∧
     RunsTo (.or d a b) s (is · fun i => x i || y i) ∧
     RunsTo (.xor d a b) s (is · fun i => x i != y i) ∧
     RunsTo (.andn d a b) s (is · fun i => x i && !y i) ∧
     RunsTo (.andi d a k) s (is · fun i => x i && z i) ∧
     RunsTo (.ori d a k) s (is · fun i => x i || z i) ∧
     RunsTo (.xori d a k) s (is · fun i => x i != z i) ∧
     RunsTo (.brev d a) s (is · fun i => x (63 - i)) ∧
     RunsTo (.bswap d a) s (is · fun i => x (8 * (7 - i / 8) + i % 8))) ∧
  (∀ (s : State) (d a b : Reg) (k : BitVec 6), s.residue = 0 →
     let x := (s.reg a).toNat
     let n := (s.reg b).toNat % 64
     let m := (s.reg b).toNat % 32
     let left (n : Nat) : Word := BitVec.ofNat 64 (x * 2 ^ n)
     let right (n : Nat) : Word := BitVec.ofNat 64 (x / 2 ^ n)
     let arith (n : Nat) : Word := BitVec.ofInt 64 ((s.reg a).toInt / 2 ^ n)
     let rot (n : Nat) : Word := BitVec.ofNat 64 (x / 2 ^ n + x * 2 ^ (64 - n))
     RunsTo (.sll d a b) s (Wrote s · d (left n) 4) ∧
     RunsTo (.srl d a b) s (Wrote s · d (right n) 4) ∧
     RunsTo (.sra d a b) s (Wrote s · d (arith n) 4) ∧
     RunsTo (.ror d a b) s (Wrote s · d (rot n) 4) ∧
     RunsTo (.slli d a k) s (Wrote s · d (left k.toNat) 4) ∧
     RunsTo (.srli d a k) s (Wrote s · d (right k.toNat) 4) ∧
     RunsTo (.srai d a k) s (Wrote s · d (arith k.toNat) 4) ∧
     RunsTo (.rori d a k) s (Wrote s · d (rot k.toNat) 4) ∧
     RunsTo (.sllw d a b) s (Wrote s · d (BitVec.ofInt 64 (sextInt (x * 2 ^ m) 32)) 4) ∧
     RunsTo (.srlw d a b) s (Wrote s · d (BitVec.ofInt 64 (sextInt (x % 2 ^ 32 / 2 ^ m) 32)) 4) ∧
     RunsTo (.sraw d a b) s (Wrote s · d (BitVec.ofInt 64 (sextInt x 32 / 2 ^ m)) 4))

/-- Tier 2. Comparisons, minima and maxima (R171, R176); nothing but d and the program counter changes. Bit counts (R171); nothing but d and
the program counter changes. -/
def Obligations.ComparisonsAndCounts : Prop :=
  (∀ (s : State) (d a b : Reg) (k : BitVec 16),
     let x := s.reg a
     let y := s.reg b
     let one (p : Prop) (t : State) : Prop := (p → Wrote s t d 1 4) ∧ (¬ p → Wrote s t d 0 4)
     let pick (p : Prop) (t : State) : Prop := (p → Wrote s t d x 4) ∧ (¬ p → Wrote s t d y 4)
     RunsTo (.slt d a b) s (one (x.toInt < y.toInt)) ∧
     RunsTo (.sltn d a b) s (one (x.toNat < y.toNat)) ∧
     RunsTo (.slti d a k) s (one (x.toInt < k.toInt)) ∧
     RunsTo (.sltni d a k) s (one ((x.toNat : Int) < k.toInt % 2 ^ 64)) ∧
     RunsTo (.seq d a b) s (one (x = y)) ∧
     RunsTo (.sne d a b) s (one (x ≠ y)) ∧
     RunsTo (.min d a b) s (pick (x.toInt ≤ y.toInt)) ∧
     RunsTo (.max d a b) s (pick (x.toInt ≥ y.toInt)) ∧
     RunsTo (.minn d a b) s (pick (x.toNat ≤ y.toNat)) ∧
     RunsTo (.maxn d a b) s (pick (x.toNat ≥ y.toNat))) ∧
  (∀ (s : State) (d a : Reg),
     let x := (s.reg a).toNat
     RunsTo (.clz d a) s (fun t => ∃ n, Wrote s t d (BitVec.ofNat 64 n) 4 ∧ n ≤ 64 ∧ x < 2 ^ (64 - n) ∧ (n < 64 → 2 ^ (63 - n) ≤ x)) ∧
     RunsTo (.ctz d a) s (fun t => ∃ n, Wrote s t d (BitVec.ofNat 64 n) 4 ∧ n ≤ 64 ∧ x % 2 ^ n = 0 ∧ (n < 64 → x / 2 ^ n % 2 = 1)) ∧
     RunsTo (.popc d a) s (Wrote s · d (BitVec.ofNat 64 ((List.range 64).filter fun i => (s.reg a).getLsbD i).length) 4))

/-- Tier 2. EXTS and EXTZ (R175). -/
def Obligations.WidthExtension : Prop :=
  ∀ (s : State) (d a b : Reg),
    let x := s.reg a
    let w := (s.reg b).toNat % 128
    let is (t : State) (v : Word) : Prop :=
      (w = 0 → Wrote s t d 0 4) ∧ (64 ≤ w → Wrote s t d x 4) ∧ (0 < w → w < 64 → Wrote s t d v 4)
    RunsTo (.exts d a b) s (is · (BitVec.ofInt 64 (if x.getLsbD (w - 1) then (x.toNat % 2 ^ w : Int) - 2 ^ w else x.toNat % 2 ^ w))) ∧
    RunsTo (.extz d a b) s (is · (BitVec.ofNat 64 (x.toNat % 2 ^ w)))

/-- Tier 2. Products (R171, R173): exact, and carry-less bit by bit; d stays pending for the latency of the unit (R168, Table 8.1). -/
def Obligations.ProductResults : Prop :=
  ∀ (s : State) (d a b : Reg), s.residue = 0 →
    let x := s.reg a
    let y := s.reg b
    let clmulBit (i : Nat) : Bool :=
      ((List.range 64).filter fun j => y.getLsbD j && decide (j ≤ i) && x.getLsbD (i - j)).length % 2 == 1
    RunsTo (.mul d a b) s (WroteLater s · d (BitVec.ofInt 64 (x.toInt * y.toInt)) .latency 4) ∧
    RunsTo (.mulh d a b) s (WroteLater s · d (BitVec.ofInt 64 (x.toInt * y.toInt / 2 ^ 64)) .latency 4) ∧
    RunsTo (.mulhn d a b) s (WroteLater s · d (BitVec.ofNat 64 (x.toNat * y.toNat / 2 ^ 64)) .latency 4) ∧
    RunsTo (.clmul d a b) s (fun t => ∃ v : Word, WroteLater s t d v .latency 4 ∧ ∀ i, i < 64 → v.getLsbD i = clmulBit i) ∧
    RunsTo (.clmulh d a b) s (fun t => ∃ v : Word, WroteLater s t d v .latency 4 ∧ ∀ i, i < 64 → v.getLsbD i = clmulBit (64 + i))

/-- Tier 2. Divisions (R174): while no divider of the core is busy the division runs, for every divisor; while one is, the strand waits
(R168). -/
def Obligations.DivisionResults : Prop :=
  ∀ (s : State) (d a b : Reg),
    let x := s.reg a
    let y := s.reg b
    let wraps := x.toInt = -2 ^ 63 ∧ y.toInt = -1
    let is (v0 v1 v : Word) (t : State) : Prop :=
      (y = 0 → WroteLater s t d v0 .divider 4) ∧ (wraps → WroteLater s t d v1 .divider 4) ∧
      (y ≠ 0 → ¬ wraps → WroteLater s t d v .divider 4)
    let whole (v0 v : Word) (t : State) : Prop := (y = 0 → WroteLater s t d v0 .divider 4) ∧ (y ≠ 0 → WroteLater s t d v .divider 4)
    (s.residue = 0 → s.dividerBusy = false →
      RunsTo (.div d a b) s (is (BitVec.allOnes 64) x (BitVec.ofInt 64 (x.toInt.tdiv y.toInt))) ∧
      RunsTo (.rem d a b) s (is x 0 (BitVec.ofInt 64 (x.toInt.tmod y.toInt))) ∧
      RunsTo (.divn d a b) s (whole (BitVec.allOnes 64) (BitVec.ofNat 64 (x.toNat / y.toNat))) ∧
      RunsTo (.remn d a b) s (whole x (BitVec.ofNat 64 (x.toNat % y.toNat)))) ∧
    (s.dividerBusy = true →
      RunsTo (.div d a b) s (Waits s · 15 3) ∧ RunsTo (.rem d a b) s (Waits s · 15 3) ∧
      RunsTo (.divn d a b) s (Waits s · 15 3) ∧ RunsTo (.remn d a b) s (Waits s · 15 3))

/-- Tier 2. A residue mismatch of the adder, multiplier or shifter (R476): the first has the instruction issued again with its right result
and is counted; a second in a row is a fatal POISON trap with word 0 in EVAL. -/
def Obligations.ResidueMismatch : Prop :=
  ∀ (s : State) (d a b : Reg), s.power.rescnt < 2 ^ 32 - 2 →
    (s.residue = 1 → RunsTo (.add d a b) s fun t => t.power.rescnt = s.power.rescnt + 1 ∧ t.residue = 0 ∧
      t.me.pc = s.me.pc + 4 ∧ ∀ r, t.reg r = if r = d ∧ r ≠ 0 then s.reg a + s.reg b else s.reg r) ∧
    (2 ≤ s.residue → RunsTo (.add d a b) s fun t => t.power.rescnt = s.power.rescnt + 2 ∧ t.me.state = .stopped ∧
      t.me.stopCause = some (22, BitVec.ofNat 64 (s.ir.toNat % 2 ^ 32), s.me.pc) ∧ t.here.frozen = true ∧ t.me.regs = s.me.regs)

/-! ## Branches and jumps (R180 to R182) -/

/-- Tier 2. Conditional branches (R180): taken exactly under their conditions, to pc + 4 × off16; no register is written. Jumps (R181, R182,
R179): the link register takes the address of the next instruction, JALR reads a before it writes d, and its target's bits [1:0] are
cleared. -/
def Obligations.BranchesAndJumps : Prop :=
  (∀ (s : State) (a b : Reg) (off : BitVec 16),
     let x := s.reg a
     let y := s.reg b
     let goes (p : Prop) (t : State) : Prop :=
       (p → Jumped s t 0 0 (BitVec.ofInt 64 (s.me.pc.toNat + off.toInt * 4))) ∧ (¬ p → Wrote s t 0 0 4)
     RunsTo (.beq a b off) s (goes (x = y)) ∧
     RunsTo (.bne a b off) s (goes (x ≠ y)) ∧
     RunsTo (.blt a b off) s (goes (x.toInt < y.toInt)) ∧
     RunsTo (.bge a b off) s (goes (x.toInt ≥ y.toInt)) ∧
     RunsTo (.bltn a b off) s (goes (x.toNat < y.toNat)) ∧
     RunsTo (.bgen a b off) s (goes (x.toNat ≥ y.toNat))) ∧
  (∀ (s : State) (d a : Reg) (k : BitVec 16) (o : BitVec 21) (l : BitVec 32),
     let pc : Int := s.me.pc.toNat
     let next (n : Int) : Word := BitVec.ofInt 64 (pc + n)
     RunsTo (.jal d o) s (Jumped s · d (next 4) (BitVec.ofInt 64 (pc + o.toInt * 4))) ∧
     RunsTo (.jalr d a k) s (Jumped s · d (next 4) (BitVec.ofInt 64 (((s.reg a).toNat + k.toInt) / 4 * 4))) ∧
     RunsTo (.jall d l) s (Jumped s · d (next 8) (BitVec.ofInt 64 (pc + l.toInt * 4))))

/-! ## Loads and stores (R184 to R189) -/

/-- Tier 2. Loads (R184, R185): the bytes at a + Sext(imm12, 12), least significant first, sign- or zero-extended into d, which then stays
pending (R168); no byte of memory changes. The bytes are those that the home shows to the strand's die and data cache (R108, R187). A load
returns its strand's own latest store to the same bytes while that store has not been performed (R109, R189). A load of a page with C = 0
gives zero (R98). -/
def Obligations.Loads : Prop :=
  (∀ (s : State) (d a : Reg) (k : BitVec 12) (key : Nat),
     let va := (s.reg a + k.signExtend 64).toNat
     let ok (n : Nat) : Prop := ReadsMemory s accRead va n key
     let m (n : Nat) : Nat := s.mySeen key n
     let signed (n : Nat) (t : State) : Prop := Loaded s t d (BitVec.ofInt 64 (sextInt (m n) (8 * n)))
     let plain (n : Nat) (t : State) : Prop := Loaded s t d (BitVec.ofNat 64 (m n))
     (ok 1 → RunsTo (.ldI8 d a k) s (signed 1)) ∧ (ok 2 → RunsTo (.ldI16 d a k) s (signed 2)) ∧
     (ok 4 → RunsTo (.ldI32 d a k) s (signed 4)) ∧ (ok 8 → RunsTo (.ld64 d a k) s (plain 8)) ∧
     (ok 1 → RunsTo (.ldN8 d a k) s (plain 1)) ∧ (ok 2 → RunsTo (.ldN16 d a k) s (plain 2)) ∧
     (ok 4 → RunsTo (.ldN32 d a k) s (plain 4))) ∧
  (∀ (s : State) (d a : Reg) (k : BitVec 12) (key : Nat) (b : Buffered) (bs : List Buffered) (v : Word) (flush : Bool),
     let va := (s.reg a + k.signExtend 64).toNat
     Reaches s accRead va 8 key → s.poisoned key 8 = false → s.loadWaits (.here key) va 8 = none → s.me.stores = bs ++ [b] →
     (∀ x ∈ bs, x.isAtomic = false) → b.dest = some (.here key) → b.acc.size = 8 → b.acc.op = .store v flush →
     RunsTo (.ld64 d a k) s (Loaded s · d v)) ∧
  (∀ (s : State) (d a : Reg) (k : BitVec 12),
     let va := (s.reg a + k.signExtend 64).toNat
     s.myTranslate accRead va = .zero → va % 8 = 0 → RunsTo (.ld64 d a k) s (Loaded s · d 0))

/-- Tier 2. Stores (R184, R185): an access that passes its checks enters the strand's buffer with the value of d and its place, and the
strand goes on; no byte of memory changes yet (R109, R189). A store is performed at its home (R189): the bytes of its place take its value,
least significant first, every other byte of memory, every register and every other strand is as it was, it leaves the buffer, and the
readers of its die see it at once (R108). -/
def Obligations.Stores : Prop :=
  (∀ (s : State) (d a : Reg) (k : BitVec 12) (key : Nat),
     let va := (s.reg a + k.signExtend 64).toNat
     let acc (n : Nat) (flush : Bool) : Acc := ⟨s.me.pc, va, n, .store (s.reg d) flush⟩
     let ok (n : Nat) : Prop := Reaches s accWrite va n key ∧ s.writable key n ∧ ∀ b ∈ s.me.stores, ∃ j, b.dest = some (.here j)
     (ok 1 → RunsTo (.st8 d a k) s (Stored s · (acc 1 false) key)) ∧ (ok 2 → RunsTo (.st16 d a k) s (Stored s · (acc 2 false) key)) ∧
     (ok 4 → RunsTo (.st32 d a k) s (Stored s · (acc 4 false) key)) ∧ (ok 8 → RunsTo (.st64 d a k) s (Stored s · (acc 8 false) key)) ∧
     (ok 8 → RunsTo (.st64F d a k) s (Stored s · (acc 8 true) key))) ∧
  (∀ (s : State) (c k idx key : Nat) (b : Buffered) (v : Word) (flush : Bool),
     s.memOk → s.softErrors = [] → c < 260 → k < 4 → (s.strand c k).stores[idx]? = some b → b.dest = some (.here key) →
     b.acc.op = .store v flush → (s.strand c k).heldLoads = [] →
     (∀ x ∈ (s.strand c k).stores, ∃ j, x.dest = some (.here j)) →
     (∀ x ∈ (s.strand c k).stores.take idx, x.touches key b.acc.va b.acc.size = false) → s.issuedBefore c k key b.acc.size b.issued = false →
     s.frozenAt (.here key) = false → s.tagAt (.here key) b.acc.size = false → s.touchesPort key b.acc.size = false →
     RunsTo (.accessPerformedAtHome (.buffered c k idx)) s fun t =>
       WroteBytes s t key b.acc.size (some v.toNat) ∧
       t.strand c k = { s.strand c k with stores := (s.strand c k).stores.eraseIdx idx, wrote := (t.strand c k).wrote } ∧
       (∀ c' k', ¬ (c' = c ∧ k' = k) → t.strand c' k' = s.strand c' k') ∧
       ∀ w j, dieOf w = dieOf c → key ≤ j → j < key + b.acc.size → t.seenByte (.scl w) j = t.byte j)

/-- Tier 2. The checks of a load, a store and an atomic that fail are precise traps with the address in EVAL, and no byte is performed
(R186, R191): alignment, then translation, then for what writes a frozen scratchpad and a live transaction barrier. What writes a scratchpad
waits for its tags first (R31, R188). An access that meets a resolvable fault is held and the strand goes on (R101): a load's register is
pending, a store stands in the buffer without a place, and the fault is open with the address of the instruction's access. -/
def Obligations.AccessStops : Prop :=
  (∀ (s : State) (d a b : Reg) (k : BitVec 12) (c key mode : Nat) (scope : BitVec 3) (ar : Bool),
     let ea := s.reg a + k.signExtend 64
     let at_ := s.reg a
     let live (x : Nat) : Prop := s.me.fatal x = false
     (live 3 → ea.toNat % 8 ≠ 0 → RunsTo (.ld64 d a k) s (Trapped s · 3 ea) ∧ RunsTo (.st64 d a k) s (Trapped s · 3 ea)) ∧
     (live 3 → s.me.arrived = false → at_.toNat % 8 ≠ 0 → RunsTo (.atomAdd d a b ar scope true) s (Trapped s · 3 at_)) ∧
     (live c → c < 256 → ea.toNat % 8 = 0 →
       (s.myTranslate accRead ea.toNat = .fail c → RunsTo (.ld64 d a k) s (Trapped s · c ea)) ∧
       (s.myTranslate accWrite ea.toNat = .fail c → RunsTo (.st64 d a k) s (Trapped s · c ea))) ∧
     (live c → c < 256 → s.me.arrived = false → at_.toNat % 8 = 0 → s.myTranslate accAtomic at_.toNat = .fail c →
       RunsTo (.atomAdd d a b ar scope true) s (Trapped s · c at_)) ∧
     (live 5 → ea.toNat % 8 = 0 → mode ≠ 4 → s.myTranslate accWrite ea.toNat = .to (.here key) mode → s.frozenAt (.here key) = true →
       RunsTo (.st64 d a k) s (Trapped s · 5 ea)) ∧
     (live 6 → ea.toNat % 8 = 0 → mode ≠ 4 → s.myTranslate accWrite ea.toNat = .to (.here key) mode → s.frozenAt (.here key) = false →
       s.needsTags (.here key) = false → s.tagAt (.here key) 8 = true → RunsTo (.st64 d a k) s (Trapped s · 6 ea)) ∧
     (s.frozenAt (.here key) = false → s.needsTags (.here key) = true →
       (ea.toNat % 8 = 0 → s.myTranslate accWrite ea.toNat = .to (.here key) mode → RunsTo (.st64 d a k) s (ReadsTags s)) ∧
       (s.me.arrived = false → at_.toNat % 8 = 0 → s.myTranslate accAtomic at_.toNat = .to (.here key) mode →
         RunsTo (.atomAdd d a b ar scope true) s (ReadsTags s)))) ∧
  (∀ (s : State) (d a : Reg) (k : BitVec 12) (kind level ipa : Nat),
     let va := (s.reg a + k.signExtend 64).toNat
     va % 8 = 0 →
     (s.myTranslate accRead va = .open kind level ipa → RunsTo (.ld64 d a k) s fun t =>
       (∃ f : OpenFault, t.faults = s.faults ++ [f] ∧ f.va = va ∧ f.kind = kind ∧ f.acc = 1) ∧ (d ≠ 0 → t.me.pending d = true) ∧ t.mem = s.mem ∧
       t.me.regs = s.me.regs ∧ t.me.pc = s.me.pc + 4 ∧ t.me.state = .run) ∧
     (s.myTranslate accWrite va = .open kind level ipa → RunsTo (.st64 d a k) s fun t =>
       (∃ f : OpenFault, t.faults = s.faults ++ [f] ∧ f.va = va ∧ f.kind = kind ∧ f.acc = 2) ∧ (∃ b : Buffered, t.me.stores = s.me.stores ++ [b] ∧ b.dest = none) ∧
       t.mem = s.mem ∧ t.me.regs = s.me.regs ∧ t.me.pc = s.me.pc + 4 ∧ t.me.state = .run))

/-! ## Atomics (R190 to R194) -/

/-- Tier 2. The fifteen atomics (R192, R193, Table 9.2), 32 and 64 bits, with and without acquire-release: under the checks of R191 and, for
an acquire-release one, with every earlier access performed (R113), d takes the old value and memory the new one; an acquire-release one
then waits until every earlier access has its value, itself among them, and completes with an acquire. That an atomic on a place of this
package is performed as it issues is the model's choice (log 33). An acquire-release atomic waits with REASON 3 while an earlier access of
its strand has not been performed (R113, R112). -/
def Obligations.Atomics : Prop :=
  (∀ (s : State) (d a b : Reg) (ar wide : Bool) (scope : BitVec 3) (key : Nat),
     let va := (s.reg a).toNat
     let n := if wide then 8 else 4
     let w := 8 * n
     let ready (n : Nat) : Prop := s.memOk ∧ Reaches s accAtomic va n key ∧ s.poisoned key n = false ∧ s.writable key n ∧
       s.touchesPort key n = false ∧ (∀ x ∈ s.me.stores, x.held = false ∧ x.touches key va n = false) ∧ s.me.heldLoads = [] ∧
       s.me.arrived = false ∧ s.issuedBefore s.myCore s.myStrand key n (s.now, s.tick) = false ∧
       (ar = true → s.me.lostStream scope.toNat = none ∧ s.me.relReady scope.toNat = true)
     let old := s.readNat key n
     let x := (s.reg b).toNat % 2 ^ w
     let e := (s.reg d).toNat % 2 ^ w
     let put (v : Nat) (t : State) : Prop := Swapped s t ar d key n old (some v) 0
     let keep (t : State) : Prop := Swapped s t ar d key n old none 0
     let o4 := s.readNat key 4
     let x4 := (s.reg b).toNat % 2 ^ 32
     let vo := decodeTy Ty.f32 o4
     let vx := decodeTy Ty.f32 x4
     let nv : Flags := if vo.isSNan || vx.isSNan then Flag.nv else 0
     let quiet : Nat := 0x7FC00000
     let sum := encodeTy Ty.f32 (sumExt [vo, vx] 0).1 0 false
     (ready n →
       RunsTo (.atomAdd d a b ar scope wide) s (put ((old + x) % 2 ^ w)) ∧
       RunsTo (.atomAnd d a b ar scope wide) s (put (old &&& x)) ∧
       RunsTo (.atomOr d a b ar scope wide) s (put (old ||| x)) ∧
       RunsTo (.atomXor d a b ar scope wide) s (put (old ^^^ x)) ∧
       RunsTo (.atomXchg d a b ar scope wide) s (put x) ∧
       RunsTo (.atomCas d a b ar scope wide) s (fun t => if old = e then put x t else keep t) ∧
       RunsTo (.atomMin d a b ar scope wide) s (put (if sextInt x w < sextInt old w then x else old)) ∧
       RunsTo (.atomMax d a b ar scope wide) s (put (if sextInt old w < sextInt x w then x else old)) ∧
       RunsTo (.atomMinn d a b ar scope wide) s (put (min x old)) ∧
       RunsTo (.atomMaxn d a b ar scope wide) s (put (max x old)) ∧
       RunsTo (.atomIncw d a b ar scope wide) s (put (if x ≤ old then 0 else old + 1)) ∧
       RunsTo (.atomAddb d a b ar scope wide) s (fun t => if old + x ≤ e then put (old + x) t else keep t)) ∧
     (ready 4 →
       RunsTo (.atomFadd d a b ar scope) s
         (Swapped s · ar d key 4 o4 (some sum.1) (sum.2 ||| (sumExt [vo, vx] 0).2)) ∧
       RunsTo (.atomFmin d a b ar scope) s (Swapped s · ar d key 4 o4 (some (
         if vo.isNan then (if vx.isNan then quiet else x4) else if vx.isNan then o4
         else if vx.lt vo ∨ (x4 = 2 ^ 31 ∧ o4 = 0) then x4 else o4)) nv) ∧
       RunsTo (.atomFmax d a b ar scope) s (Swapped s · ar d key 4 o4 (some (
         if vo.isNan then (if vx.isNan then quiet else x4) else if vx.isNan then o4
         else if vo.lt vx ∨ (x4 = 0 ∧ o4 = 2 ^ 31) then x4 else o4)) nv)) ∧
     (s.me.arrived = true → ∀ i ∈ ([.atomAdd d a b true scope wide, .atomAnd d a b true scope wide, .atomOr d a b true scope wide,
         .atomXor d a b true scope wide, .atomXchg d a b true scope wide, .atomCas d a b true scope wide, .atomMin d a b true scope wide,
         .atomMax d a b true scope wide, .atomMinn d a b true scope wide, .atomMaxn d a b true scope wide, .atomFadd d a b true scope,
         .atomFmin d a b true scope, .atomFmax d a b true scope, .atomIncw d a b true scope wide, .atomAddb d a b true scope wide] : List Instr),
       ((∀ x ∈ s.me.pend, x.kind.isAccess = false) → RunsTo i s (Wrote (s.acquire scope.toNat) · 0 0 4)) ∧
       (¬ (∀ x ∈ s.me.pend, x.kind.isAccess = false) → RunsTo i s (Waits s · 3 0)))) ∧
  (∀ (s : State) (d a b : Reg) (scope : BitVec 3) (key mode : Nat),
     let va := (s.reg a).toNat
     s.me.arrived = false → va % 8 = 0 → s.myTranslate accAtomic va = .to (.here key) mode → mode ≠ 5 → s.writable key 8 → scope.toNat < 4 →
     s.me.relReady scope.toNat = false → RunsTo (.atomAdd d a b true scope true) s (Waits s · 3 0))

/-! ## Fences, barriers and tokens (R112 to R125, R195 to R212, R483) -/

/-- Tier 2. Fences (R112, R117, R121, R125): under its condition a fence completes and changes nothing but the program counter and what is
ordered and seen; else the strand waits with REASON 3, and at GRP or SYS scope a marker follows each stream's stores that none covers. What
fences order (R108, R112 to R116, R121): no fence changes a byte, a register or another strand. After an acquire the strand's reads return
each write that it had read or met whose home lies in the scope's instance, and at GRP or SYS scope the die holds no word of another
package's CACHED pages (R95). After a release each write that it had made or read, with its home in the instance, is ordered before its
later stores. After FENCE.X CPY, q the strand, or the core's engines, see what the copies wrote whose completion it had observed. A release
at GRP or SYS scope whose stream's destination has become unreachable raises LINK_FAILED as a precise trap at the fence (R127): ECAUSE with
the stream bit, EVAL with the package and the last number acknowledged; the stream's stores are settled. -/
def Obligations.Fences : Prop :=
  (∀ (s : State) (scope p q : BitVec 3),
     let n := scope.toNat
     let returned : Prop := ∀ x ∈ s.me.pend, x.kind.isAccess = false
     let performed : Prop := returned ∧ ∀ b ∈ s.me.stores, b.blocks n = false
     let crossed : Prop := returned ∧ ∀ b ∈ s.me.stores, b.acc.pc.toNat % 2 = 1 ∨
       ∃ p i : Nat, b.dest = some (.peer p i) ∧ (s.me.stream p).lost = true
     let u := s.noteRelease n
     let waits (t : State) : Prop := Waits s t 3 0
     (returned → RunsTo (.fenceAcq scope) s (Wrote (s.acquire n) · 0 0 4)) ∧
     (¬ returned → RunsTo (.fenceAcq scope) s waits) ∧
     (s.me.lostStream n = none → performed →
       RunsTo (.fenceRel scope) s (Wrote u · 0 0 4) ∧ RunsTo (.fenceAr scope) s (Wrote (u.acquire n) · 0 0 4) ∧
       RunsTo (.fenceSc scope) s (Wrote ((u.scPlace n).acquire n) · 0 0 4)) ∧
     (n < 4 → ¬ performed → RunsTo (.fenceRel scope) s waits ∧ RunsTo (.fenceAr scope) s waits ∧ RunsTo (.fenceSc scope) s waits) ∧
     (4 ≤ n → s.me.lostStream n = none → ¬ performed → RunsTo (.fenceRel scope) s fun t =>
       t.me.state = .wait ∧ t.me.reason = 3 ∧ t.me.pc = s.me.pc ∧ t.me.regs = s.me.regs ∧ t.mem = s.mem ∧
       ∀ x ∈ s.me.streams, x.sent ≠ x.acked → x.marked ≠ x.sent → OutMsg.flushMarker s.myCore s.myStrand x.pkg ∈ t.outbox) ∧
     (p ≠ 0 ∨ crossed → RunsTo (.fenceX scope p q) s (Wrote (s.cross n p.toNat q.toNat) · 0 0 4)) ∧
     (¬ (p ≠ 0 ∨ crossed) → RunsTo (.fenceX scope p q) s waits)) ∧
  (∀ (s : State) (n q : Nat) (w : Late),
     let c := s.myCore
     let inside : Prop := ∀ x ∈ w.cells, homeIn c n x.1 = true
     let shown (t : State) (r : Reader) : Prop := ∀ x ∈ t.late, x.id = w.id → x.lags r = false
     let quiet (t : State) : Prop := t.mem = s.mem ∧ t.me.regs = s.me.regs ∧ t.me.pc = s.me.pc ∧ s.sameStrands t ∧
       ∀ (r : Reader) (x : Late), x ∈ t.late → x.lags r = true → ∃ y ∈ s.late, y.id = x.id ∧ y.lags r = true
     w ∈ s.late →
     quiet (s.acquire n) ∧ quiet (s.noteRelease n) ∧ quiet (s.scPlace n) ∧ quiet (s.cross n 4 q) ∧
     (w.id ∈ s.me.read → inside → shown (s.acquire n) (.scl c)) ∧
     (w.id ∈ s.me.after → shown (s.acquire n) (.scl c)) ∧
     (4 ≤ n → ∀ x ∈ (s.acquire n).rline, x.die ≠ dieOf c) ∧
     (w.id ∈ s.me.wrote ∨ w.id ∈ s.me.read → inside → w.id ∈ (s.noteRelease n).me.after) ∧
     (w.id ∈ s.me.observed → inside → shown (s.cross n 4 0) (.scl c) ∧ shown (s.cross n 4 1) (.engine c))) ∧
  (∀ (s : State) (scope : BitVec 3) (x : Stream), 4 ≤ scope.toNat → s.me.lostStream scope.toNat = some x → s.me.fatal 21 = false →
     RunsTo (.fenceRel scope) s fun t =>
       t.me.sys.epc = s.me.pc ∧ t.me.sys.ecause.toNat = 21 + 2 ^ 16 ∧
       t.me.sys.eval = BitVec.ofNat 64 (x.pkg % 2 ^ 15 + x.acked.toNat * 2 ^ 32) ∧ t.me.sys.intrap = true ∧
       t.me.pc = s.me.sys.tvec &&& ~~~3#64 ∧ t.me.regs = s.me.regs ∧ t.mem = s.mem ∧ s.sameStrands t ∧
       (t.me.stream x.pkg).lost = false ∧ ∀ b ∈ t.me.stores, b ∈ s.me.stores ∧ ∀ i, b.dest ≠ some (.peer x.pkg i))

/-- Tier 2. Hierarchical barriers (R42 to R45, R197 to R199): an id that the partition does not hold raises PROTECT; BAR.ARV sends an
arrival and remembers the phase; BAR.WAIT and BAR.SYNC wait until the phase has changed and write 0, or the code of a failure; BAR.CFG
within the package takes effect at once, after what its strand has sent to the barrier, and at GRP and SYS goes by the network (the model's
choice, log 36). -/
def Obligations.HierarchicalBarriers : Prop :=
  ∀ (s : State) (d a : Reg) (scope : BitVec 3) (id : BitVec 4),
    let n := scope.toNat
    let k := id.toNat
    let inst := s.instOf s.myCore n
    let b := s.bar n inst k
    let item (e : Option Nat) (ids : List Nat) : Arrival := ⟨n, inst, k, s.meArriver, e, ids, some (s.myCore, s.myStrand)⟩
    let arr := item none (s.noteRelease n).me.after
    let cfg := item (some (s.reg a).toNat) s.me.after
    let away : State := { s with arrivals := s.arrivals ++ [cfg], outbox := s.outbox ++ [.barConfig { cfg with src := none }] }
    let performed : Prop := s.me.lostStream n = none ∧ s.me.relReady n = true
    let held : Prop := s.holdsBar n k = true
    let over_ (v : Word) (t : State) : Prop := Wrote (((s.left b.last 7).meet b.seen).acquire n) t d v 4
    let code (c : Nat) : Word := BitVec.ofInt 64 (-c)
    let arrived (t : State) : Prop := t.arrivals = s.arrivals ++ [arr] ∧
      t.outbox = (if 4 ≤ n then s.outbox ++ [.arrival { arr with src := none }] else s.outbox) ∧ t.mem = s.mem ∧ t.me.regs = s.me.regs ∧ s.sameStrands t
    let e := (s.reg a).toNat
    (s.holdsBar n k = false → s.me.fatal 5 = false →
      RunsTo (.barArv scope id) s (fun t => ∃ v, Trapped s t 5 v) ∧ RunsTo (.barWait d scope id) s (fun t => ∃ v, Trapped s t 5 v) ∧
      RunsTo (.barSync d scope id) s (fun t => ∃ v, Trapped s t 5 v) ∧ RunsTo (.barCfg d a scope id) s (fun t => ∃ v, Trapped s t 5 v)) ∧
    (held → performed → RunsTo (.barArv scope id) s fun t =>
      arrived t ∧ t.me.barMemOf n k = some ⟨n, k, b.phase, true⟩ ∧ t.me.pc = s.me.pc + 4 ∧ t.me.state = .run) ∧
    (held → performed → s.me.arrived = false → b.failed = none → RunsTo (.barSync d scope id) s fun t =>
      arrived t ∧ t.me.barMemOf n k = some ⟨n, k, b.phase, true⟩ ∧ t.me.arrived = true ∧ t.me.pc = s.me.pc ∧ t.me.state = .wait ∧
      t.me.reason = 4 ∧ t.me.obj = n * 16 + k) ∧
    (held → s.noWaitRecord →
      (∀ c, b.failed = some c → RunsTo (.barWait d scope id) s (over_ (code c)) ∧
        (s.me.arrived = true → RunsTo (.barSync d scope id) s (over_ (code c)))) ∧
      (b.failed = none → s.me.barMemOf n k = none → RunsTo (.barWait d scope id) s (over_ 0)) ∧
      (∀ m, b.failed = none → s.me.barMemOf n k = some m → s.arriving n k = false → b.phase ≠ m.phase →
        RunsTo (.barWait d scope id) s (over_ 0) ∧ (s.me.arrived = true → RunsTo (.barSync d scope id) s (over_ 0))) ∧
      (∀ m, b.failed = none → s.me.barMemOf n k = some m → (s.arriving n k = true ∨ b.phase = m.phase) →
        RunsTo (.barWait d scope id) s (Waits s · 4 (n * 16 + k)) ∧
        (s.me.arrived = true → RunsTo (.barSync d scope id) s (Waits s · 4 (n * 16 + k))))) ∧
    (held → (e = 0 ∨ 67108863 < e → RunsTo (.barCfg d a scope id) s (Wrote s · d (BitVec.allOnes 64) 4)) ∧
      (4 ≤ n → 0 < e → e ≤ 67108863 → RunsTo (.barCfg d a scope id) s (Wrote away · d 0 4)) ∧
      (n < 4 → 0 < e → e ≤ 67108863 → RunsTo (.barCfg d a scope id) s fun t =>
        (t.bar n inst k).expect = e ∧ (t.bar n inst k).count = 0 ∧ (t.bar n inst k).failed = none ∧ t.mem = s.mem ∧ t.me.pc = s.me.pc + 4 ∧
        (∀ r, t.reg r = if r = d ∧ r ≠ 0 then 0 else s.reg r) ∧
        (∀ n' i' k' : Nat, ¬ (n' = n ∧ i' = inst ∧ k' = k) → t.bar n' i' k' = s.bar n' i' k') ∧
        ((∀ y ∈ s.arrivals, cfg.follows y = false) →
          (∃ u : State, Wrote u t d 0 4 ∧ u = { s with bars := t.bars }) ∧ (t.bar n inst k).phase = b.phase)))

/-- Tier 2. TB.INIT, TB.INVAL and TB.NAME (R202, R204): TB.INIT makes an object live with its arrivals expected and its scope, TB.INVAL ends
it and leaves its bytes, TB.NAME appends a name; operands out of range give −1 and change nothing. TB.INIT comes after the stores in flight
to the object whose tags have been read (R188). Before any effect a TB instruction traps on an address that is no multiple of 32, and on one
outside the own and the members' windows; on one that it may touch it waits for the tags to be read (R31, R203). -/
def Obligations.BarrierObjectsMade : Prop :=
  (∀ (s : State) (d a b : Reg) (scope : BitVec 3) (key : Nat),
     let va := (s.reg a).toNat
     let e := (s.reg b).toNat
     let x := s.tb key
     let none_ (t : State) : Prop := Wrote s t d (BitVec.allOnes 64) 4
     AtWritable s va key →
     (e = 0 ∨ 262143 < e ∨ s.tagged key 32 = true → RunsTo (.tbInit d a b scope) s none_) ∧
     (0 < e → e ≤ 262143 → s.tagged key 32 = false → RunsTo (.tbInit d a b scope) s fun t => ∃ y, ObjectSet (s.flushObject key) t d 0 key y ∧
       tbExp y = e ∧ tbParr y = e ∧ tbPbytes y = 0 ∧ tbPhase y = 0 ∧ tbStatus y = 0 ∧ tbScope y = scope.toNat ∧ tbNamed y = 0 ∧
       t.isLive key = true ∧ ∀ j, j ≠ key → t.isLive j = s.isLive j) ∧
     ((∀ c k : Nat, (s.strand c k).stores = []) → s.flushObject key = s) ∧
     (s.isLive key = false ∨ s.isSlotBar key = true → RunsTo (.tbInval d a) s none_) ∧
     (s.isLive key = true → s.isSlotBar key = false → RunsTo (.tbInval d a) s fun t =>
       t.mem = s.mem ∧ t.isLive key = false ∧ (∀ j, j ≠ key → t.isLive j = s.isLive j) ∧
       (∀ r, t.reg r = if r = d ∧ r ≠ 0 then 0 else s.reg r) ∧ t.me.pc = s.me.pc + 4 ∧
       ∀ c k, ¬ (c = s.myCore ∧ k = s.myStrand) → t.strand c k = { s.strand c k with tbWait := (t.strand c k).tbWait }) ∧
     (s.isSlotBar key = false → (s.isLive key = false ∨ 4 ≤ tbNamed x ∨ 2 ^ 23 ≤ e) → RunsTo (.tbName d a b) s none_) ∧
     (s.isSlotBar key = false → s.isLive key = true → tbNamed x < 4 → e < 2 ^ 23 → RunsTo (.tbName d a b) s fun t =>
       ∃ y, ObjectSet s t d 0 key y ∧ tbName y (tbNamed x) = e ∧ tbNamed y = tbNamed x + 1 ∧
         (∀ j, j < 4 → j ≠ tbNamed x → tbName y j = tbName x j) ∧ tbExp y = tbExp x ∧ tbParr y = tbParr x ∧ tbPbytes y = tbPbytes x ∧
         tbPhase y = tbPhase x ∧ tbStatus y = tbStatus x ∧ tbScope y = tbScope x)) ∧
  (∀ (s : State) (d a b : Reg) (scope : BitVec 3) (key mode : Nat),
     let va := s.reg a
     let all (c : Nat) : Prop :=
       RunsTo (.tbInit d a b scope) s (Trapped s · c va) ∧ RunsTo (.tbExpect d a b) s (Trapped s · c va) ∧
       RunsTo (.tbArv d a b) s (Trapped s · c va) ∧ RunsTo (.tbWait d a b) s (Trapped s · c va) ∧
       RunsTo (.tbTest d a) s (Trapped s · c va) ∧ RunsTo (.tbInval d a) s (Trapped s · c va) ∧ RunsTo (.tbName d a b) s (Trapped s · c va)
     (va.toNat % 32 ≠ 0 → s.me.fatal 3 = false → all 3) ∧
     (va.toNat % 32 = 0 → (inOwn va.toNat || inMember va.toNat) = false → s.me.fatal 4 = false → all 4) ∧
     (va.toNat % 32 = 0 → (inOwn va.toNat || inMember va.toNat) = true → s.myTranslate accRead va.toNat = .to (.here key) mode →
       s.frozenAt (.here key) = false → s.needsTags (.here key) = true →
       RunsTo (.tbInit d a b scope) s (ReadsTags s) ∧ RunsTo (.tbExpect d a b) s (ReadsTags s) ∧ RunsTo (.tbArv d a b) s (ReadsTags s) ∧
       RunsTo (.tbWait d a b) s (ReadsTags s) ∧ RunsTo (.tbTest d a) s (ReadsTags s) ∧ RunsTo (.tbInval d a) s (ReadsTags s) ∧
       RunsTo (.tbName d a b) s (ReadsTags s)))

/-- Tier 2. The updates TB.EXPECT and TB.ARV (R204, R205, R208): the pending bytes and arrivals, the completion of the phase, an overrun,
and the objects that take no update. -/
def Obligations.BarrierUpdates : Prop :=
  ∀ (s : State) (d a b : Reg) (key : Nat),
    let va := (s.reg a).toNat
    let n := (s.reg b).toNat
    let x := s.tb key
    let v := tbPbytes x + n
    let code (c : Nat) : Word := BitVec.ofInt 64 (-c)
    let performed : Prop := s.me.lostStream (tbScope x) = none ∧ s.me.relReady (tbScope x) = true
    let v' := s.noteRelease (tbScope x)
    let u := v'.tbRelease key v'.me.after
    let inRange : Prop := n < 2 ^ 39 ∧ v < 2 ^ 39
    let same (y : Nat) : Prop := tbExp y = tbExp x ∧ tbScope y = tbScope x ∧ tbNamed y = tbNamed x ∧ tbFcode y = tbFcode x ∧
      tbStatus y = 0 ∧ ∀ j, j < 4 → tbName y j = tbName x j
    let by_ (y : Nat) : Prop := tbLastid y = s.identity s.myCore % 2 ^ 23 ∧ tbLastp y = 0 ∧ tbPlen y = min s.me.sys.plen (2 ^ 32 - 1)
    let going (y : Nat) (parr : Nat) : Prop := same y ∧ by_ y ∧ tbPbytes y = v ∧ tbPhase y = tbPhase x ∧ tbParr y = parr
    let complete (y : Nat) : Prop := same y ∧ by_ y ∧ tbPbytes y = 0 ∧ tbPhase y = (tbPhase x + 1) % 256 ∧ tbParr y = tbExp x
    let failed (y : Nat) : Prop := tbStatus y = 1 ∧ tbFcode y = 19 ∧ tbPhase y = (tbPhase x + 1) % 256 ∧ tbPbytes y = tbPbytes x ∧
      tbParr y = tbParr x
    AtWritable s va key →
    (s.isLive key = false → s.isSlotBar key = false →
      RunsTo (.tbExpect d a b) s (Wrote s · d (code 20) 4) ∧ RunsTo (.tbArv d a b) s (Wrote s · d (code 20) 4)) ∧
    (s.isLive key = true → s.isSlotBar key = true → RunsTo (.tbExpect d a b) s (Wrote s · d (code 20) 4)) ∧
    (s.isLive key = true → s.isSlotBar key = false →
      (tbStatus x = 1 → RunsTo (.tbExpect d a b) s (Wrote s · d (code (tbFcode x)) 4) ∧
        (performed → RunsTo (.tbArv d a b) s (Wrote u · d (code (tbFcode x)) 4))) ∧
      (tbStatus x = 0 →
        (¬ inRange → RunsTo (.tbExpect d a b) s fun t => ∃ y, ObjectSet s t d (code 19) key y ∧ failed y) ∧
        (inRange → ¬ (tbParr x = 0 ∧ v = 0) →
          RunsTo (.tbExpect d a b) s fun t => ∃ y, ObjectSet s t d 0 key y ∧ going y (tbParr x)) ∧
        (performed → (¬ inRange ∨ tbParr x = 0) → RunsTo (.tbArv d a b) s fun t => ∃ y, ObjectSet u t d (code 19) key y ∧ failed y) ∧
        (performed → inRange → 0 < tbParr x → ¬ (tbParr x = 1 ∧ v = 0) →
          RunsTo (.tbArv d a b) s fun t => ∃ y, ObjectSet u t d 0 key y ∧ going y (tbParr x - 1)) ∧
        (performed → inRange → tbParr x = 1 → v = 0 →
          RunsTo (.tbArv d a b) s fun t => ∃ y, ObjectSet u t d 0 key y ∧ complete y)))

/-- Tier 2. TB.WAIT and TB.TEST (R206, R207): TB.WAIT completes when the phase differs, the object has failed or is not live, with an
acquire at its scope, and else waits with REASON 5; TB.TEST reads the phase and never waits. -/
def Obligations.BarrierObjectWaits : Prop :=
  ∀ (s : State) (d a b : Reg) (key : Nat),
    let va := (s.reg a).toNat
    let x := s.tb key
    let code (c : Nat) : Word := BitVec.ofInt 64 (-c)
    let who : Arriver := ⟨tbLastid x, tbLastp x, (s.barNoteAt key).2, tbPlen x, (s.barNoteAt key).1⟩
    let ends (v : Word) (t : State) : Prop := 
      Wrote (((s.left who 4).meet (s.tbReleased key ((s.reg b).toNat % 256))).acquire (tbScope x)) t d v 4
    let phase := (s.reg b).toNat % 256
    AtObject s va key →
    (s.noWaitRecord → s.me.tbWait = none →
      (s.isLive key = false → RunsTo (.tbWait d a b) s (ends (code 20))) ∧
      (s.isLive key = true → tbStatus x = 1 → RunsTo (.tbWait d a b) s (ends (code (tbFcode x)))) ∧
      (s.isLive key = true → tbStatus x ≠ 1 → tbPhase x ≠ phase → RunsTo (.tbWait d a b) s (ends 0)) ∧
      (s.isLive key = true → tbStatus x ≠ 1 → tbPhase x = phase →
        RunsTo (.tbWait d a b) s fun t =>
          Waits (s.modMe fun u => { u with tbWait := some (key, BitVec.ofNat 8 phase, none) }) t 5 va)) ∧
    (s.isLive key = false → RunsTo (.tbTest d a) s (Wrote s · d (code 20) 4)) ∧
    (s.isLive key = true → tbStatus x = 1 → RunsTo (.tbTest d a) s (Wrote s · d (code (tbFcode x)) 4)) ∧
    (s.isLive key = true → tbStatus x ≠ 1 → RunsTo (.tbTest d a) s (Wrote s · d (BitVec.ofNat 64 (tbPhase x)) 4))

/-- Tier 2. Tokens and wait annotations (R210 to R212, R483): TK.WAIT waits while its register is pending and then copies it, TK.TEST never
waits, TK.AFTER and TB.AFTER replace the strand's annotation of their kind and write no register. -/
def Obligations.TokensAndAnnotations : Prop :=
  ∀ (s : State) (d a b : Reg),
    (s.me.pending a = true → RunsTo (.tkWait d a) s (Waits s · 6 a.toNat) ∧ RunsTo (.tkTest d a) s (Wrote s · d 1 4)) ∧
    (s.me.pending a = false → s.noWaitRecord →
      RunsTo (.tkWait d a) s (fun t => match s.me.tokArriver.find? (fun x => x.1 == a) with
        | some x => Wrote (s.left x.2 3) t d (s.reg a) 4
        | none => Wrote s t d (s.reg a) 4)) ∧
    (s.me.pending a = false → RunsTo (.tkTest d a) s (Wrote s · d (s.reg a) 4)) ∧
    RunsTo (.tkAfter a) s (Wrote (s.modMe fun t => { t with annTok := some a }) · 0 0 4) ∧
    RunsTo (.tbAfter a b) s (Wrote (s.modMe fun t => { t with annBar := some (s.reg a, BitVec.ofNat 8 (s.reg b).toNat) }) · 0 0 4)

/-! ## Regions, buffers and tasks (chapters 3 and 10) -/

/-- Tier 2. Region instructions (R216): each bit of the region register, reserved bits reading 0; nothing else but the program counter
changes. BUF.DEF and BUF.UNDEF (R54 to R57, R213 to R215): the entry takes the descriptor's fields, its tiles one valid generation with
stamp 0 each; a descriptor that breaks a rule leaves it undefined with −1; both wait while a task names the entry. -/
def Obligations.RegionsAndBuffers : Prop :=
  (∀ (s : State) (q : QReg) (a b : Reg),
     let old (i : Nat) : Bool := (s.me.rgnAt q).getLsbD i
     let x (i : Nat) : Bool := (s.reg a).getLsbD i
     let y (i : Nat) : Bool := (s.reg b).getLsbD i
     let sets (f : Nat → Bool) (t : State) : Prop := ∃ v : BitVec 192,
       Wrote (s.modMe fun u => { u with rgn := u.rgn.set q.toNat v q.isLt }) t 0 0 4 ∧ ∀ i, v.getLsbD i = (decide (i < 171) && f i)
     RunsTo (.rgnB q a b) s (sets fun i => if 160 ≤ i then x (i - 160) else if 128 ≤ i then y (i - 128) else old i) ∧
     RunsTo (.rgnO q a) s (sets fun i => if i < 64 then x i else old i) ∧
     RunsTo (.rgnE q a) s (sets fun i => if 64 ≤ i ∧ i < 128 then x (i - 64) else old i) ∧
     RunsTo (.rgnClr q) s (sets fun _ => false)) ∧
  (∀ (s : State) (d a b : Reg) (key : Nat),
     let n := (s.reg a).toNat
     let va := (s.reg b).toNat
     let raw := s.mySeen key 64
     let e := bufOf raw
     let others (t : State) : Prop := ∀ m, m ≠ n → t.here.buf m = s.here.buf m
     let good : Prop := n ≤ 255 ∧ bitsOf raw 511 413 = 0 ∧ e.fieldsOk (bitsOf raw 405 403) = true ∧ (s.here.dropBuf n).bufFits e = true
     (va % 64 ≠ 0 → s.me.fatal 3 = false → RunsTo (.bufDef d a b) s (Trapped s · 3 (s.reg b))) ∧
     (ReadsMemory s accRead va 64 key → s.here.gridNames n = true → RunsTo (.bufDef d a b) s fun t => WroteTable s t d (BitVec.allOnes 64) ∧
       ∀ m, t.here.buf m = s.here.buf m) ∧
     (ReadsMemory s accRead va 64 key → s.here.gridNames n = false → s.here.named [n] = false →
       (¬ good → RunsTo (.bufDef d a b) s fun t => WroteTable s t d (BitVec.allOnes 64) ∧ t.here.buf n = none ∧ others t) ∧
       (good → RunsTo (.bufDef d a b) s fun t => WroteTable s t d 0 ∧ others t ∧ ∃ e', t.here.buf n = some e' ∧
         e' = { e with tiles := e'.tiles } ∧ e.base = raw % 2 ^ 64 ∧ e.rank = raw / 2 ^ 400 % 8 ∧ e.versions = raw / 2 ^ 408 % 8 ∧
         e.policy = raw / 2 ^ 411 % 4 ∧ e.layout = raw / 2 ^ 406 % 4 ∧ e.aliasGroup = raw / 2 ^ 248 % 2 ^ 8 ∧
         (e.hasTiles = true → e'.tiles.length = e.tileCount ∧ ∀ x ∈ e'.tiles, ∃ g, x.gens = [g] ∧ g.slot = 0 ∧ g.st = .valid ∧ g.stamp = 0) ∧
         (e.hasTiles = false → e'.tiles = []))) ∧
     (n ≤ 255 → s.here.gridNames n = false → s.here.named [n] = true → s.here.buf n ≠ none → RunsTo (.bufUndef d a) s fun t =>
       t.me.state = .wait ∧ t.me.reason = 15 ∧ t.me.obj = 1 ∧ (n, s.myStrand) ∈ t.here.defining ∧ t.me.regs = s.me.regs ∧ t.mem = s.mem ∧
       t.me.pc = s.me.pc ∧ t.here.bufs = s.here.bufs) ∧
     ((255 < n ∨ s.here.buf n = none ∨ s.here.gridNames n = true) → RunsTo (.bufUndef d a) s fun t =>
       WroteTable s t d (BitVec.allOnes 64) ∧ t.here.bufs = s.here.bufs) ∧
     (n ≤ 255 → s.here.gridNames n = false → s.here.named [n] = false → s.here.buf n ≠ none → RunsTo (.bufUndef d a) s fun t =>
       WroteTable s t d 0 ∧ t.here.buf n = none ∧ others t))

/-- Tier 2. The task forms (R34 to R36, R217, R218, R483): a form that may take a window entry and whose operands pass R61 posts its task,
with its register values, its token and the waits of its strand's annotations; nothing else of the strand changes. A task form waits while
the window has no entry for it (R36), and while another strand defines a buffer it names (R57); one whose operand names an undefined buffer
entry or has a mode not allowed in a read position fails at posting with REGION_INVALID (R61). -/
def Obligations.TaskForms : Prop :=
  (∀ (s : State) (h : TaskHead) (fa fb : BitVec 4) (df : DrainFields) (rf : RowFields) (a b c : Reg)
     (tw : Option (BitVec 32 × Reg)) (bw : Option (Nat × BitVec 8 × Option Nat)),
     let bar : Option Word := if b = 0 then none else some (s.reg b)
     let posts (i : Instr) (m : Cmd) : Prop :=
       (m.inCore = true → ∀ o ∈ s.me.operands h, ∀ x ∈ s.here.defining, x.1 = rgnBuf o.rgn → x.2 = s.myStrand) →
       s.here.operandsOk (s.taskOf h m) = true → s.here.bindProblem (s.taskOf h m) = none → RunsTo i s (Posted s · h m tw bw)
     s.entryOpen → s.me.state = .run →
     ((s.me.annTok = none ∧ tw = none) ∨ (∃ (r : Reg) (q : BitVec 32), s.me.annTok = some r ∧ s.me.tokenOf r = some q ∧ tw = some (q, r)) ∨
       ∃ r : Reg, s.me.annTok = some r ∧ s.me.tokenOf r = none ∧ s.me.pending r = false ∧ 0 ≤ (s.me.reg r).toInt ∧ tw = none) →
     ((s.me.annBar = none ∧ bw = none) ∨
       ∃ (va : Word) (ph : BitVec 8) (key : Nat), s.me.annBar = some (va, ph) ∧ s.tbPlace va.toNat false = .inl key ∧ bw = some (key, ph, none)) →
     posts (.mm h fa fb) (.mm fa.toNat fb.toNat) ∧ posts (.mmd h df) (.mmd df (s.reg df.clr)) ∧ posts (.mmz h) .mmz ∧ posts (.xp h) .xp ∧
     posts (.row h rf) (.row rf (s.reg rf.preg)) ∧ posts (.vrun h a b) (.vrun (s.reg a) (s.reg b)) ∧
     posts (.cp h a b) (.cp (s.reg a) bar) ∧ posts (.cpW h a b) (.cpW (s.reg a) bar) ∧ posts (.cpG h a b) (.cpG (s.reg a) bar) ∧
     posts (.cpS h a b) (.cpS (s.reg a) bar) ∧ posts (.cpF h a b) (.cpF (s.reg a) bar) ∧ posts (.cpR h a b) (.cpR (s.reg a) (s.reg b)) ∧
     posts (.taskRpost h a b c)
       (.rpost (s.reg a) (s.reg b) (if c = 0 then none else some (s.reg c)) h.rcnt.toNat h.wcnt.toNat) ∧
     ((∃ r ∈ s.here.reports, r.tag = (s.reg a).setWidth 16) → posts (.taskRstat h a) (.rstat ((s.reg a).setWidth 16)))) ∧
  (∀ (s : State) (h : TaskHead) (fa fb : BitVec 4) (a b : Reg),
     let forms (P : Instr → Prop) : Prop := P (.mm h fa fb) ∧ P (.mmz h) ∧ P (.xp h) ∧ P (.vrun h a b) ∧ P (.cp h a b) ∧ P (.cpR h a b)
     let undefining : Prop := ∀ o ∈ s.me.operands h, ∀ x ∈ s.here.defining, x.1 = rgnBuf o.rgn → x.2 = s.myStrand
     (∀ r : Reg, s.me.annTok = some r → s.me.pending r = true → s.me.tokenOf r ≠ none) →
     ((∃ o ∈ s.me.operands h, ∃ x ∈ s.here.defining, x.1 = rgnBuf o.rgn ∧ x.2 ≠ s.myStrand) →
       forms fun i => RunsTo i s (Waits s · 15 1)) ∧
     (undefining → 128 ≤ s.here.window.length → forms fun i => RunsTo i s (Waits s · 2 0)) ∧
     (undefining → s.here.granted = [] → 64 ≤ s.here.heldBy s.myStrand → forms fun i => RunsTo i s (Waits s · 2 0)) ∧
     (undefining → s.entryOpen → s.me.state = .run → s.me.pending h.tok = false → (∀ u ∈ s.here.window, u.seq ≠ s.here.nextSeq) →
       (∃ o ∈ s.me.operands h, s.here.buf (rgnBuf o.rgn) = none ∨ (o.pos < 4 ∧ rgnMode o.rgn ≠ 1)) →
       forms fun i => RunsTo i s (Refused s · h 13)))

/-! ## Landing zones and grids (chapters 16 and 17) -/

/-- Tier 2. LZ.DEF, LZ.UNDEF, LZ.STAT and LZ.REL (R339, R346 to R348). Reservations (R341, R342): LZ.RESV sends its request and leaves d
pending; at the home the lowest FREE slot becomes RESERVED and the answer is its reservation; the answer reaches d. -/
def Obligations.LandingZones : Prop :=
  (∀ (s : State) (d a b : Reg) (key : Nat),
     let c := s.myCore
     let x := s.reg a
     let z := (s.reg b).toNat
     let raw := s.mySeen key 64
     let y := zoneOf raw
     let n := y.slots.length
     let w := s.here.zone x.toNat
     let i := z
     let fails (v : Int) (t : State) : Prop := WroteLater s t d (BitVec.ofInt 64 v) .latency 4
     let handle (g : Nat) : Word := BitVec.ofNat 64 (s.identity c * 2 ^ 12 + z * 2 ^ 8 + g)
     (16 ≤ z → RunsTo (.lzDef d a b) s (fails (-1))) ∧
     (isService c = false → ReadsMemory s accRead x.toNat 64 key →
       (s.here.zoneOk raw y = false → RunsTo (.lzDef d a b) s (fails (-1))) ∧
       (z < 16 → s.here.zoneOk raw y = true →
         ((s.here.zone z).active = true → RunsTo (.lzDef d a b) s (fails (-2))) ∧
         ((s.here.zone z).active = false → s.tagged (y.barKey c 0) (32 * n) = true → RunsTo (.lzDef d a b) s (fails (-3))) ∧
         ((s.here.zone z).active = false → s.tagged (y.barKey c 0) (32 * n) = false → s.here.frozen = false → s.memOk →
           s.touchesPort (y.barKey c 0) (32 * n) = false → RunsTo (.lzDef d a b) s fun t =>
             let g := (s.here.zone z).zgen % 255 + 1
             t.here.zone z = { y with zgen := g } ∧ (∀ r, t.reg r = if r = d ∧ r ≠ 0 then handle g else s.reg r) ∧
             (∀ i, i < n → t.isSlotBar (y.barKey c i) = true ∧ tbExp (t.tb (y.barKey c i)) = 1 ∧ tbParr (t.tb (y.barKey c i)) = 1 ∧
               tbPbytes (t.tb (y.barKey c i)) = 0 ∧ tbPhase (t.tb (y.barKey c i)) = 0 ∧ tbStatus (t.tb (y.barKey c i)) = 0 ∧
               tbScope (t.tb (y.barKey c i)) = y.scope) ∧
             (∀ j, j < y.barKey c 0 ∨ y.barKey c n ≤ j → t.byte j = s.byte j) ∧ (∀ m, m ≠ z → t.here.zone m = s.here.zone m) ∧
             s.sameStrands t ∧ t.me.pc = s.me.pc + 4))) ∧
     (16 ≤ x.toNat ∨ w.active = false →
       RunsTo (.lzStat d a b) s (Wrote s · d (BitVec.allOnes 64) 4) ∧ RunsTo (.lzRel d a b) s (Wrote s · d (BitVec.allOnes 64) 4) ∧
       RunsTo (.lzUndef d a) s (Wrote s · d (BitVec.allOnes 64) 4)) ∧
     (x.toNat < 16 → w.active = true →
       (i < w.slots.length → RunsTo (.lzStat d a b) s (Wrote s · d (BitVec.ofNat 64
         ((w.slot i).rcvd * 2 ^ 35 + (w.slot i).rbytes * 2 ^ 16 + (w.slot i).gen * 2 ^ 8 + (w.slot i).st.code)) 4)) ∧
       (w.slots.length ≤ 64 → i = 66 →
         RunsTo (.lzStat d a b) s (Wrote s · d (BitVec.ofNat 64 (s.identity c * 2 ^ 12 + x.toNat * 2 ^ 8 + w.zgen)) 4)) ∧
       (w.slots.length ≤ i → RunsTo (.lzRel d a b) s (Wrote s · d (BitVec.allOnes 64) 4)) ∧
       (i < w.slots.length → (w.slot i).st = .free → RunsTo (.lzRel d a b) s (Wrote s · d (BitVec.allOnes 64) 4)) ∧
       (i < w.slots.length → (w.slot i).st ≠ .free → s.here.frozen = false → s.me.lostStream w.scope = none → s.me.relReady w.scope = true →
         RunsTo (.lzRel d a b) s fun t =>
           ((t.here.zone x.toNat).slot i).st = .free ∧ ((t.here.zone x.toNat).slot i).gen = (w.slot i).gen ∧
           t.isSlotBar (w.barKey c i) = true ∧ (∀ r, t.reg r = if r = d ∧ r ≠ 0 then 0 else s.reg r) ∧ t.me.pc = s.me.pc + 4) ∧
       (s.here.frozen = false → RunsTo (.lzUndef d a) s fun t =>
         (t.here.zone x.toNat).active = false ∧ (t.here.zone x.toNat).zgen = w.zgen ∧
         (∀ i, i < w.slots.length → t.isLive (w.barKey c i) = false) ∧ (∀ m, m ≠ x.toNat → t.here.zone m = s.here.zone m) ∧
         (∀ r, t.reg r = if r = d ∧ r ≠ 0 then 0 else s.reg r) ∧ t.me.pc = s.me.pc + 4))) ∧
  (∀ (s : State) (d a b : Reg) (r : ResvRequest) (c : Nat) (m : OutMsg),
     let home := (s.reg a).toNat / 2 ^ 12 % 2 ^ 23
     let z := r.a.toNat / 2 ^ 8 % 16
     let y := (s.core c).zone z
     let n := r.b.toNat % 2 ^ 19
     let stamped : Bool := r.b.getLsbD 31
     (home / 256 = s.marten.values.pkg → RunsTo (.lzResv d a b) s fun t =>
       (∃ q : ResvRequest, t.outbox = s.outbox ++ [.resvRequest q] ∧ q.who = s.identity s.myCore ∧ q.a = s.reg a ∧ q.b = s.reg b) ∧
       (d ≠ 0 → t.me.pending d = true) ∧ t.me.regs = s.me.regs ∧ t.mem = s.mem ∧ s.sameStrands t ∧ t.me.pc = s.me.pc + 4) ∧
     (s.outbox.contains (.resvRequest r) = true → r.who / 256 = s.marten.values.pkg → r.who < 2 ^ 23 → handleHome r.a / 256 = s.marten.values.pkg →
       s.coreOfIdentity (handleHome r.a) = some c → r.a.toNat < 2 ^ 35 → r.b.toNat / 2 ^ 19 % 2 ^ 12 = 0 → r.partno = (s.core c).partno →
       r.partno ≠ 0 → y.active = true → y.zgen = r.a.toNat % 256 → (s.core c).frozen = false → n ≤ y.slotsz * 512 → (stamped → y.sbuf ≠ none) →
       RunsTo (.lzResvRequest r) s fun t => ∃ v : Word, OutMsg.resvAnswer r v ∈ t.outbox ∧
         ((∀ i, i < y.slots.length → (y.slot i).st ≠ .free) → v = 0 ∧ t.cores = s.cores ∧ t.mem = s.mem) ∧
         ∀ i, i < y.slots.length → (y.slot i).st = .free → (∀ j, j < i → (y.slot j).st ≠ .free) →
           let x := ((t.core c).zone z).slot i
           x.st = .reserved ∧ x.gen = (y.slot i).gen % 255 + 1 ∧ x.rbytes = n ∧ x.rcvd = 0 ∧
           x.step = (if stamped then some (BitVec.ofNat 32 (r.b.toNat / 2 ^ 32)) else none) ∧
           v = BitVec.ofNat 64 ((y.slotsz - 1) * 2 ^ 49 + s.identity c * 2 ^ 26 + z * 2 ^ 22 + y.zgen * 2 ^ 14 + i * 2 ^ 8 + x.gen) ∧
           ∀ j, j ≠ i → ((t.core c).zone z).slot j = y.slot j) ∧
     (∀ (k : Fin 4) (v : Word), s.outbox.find? (fun x => match x with
         | .resvAnswer q w => q.reply == some (c, k.val, d.toNat) && w == v
         | _ => false) = some m → c < 260 → d ≠ 0 → (s.strand c k).pend = [⟨d, .resv⟩] →
       RunsTo (.lzResvAnswer c k d.toNat v) s fun t =>
         (∀ q, (t.strand c k).reg q = if q = d then v else (s.strand c k).reg q) ∧ (t.strand c k).pend = [] ∧
         (t.strand c k).pc = (s.strand c k).pc ∧ t.mem = s.mem))

/-- Tier 2. The GRID instructions (R316 to R325): GRID.DEF makes an entry ACTIVE with its field buffers' regions stamped 0xFFFFFFFF, GRID.BC
sets one face's rule, GRID.STEP accepts the next step with a marker, GRID.STAT reads, GRID.UNDEF undefines. -/
def Obligations.GridInstructions : Prop :=
  ∀ (s : State) (d a b : Reg) (key : Nat) (place : List Nat → Nat),
    let x := (s.reg a).toNat
    let y := (s.reg b).toNat
    let fails (v : Int) (t : State) : Prop := WroteLater s t d (BitVec.ofInt 64 v) .latency 4
    let raw := s.mySeen key 128
    let g := gridOf raw (y / 2 ^ 8 % 2 ^ 24)
    let no := y % 4
    let map := raw % 2 ^ 64
    let peers := g.neighbours.map fun c => (c, s.mySeen (place c) 4)
    let h := s.here.grid (x % 4)
    let f := x / 4 % 8
    let rule := x / 2 ^ 8 % 8
    let pair := if f % 2 = 0 then f + 1 else f - 1
    (s.me.gridWait = none → ReadsMemory s accRead x 128 key →
      (y / 4 % 2 ^ 6 ≠ 0 ∨ 2 ^ 32 ≤ y ∨ s.here.gridOk raw g = false → RunsTo (.gridDef d a b) s (fails (-1))) ∧
      (y / 4 % 2 ^ 6 = 0 → y < 2 ^ 32 → s.here.gridOk raw g = true →
        ((s.here.grid no).st ≠ .undefined → RunsTo (.gridDef d a b) s (fails (-2))) ∧
        ((s.here.grid no).st = .undefined → s.here.fieldsTaken no g.fields = false →
          (∀ c ∈ g.neighbours, ReadsMemory s accRead ((map + 4 * g.indexOf c) % 2 ^ 64) 4 (place c)) →
          (g.coord, s.identity s.myCore) ∈ peers → (∀ p ∈ peers, p.2 < 2 ^ 23 ∧ s.inMyPartition p.2 = true) → s.here.named g.fields = false →
          s.here.tileEntries + g.nf * 3 ^ g.dims ≤ 4096 → RunsTo (.gridDef d a b) s fun t =>
            (t.here.grid no).st = .active ∧ (t.here.grid no).declared = 0xFFFFFFFF ∧ (t.here.grid no).peers = peers ∧
            (t.here.grid no).fields = g.fields ∧ (t.here.grid no).markers = [] ∧
            (∀ n ∈ g.fields, ∃ e, t.here.buf n = some e ∧ e.grid = some (no, g.halo, g.dims) ∧ e.tiles.length = 3 ^ g.dims ∧
              ∀ r, r < 3 ^ g.dims → t.here.regionStat n r = 0xFFFFFFFF) ∧
            (∀ r, t.reg r = if r = d ∧ r ≠ 0 then 0 else s.reg r) ∧ t.mem = s.mem ∧ s.sameStrands t ∧ t.me.pc = s.me.pc + 4))) ∧
    (x / 2 ^ 5 % 8 ≠ 0 ∨ 2 ^ 11 ≤ x ∨ 2 * h.dims ≤ f ∨ 4 < rule ∨ h.st ≠ .active → RunsTo (.gridBc d a b) s (fails (-1))) ∧
    (x / 2 ^ 5 % 8 = 0 → x < 2 ^ 11 → f < 2 * h.dims → rule ≤ 4 → h.st = .active → h.rules.length = 2 * h.dims →
      h.consts.length = 2 * h.dims → RunsTo (.gridBc d a b) s fun t =>
      let h' := t.here.grid (x % 4)
      h'.rules.getD f 0 = rule ∧ (rule = 1 → h'.rules.getD pair 0 = 1) ∧
      (rule ≠ 1 → h.rules.getD f 0 = 1 → h'.rules.getD pair 0 = 0) ∧
      (rule ≠ 1 → h.rules.getD f 0 ≠ 1 → h'.rules.getD pair 0 = h.rules.getD pair 0) ∧
      (∀ j, j ≠ f → j ≠ pair → h'.rules.getD j 0 = h.rules.getD j 0) ∧
      (∀ j, h'.consts.getD j 0 = if j = f ∧ rule = 2 then s.reg b else h.consts.getD j 0) ∧
      WroteLater (s.modGrid s.myCore (x % 4) fun g => { g with rules := h'.rules, consts := h'.consts }) t d 0 .latency 4) ∧
    (4 ≤ x ∨ 2 ^ 32 ≤ y ∨ h.st ≠ .active → RunsTo (.gridStep d a b) s (fails (-1))) ∧
    (x < 4 → y < 2 ^ 32 → h.st = .active →
      (y ≠ (h.accepted.toNat + 1) % 2 ^ 32 → RunsTo (.gridStep d a b) s (fails (-2))) ∧
      (y = (h.accepted.toNat + 1) % 2 ^ 32 → 4 ≤ h.markers.length → RunsTo (.gridStep d a b) s (fails (-3))) ∧
      (y = (h.accepted.toNat + 1) % 2 ^ 32 → h.markers.length < 4 → RunsTo (.gridStep d a b) s fun t => ∃ m : Marker,
        m.step.toNat = y ∧ m.failed = false ∧
        (∀ q, q ∈ m.waits ↔ ∃ u ∈ s.here.window, u.seq = q ∧ ∃ o ∈ u.locals, rgnWrites o.rgn = true ∧ rgnBuf o.rgn ∈ h.fields) ∧
        WroteLater (s.modGrid s.myCore x fun g => { g with accepted := m.step, markers := g.markers ++ [m] }) t d 0 .latency 4)) ∧
    (4 ≤ x → RunsTo (.gridStat d a b) s (fails (-1)) ∧ (s.me.defining = false → RunsTo (.gridUndef d a) s (fails (-1)))) ∧
    (x < 4 → RunsTo (.gridStat d a b) s fun t =>
      (y = 64 → WroteLater s t d (match h.st with | .undefined => 0 | .active => 1 | .failed => 2) .latency 4) ∧
      (h.st = .undefined → y ≠ 64 → WroteLater s t d (BitVec.allOnes 64) .latency 4) ∧
      (h.st ≠ .undefined → h.dims ≤ 3 → y = 65 → WroteLater s t d (BitVec.ofNat 64 h.declared.toNat) .latency 4) ∧
      (h.st ≠ .undefined → h.dims ≤ 3 → y = 66 → WroteLater s t d (BitVec.ofNat 64 h.markers.length) .latency 4)) ∧
    (s.me.defining = false → x < 4 → h.st = .undefined → RunsTo (.gridUndef d a) s (fails (-1))) ∧
    (s.me.defining = false → x < 4 → h.st ≠ .undefined → (h.markers ≠ [] ∨ s.shipsIn s.myCore x [.reading, .flight] ≠ 0) → RunsTo (.gridUndef d a) s (fails (-2))) ∧
    (x < 4 → h.st ≠ .undefined → h.markers = [] → s.shipsIn s.myCore x [.reading, .flight] = 0 → s.here.named h.fields = false →
      RunsTo (.gridUndef d a) s fun t => (t.here.grid x).st = .undefined ∧ (∀ n ∈ h.fields, t.here.buf n = none) ∧
        (∀ r, t.reg r = if r = d ∧ r ≠ 0 then 0 else s.reg r) ∧ t.mem = s.mem ∧ t.me.pc = s.me.pc + 4)

/-! ## Traps, system registers and strands (chapters 2, 7 and 13) -/

/-- Tier 2. ECALL, TRAP, ERET and a word that encodes nothing (R153, R282 to R284): the entry of a trap that is not fatal, and the return. A
trap is fatal when TVEC is 0, when INTRAP is 1, and always for POISON and WATCHDOG (R282): the strand stops with the cause, its core's
scratchpad is frozen, no register changes, and its launch fails with the trap's cause, value and address unless it has failed before (R30,
R80, R415, R420). -/
def Obligations.Traps : Prop :=
  (∀ (s : State) (a b : Reg) (w : Word),
     (s.me.fatal 7 = false → RunsTo (.ecall a) s (Trapped s · 7 (s.reg a))) ∧
     (s.reg a = 0 → RunsTo (.trap a b) s (Wrote s · 0 0 4)) ∧
     (s.reg a ≠ 0 → s.me.fatal 8 = false → RunsTo (.trap a b) s (Trapped s · 8 (s.reg b))) ∧
     (s.me.fatal 1 = false → RunsTo (.illegalWord false w) s (Trapped s · 1 (w &&& 0xFFFFFFFF#64))) ∧
     (s.me.sys.intrap = false → s.me.fatal 1 = false → RunsTo .eret s (Trapped s · 1 s.ir)) ∧
     (s.me.sys.intrap = true → RunsTo .eret s fun t => s.onlyMe t ∧ t.me.pc = s.me.sys.epc &&& ~~~3#64 ∧
       t.me.sys = { s.me.sys with intrap := false } ∧ t.me.regs = s.me.regs ∧ t.me.rgn = s.me.rgn ∧ t.me.stores = s.me.stores ∧
       t.me.pend = s.me.pend ∧ t.me.state = .run)) ∧
  ((∀ (t : Strand) (c : Nat), t.fatal c = true ↔ c = 22 ∨ c = 23 ∨ t.sys.tvec = 0 ∨ t.sys.intrap = true) ∧
   ∀ (s : State) (a : Reg), s.me.fatal 7 = true → RunsTo (.ecall a) s fun t =>
     t.me.state = .stopped ∧ t.me.stopCause = some (7, s.reg a, s.me.pc) ∧ t.here.frozen = true ∧ t.me.regs = s.me.regs ∧
     t.me.sys = s.me.sys ∧ t.me.pc = s.me.pc ∧ t.mem = s.mem ∧ s.sameStrands t ∧
     ∀ l ∈ s.launches, some l.id = s.me.launch → ∃ m ∈ t.launches, m.id = l.id ∧ m.stopping = true ∧
       m.failure = some (l.failure.getD ⟨7, true, s.reg a, s.me.pc⟩))

/-- Tier 2. SYSR (R4, R285, Tables 13.3 to 13.6): the value of each register of the strand or of its core; no other register changes. SYSR
and SYSW on a register reserved to SUPER mode raise PRIV in USER mode, and through a remote window that is closed PROTECT (R285, R286). -/
def Obligations.SystemRegisterReads : Prop :=
  (∀ (s : State) (d : Reg) (k : Fin 4) (n : BitVec 12),
     let y := s.me.sys
     let x := s.here
     let reads (n : Nat) (v : Word) : Prop := RunsTo (.sysr d (BitVec.ofNat 12 n)) s (Wrote s · d v 4)
     let w := x.strand k.val
     reads 0x000 (y.fflags.setWidth 64) ∧ reads 0x001 (BitVec.ofNat 64 (s.identity s.myCore)) ∧ reads 0x002 (BitVec.ofNat 64 s.myStrand) ∧
     reads 0x003 (BitVec.ofNat 64 x.partno) ∧ reads 0x004 (y.spaceid.setWidth 64) ∧ reads 0x005 (BitVec.ofNat 64 s.now) ∧
     reads 0x008 y.tvec ∧ reads 0x009 y.epc ∧ reads 0x00A y.ecause ∧ reads 0x00B y.eval ∧
     reads 0x00C (BitVec.ofNat 64 (y.intrap.toNat + 2 * y.super.toNat)) ∧ reads 0x010 (y.evpend.setWidth 64) ∧ reads 0x011 0 ∧
     reads 0x012 y.timer ∧ reads 0x013 y.spcnt ∧ reads 0x014 (BitVec.ofNat 64 y.plen) ∧ reads 0x015 (y.spstep.setWidth 64) ∧
     reads 0x018 x.rpfail ∧
     reads 0x019 (BitVec.ofNat 64 ((List.range 512).filter fun i => x.held.getLsbD i).length) ∧
     reads 0x01C y.trctl ∧ reads 0x01D y.trbase ∧ reads 0x01E y.trhead ∧
     (w.state = .wait → reads (0x020 + k) (BitVec.ofNat 64 (w.obj * 2 ^ 8 + w.reason * 2 ^ 4 + 2))) ∧
     (w.state ≠ .wait → reads (0x020 + k)
       (match w.state with | .idle => 0 | .run => 1 | .wait => 2 | .parked => 3 | .stopped => 4)) ∧
     (y.super = true → reads 0x100 x.rsel) ∧
     (y.super = true → 0x400 ≤ n.toNat → x.rsel.getLsbD 8 = true →
       RunsTo (.sysr d n) s (WroteLater s · d (s.sysRead (x.rsel.toNat % 256) (x.rsel.toNat / 2 ^ 9 % 4) (n.toNat - 0x400)) .latency 4))) ∧
  (∀ (s : State) (d a : Reg) (n : BitVec 12),
     (n = 0x100 ∨ n = 0x101 ∨ 0x400 ≤ n.toNat → s.me.sys.super = false → s.me.fatal 2 = false →
       RunsTo (.sysr d n) s (Trapped s · 2 s.ir) ∧ RunsTo (.sysw n a) s (Trapped s · 2 s.ir)) ∧
     (0x400 ≤ n.toNat → s.me.sys.super = true → s.here.rsel.getLsbD 8 = false → s.me.fatal 5 = false →
       RunsTo (.sysr d n) s (fun t => ∃ v, Trapped s t 5 v) ∧ RunsTo (.sysw n a) s (fun t => ∃ v, Trapped s t 5 v)) ∧
     (s.me.sys.super = false → s.me.fatal 2 = false → RunsTo .halt s (Trapped s · 2 s.ir)))

/-- Tier 2. SYSW and the rows that write a system register (R4, R285, R289, R365): reserved bits stay 0, EVPEND is cleared by ones, a write
of TRCTL or TRBASE sets TRHEAD to 0, EVSET is a release, and a read-only register takes nothing. -/
def Obligations.SystemRegisterWrites : Prop :=
  ∀ (s : State) (a : Reg) (c k : Nat) (v : Word),
    let x := s.reg a
    let sysOf (f : StrandSys → StrandSys) : State := s.modMe fun t => { t with sys := f t.sys }
    let writes (n : Nat) (f : StrandSys → StrandSys) : Prop := RunsTo (.sysw (BitVec.ofNat 12 n) a) s (Wrote (sysOf f) · 0 0 4)
    let row (n : Nat) (f : StrandSys → StrandSys) : Prop :=
      Runs (.registerWrite c k (BitVec.ofNat 12 n) v) s (s.modStrand c k fun t => { t with sys := f t.sys })
    let low (x : Word) (n : Nat) : Nat := x.toNat % 2 ^ n
    let tvec (x : Word) (y : StrandSys) : StrandSys := { y with tvec := x }
    let epc (x : Word) (y : StrandSys) : StrandSys := { y with epc := x }
    let ecause (x : Word) (y : StrandSys) : StrandSys := { y with ecause := x &&& 0x187FF }
    let eval (x : Word) (y : StrandSys) : StrandSys := { y with eval := x }
    let timer (x : Word) (y : StrandSys) : StrandSys := { y with timer := x }
    let flags (x : Word) (y : StrandSys) : StrandSys := { y with fflags := BitVec.ofNat 5 (low x 5) }
    let evpend (x : Word) (y : StrandSys) : StrandSys := { y with evpend := y.evpend &&& ~~~(BitVec.ofNat 16 (low x 16)) }
    let ring (t : Strand) (y : StrandSys) : Strand := { t with sys := { y with trhead := 0 }, tr := { t.tr with full := false } }
    let trctl (x : Word) (t : Strand) : Strand := ring t { t.sys with trctl := x &&& 0xFFF1FB }
    let trbase (x : Word) (t : Strand) : Strand := ring t { t.sys with trbase := x }
    let target := x.toNat / 2 ^ 16 % 4
    let set (old : BitVec 16) (x : Word) (i : Nat) : Bool := old.getLsbD i || (decide (i < 8) && x.getLsbD i)
    writes 0x000 (flags x) ∧ writes 0x008 (tvec x) ∧ writes 0x009 (epc x) ∧ writes 0x00A (ecause x) ∧ writes 0x00B (eval x) ∧
    writes 0x010 (evpend x) ∧ writes 0x012 (timer x) ∧
    RunsTo (.sysw 0x018 a) s (Wrote (s.modCore s.myCore fun y => { y with rpfail := x }) · 0 0 4) ∧
    RunsTo (.sysw 0x01C a) s (Wrote (s.modMe (trctl x)) · 0 0 4) ∧ RunsTo (.sysw 0x01D a) s (Wrote (s.modMe (trbase x)) · 0 0 4) ∧
    (∀ n, n ∈ [0x001, 0x002, 0x003, 0x004, 0x005, 0x00C, 0x013, 0x014, 0x015, 0x019, 0x01A, 0x01E, 0x020, 0x024, 0x025, 0x026] →
      writes n id ∧ row n id) ∧
    (s.me.sys.super = true → RunsTo (.sysw 0x100 a) s (Wrote (s.modCore s.myCore fun y => { y with rsel := x &&& 0x7FF }) · 0 0 4)) ∧
    (s.me.sys.super = true → low x 13 = 0 → RunsTo (.sysw 0x101 a) s (Wrote s · 0 0 4)) ∧
    (s.me.relReady 0 = true → RunsTo (.sysw 0x011 a) s fun t =>
      (∀ i, (t.strand s.myCore target).sys.evpend.getLsbD i = set (s.strand s.myCore target).sys.evpend x i) ∧
      (∀ j, j ≠ target → (t.strand s.myCore j).sys.evpend = (s.strand s.myCore j).sys.evpend) ∧ t.mem = s.mem ∧ t.me.regs = s.me.regs ∧
      t.me.pc = s.me.pc + 4) ∧
    (s.me.relReady 0 = false → RunsTo (.sysw 0x011 a) s (Waits s · 3 0)) ∧
    row 0x000 (flags v) ∧ row 0x008 (tvec v) ∧ row 0x009 (epc v) ∧ row 0x00A (ecause v) ∧ row 0x00B (eval v) ∧ row 0x010 (evpend v) ∧
    row 0x012 (timer v) ∧ Runs (.trctlWrite c k v) s (s.modStrand c k (trctl v)) ∧
    Runs (.trbaseWrite c k v) s (s.modStrand c k (trbase v)) ∧
    (c < 260 → RunsTo (.evset c v) s fun t =>
      let q := v.toNat / 2 ^ 16 % 4
      (∀ i, (t.strand c q).sys.evpend.getLsbD i = set (s.strand c q).sys.evpend v i) ∧
      ∀ c' k', ¬ (c' = c ∧ k' = q) → t.strand c' k' = s.strand c' k')

/-- Tier 2. CORECTL's four actions (R40, R286, R423, Table 13.7): FLUSH and FLUSHIN fail the tasks they name, which leave the window; STOP
stops with WATCHDOG every named strand that runs, waits or is parked, and freezes the core; RESET makes a STOPPED strand IDLE. -/
def Obligations.CoreControl : Prop :=
  ∀ (s : State) (c : Nat) (mask : BitVec 4), c < 260 →
    let x := s.core c
    let seqs (l : List Task) : List (BitVec 32) := l.map (·.seq)
    ((seqs x.window).Nodup → RunsTo (.corectlFlush c mask) s fun t =>
      seqs (t.core c).window = seqs (x.window.filter fun u => match u.owner with | .strand k => !mask.getLsbD k | .remote _ _ => true)) ∧
    ((seqs x.window).Nodup → RunsTo (.corectlFlushin c) s fun t =>
      seqs (t.core c).window = seqs (x.window.filter fun u => match u.owner with | .strand _ => true | .remote _ _ => false)) ∧
    RunsTo (.corectlStop c mask) s (fun t => t.mem = s.mem ∧ ∀ k, k < 4 →
      let u := s.strand c k
      if mask.getLsbD k = true ∧ u.state ≠ .idle ∧ u.state ≠ .stopped then
        (t.strand c k).state = .stopped ∧ (∃ v, (t.strand c k).stopCause = some (23, v, u.pc)) ∧ (t.core c).frozen = true
      else t.strand c k = u) ∧
    RunsTo (.corectlReset c mask) s (fun t => ∀ k, k < 4 →
      let u := s.strand c k
      if mask.getLsbD k = true ∧ u.state = .stopped then (t.strand c k).state = .idle ∧ (t.strand c k).stopCause = none
      else (t.strand c k).state = u.state)

/-- Tier 2. Strands (R12, R28, R32, R33, R50, R51, R287, R288): SPAWN, END, YIELD, HALT, SAFEPT and CKPT. After YIELD the strand awaits each
other strand that is in RUN, for 4 cycles at most (Strand.free says when it is chosen again). Events (R289): WAITEV takes and clears the
pending events it names, and waits with REASON 7 while there are none; TIMER sets event 11 as it reaches 0. -/
def Obligations.StrandsAndEvents : Prop :=
  (∀ (s : State) (d a b : Reg), s.me.state = .run →
     let k := (s.reg a).toNat % 4
     let c := s.myCore
     let posted : Prop := ∃ u ∈ s.here.window, u.owner = .strand s.myStrand
     let base : State := match s.me.lastDone with
       | some x => s.left x 11
       | none => s
     let banks := ((List.range 512).filter fun i => s.here.held.getLsbD i).length
     let count (t : State) (y : StrandSys) (n : Word) : Prop := t.me.sys = { y with spcnt := y.spcnt + n } ∧ t.me.regs = s.me.regs ∧
       t.mem = s.mem ∧ t.me.pc = s.me.pc + 4
     let counts : Word := if s.me.tr.counted then 0 else 1
     ((s.strand c k).state ≠ .idle → RunsTo (.spawn d a b) s (Wrote s · d (BitVec.allOnes 64) 4)) ∧
     ((s.strand c k).state = .idle → RunsTo (.spawn d a b) s fun t =>
       let u := t.strand c k
       u.state = .run ∧ u.pc = s.reg a - BitVec.ofNat 64 k ∧ u.launch = s.me.launch ∧ u.pend = [] ∧ u.sys.super = s.me.sys.super ∧
       u.sys.spaceid = s.me.sys.spaceid ∧ u.sys.tvec = 0 ∧ u.sys.evpend = 0 ∧ u.sys.fflags = 0 ∧ u.sys.intrap = false ∧
       u.annTok = none ∧ u.annBar = none ∧ u.tr.stepOpen = 0 ∧ (∀ q, u.rgnAt q = 0) ∧
       (∀ r : Reg, r ≠ 2 → u.reg r = if r = 3 then s.reg 3 else if r = 4 then s.reg b else 0) ∧
       (∀ r, t.reg r = if r = d ∧ r ≠ 0 then 0 else s.reg r) ∧ t.me.pc = s.me.pc + 4 ∧ t.mem = s.mem ∧
       ∀ c' k', ¬ (c' = c ∧ k' = k) → ¬ (c' = c ∧ k' = s.myStrand) → t.strand c' k' = s.strand c' k') ∧
     (posted → RunsTo .endStrand s (Waits s · 8 0) ∧ RunsTo .ckpt s (Waits s · 8 0)) ∧
     (¬ posted → s.noWaitRecord →
       (banks ≠ 0 → s.me.fatal 9 = false → RunsTo .endStrand s (Trapped base · 9 (BitVec.ofNat 64 banks))) ∧
       (banks ≠ 0 → RunsTo .endStrand s fun t => t.me.annTok = s.me.annTok ∧ t.me.annBar = s.me.annBar) ∧
       (banks = 0 → RunsTo .endStrand s fun t => s.onlyMe t ∧ t.me.state = .idle ∧ t.me.launch = none ∧ t.me.annTok = none ∧
         t.me.annBar = none) ∧
       (s.preempting = false → RunsTo .ckpt s fun t => count t base.me.sys counts ∧ t.me.state = .run ∧ t.me.annTok = none ∧
         t.me.annBar = none) ∧
       (s.preempting = true → RunsTo .ckpt s fun t => count t base.me.sys counts ∧ t.me.state = .parked)) ∧
     RunsTo .safept s (fun t => count t s.me.sys counts ∧ t.me.state = .run ∧ s.sameStrands t) ∧
     RunsTo .yield s (fun t => s.onlyMe t ∧ s.me.onlyRegs { t.me with yields := s.me.yields, yieldTill := s.me.yieldTill } ∧
       t.me.regs = s.me.regs ∧ t.me.pend = s.me.pend ∧ t.me.hold = s.me.hold ∧ t.me.pc = s.me.pc + 4 ∧ t.me.state = .run ∧
       t.me.yieldTill = s.now + 4 ∧
       ∀ j : Nat, j < 4 → t.me.yields.getLsbD j = (decide (j ≠ s.myStrand) && decide ((s.strand s.myCore j).state = .run))) ∧
     (s.me.sys.super = true → RunsTo .halt s fun t => s.onlyMe t ∧ t.me.state = .stopped ∧ t.me.stopCause = none ∧ t.me.regs = s.me.regs ∧
       t.me.sys = s.me.sys)) ∧
  (∀ (s : State) (d a : Reg) (c k : Nat),
     let names (i : Nat) : Bool := decide (i < 16) && (s.reg a).getLsbD i
     let some_ : Prop := ∃ i, names i = true ∧ s.me.sys.evpend.getLsbD i = true
     ((∃ i, names i = true) → ¬ some_ → RunsTo (.waitev d a) s (Waits s · 7 0)) ∧
     (s.noWaitRecord → ((∀ i, names i = false) ∨ some_) → RunsTo (.waitev d a) s fun t =>
       (∀ i, t.me.sys.evpend.getLsbD i = (s.me.sys.evpend.getLsbD i && !names i)) ∧
       (∃ v : Word, (∀ i, v.getLsbD i = (s.me.sys.evpend.getLsbD i && names i)) ∧
         ∀ r, t.reg r = if r = d ∧ r ≠ 0 then v else s.reg r) ∧
       t.mem = s.mem ∧ s.sameStrands t ∧ t.me.pc = s.me.pc + 4 ∧ t.me.state = .run) ∧
     (c < 260 → k < 4 → (s.strand c k).sys.timer = 1 → RunsTo (.timerExpiry c k) s fun t =>
       (t.strand c k).sys = { (s.strand c k).sys with timer := 0, evpend := (s.strand c k).sys.evpend ||| 0x800 } ∧
       (t.strand c k).regs = (s.strand c k).regs ∧ (t.strand c k).pc = (s.strand c k).pc ∧ t.mem = s.mem))

/-- Tier 2. Accumulator banks (R290): ACC.ALLOC takes the lowest run of free banks, ACC.FREE returns banks that are all held; −1 changes
nothing. MEM.COMMIT and MEM.DECOMMIT (R98, R99, R291): their checks, a committed page on a zeroed granule of the pool, a page given back,
and the results 1, −1 and −2 that change nothing. That the leaf takes the intermediate address of the granule is the model's reading (log
23). -/
def Obligations.BanksAndPages : Prop :=
  (∀ (s : State) (d a b : Reg) (base : Nat),
     let n := (s.reg a).toNat
     let lo := (s.reg a).toNat
     let m := (s.reg b).toNat
     let held (i : Nat) : Bool := s.here.held.getLsbD i
     let free (b : Nat) : Prop := b + n ≤ 512 ∧ ∀ i, i < n → held (b + i) = false
     let with_ (f : Nat → Bool) (t : State) (v : Word) : Prop := ∃ h : BitVec 512, (∀ i, i < 512 → h.getLsbD i = f i) ∧
       WroteLater (s.modCore s.myCore fun x => { x with held := h }) t d v .latency 4
     let refused (t : State) : Prop := WroteLater s t d (BitVec.allOnes 64) .latency 4
     (n = 0 ∨ 512 < n ∨ (∀ b, ¬ free b) → RunsTo (.accAlloc d a) s refused) ∧
     (0 < n → free base → (∀ b, b < base → ¬ free b) → RunsTo (.accAlloc d a) s fun t =>
       with_ (fun i => held i || (decide (base ≤ i) && decide (i < base + n))) t (BitVec.ofNat 64 base)) ∧
     (m = 0 ∨ 512 < lo + m ∨ (∃ i, i < m ∧ held (lo + i) = false) → RunsTo (.accFree d a b) s refused) ∧
     (0 < m → lo + m ≤ 512 → (∀ i, i < m → held (lo + i) = true) → RunsTo (.accFree d a b) s fun t =>
       with_ (fun i => held i && !(decide (lo ≤ i) && decide (i < lo + m))) t 0)) ∧
  (∀ (s : State) (d a : Reg) (l : Leaf) (p : Partition) (g pa : Nat) (rest : List Nat),
     let va := s.reg a
     let plain (v : Int) (t : State) : Prop := WroteLater s t d (BitVec.ofInt 64 v) .latency 4
     let put (t : State) (v : Int) : Prop :=
       (∀ r, t.reg r = if r = d ∧ r ≠ 0 then BitVec.ofInt 64 v else s.reg r) ∧ t.me.pc = s.me.pc + 4 ∧ s.sameStrands t
     let both (c : Nat) : Prop := RunsTo (.memCommit d a) s (Trapped s · c va) ∧ RunsTo (.memDecommit d a) s (Trapped s · c va)
     (va.toNat % 2 ^ 16 ≠ 0 → s.me.fatal 3 = false → both 3) ∧
     (va.toNat % 2 ^ 16 = 0 → inPaged va.toNat = false → s.me.fatal 4 = false → both 4) ∧
     (va.toNat % 2 ^ 16 = 0 → inPaged va.toNat = true →
       s.walkLeaf (dieOf s.myCore) s.me.sys.spaceid.toNat va.toNat = .leaf l → leafMode l.bits ≤ 1 →
       ((leafW l.bits = false ∨ (s.me.sys.super = false ∧ leafU l.bits = false)) → s.me.fatal 5 = false → both 5) ∧
       (leafW l.bits = true → (s.me.sys.super = true ∨ leafU l.bits = true) →
         (l.level = 2 → RunsTo (.memCommit d a) s (plain (-2)) ∧ RunsTo (.memDecommit d a) s (plain (-2))) ∧
         (l.level ≠ 2 → leafC l.bits = true → RunsTo (.memCommit d a) s (plain 1)) ∧
         (l.level ≠ 2 → leafC l.bits = false → RunsTo (.memDecommit d a) s (plain 1)) ∧
         (l.level ≠ 2 → leafC l.bits = false → s.part s.here.partno = some p → p.tpool = [] → RunsTo (.memCommit d a) s (plain (-1))) ∧
         (l.level ≠ 2 → leafC l.bits = false → s.part s.here.partno = some p → p.tpool = g :: rest →
           s.stage2 (dieOf s.myCore) l.partno g = .pa pa → s.memOk → s.touchesPort l.place 8 = false →
           (l.place + 8 ≤ pa ∨ pa + 65536 ≤ l.place) → RunsTo (.memCommit d a) s fun t => put t 0 ∧
             (∀ j, pa ≤ j → j < pa + 65536 → t.byte j = 0) ∧
             (∀ j, (j < pa ∨ pa + 65536 ≤ j) → (j < l.place ∨ l.place + 8 ≤ j) → t.byte j = s.byte j) ∧
             leafC (t.readNat l.place 8) = true ∧ bitsOf (t.readNat l.place 8) 43 12 = g / 2 ^ 16 % 2 ^ 32 ∧
             (∀ q ∈ t.parts, q.no = s.here.partno → q.tpool = rest) ∧ ∀ e ∈ t.tlb, e.leaf ≠ l.bits) ∧
         (l.level ≠ 2 → leafC l.bits = true → s.memOk → s.touchesPort l.place 8 = false → RunsTo (.memDecommit d a) s fun t => put t 0 ∧
           (∀ j, (j < l.place ∨ l.place + 8 ≤ j) → t.byte j = s.byte j) ∧ leafC (t.readNat l.place 8) = false ∧
           (∀ q, s.part s.here.partno = some q → ∃ q' ∈ t.parts, q'.no = q.no ∧ q'.tpool = q.tpool ++ [leafOut l.bits]) ∧
           ∀ e ∈ t.tlb, e.leaf ≠ l.bits))))

/-- Tier 2. TRACE.MARK and STEP.END (R292, R365 to R372): a mark is written to the strand's ring when its trace is enabled, whose head moves
on for every strand of the core that shares it, and STEP.END gives the step's path length, sets SPSTEP and opens the next step. Debug stops
and samples (R287, R362 to R365): a strand in RUN at a matching safe point stops with REASON 7, its debug block written and its safe-point
count raised; a step or halt request stands until a strand reaches a safe point, and arms breakpoint entries; a resume reloads the block,
but for registers that were pending (log 58), and issues the instruction; a passed period is noted for the next safe point. -/
def Obligations.TraceAndDebug : Prop :=
  (∀ (s : State) (d a b : Reg) (key : Nat),
     let y := s.me.sys
     let x := s.reg a
     (y.trctl.getLsbD 3 = false ∨ y.trctl.getLsbD 0 = false → RunsTo (.traceMark a b) s (Wrote s · 0 0 4)) ∧
     (y.trctl.getLsbD 3 = true → y.trctl.getLsbD 0 = true → y.trctl.getLsbD 1 = true → s.me.tr.full = false → s.me.tr.dropped = 0 →
       (∃ mode, s.slotPlace s.myCore s.myStrand = .to (.here key) mode) → s.memOk → s.touchesPort key 32 = false →
       RunsTo (.traceMark a b) s fun t => ∃ r : Nat, WroteBytes s t key 32 (some r) ∧ bitsOf r 5 0 = 1 ∧ bitsOf r 7 6 = s.myStrand ∧
         bitsOf r 30 8 = s.identity s.myCore % 2 ^ 23 ∧ bitsOf r 111 64 = s.now % 2 ^ 48 ∧ bitsOf r 127 112 = s.me.tr.stepOpen.toNat % 2 ^ 16 ∧
         bitsOf r 191 128 = x.toNat ∧ bitsOf r 255 192 = (s.reg b).toNat % 2 ^ 16 ∧
         (∀ j : Nat, j < 4 → s.here.sameRing s.myStrand j = true → (t.strand s.myCore j).sys.trhead.toNat =
           ((s.strand s.myCore j).sys.trhead.toNat + 32) % 2 ^ (bitsOf y.trctl.toNat 19 16 + 12)) ∧
         (∀ c' k' : Nat, ¬ (c' = s.myCore ∧ s.here.sameRing s.myStrand k' = true) → t.strand c' k' = s.strand c' k') ∧
         t.me.regs = s.me.regs ∧ t.me.pc = s.me.pc + 4) ∧
     (y.trctl.getLsbD 6 = false ∨ y.trctl.getLsbD 0 = false → RunsTo (.stepEnd d a) s (Wrote (s.modMe fun t =>
       { t with sys := { t.sys with spstep := BitVec.ofNat 32 x.toNat, plen := 0 },
                tr := { t.tr with stepOpen := BitVec.ofNat 32 (x.toNat + 1) } }) · d (BitVec.ofNat 64 y.plen) 4))) ∧
  (∀ (s : State) (c k : Nat), c < 260 → k < 4 →
     let x := s.strand c k
     (∀ (p : Partition) (sp : SafePoint) (entry : Nat), s.part (s.core c).partno = some p → s.safePointAt c k = some sp → x.state = .run → x.hold ≤ s.now →
       x.tr.passed = false → s.stopAt c k sp = some (1, entry) → x.tr.sampleDue = false → trClass x.sys.trctl 8 = false → s.memOk →
       s.touchesPort (p.recordAt c + 1024 * k) 768 = false →
       RunsTo (.breakpointStop c k entry) s fun t =>
         let y := t.strand c k
         let key := p.recordAt c + 1024 * k
         y.state = .wait ∧ y.reason = 7 ∧ y.obj = 0 ∧ y.pc = x.pc ∧ y.regs = x.regs ∧ y.rgn = x.rgn ∧ y.sys = { x.sys with spcnt := x.sys.spcnt + 1 } ∧
         y.tr.debugStop = some (1, entry) ∧ y.tr.safePoint = some sp ∧ y.tr.stepReq = false ∧
         t.readNat key 768 = y.debugBlock x.pc % 2 ^ 6144 ∧ ∀ j, j < key ∨ key + 768 ≤ j → t.byte j = s.byte j) ∧
     (RunsTo (.debugStepRequest c k) s fun t => t.strand c k = { x with tr := { x.tr with stepReq := true } } ∧ t.mem = s.mem ∧
       ∀ d m, ¬ (d = c ∧ m = k) → t.strand d m = s.strand d m) ∧
     (∀ (no : Nat) (p : Partition) (entries : List (Nat × Breakpoint)), s.part no = some p →
       RunsTo (.debugHaltRequest ⟨no, entries⟩) s fun t => t.cores = s.cores ∧ t.mem = s.mem ∧
       ∃ p' : Partition, t.part no = some p' ∧ p' = { p with haltReq := p'.haltReq, breakpoints := p'.breakpoints } ∧
         (∀ d m, (d, m) ∈ p'.haltReq ↔ d ∈ p.cores ∧ m < 4) ∧
         ∀ e ∈ p'.breakpoints, e ∈ p.breakpoints ∨ e ∈ entries ∧ e.1 < 16) ∧
     (∀ entries : List (Nat × Breakpoint), x.tr.debugStop.isSome = true → x.state = .wait → RunsTo (.debugResume c ⟨k, entries⟩) s fun t =>
       let y := t.strand c k
       y.state = .run ∧ y.reason = 0 ∧ y.obj = 0 ∧ y.waited = 0 ∧ y.tr = { x.tr with debugStop := none, passed := true } ∧ t.mem = s.mem ∧
       (s.part (s.core c).partno = none → y.regs = x.regs ∧ y.rgn = x.rgn ∧ y.pc = x.pc ∧ y.sys = x.sys) ∧
       ∀ p : Partition, s.part (s.core c).partno = some p →
         let b := s.readNat (p.recordAt c + 1024 * k) 768
         (∀ r : Reg, y.reg r = if r = 0 then 0 else if x.tr.stopPend.getLsbD r.toNat then x.reg r else BitVec.ofNat 64 (b / 2 ^ (64 * r.toNat))) ∧
         (∀ q : QReg, (y.rgnAt q).toNat = b / 2 ^ (2048 + 192 * q.toNat) % 2 ^ 171) ∧
         y.pc = BitVec.ofNat 64 (bitsOf b 5183 5120 / 4 * 4) ∧ y.sys = { x.sys with fflags := BitVec.ofNat 5 (bitsOf b 5188 5184) }) ∧
     (trPeriod x.sys.trctl ≠ 0 → trPeriod x.sys.trctl ≤ x.tr.sampleCycles → RunsTo (.traceSample c k) s fun t => t.mem = s.mem ∧
       t.strand c k = { x with tr := { x.tr with sampleDue := true, sampleCycles := x.tr.sampleCycles - trPeriod x.sys.trctl } }))

/-! ## Reset, decoding and the step -/

/-- Tier 1. The state after package reset (R30, R434, R443, Tables 2.2, 13.3, 29.1 and 30.5): every strand is IDLE in USER mode with its
system registers 0, no core is in a partition, no table entry is defined, M0 to M3 are 0, FREQ is 2,100 and CAP 3,200. -/
def Obligations.ResetValues : Prop :=
  let s := State.reset
  s.memOk ∧ s.rgnOk ∧
  (∀ c k, (s.strand c k).state = .idle ∧ (s.strand c k).sys = ⟨0, 0, 0, 0, 0, 0, false, false, 0, 0, 0, 0, 0, 0, 0, 0⟩ ∧
    (∀ q, (s.strand c k).rgnAt q = 0)) ∧
  (∀ c, (s.core c).partno = 0 ∧ (s.core c).frozen = false ∧ (s.core c).window = [] ∧ (s.core c).bufs = [] ∧ (s.core c).held = 0 ∧
    (s.core c).rsel = 0 ∧ (s.core c).rpfail = 0) ∧
  (∀ c g, ((s.core c).grid g).st = .undefined) ∧ (∀ c z, ((s.core c).zone z).active = false) ∧
  s.marten.bootStep = 0 ∧ s.marten.m = List.replicate 4 (List.replicate 64 0) ∧ s.power.freq = 2100 ∧ s.power.cap = 3200 ∧
  s.power.on = true ∧ s.now = 0 ∧ s.parts = [] ∧ s.queues = [] ∧ s.live = [] ∧ s.poison = []

/-- Tier 1. Words of the spec's examples decode to the instructions they stand for (R157, R158, R178, R182, R212, R216, R483): each word is
written out in the spec. -/
def Obligations.ExampleWordsDecode : Prop :=
  decodeControl 0x90B40000 0 = .instr (.tkWait 5 20) ∧ decodeControl 0x90B40001 0 = .instr (.tkTest 5 20) ∧
  decodeControl 0x90140002 0 = .instr (.tkAfter 20) ∧ decodeControl 0x90063803 0 = .instr (.tbAfter 6 7) ∧
  decodeControl 0xA0663802 0 = .instr (.rgnB 3 6 7) ∧ decodeControl 0xA0460003 0 = .instr (.rgnO 2 6)

/-- Tier 3. Decoding the encoding of a well-formed control-core instruction gives the instruction, with every operand at every value its
encoding admits (R149 to R160). -/
def Obligations.ControlRoundTrip : Prop :=
  ∀ i : Instr, i.wellFormed = true → i.isVector = false → decodeControl (i.encode % 2 ^ 32) (i.encode / 2 ^ 32) = .instr i

/-- Tier 3. Decoding the encoding of a well-formed vector instruction gives the instruction (R151, R161 to R166). -/
def Obligations.VectorRoundTrip : Prop :=
  ∀ i : Instr, i.wellFormed = true → i.isVector = true → decodeVector i.encode = .instr i

/-- Tier 1. A word has at most one meaning, and every word decodes to an instruction that is well-formed and encodes as the word, or to
nothing (R153, R155). -/
def Obligations.DecodedIsEncoding : Prop :=
  (∀ (w0 w1 : Nat) (i : Instr), w0 < 2 ^ 32 → w1 < 2 ^ 32 → decodeControl w0 w1 = .instr i →
    i.wellFormed = true ∧ i.encode = (if isLongWord w0 then w0 + w1 * 2 ^ 32 else w0)) ∧
  ∀ (w : Nat) (i : Instr), decodeVector w = .instr i → i.wellFormed = true ∧ i.encode = w

/-- Tier 1. A step in which a strand moves runs the instruction that its bytes decode to (R12, R31, R149, R153): the word at the program
counter, and the next one for a form of two words, is decoded and executed at that state, with the word in hand; a word that encodes nothing
is executed as one, and a strand whose instruction names a pending register waits with REASON 1, or 9 while an open fault holds the access
that writes it. The ready strands of a core issue in round-robin order after the one that issued last. What the step adds around exec is
issuedBy, observe and endOf. -/
def Obligations.StepRunsStrand : Prop :=
  ∀ (s : State) (c : Fin 260) (k : Fin 4) (key key1 mode mode1 : Nat) (i : Instr),
    let u : State := { s with at_ := ⟨c, k, 0⟩ }
    let t := s.strand c k
    let w0 := s.readNat key 4
    let w1 := if isLongWord w0 then s.readNat key1 4 else 0
    let fetched : State := { u with ir := BitVec.ofNat 64 w0 }
    let code (va key mode : Nat) : Prop :=
      s.translate c t.sys.spaceid.toNat t.sys.super 0 accFetch va = .to (.here key) mode ∧ s.poisoned key 4 = false
    let had (o : Out) : Out := match o with
      | .next u => .next (u.issuedBy c k)
      | o => o
    let place (j : Nat) : Nat := (j + 4 - 1 - (s.core c).lastStrand % 4) % 4
    (s.turn = some (.strand c k) → s.power.on = true → s.softErrors = [] → t.state = .run → t.free s.now = true →
      s.firstInTurn c k = true → t.deferred = [] → s.fetchHeld c k = false → (s.core c).icache = [] → code t.pc.toNat key mode →
      (isLongWord w0 = true → code (t.pc + 4).toNat key1 mode1) →
      (decodeControl w0 w1 = .instr i → s.safePointAt c k = none →
        (t.arrived = true ∨ fetched.blockedOn i = none → step s = endOf (had (exec i (fetched.observe i)))) ∧
        (∀ r : Reg, t.arrived = false → fetched.blockedOn i = some r →
          step s = endOf (had (.next (fetched.waitFor (t.regWait r).1 (t.regWait r).2))))) ∧
      (∀ e : Illegal, decodeControl w0 w1 = .illegal e →
        step s = endOf (had (exec (.illegalWord false (BitVec.ofNat 64 w0)) fetched)))) ∧
    (s.turn = some (.strand c k) → (s.power.on = false ∨ t.movable s.now = false ∨ s.firstInTurn c k = false) → step s = endOf (.next u)) ∧
    (∀ j : Fin 4, (s.strand c j).state = .run → (s.strand c j).free s.now = true → place j < place k → s.firstInTurn c k = false)

/-- Tier 1. A step in which a vector context moves runs the word at its program counter (R151 to R153); a context without an issued VRUN,
one that is not first in round-robin order (R15), a part without power and a turn that names nothing let time pass. A step in which the part
itself moves runs the event row that the turn names, and no instruction (Table 29, the rows of the opcode table without an encoding). -/
def Obligations.StepRunsOthers : Prop :=
  (∀ (s : State) (c : Fin 260) (x : Fin 16) (key mode : Nat) (t : Task),
     let u : State := { s with at_ := ⟨c, 0, x⟩ }
     let y := u.ctx
     let k := (s.core c).strand t.ring
     let w := s.readNat key 8
     let v := u.modCore c fun z => { z with lastCtx := x }
     (s.turn = some (.ctx c x) → s.power.on = true → s.softErrors = [] → u.ctxTask = some t → t.state = .issued → s.ctxInTurn c x = true →
       y.code = [] →
       s.translate c k.sys.spaceid.toNat k.sys.super 1 accFetch y.pc.toNat = .to (.here key) mode → s.poisoned key 8 = false →
       (∀ i, decodeVector w = .instr i → step s = endOf (exec i v)) ∧
       (∀ e, decodeVector w = .illegal e → step s = endOf (exec (.illegalWord true (BitVec.ofNat 64 w)) v))) ∧
     (s.turn = some (.ctx c x) → u.ctxTask = none → step s = endOf (.next u)) ∧
     (s.turn = some (.ctx c x) → (s.power.on = false ∨ s.ctxInTurn c x = false) → step s = endOf (.next u)) ∧
     (s.turn = none → step s = endOf (.next s))) ∧
  (∀ (s : State) (e : Instr), s.turn = some (.event e) →
     (e.isEvent = true → step s = endOf (exec e s)) ∧ (e.isEvent = false → step s = .next s.endStep))

/-- Tier 2. No instruction and no event row stops the machine, and no step does: every fault that the spec describes is a next state (R34,
R282, R283). -/
def Obligations.NothingStops : Prop :=
  (∀ (i : Instr) (s : State), ∃ t, exec i s = .next t) ∧ ∀ s : State, s.safe

/-- Tier 3. Memory keeps its canonical form in every step, from every state that has it. -/
def Obligations.StepKeepsMemory : Prop := ∀ s t : State, s.memOk → step s = .next t → t.memOk

/-! ## Vector members (chapters 11 and 12) -/

/-- Tier 2. Integer members, lane by lane (R249, R253, R254, R256, R257, Table 11.4): exact values modulo 2^n, clamped where the member
saturates; inactive lanes, every other register and memory are as they were. Bitwise, counting and carry-less members, lane by lane, and the
widening members, whose result is a group of two registers (R248, R249, R253, R255, R257). -/
def Obligations.VectorIntegerLanes : Prop :=
  (∀ (s : State) (vd va vb vc : VReg) (ty ty2 : BitVec 4) (k : BitVec 5) (sat m : Bool) (act : Nat → Bool), s.ctx.activity m = some act →
     let n := tyBits ty.toNat
     let b (r : VReg) (i : Nat) : Nat := s.ctx.lane r n i
     let v (r : VReg) (i : Nat) : Int := laneVal ty.toNat (b r i)
     let put (f : Nat → Int) (t : State) : Prop := WroteLanes s t vd n 1 act fun i => ((f i % 2 ^ n).toNat, 0)
     let clip (x : Int) : Int := max (intMin ty.toNat) (min (intMax ty.toNat) x)
     let by_ (i : Nat) : Nat := b vb i % n
     RunsTo (.vadd vd va vb ty m) s (put fun i => v va i + v vb i) ∧
     RunsTo (.vsub vd va vb ty m) s (put fun i => v va i - v vb i) ∧
     RunsTo (.vmul vd va vb ty m) s (put fun i => v va i * v vb i) ∧
     RunsTo (.vmulh vd va vb ty m) s (put fun i => v va i * v vb i / 2 ^ n) ∧
     RunsTo (.vmad vd va vb vc ty m) s (put fun i => v va i * v vb i + v vc i) ∧
     RunsTo (.vmin vd va vb ty m) s (put fun i => min (v va i) (v vb i)) ∧
     RunsTo (.vmax vd va vb ty m) s (put fun i => max (v va i) (v vb i)) ∧
     RunsTo (.vabs vd va ty sat m) s (put fun i => if sat then clip |v va i| else |v va i|) ∧
     RunsTo (.vneg vd va ty sat m) s (put fun i => if sat then clip (-v va i) else -v va i) ∧
     RunsTo (.vadds vd va vb ty m) s (put fun i => clip (v va i + v vb i)) ∧
     RunsTo (.vsubs vd va vb ty m) s (put fun i => clip (v va i - v vb i)) ∧
     RunsTo (.vavg vd va vb ty m) s (put fun i => (v va i + v vb i + 1) / 2) ∧
     RunsTo (.vsll vd va vb ty m) s (put fun i => b va i * 2 ^ by_ i) ∧
     RunsTo (.vsrl vd va vb ty m) s (put fun i => b va i / 2 ^ by_ i) ∧
     RunsTo (.vsra vd va vb ty m) s (put fun i => sextInt (b va i) n / 2 ^ by_ i) ∧
     RunsTo (.vsllImm vd va k ty m) s (put fun i => b va i * 2 ^ k.toNat) ∧
     RunsTo (.vsrlImm vd va k ty m) s (put fun i => b va i / 2 ^ k.toNat) ∧
     RunsTo (.vsraImm vd va k ty m) s (put fun i => sextInt (b va i) n / 2 ^ k.toNat) ∧
     (n = 4 * tyBits ty2.toNat →
       let p (i j : Nat) : Int :=
         laneVal ty2.toNat (s.ctx.lane va (tyBits ty2.toNat) (4 * i + j)) * laneVal ty2.toNat (s.ctx.lane vb (tyBits ty2.toNat) (4 * i + j))
       let z (i : Nat) : Int := v vc i + (p i 0 + p i 1 + p i 2 + p i 3)
       RunsTo (.vdot4 vd va vb vc ty ty2 sat m) s (put fun i => if sat then clip (z i) else z i))) ∧
  (∀ (s : State) (vd va vb : VReg) (ty ty2 : BitVec 4) (m : Bool) (act : Nat → Bool), s.ctx.activity m = some act →
     let n := tyBits ty.toNat
     let x (i : Nat) : Nat := s.ctx.lane va n i
     let y (i : Nat) : Nat := s.ctx.lane vb n i
     let put (f : Nat → Nat) (t : State) : Prop := WroteLanes s t vd n 1 act fun i => (f i, 0)
     let product (i : Nat) : Nat := (List.range 64).foldl (fun a j => if (y i).testBit j then a ^^^ x i * 2 ^ j else a) 0
     let n2 := tyBits ty2.toNat
     let w (r : VReg) (i : Nat) : Int := laneVal ty2.toNat (s.ctx.lane r n2 i)
     let wide (f : Nat → Int) (t : State) : Prop := WroteLanes s t vd n 2 act fun i => ((f i % 2 ^ n).toNat, 0)
     RunsTo (.vand vd va vb ty m) s (put fun i => x i &&& y i) ∧
     RunsTo (.vor vd va vb ty m) s (put fun i => x i ||| y i) ∧
     RunsTo (.vxor vd va vb ty m) s (put fun i => x i ^^^ y i) ∧
     RunsTo (.vnot vd va ty m) s (put fun i => 2 ^ n - 1 - x i) ∧
     RunsTo (.vclz vd va ty m) s (put fun i => if x i = 0 then n else n - 1 - Nat.log2 (x i)) ∧
     RunsTo (.vpopc vd va ty m) s (put fun i => ((List.range n).filter fun j => (x i).testBit j).length) ∧
     (ty = 15 → RunsTo (.vclmul vd va vb ty m) s (put fun i => product i % 2 ^ 64) ∧
       RunsTo (.vclmulh vd va vb ty m) s (put fun i => product i / 2 ^ 64)) ∧
     (n = 2 * n2 → RunsTo (.vmulw vd va vb ty ty2 m) s (wide fun i => w va i * w vb i) ∧
       RunsTo (.vaddw vd va vb ty ty2 m) s (wide fun i => w va i + w vb i)))

/-- Tier 2. Floating-point members, lane by lane (R249, R251, R258 to R262, Table 11.5): the exact value rounded once under the word's mode
with its flags, minima and maxima under their rules for NaNs and zeros, and the sign members on bits. -/
def Obligations.VectorFloatLanes : Prop :=
  ∀ (s : State) (vd va vb vc : VReg) (ty : BitVec 4) (rm : BitVec 3) (sat m : Bool) (act : Nat → Bool), s.ctx.activity m = some act →
    let n := tyBits ty.toNat
    let b (r : VReg) (i : Nat) : Nat := s.ctx.lane r n i
    let e (r : VReg) (i : Nat) : Ext := decodeTy ty.toNat (b r i)
    let put (f : Nat → Nat × Flags) (t : State) : Prop := WroteLanes s t vd n 1 act f
    let once (r : Ext × Flags) : Nat × Flags :=
      ((encodeTy ty.toNat r.1 rm.toNat sat).1, (encodeTy ty.toNat r.1 rm.toNat sat).2 ||| r.2)
    let fused (x y z : Ext) : Nat × Flags :=
      let sum := sumExt [(mulExt x y).1, z] rm.toNat
      once (sum.1, (mulExt x y).2 ||| sum.2 ||| snanFlag [z])
    let less (x y : Ext) : Bool := x.lt y || (x.isZero && y.isZero && x.neg && !y.neg)
    let pick (num : Bool) (second : Nat → Bool) (i : Nat) : Nat × Flags :=
      (match (e va i).isNan, (e vb i).isNan with
        | true, true => canonNan ty.toNat
        | true, false => if num then b vb i else canonNan ty.toNat
        | false, true => if num then b va i else canonNan ty.toNat
        | false, false => if second i then b vb i else b va i, snanFlag [e va i, e vb i])
    let top : Nat := 2 ^ (n - 1)
    RunsTo (.vfadd vd va vb ty rm sat m) s (put fun i => once (sumExt [e va i, e vb i] rm.toNat)) ∧
    RunsTo (.vfsub vd va vb ty rm sat m) s (put fun i => once (sumExt [e va i, (e vb i).flip] rm.toNat)) ∧
    RunsTo (.vfmul vd va vb ty rm sat m) s (put fun i => once (mulExt (e va i) (e vb i))) ∧
    RunsTo (.vfdiv vd va vb ty rm sat m) s (put fun i => once (divExt (e va i) (e vb i))) ∧
    RunsTo (.vfma vd va vb vc ty rm sat m) s (put fun i => fused (e va i) (e vb i) (e vc i)) ∧
    RunsTo (.vfms vd va vb vc ty rm sat m) s (put fun i => fused (e va i) (e vb i) (e vc i).flip) ∧
    RunsTo (.vfnma vd va vb vc ty rm sat m) s (put fun i => fused (e va i).flip (e vb i) (e vc i)) ∧
    RunsTo (.vfmin vd va vb ty m) s (put (pick false fun i => less (e vb i) (e va i))) ∧
    RunsTo (.vfmax vd va vb ty m) s (put (pick false fun i => less (e va i) (e vb i))) ∧
    RunsTo (.vfminp vd va vb ty m) s (put (pick true fun i => less (e vb i) (e va i))) ∧
    RunsTo (.vfmaxp vd va vb ty m) s (put (pick true fun i => less (e va i) (e vb i))) ∧
    RunsTo (.vfabs vd va ty m) s (put fun i => (b va i % top, 0)) ∧
    RunsTo (.vfneg vd va ty m) s (put fun i => ((b va i + top) % 2 ^ n, 0)) ∧
    RunsTo (.vfcpys vd va vb ty m) s (put fun i => (b va i % top + b vb i / top * top, 0)) ∧
    RunsTo (.vfsqrt vd va ty rm sat m) s (put fun i => once (sqrtExt (e va i))) ∧
    RunsTo (.vrcp vd va ty rm sat m) s (put fun i => once (divExt (.fin false 1 0) (e va i))) ∧
    RunsTo (.vrsqrt vd va ty rm sat m) s (put fun i => once (rsqrtExt (e va i))) ∧
    RunsTo (.vfclass vd va ty m) s (put fun i => (classBits ty.toNat (b va i), 0)) ∧
    RunsTo (.vfscale vd va vb ty rm sat m) s (put fun i => once (scaleBy (e va i) (sextInt (b vb i) n)))

/-- Tier 2. The functions of R146 and R262 and VFRND complete from every state whose context has the activity the word asks for, and write
the function of each active lane (R248, R249, R261, R262). -/
def Obligations.VectorFunctions : Prop :=
  ∀ (s : State) (vd va : VReg) (ty : BitVec 4) (rm : BitVec 3) (sat m : Bool) (act : Nat → Bool), s.ctx.activity m = some act →
    let n := tyBits ty.toNat
    let b (i : Nat) : Nat := s.ctx.lane va n i
    let put (f : Nat → Nat × Flags) (t : State) : Prop := WroteLanes s t vd n 1 act f
    RunsTo (.vexp2 vd va ty rm sat m) s (put fun i => exp2Bits ty.toNat (b i) rm.toNat sat) ∧
    RunsTo (.vlog2 vd va ty rm sat m) s (put fun i => log2Bits ty.toNat (b i) rm.toNat sat) ∧
    RunsTo (.vsinpi vd va ty rm sat m) s (put fun i => sinpiBits false ty.toNat (b i) rm.toNat sat) ∧
    RunsTo (.vcospi vd va ty rm sat m) s (put fun i => sinpiBits true ty.toNat (b i) rm.toNat sat) ∧
    RunsTo (.vfrnd vd va ty rm m) s (put fun i => roundIntegral ty.toNat (b i) rm.toNat)

/-- Tier 2. Conversions complete at the widths their forms admit, lane by lane (R248, R249, R263, R264): an integer to an integer wraps or
clamps without a flag, equal types leave the element but for NaNs, and every other pair encodes the value. VCVTW writes a group of registers
and VCVTN reads one, element i at position i div g of register i mod g. -/
def Obligations.VectorConversions : Prop :=
  ∀ (s : State) (vd va : VReg) (ty ty2 : BitVec 4) (rm : BitVec 3) (sat m : Bool) (act : Nat → Bool), s.ctx.activity m = some act →
    let n := tyBits ty.toNat
    let n2 := tyBits ty2.toNat
    let put (f : Nat → Nat × Flags) (t : State) : Prop := WroteLanes s t vd n 1 act f
    let whole (x : Nat) : Nat × Flags :=
      let z := laneVal ty2.toNat x
      (((if sat then max (intMin ty.toNat) (min (intMax ty.toNat) z) else z) % 2 ^ n).toNat, 0)
    let same (x : Nat) : Nat × Flags :=
      if (decodeTy ty.toNat x).isNan then (canonNan ty.toNat, snanFlag [decodeTy ty.toNat x]) else (x, 0)
    let conv (x : Nat) : Nat × Flags :=
      if tyInt ty.toNat && tyInt ty2.toNat then whole x
      else if ty = ty2 ∧ ty ≠ 14 then same x
      else encodeTy ty.toNat (decodeTy ty2.toNat x) rm.toNat sat
    (n = n2 → RunsTo (.vcvt vd va ty ty2 rm sat m) s (put fun i => conv (s.ctx.lane va n2 i))) ∧
    (∀ g, (g = 2 ∨ g = 4) → n = g * n2 →
      RunsTo (.vcvtw vd va ty ty2 rm sat m) s (WroteLanes s · vd n g act fun i => conv (s.ctx.lane va n2 i))) ∧
    (∀ g, (g = 2 ∨ g = 4) → n2 = g * n →
      RunsTo (.vcvtn vd va ty ty2 rm sat m) s (put fun i => conv (s.ctx.elem va n2 g i)))

/-- Tier 2. The mask stack (R265 to R268, Tables 12.1 and 12.2): what each member pushes, pops or changes, the counts, MLD and MST, and the
failure MASKSTACK of a VRUN whose stack is empty or full. -/
def Obligations.MaskInstructions : Prop :=
  ∀ (s : State) (va vb : VReg) (ad ab ai : AReg) (ty : BitVec 4) (pred : BitVec 3) (m : Bool) (imm : BitVec 16) (act : Nat → Bool),
    let n := tyBits ty.toNat
    let cnt := 4096 / n
    let a (i : Nat) : Ext := decodeTy ty.toNat (s.ctx.lane va n i)
    let b (i : Nat) : Ext := decodeTy ty.toNat (s.ctx.lane vb n i)
    let unordered (i : Nat) : Bool := (a i).isNan || (b i).isNan
    let holds (i : Nat) : Bool :=
      [(a i).eqv (b i), !(a i).eqv (b i), (a i).lt (b i), (a i).lt (b i) || (a i).eqv (b i), (b i).lt (a i),
        (b i).lt (a i) || (a i).eqv (b i), unordered i].getD pred.toNat false
    let raises (i : Nat) : Flags :=
      if 2 ≤ pred.toNat ∧ pred.toNat ≤ 5 then (if unordered i then Flag.nv else 0) else snanFlag [a i, b i]
    let none_ : Nat → Flags := fun _ => 0
    let pushed (bit : Nat → Bool) (f : Nat → Flags) (t : State) : Prop :=
      ∃ p, WroteMasks s t (p :: s.ctx.masks) cnt act f ∧ ∀ i, p.getLsbD i = (decide (i < cnt) && act i && bit i)
    let left (ms : List (BitVec 1024)) (t : State) : Prop := WroteMasks s t ms cnt act none_
    let va1 := (s.ctx.areg ab + s.ctx.areg ai + imm.signExtend 64).toNat
    let key := s.elemAt 0 va1
    let fails (t : State) : Prop := t = s.vfail Cause.maskstack
    (s.ctx.activity m = some act → s.ctx.masks.length < 16 →
      (pred.toNat < 7 → RunsTo (.vcmp va vb ty pred m) s (pushed holds raises)) ∧
      RunsTo (.mpush va ty m) s (pushed (fun i => s.ctx.lane va n i != 0) none_)) ∧
    (∀ p ps, s.ctx.masks = p :: ps →
      RunsTo (.minv ty) s (fun t => ∃ q, left (q :: ps) t ∧ ∀ i, q.getLsbD i = (decide (i < cnt) && !p.getLsbD i)) ∧
      RunsTo .mpop s (left ps) ∧
      RunsTo (.mcnt ad ty) s (WroteAddr s · ad (BitVec.ofNat 64 ((List.range cnt).filter fun i => p.getLsbD i).length)) ∧
      RunsTo (.mfirst ad ty) s (fun t => ∃ j, WroteAddr s t ad (BitVec.ofNat 64 j) ∧ j ≤ cnt ∧ (j < cnt → p.getLsbD j = true) ∧
        ∀ i, i < j → p.getLsbD i = false) ∧
      (LanesPass s true 0 128 1 (fun _ => true) (fun _ => va1) → s.memOk → s.touchesPort key 128 = false →
        RunsTo (.mst ab ai imm) s fun t => WroteBytes s t key 128 (some p.toNat) ∧ s.onlyPassed t ∧ ∀ c k, t.strand c k = s.strand c k)) ∧
    (∀ p q ps, s.ctx.masks = p :: q :: ps →
      RunsTo .mand s (left ((q &&& p) :: ps)) ∧ RunsTo .mor s (left ((q ||| p) :: ps)) ∧ RunsTo .mandn s (left ((q &&& ~~~p) :: ps))) ∧
    (LanesPass s false 0 128 1 (fun _ => true) (fun _ => va1) → s.ctx.masks.length < 16 →
      RunsTo (.mld ab ai imm) s (left (BitVec.ofNat 1024 (s.seenNat (.engine s.myCore) key 128) :: s.ctx.masks))) ∧
    (16 ≤ s.ctx.masks.length → s.ctx.activity m = some act → RunsTo (.vcmp va vb ty pred m) s fails ∧ RunsTo (.mpush va ty m) s fails ∧
      RunsTo (.mld ab ai imm) s fails) ∧
    (s.ctx.masks = [] → RunsTo (.minv ty) s fails ∧ RunsTo .mpop s fails ∧ RunsTo (.mcnt ad ty) s fails ∧ RunsTo (.mst ab ai imm) s fails ∧
      RunsTo (.vadd va va vb ty true) s fails) ∧
    (s.ctx.masks.length < 2 → RunsTo .mand s fails ∧ RunsTo .mor s fails ∧ RunsTo .mandn s fails)

/-- Tier 2. Permutes (R249, R269, R270, Table 12.3): lanes moved by position, by index or by the top mask entry. Reductions (R271, Table
12.4): element 0 of vd holds the result over the active lanes and every other bit of vd is 0. -/
def Obligations.PermutesAndReductions : Prop :=
  (∀ (s : State) (vd va vb : VReg) (an : AReg) (ty : BitVec 4) (m : Bool) (imm : BitVec 16),
     let n := tyBits ty.toNat
     let cnt := 4096 / n
     let x (r : VReg) (i : Nat) : Nat := s.ctx.lane r n i
     let all (f : Nat → Nat) (t : State) : Prop := WroteLanes s t vd n 1 (fun _ => true) fun i => (f i, 0)
     let pair (f : Nat → Nat) (t : State) : Prop :=
       s.onlyCtx t ∧ (∀ i, i < cnt → t.ctx.lane vd n i = f i ∧ t.ctx.lane (vd + 1) n i = f (cnt + i)) ∧
       (∀ r : VReg, 2 ≤ (r - vd).toNat → t.ctx.vreg r = s.ctx.vreg r) ∧ t.ctx = { s.ctx with v := t.ctx.v, pc := s.ctx.pc + 8 }
     (∀ act, s.ctx.activity m = some act →
       let put (f : Nat → Nat) (t : State) : Prop := WroteLanes s t vd n 1 act fun i => (f i, 0)
       (imm.toNat < cnt → RunsTo (.vbcast vd va ty m imm) s (put fun _ => x va imm.toNat)) ∧
       RunsTo (.vsplat vd an ty m) s (put fun _ => (s.ctx.areg an).toNat % 2 ^ n) ∧
       RunsTo (.vshuf vd va vb ty m) s (put fun i => x va (x vb i % cnt)) ∧
       RunsTo (.vrot vd va ty m imm) s (put fun i => x va ((i + imm.toNat) % cnt)) ∧
       (imm.toNat ≤ cnt → RunsTo (.vslide vd va vb ty m imm) s
         (put fun i => if i + imm.toNat < cnt then x va (i + imm.toNat) else x vb (i + imm.toNat - cnt))) ∧
       RunsTo (.vmov vd va ty m) s (put (x va))) ∧
     RunsTo (.vzip vd va vb ty) s (pair fun j => if j % 2 = 0 then x va (j / 2) else x vb (j / 2)) ∧
     RunsTo (.vuzp vd va ty) s (pair fun j =>
       let k := if j < cnt then 2 * j else 2 * (j - cnt) + 1
       if k < cnt then x va k else x (va + 1) (k - cnt)) ∧
     (∀ p ps, s.ctx.masks = p :: ps →
       let set_ (k : Nat) : List Nat := (List.range k).filter fun i => p.getLsbD i
       RunsTo (.vcmprs vd va an ty) s (fun t =>
         s.onlyCtx t ∧ (∀ i, i < cnt → t.ctx.lane vd n i = ((set_ cnt).map (x va)).getD i 0) ∧
         (∀ r : VReg, r ≠ vd → t.ctx.vreg r = s.ctx.vreg r) ∧
         (∀ r, t.ctx.areg r = if r = an ∧ r ≠ 0 then BitVec.ofNat 64 (set_ cnt).length else s.ctx.areg r) ∧
         t.ctx = { s.ctx with v := t.ctx.v, a := t.ctx.a, pc := s.ctx.pc + 8 }) ∧
       RunsTo (.vexpnd vd va ty) s (all fun i => if p.getLsbD i then x va (set_ i).length else 0) ∧
       RunsTo (.viota vd ty) s (all fun i => (set_ i).length) ∧
       RunsTo (.vsel vd va vb ty) s (all fun i => if p.getLsbD i then x va i else x vb i))) ∧
  (∀ (s : State) (vd va : VReg) (ty : BitVec 4) (rm : BitVec 3) (sat m : Bool) (act : Nat → Bool), s.ctx.activity m = some act →
     let n := tyBits ty.toNat
     let cnt := 4096 / n
     let b (i : Nat) : Nat := s.ctx.lane va n i
     let whole (r : Nat × Flags) (t : State) : Prop := WroteLanes s t vd 4096 1 (fun _ => true) fun _ => r
     let int (v : Int) : Nat × Flags := ((v % 2 ^ n).toNat, 0)
     let on (r : Int) (i : Nat) : Int := if act i then laneVal ty.toNat (b i) else r
     let sum := ((List.range cnt).map (on 0)).sum
     let lo := intMin ty.toNat
     let hi := intMax ty.toNat
     let float (r : Ext) (i : Nat) : Ext := if act i then decodeTy ty.toNat (b i) else r
     RunsTo (.vrsum vd va ty sat m) s (whole (int (if sat then max lo (min hi sum) else sum))) ∧
     RunsTo (.vrmax vd va ty m) s (whole (int (((List.range cnt).map (on lo)).foldl max lo))) ∧
     RunsTo (.vrmin vd va ty m) s (whole (int (((List.range cnt).map (on hi)).foldl min hi))) ∧
     RunsTo (.vrxor vd va ty m) s (whole (((List.range cnt).map fun i => if act i then b i else 0).foldl (· ^^^ ·) 0, 0)) ∧
     RunsTo (.vrfsum vd va ty rm sat m) s
       (whole (deliver ty.toNat (treeSum rm.toNat 9 ((List.range cnt).map (float (.fin true 0 0)))) rm.toNat sat)) ∧
     RunsTo (.vrfmax vd va ty m) s (whole
       ((encodeTy ty.toNat (((List.range cnt).map (float (.inf true))).foldl maxExt (.inf true)) 0 false).1,
         snanFlag ((List.range cnt).map (float (.inf true))))))

/-- Tier 2. Vector loads and stores (R272 to R275, Table 12.5): where the checks of R274 pass, active lanes move their elements, half byte
by half byte at the places of R273 (loads as the core's engines read, R108), the higher lane last; every other byte and lane is as it was. A
check that fails fails the VRUN with its cause and moves nothing. -/
def Obligations.VectorMemory : Prop :=
  ∀ (s : State) (vd vi : VReg) (ab ai : AReg) (ty layout : BitVec 4) (m : Bool) (imm : BitVec 16) (act : Nat → Bool),
    s.ctx.activity m = some act →
    let n := tyBits ty.toNat
    let w := max 1 (n / 8)
    let cnt := 4096 / n
    let base := s.ctx.areg ab + s.ctx.areg ai
    let unit (i : Nat) : Nat := ((base + imm.signExtend 64).toNat + i * n / 8) % 2 ^ 64
    let stride (i : Nat) : Nat := (s.ctx.areg ab + imm.signExtend 64 + BitVec.ofNat 64 i * s.ctx.areg ai).toNat
    let index (i : Nat) : Nat := (base + BitVec.ofNat 64 (s.ctx.elem vi 32 (if n = 64 then 1 else cnt / 128) i * w)).toNat
    let one (_ : Nat) : Nat := (base + imm.signExtend 64).toNat
    let place (a : Nat → Nat) (i : Nat) : Nat := 2 * s.elemAt layout.toNat (a i) + if n = 4 then i % 2 else 0
    let seen (x : Nat) : Nat := (s.seenByte (.engine s.myCore) (x / 2)).toNat / 16 ^ (x % 2) % 16
    let load (i : Instr) (a : Nat → Nat) : Prop := LanesPass s false layout.toNat w cnt act a →
      RunsTo i s fun t => ∃ f : Nat → Nat, WroteLanes s t vd n 1 act (fun i => (f i, 0)) ∧
        ∀ i k, i < cnt → k < n / 4 → act i = true → f i / 16 ^ k % 16 = seen (place a i + k)
    let store (i : Instr) (a : Nat → Nat) : Prop := LanesPass s true layout.toNat w cnt act a → s.memOk →
      (∀ i, i < cnt → act i = true → s.touchesPort (s.elemAt layout.toNat (a i)) w = false) →
      RunsTo i s fun t =>
        (∀ i k, i < cnt → k < n / 4 → act i = true →
          (∀ j k', i < j → j < cnt → k' < n / 4 → act j = true → place a j + k' ≠ place a i + k) →
          t.half (place a i + k) = s.ctx.lane vd n i / 16 ^ k % 16) ∧
        (∀ h, (∀ i k, i < cnt → k < n / 4 → act i = true → place a i + k ≠ h) → t.half h = s.half h) ∧
        s.onlyPassed t ∧ ∀ c k, t.strand c k = s.strand c k
    let stops (i : Instr) (st : Bool) (a : Nat → Nat) : Prop := ∀ u c, s.ctxTask = some u →
      s.laneFault st layout.toNat w w ((List.range cnt).map fun i => (act i, a i)) u = some c → RunsTo i s (· = s.vfail c)
    load (.vld vd ab ai ty layout m imm) unit ∧ store (.vst vd ab ai ty layout m imm) unit ∧
    stops (.vld vd ab ai ty layout m imm) false unit ∧ stops (.vst vd ab ai ty layout m imm) true unit ∧
    (n ≠ 4 → load (.vlds vd ab ai ty layout m imm) stride ∧ store (.vsts vd ab ai ty layout m imm) stride ∧
      load (.vgath vd ab ai ty layout m vi) index ∧ store (.vscat vd ab ai ty layout m vi) index ∧
      load (.vldb vd ab ai ty layout m imm) one)

/-- Tier 2. Address registers (R277, R278): what each member writes, with a0 reading as zero and its writes discarded; the branches of a
context, taken exactly under their conditions; VEND and VTRAP, which end the VRUN; and a word that encodes nothing (R153). -/
def Obligations.ContextControl : Prop :=
  ∀ (s : State) (ad aa ab : AReg) (va : VReg) (ty : BitVec 4) (k : BitVec 6) (imm : BitVec 16) (off : BitVec 32) (word : Word),
    let x := s.ctx.areg aa
    let y := s.ctx.areg ab
    let n := tyBits ty.toNat
    let pc := s.ctx.pc
    let e := s.ctx.lane va n imm.toNat
    let near : Word := pc + off.signExtend 64 * 8
    let past : Word := pc + (off.zeroExtend 64 + 1) * 8
    let goes (p : Bool) (d : AReg) (v target : Word) (t : State) : Prop := Steered s t d v (if p then target else pc + 8)
    RunsTo (.ali ad off) s (WroteAddr s · ad (off.signExtend 64)) ∧
    RunsTo (.aadd ad aa ab) s (WroteAddr s · ad (BitVec.ofNat 64 (x.toNat + y.toNat))) ∧
    RunsTo (.aaddi ad aa off) s (WroteAddr s · ad (BitVec.ofInt 64 (x.toNat + off.toInt))) ∧
    RunsTo (.amul ad aa ab) s (WroteAddr s · ad (BitVec.ofNat 64 (x.toNat * y.toNat))) ∧
    RunsTo (.ashl ad aa k) s (WroteAddr s · ad (BitVec.ofNat 64 (x.toNat * 2 ^ k.toNat))) ∧
    (imm.toNat < 4096 / n → RunsTo (.amovv ad va ty imm) s
      (WroteAddr s · ad (if ty.toNat < 4 then BitVec.ofInt 64 (sextInt e n) else BitVec.ofNat 64 e))) ∧
    (ad ≠ 0 → RunsTo (.vloop ad off) s (goes (s.ctx.areg ad != 1) ad (s.ctx.areg ad - 1) near)) ∧
    RunsTo (.vj off) s (goes true 0 0 near) ∧
    RunsTo (.abne aa ab off) s (goes (x != y) 0 0 near) ∧
    (∀ p ps, s.ctx.masks = p :: ps → RunsTo (.vbz off) s (goes (p == 0) 0 0 past) ∧ RunsTo (.vbnz off) s (goes (p != 0) 0 0 past)) ∧
    (∀ u i l j, s.ctxTask = some u → u.cmd = .vrun i l → u.bar = none → u.owner = .strand j → j < 4 → u.tok ≠ 0 →
      RunsTo .vend s (RunEnded s · u j 0) ∧
      RunsTo (.vtrap off) s (fun t => RunEnded s t u j (BitVec.ofInt 64 (-(Cause.vecTrap : Int))) ∧ t.ctx.trapCode = off) ∧
      RunsTo (.illegalWord true word) s (RunEnded s · u j (BitVec.ofInt 64 (-(Cause.illegal : Int)))))

/-! ## Events of a core: the window and the engines -/

/-- Tier 2. The life of a task in the window (R34, R36, R39, R40, R66, R73): a freed entry goes to the next waiting claimant in turn; a
posted task whose every wait is met enters READY, and one with an older task or a token to wait for stays; a ready task rises a class after
2,048 cycles; a failed producer, a stamp that is ahead and a stale limit end it with their codes. Issue and completion (R38, R143, R221 to
R231, R244): a free instance takes the task of the highest class and lowest post sequence; a VRUN starts in its context with ENT, ARG and
its operands' addresses; a failed check ends the task; a completed task of an engine has every result in its place and no other half byte of
memory changed; an integer MM adds exact products modulo 2^32. -/
def Obligations.TasksAndEngines : Prop :=
  (∀ (s : State) (c : Nat) (q : BitVec 32),
     let x := s.core c
     (∀ n, n < 5 → x.granted = [] → x.window.length < 128 → x.eligible ((x.lastGrant + 1 + n) % 5) = true →
       (∀ m, m < n → x.eligible ((x.lastGrant + 1 + m) % 5) = false) →
       Runs (.windowGrant c) s
         (s.setCore c { x with granted := [((x.lastGrant + 1 + n) % 5, x.lastRetired)], lastGrant := (x.lastGrant + 1 + n) % 5 })) ∧
     (∀ u : Task, x.task q = some u →
       (u.state = .posted → u.doomed = false →
         (∀ e : Nat, u.stamped = some (e + 1) ∨ u.stamped = some 0 ∧ s.barrierWait u = some (e + 1) →
           RunsTo (.taskReady c q) s (Ended s · c u (-(e + 1 : Int)))) ∧
         (u.stamped = some 0 → s.barrierWait u = some 0 → x.reportIn u = none →
           RunsTo (.taskReady c q) s (Ended s · c u (-(Cause.estale : Int)))) ∧
         (u.stamped = some 0 → s.barrierWait u = some 0 → x.reportIn u = some true → s.gridHeld c u = false →
           RunsTo (.taskReady c q) s fun t => ∃ w ∈ (t.core c).window, w.seq = q ∧ w.cmd = u.cmd ∧ w.ops = u.ops ∧ w.cls = u.cls ∧
             w.state = if u.deps = [] ∧ u.tokWait = none then .ready else .posted)) ∧
       (u.state = .ready → 2048 ≤ u.age → u.cls ≠ 0 → RunsTo (.taskAging c q) s fun t =>
         (∃ w ∈ (t.core c).window, w = { u with cls := u.cls - 1, age := u.age - 2048 }) ∧ ∀ d, d ≠ c → t.core d = s.core d) ∧
       (u.state = .posted → (u.doomed = true ∨ u.stamped = some Cause.producerFailed) → RunsTo (.producerFailed c q) s (Ended s · c u (-(Cause.producerFailed : Int)))) ∧
       (∀ m, s.onlyStamps c u = true → x.staleLimit u (s.gridHeld c u) = some m → m ≤ u.staleCount →
         RunsTo (.stampStaleLimit c q) s (Ended s · c u (-(Cause.stampStale : Int)))))) ∧
  (∀ (s : State) (c n : Nat) (cls : EngineClass) (u : Task),
     let x := s.core c
     let u' : Task := { u with state := .issued, inst := some n, waited := 0 }
     let y := (x.modTask u.seq fun _ => u').issueWrites u'
     let d := u.op 4
     let e4 := (x.opBuf d).esize4
     (x.freeUnit cls = some n → x.chosen cls = some u → u.waited = 0 →
       (∀ e : Nat, y.issueCheck c u' = some e → RunsTo (.taskIssue c cls n) s (Ended s · c u (-(e : Int)))) ∧
       (y.issueCheck c u' = none →
         (cls ≠ .cpy → cls ≠ .vec → Runs (.taskIssue c cls n) s (s.setCore c y)) ∧
         (∀ g : BitVec 16, u.cmd = .rstat g → Runs (.taskIssue c cls n) s (s.setCore c y)) ∧
         (∀ ent arg : Word, u.cmd = .vrun ent arg → RunsTo (.taskIssue c cls n) s fun t => ∃ h : n < 16,
           let z := (t.core c).ctxs[n]
           z.task = some u.seq ∧ z.pc = ent ∧ z.masks = [] ∧ z.flags = 0 ∧ (∀ r, z.vreg r = 0) ∧
           (∀ r : AReg, z.areg r = if r = 1 then arg else if 2 ≤ r.toNat ∧ r.toNat < 8 then y.operandVa c u' (r.toNat - 2) else 0) ∧
           (∃ w ∈ (t.core c).window, w = u') ∧ t.mem = s.mem ∧ ∀ r ∈ t.reqs, r.kind = .fetch → r.core = c → r.strand ≠ 4 + n))) ∧
     (x.task u.seq = some u → u.state = .issued →
       (u.cmd.cls ≠ .vec → u.cmd.cls ≠ .cpy → u.ops.any x.opEmpty = true → RunsTo (.taskComplete c u.seq) s (Ended s · c u 0)) ∧
       (u.cmd.cls ≠ .vec → u.cmd.cls ≠ .cpy → u.ops.any x.opEmpty = false → s.softErrors = [] → s.memOk →
         trClass (s.strand c u.ring).sys.trctl 7 = false → e4 ∈ [1, 2, 4, 8] → PlacesFree s c u →
         (u.readOps.any (s.opPoisoned c) = true → RunsTo (.taskComplete c u.seq) s (Ended s · c u (-(Cause.poison : Int)))) ∧
         (u.readOps.any (s.opPoisoned c) = false → RunsTo (.taskComplete c u.seq) s fun t => Ended s t c u 0 ∧
           (∀ r ∈ s.results c u, ∀ p : Nat × Nat, x.place c d r.1.1 r.1.2 = some p →
             ∀ h, h < e4 → t.half (2 * p.1 + p.2 + h) = r.2.bits / 16 ^ h % 16) ∧
           (∀ j, (∀ r ∈ s.results c u, ∀ p : Nat × Nat, x.place c d r.1.1 r.1.2 = some p → j < 2 * p.1 + p.2 ∨ 2 * p.1 + p.2 + e4 ≤ j) →
             t.half j = s.half j))) ∧
       (∀ (g : BitVec 16) (r : Report) (v : Int), u.cmd = .rstat g → x.reportOf u g = some r → r.status = some v → v ≤ 0 →
         RunsTo (.taskComplete c u.seq) s fun t => Ended s t c u v ∧ ∀ r ∈ (t.core c).reports, r.tag ≠ g) ∧
       (∀ g : BitVec 16, u.cmd = .rstat g → x.reportOf u g = none →
         RunsTo (.taskComplete c u.seq) s (Ended s · c u (-(Cause.estale : Int))))) ∧
     (∀ fa fb i j : Nat, u.cmd = .mm fa fb → tyInt fa = true → 0 < rgnX (u.op 0).rgn 0 →
       (s.mmElem c u fa fb i j).bits =
         ((sextInt (s.opRead c (u.op 4) j i) 32 + ((List.range (rgnX (u.op 0).rgn 0)).map fun k =>
           sextInt (s.opRead c (u.op 0) k i) (tyBits fa) * sextInt (s.opRead c (u.op 1) j k) (tyBits fb)).sum) % 2 ^ 32 : Int).toNat))

/-! ## Launches, queues and packets -/

/-- Tier 2. The loader (R309): a load waits for the partition's earlier one; an image with a failure in any step writes nothing and is
answered with the least failure and their count, an unreadable file with the one of its header; an image that no check refuses is placed,
its content section, then its tables, then the words of the launch descriptor, and is answered with an empty record. Launches (R27 to R29,
R407, R409, R415, Table 2.1): strand 0 of every named core of this package starts with the registers of the launch, once every strand of
them is idle and the other packages that hold cores of it have said that theirs are, and they are told; the launch ends once its strands
have, here and there, with 0 or its first failure for its packet. The cores here of another package's launch are announced, and their end
is. -/
def Obligations.LoadingAndLaunches : Prop :=
  (∀ (s : State) (part space : Nat) (at_ : LoadPlace) (file : List Byte),
     let base := if readable file then baseOf file at_ else at_.base
     let points := placedPoints file base
     let tables := points ++ placedCkpts file base
     let fails := s.loadFails part space at_ file (if readable file then tables else [])
     (s.awaits 0 (.load part) = true → Runs (.imageLoad part space at_ file) s s) ∧
     (∀ (x : LoadFail) (xs : List LoadFail), s.awaits 0 (.load part) = false → fails = x :: xs → Runs (.imageLoad part space at_ file) s
       { s with outbox := s.outbox ++ [.loaded part (failRecord base (leastFail x xs) (xs.length + 1))] }) ∧
     (∀ e : Nat, readable file = false → s.awaits 0 (.load part) = false → s.spaceEntry space = some (part, e) → (s.part part).isSome = true →
       Runs (.imageLoad part space at_ file) s { s with outbox := s.outbox ++ [.loaded part (failRecord at_.base (malformed 0 0) 1)] }) ∧
     (∀ (x : Sect) (k m : Nat),
       let bs := placedSect file base x
       fails = [] → s.awaits 0 (.load part) = false → (fileSects file).filter Sect.content = [x] → s.memOk →
       bs ≠ [] → (base + x.addr) / 65536 = (base + x.addr + bs.length - 1) / 65536 →
       s.loadPlace space (base + x.addr) (fun _ => true) = some (.here k) →
       at_.tables / 65536 = (at_.tables + tables.length - 1) / 65536 → s.loadPlace space at_.tables (fun _ => true) = some (.here m) →
       RunsTo (.imageLoad part space at_ file) s fun t => t.outbox = s.outbox ++ [.loaded part []] ∧ t.cores.map (·.strands) = s.cores.map (·.strands) ∧
         ∀ j, t.byte j =
           let d := at_.ldesc
           let ws := leBytes 8 at_.stkbase ++ leBytes 8 at_.stksz ++ leBytes 8 at_.tables ++ leBytes 8 (at_.tables + points.length)
           if d + 8 ≤ j ∧ j < d + 40 then ws.getD (j - d - 8) 0
           else if m ≤ j ∧ j < m + tables.length then tables.getD (j - m) 0
           else if k ≤ j ∧ j < k + bs.length then bs.getD (j - k) 0 else s.byte j)) ∧
  (∀ (s : State) (id : Nat) (l : Launch), s.launches.find? (·.id == id) = some l →
     let idle : Prop := (∀ c ∈ s.launchCores l, ∀ k, k < 4 → (s.strand c k).state = .idle) ∧
       ∀ x ∈ s.launches, x.id ≠ l.id → x.home.isSome = true → x.started = false → ∀ a ∈ x.away, a.2 ≠ .ready
     let ended : Prop := (∀ c ∈ s.launchCores l, ∀ k, k < 4 → (s.strand c k).launch ≠ some id ∧ (s.strand c k).quiet = true) ∧
       ∀ r ∈ s.reqs, r.core ∈ s.launchCores l → (∀ q, r.user ≠ .task q) ∧ r.kind ≠ .rdmaWrite
     (l.started = false → s.launchRuns l = true → idle → l.home = none → (∀ a ∈ l.away, a.2 ≠ .asked) →
       RunsTo (.launchStart (.ours id)) s fun t =>
         (∀ c ∈ s.launchCores l,
           let y := t.strand c 0
           y.state = .run ∧ y.pc = l.entry &&& ~~~3#64 ∧ y.launch = some id ∧ y.sys.super = false ∧ y.sys.intrap = false ∧
           y.sys.spaceid = BitVec.ofNat 20 l.space ∧ y.sys.fflags = 0 ∧ y.sys.tvec = 0 ∧ y.pend = [] ∧ (∀ q, y.rgnAt q = 0) ∧
           (∀ r : Reg, y.reg r =
             if r = 2 then BitVec.ofNat 64 (l.stkbase + (4 * s.rankOf l c + 1) * l.stksz) else if r = 3 then l.gp
             else if r = 4 then BitVec.ofNat 64 (s.rankOf l c) else if r = 5 then BitVec.ofNat 64 l.ncores
             else if r = 6 then l.args else 0) ∧
           ∀ k, k ≠ 0 → t.strand c k = s.strand c k) ∧
         (∃ w ∈ t.launches, w.id = id ∧ w.started = true) ∧ (∀ c, c ∉ s.launchCores l → t.core c = s.core c) ∧ t.mem = s.mem ∧
         t.outbox = s.outbox ++ l.away.map fun a => OutMsg.launchGo a.1 id) ∧
     (l.home = none → (∃ a ∈ l.away, a.2 = .asked) → Runs (.launchStart (.ours id)) s s) ∧
     (∀ g : GuestLaunch, l.home = some (g.pkg, g.id) → s.guest g.pkg g.id = some l → l.started = false → s.launchRuns l = true → idle →
       l.away = [(g.pkg, .asked)] → RunsTo (.launchStart (.guest g)) s fun t =>
         t.outbox = s.outbox ++ [.launchReady g.pkg g.id] ∧ t.cores = s.cores ∧ ∃ w ∈ t.launches, w.id = id ∧ w.away = [(g.pkg, .ready)]) ∧
     (l.started = true → l.stopping = false → ended →
       let v : Int := match l.failure with | none => 0 | some f => -(f.cause : Int)
       (l.home = none → (∀ a ∈ l.away, a.2 = .ended) → RunsTo (.launchComplete (.ours id)) s fun t =>
         (∀ w ∈ t.launches, w.id ≠ id) ∧ t.mem = s.mem ∧ t.cores = s.cores ∧
         (∀ p ∈ s.packets, p.launch = some id → ∃ p' ∈ t.packets, p' = { p with status := some v })) ∧
       (∀ pkg n : Nat, l.home = some (pkg, n) → RunsTo (.launchComplete (.ours id)) s fun t =>
         (∀ w ∈ t.launches, w.id ≠ id) ∧ t.mem = s.mem ∧ t.cores = s.cores ∧ t.packets = s.packets ∧
         t.outbox = s.outbox ++ [.launchEnded pkg n (l.failure.map fun f => (f.cause, f.fatal))])) ∧
     (∀ pkg : Nat, l.home = none → l.away = [(pkg, .running)] → RunsTo (.launchComplete (.ended pkg id none)) s fun t =>
       t.cores = s.cores ∧ t.mem = s.mem ∧ ∃ w ∈ t.launches, w.id = id ∧ w.away = [(pkg, .ended)] ∧ w.failure = l.failure))

/-- Tier 2. Queues and packets (R403 to R411, R415, R429, R453): opening a queue clears its ring; the intake reads the packet at RIDX and
stores RIDX + 1, and a refused one leaves its cause in the header; a NOP, LAUNCH, COPY and EVENT packet do what R409 says; a packet that has
ended leaves with its completion record; a watchdog expiry stalls the queue and is reported. -/
def Obligations.QueuesAndPackets : Prop :=
  ∀ (s : State) (no : Nat) (e : QueueEntry), s.memOk → s.softErrors = [] →
    (s.queue no = none → no < 1024 → 6 ≤ e.log2sz → e.log2sz ≤ 16 → e.ring % 4096 = 0 → (e.partno = 0 ∨ (s.part e.partno).isSome = true) →
      s.touchesPort e.ring (64 + 64 * 2 ^ e.log2sz) = false → s.touchesPort (s.queueEntryKey no) 64 = false →
      RunsTo (.queueOpen no e) s fun t => t.queue no = some ⟨no, { e with state := 1 }, 0, 0⟩ ∧
        t.readNat (s.queueEntryKey no) 64 = queueEntryWord { e with state := 1 } ∧
        ∀ j, j < s.queueEntryKey no ∨ s.queueEntryKey no + 64 ≤ j → t.byte j =
          if e.ring ≤ j ∧ j < e.ring + 64 + 64 * 2 ^ e.log2sz ∧ (j < e.ring + 64 ∨ (j - e.ring) % 64 = 0) then 0 else s.byte j) ∧
    (∀ q : Queue, s.queue no = some q →
      let r := q.entry.ring
      (q.entry.state = 2 → s.touchesPort (s.queueEntryKey no) 64 = false → RunsTo (.queueOpen no e) s fun t =>
        t.queue no = some { q with entry := { q.entry with state := 1 }, unwritten := 0 } ∧
        WroteBytes s t (s.queueEntryKey no) 64 (some (queueEntryWord { q.entry with state := 1 }))) ∧
      (q.entry.state = 1 → no < 1024 → q.entry.wdog ≠ 0 → (q.entry.wdog * 1024 ≤ q.budget ∨ q.entry.wdog * 1024 ≤ q.unwritten) →
        RunsTo (.queueWatchdogExpiry no) s fun t => t.queue no = some { q with entry := { q.entry with state := 2 } } ∧
          (t.strand (256 + no / 256) 1).sys.evpend.getLsbD 5 = true) ∧
      (q.entry.state = 1 → (∀ p : Partition, s.part q.entry.partno = some p → p.st = .active ∧ p.preempt = none) →
        (s.part q.entry.partno = none → q.entry.partno = 0) → s.touchesPort r 64 = false →
        let s0 := s.takeNotify no
        let i := s0.readNat (r + 8) 8
        let x := s0.readNat (q.slotAt i) 64
        let s' := (s0.hostFence.unitNat (r + 8) 8 (i + 1)).modQueue no fun q => { q with unwritten := 0 }
        (s0.byte (q.slotAt i)).toNat = packetSeq q.entry.log2sz i → s0.poisoned (q.slotAt i) 64 = false →
        (∀ cs : List Nat, s'.packetCheck q x = .inr cs → RunsTo (.queuePacketRead no) s fun t =>
          (∃ p : Packet, t.packets = s.packets ++ [p] ∧ p.queue = no ∧ p.index = i ∧ p.bits = BitVec.ofNat 512 x ∧ p.cores = cs ∧
            p.started = false ∧ p.done = 0 ∧ p.stage = 0 ∧ s'.spaceEntry (pktSpace x) = some p.spaceOf ∧ p.launch = none ∧ p.status = none ∧
            p.event = none ∧ p.fault = none) ∧
          t.readNat (r + 8) 8 = (i + 1) % 2 ^ 64 ∧ ∀ j, j < r + 8 ∨ r + 16 ≤ j → t.byte j = s0.byte j) ∧
        (∀ cause : Nat, s'.packetCheck q x = .inl cause → pktCrec x = false → RunsTo (.queuePacketRead no) s fun t =>
          t.packets = s.packets ∧ t.readNat (r + 8) 8 = (i + 1) % 2 ^ 64 ∧ t.readNat (r + 32) 8 = i ∧ t.readNat (r + 40) 4 = cause % 2 ^ 32 ∧
          t.readNat (r + 16) 8 = min (s0.readNat (r + 16) 8 + 1) (2 ^ 64 - 1)))) ∧
    (∀ (idx : Nat) (p : Packet), s.packets[idx]? = some p →
      let x := p.bits.toNat
      let c := servingCore p.queue
      let sp := s.underSpace (pktSpace x) p.spaceOf
      let ready (kind : Nat) : Prop :=
        pktKind x = kind ∧ p.status = none ∧ p.fault = none ∧ p.event = none ∧ (p.started = true ∨ s.mayStart idx p = true)
      let becomes (p' : Packet) (t : State) : Prop := t.packets[idx]? = some p'
      (ready 0 → RunsTo (.packetNop idx) s fun t =>
        becomes { p with started := true, status := some 0 } t ∧ t.mem = s.mem ∧ t.cores = s.cores) ∧
      (∀ q : Queue, ready 1 → p.launch = none → s.queue p.queue = some q → RunsTo (.packetLaunch idx) s fun t =>
        becomes { p with launch := some s.nextLaunch } t ∧ t.nextLaunch = s.nextLaunch + 1 ∧
        ∃ l : Launch, t.launches = s.launches ++ [l] ∧ l.id = s.nextLaunch ∧ l.cores = p.cores ∧ l.ncores = p.cores.length ∧ l.started = false ∧
          l.partno = q.entry.partno ∧ l.space = pktSpace x ∧ l.entry = BitVec.ofNat 64 (bitsOf x 319 256) ∧
          l.args = BitVec.ofNat 64 (bitsOf x 383 320) ∧ l.gp = BitVec.ofNat 64 (sp.readNat q.entry.ldesc 8) ∧ l.home = none ∧
          ∀ k, (k, .asked) ∈ l.away ↔ k ≠ s.marten.values.pkg ∧ ∃ n ∈ p.cores, n / 256 = k) ∧
      (ready 2 → s.awaits c (.packet p.queue p.index) = true → Runs (.packetCopy idx) s s) ∧
      (ready 2 → s.awaits c (.packet p.queue p.index) = false → bitsOf x 295 256 ≤ p.done → RunsTo (.packetCopy idx) s (becomes { p with started := true, status := some 0 })) ∧
      (∀ src dst : List PagePart,
        let n := min 4096 (bitsOf x 295 256 - p.done)
        ready 2 → s.awaits c (.packet p.queue p.index) = false → 0 < n → p.stage = 0 → awayParts src ≠ [] →
        sp.pageChecks c (pktSpace x) true 4 accRead (pagesOf ((bitsOf x 191 128 + p.done) % 2 ^ 64) n) = .parts src →
        sp.pageChecks c (pktSpace x) true 4 accWrite (pagesOf ((bitsOf x 255 192 + p.done) % 2 ^ 64) n) = .parts dst →
        RunsTo (.packetCopy idx) s fun t => becomes { p with started := true, stage := 1 } t ∧ t.mem = s.mem) ∧
      (∀ va a m va' b m' : Nat,
        let n := min 4096 (bitsOf x 295 256 - p.done)
        ready 2 → s.awaits c (.packet p.queue p.index) = false → p.stage = 0 → 0 < n → b + n ≤ 2 ^ 64 → (a + n ≤ b ∨ b + n ≤ a) → s.touchesPort b n = false →
        sp.pageChecks c (pktSpace x) true 4 accRead (pagesOf ((bitsOf x 191 128 + p.done) % 2 ^ 64) n) = .parts [⟨va, n, some (.here a), m⟩] →
        sp.pageChecks c (pktSpace x) true 4 accWrite (pagesOf ((bitsOf x 255 192 + p.done) % 2 ^ 64) n) = .parts [⟨va', n, some (.here b), m'⟩] →
        RunsTo (.packetCopy idx) s fun t => becomes { p with started := true, done := p.done + n } t ∧
          ∀ j, t.byte j = if b ≤ j ∧ j < b + n then s.byte (a + (j - b)) else s.byte j) ∧
      (ready 3 → (s.remap.filter fun r => r.space == pktSpace x && r.vec == bitsOf x 143 128) = [] →
        RunsTo (.packetEvent idx) s (becomes { p with started := true, status := some (-(Cause.estale : Int)) })) ∧
      (∀ (r : Remap) (y : Conn), ready 3 → (s.remap.filter fun r => r.space == pktSpace x && r.vec == bitsOf x 143 128) = [r] → s.conn r.conn = some y →
        y.st = .open → y.unacked.length < 1024 →
        RunsTo (.packetEvent idx) s fun t => becomes { p with started := true, event := some (r.conn, y.txNext) } t ∧
          (t.conn r.conn).map (·.txNext) = some (y.txNext + 1) ∧
          ∃ h : BitVec 256, t.outbox = s.outbox ++ [.eqt r.conn h []] ∧ eqtOp h = 5 ∧ eqtAddr h = bitsOf x 255 192 ∧ eqtSeq h = y.txNext) ∧
      (∀ (q : Queue) (v : Int), p.status = some v → p.stage ≠ 3 → s.queue p.queue = some q →
        (pktCrec x = false → v = 0 → RunsTo (.packetComplete idx) s fun t => t.packets = s.packets.eraseIdx idx ∧ t.mem = s.mem) ∧
        (∀ k m : Nat, pktCrec x = true → pktCaddr x % 16 = 0 → s.touchesPort k 16 = false →
          sp.translate c (pktSpace x) true 0 accWrite (pktCaddr x) = .to (.here k) m →
          RunsTo (.packetComplete idx) s fun t => t.packets = s.packets.eraseIdx idx ∧
            t.readNat k 8 = (v % 2 ^ 64).toNat ∧ t.readNat (k + 8) 8 = p.index % 2 ^ 64 ∧
            ∀ j, j < k ∨ k + 16 ≤ j → t.byte j = s.byte j)))

/-! ## The host (chapter 23 and R446) -/

/-- Tier 2. The queue transport (R396 to R399): a bad frame is dropped and counted; a message in the receive window is held until its turn;
an ACK frees what it covers; the message that a NACK shows missing, and one whose time has passed, is sent again, and after 16 resends the
connection is DOWN; 2 µs after a delivery an ACK goes out. -/
def Obligations.QueueTransport : Prop :=
  ∀ (s : State) (n : Nat) (c : Conn) (h : BitVec 256) (f : Frame), s.conn n = some c →
    let ack := eqtAck h
    let bit (i : Nat) : Bool := eqtAddr h / 2 ^ i % 2 == 1
    let sentAgain (u : Unacked) (t : State) : Prop := t.outbox = s.outbox ++ [.eqt n u.hdr u.payload] ∧
      ∃ c' : Conn, t.conn n = some c' ∧ { u with sentAt := s.now, resends := u.resends + 1 } ∈ c'.unacked ∧ c'.st = c.st
    (7 ≤ s.marten.bootStep →
      (9216 < f.size ∨ f.fcsOk = false ∨ f.plainIp = false ∨ f.sumsOk = false →
        Runs (.frameReceive f) s { s with drops := { s.drops with frames := s.drops.frames + 1 } }) ∧
      (f.size ≤ 9216 → f.fcsOk = true → f.plainIp = true → f.sumsOk = true → f.mgmtVlan = false → f.udpPort = s.marten.values.eqtPort →
        ((s.conns.find? fun x => x.2.st == .open && x.2.ip == f.srcIp && x.2.port == f.srcPort) = none →
          Runs (.frameReceive f) s { s with drops := { s.drops with messages := s.drops.messages + 1 } }) ∧
        ((s.conns.find? fun x => x.2.st == .open && x.2.ip == f.srcIp && x.2.port == f.srcPort) = some (n, c) →
          (eqtOk f.hdr f.payload = false →
            Runs (.frameReceive f) s { s with drops := { s.drops with messages := s.drops.messages + 1 } }) ∧
          (eqtOk f.hdr f.payload = true → eqtOp f.hdr ≠ 6 → eqtOp f.hdr ≠ 7 → (eqtSeq f.hdr - c.rxNext).toNat < 1024 →
            (∀ m ∈ c.rxHeld, m.1 ≠ eqtSeq f.hdr) → RunsTo (.frameReceive f) s fun t =>
              ∃ c' : Conn, t.conn n = some c' ∧ c'.rxHeld = c.rxHeld ++ [(eqtSeq f.hdr, f.hdr, f.payload)] ∧ c'.rxNext = c.rxNext)))) ∧
    (c.st = .open →
      (c.unacked.length ≤ 1024 → RunsTo (.eqtAck n h) s fun t => t.outbox = s.outbox ∧
        t.conn n = some { c with unacked := c.unacked.filter fun u => !ackCovers ack u.seq }) ∧
      (∀ u : Unacked, c.unacked.length ≤ 1024 → (∀ v ∈ c.unacked, ackCovers ack v.seq = false) → u.resends < 16 →
        (c.unacked.filter fun v => (List.range 64).any fun i => v.seq == ack + BitVec.ofNat 32 i && !bit i &&
          (List.range 64).any fun j => decide (i < j) && bit j) = [u] →
        RunsTo (.eqtNack n h) s (sentAgain u)) ∧
      (∀ (u : Unacked) (q : BitVec 32), (c.unacked.take 1024).find? (·.seq == q) = some u → s.micros c.rto ≤ s.now - u.sentAt →
        (u.resends < 16 → RunsTo (.eqtRetransmit n q) s (sentAgain u)) ∧
        (16 ≤ u.resends → RunsTo (.eqtRetransmit n q) s fun t => ∃ c' : Conn, t.conn n = some c' ∧ c'.st = .down ∧ c'.unacked = [])) ∧
      (∀ d : Nat, c.ackDue = some d → d ≤ s.now → RunsTo (.eqtAckTimer n) s fun t =>
        t.conn n = some { c with sinceAck := 0, ackDue := none } ∧
        ∃ m : BitVec 256, t.outbox = s.outbox ++ [.eqt n m []] ∧ eqtOp m = 6 ∧ eqtAck m = c.rxNext ∧ eqtSeq m = 0))

/-- Tier 2. Host messages, host memory, notify lines and event ports (R97, R400 to R402, R405, R446): a WRITE stores its bytes, a READ
answers with the bytes, a FADD adds and answers with the old value, each with one RESP, and a message that a check refuses is answered with
its negative code; a response of a host writes its register; an endpoint that gives up fails its accesses; a notify sets the summary bit and
event 10. -/
def Obligations.HostMessages : Prop :=
  ∀ (s : State) (n : Nat) (c : Conn) (h : BitVec 256) (payload : List Byte) (key va m : Nat),
    let due (op : Nat) : Prop := s.conn n = some c ∧ c.st = .open ∧ c.fault = none ∧ eqtOp h = op ∧
      (c.rxNext, h, payload) ∈ c.rxHeld ∧ c.unacked.length < 1024 ∧ c.sinceAck < 63 ∧
      s.awaits 0 (.host n) = false
    let replied (addr : Nat) (status : Int) (bs : List Byte) (t : State) : Prop :=
      (∃ r : BitVec 256, t.outbox = s.outbox ++ [.eqt n r bs] ∧ eqtOp r = 8 ∧ eqtAddr r = addr ∧ eqtStatus r = (status % 2 ^ 32).toNat) ∧
      ∃ c' : Conn, t.conn n = some c' ∧ c'.rxNext = c.rxNext + 1 ∧ ∀ x ∈ c'.rxHeld, x.1 ≠ c.rxNext
    let at_ (acc len : Nat) : Prop := s.hostCheck c h acc len = .parts [⟨va, len, some (.here key), m⟩]
    let len := payload.length
    let q := eqtAddr h % 1024
    let notified (k : Nat) (t : State) : Prop := (∀ i, i < 4 → (t.strand (256 + k / 256) i).sys.evpend.getLsbD 10 = true) ∧
      t.readNat (s.marten.values.notifySummary + 8 * (k / 64)) 8 = s.readNat (s.marten.values.notifySummary + 8 * (k / 64)) 8 ||| 2 ^ (k % 64)
    (s.memOk → s.softErrors = [] →
      (due 1 → at_ accWrite len → s.touchesPort key len = false →
        RunsTo (.eqtWrite n h payload) s fun t => replied 0 0 [] t ∧
          ∀ j, t.byte j = if key ≤ j ∧ j < key + len then payload.getD (j - key) 0 else s.byte j) ∧
      (due 3 → at_ accRead (eqtStatus h) → (∀ i, i < eqtStatus h → s.poisoned (key + i) 1 = false) →
        RunsTo (.eqtRead n h payload) s fun t => replied 0 0 (s.bytes key (eqtStatus h)) t ∧ t.mem = s.mem) ∧
      (due 2 → at_ accAtomic 8 → (∀ i, i < 8 → s.poisoned (key + i) 1 = false) → s.touchesPort key 8 = false →
        RunsTo (.eqtFadd n h payload) s fun t => replied (s.readNat key 8) 0 [] t ∧
          WroteBytes s t key 8 (some ((s.readNat key 8 + leNat payload) % 2 ^ 64))) ∧
      (∀ e : Nat, s.hostCheck c h accWrite len = .refuse e → due 1 → RunsTo (.eqtWrite n h payload) s fun t =>
        replied 0 (-(e : Int)) [] t ∧ t.mem = s.mem) ∧
      (∀ x : Queue, due 4 → s.queue q = some x → x.entry.state = 1 → s.touchesPort (s.marten.values.notifySummary + 8 * (q / 64)) 8 = false →
        (x.entry.partno = c.partno → RunsTo (.eqtNotify n h payload) s fun t => notified q t ∧ replied 0 0 [] t) ∧
        (x.entry.partno ≠ c.partno → RunsTo (.eqtNotify n h payload) s fun t => replied 0 (-(Cause.protect : Int)) [] t ∧ t.mem = s.mem)) ∧
      (∀ (phys i k : Nat) (x : Queue), phys ∈ s.notified → s.marten.values.notifyPages[i]? = some k → k ≤ phys → phys < k + 4096 →
        (∀ j k' : Nat, j < i → s.marten.values.notifyPages[j]? = some k' → phys < k' ∨ k' + 4096 ≤ phys) →
        s.queue (64 * i + (phys - k) / 64) = some x → x.entry.state = 1 → 64 * i + (phys - k) / 64 < 1024 →
        s.touchesPort (s.marten.values.notifySummary + 8 * ((64 * i + (phys - k) / 64) / 64)) 8 = false →
        RunsTo (.notifyLineWrite phys) s fun t => notified (64 * i + (phys - k) / 64) t ∧
          t.notified = s.notified.erase phys ++ s.notifyLines (s.marten.values.notifySummary + 8 * ((64 * i + (phys - k) / 64) / 64)) 8) ∧
      (∀ svc : Nat, svc < 4 → svc < s.marten.values.faultRings.length → (∀ p ∈ s.ports, p.1 ≠ svc) →
        let x := s.readNat (s.port svc) 64
        let w := bitsOf x 263 256
        bitsOf x 264 264 = 1 →
        (∀ code : Nat, s.portCheck x w = some code → RunsTo (.eventPortSend svc) s fun t =>
          t.readNat (s.port svc + 38) 2 = code % 2 ^ 16 ∧ (t.byte (s.port svc + 33)).toNat % 2 = 0 ∧ t.outbox = s.outbox) ∧
        (∀ y : Conn, s.portCheck x w = none → s.conn w = some y → y.unacked.length < 1024 → RunsTo (.eventPortSend svc) s fun t =>
          t.ports = s.ports ++ [(svc, w, y.txNext)] ∧ t.mem = s.mem ∧
          ∃ r : BitVec 256, t.outbox = s.outbox ++ [.eqt w r []] ∧ eqtOp r = 5 ∧ eqtAddr r = bitsOf x 255 192 ∧ eqtSeq r = y.txNext))) ∧
    (∀ (idx : Nat) (r : Req) (data : List Byte) (d : Reg) (signed : Bool) (e : Nat),
      (s.reqs[idx]? = some r → r.endpoint = some e → r.user = .strand → r.kind ≠ .fetch → r.kind ≠ .resv → r.core < 260 → r.strand < 4 →
        (s.strand r.core r.strand).stores = [] → d ≠ 0 → r.acc.op = .load d signed →
        (∀ z ∈ s.reqs.take idx, ¬ (z.core = r.core ∧ z.strand = r.strand ∧ z.user = .strand ∧ z.endpoint = r.endpoint)) →
        RunsTo (.rdmaResponse idx data) s fun t => t.reqs = s.reqs.erase r ∧ t.mem = s.mem ∧
          let v := (r.overlay (BitVec.ofNat 64 (leNat (data.take r.acc.size)))).toNat
          (∀ z, (t.strand r.core r.strand).reg z = if z = d then extendLoad r.acc.size signed v else (s.strand r.core r.strand).reg z) ∧
          (t.strand r.core r.strand).pend = (s.strand r.core r.strand).pend.erase ⟨d, .request r.id⟩) ∧
      ((∀ z ∈ s.reqs, z.endpoint = some e → z.user = .strand ∧ z.kind ≠ .fetch ∧ z.kind ≠ .resv ∧ z.core < 260 ∧ z.strand < 4 ∧
          (s.strand z.core z.strand).stores = []) → (s.reqs.map (·.id)).Nodup →
        RunsTo (.rdmaTransportGiveUp e) s fun t => (∀ x ∈ t.endpoints, x.1 = e → x.2.up = false) ∧ t.mem = s.mem ∧
          (∀ z ∈ t.reqs, z.endpoint ≠ some e) ∧
          ∀ z ∈ s.reqs, z.endpoint = some e → z.reg.isSome = true →
            ∃ x ∈ (t.strand z.core z.strand).deferred, x = (Cause.linkFailed, 2 ^ 15, BitVec.ofNat 64 z.acc.va)) ∧
      Runs (.rdmaInboundRequest e) s { s with outbox := s.outbox ++ [.rdmaError e] })

/-! ## Links, power and Marten (chapters 26, 29 and 30) -/

/-- Tier 2. Links (R350, R463 to R472): a bad CRC is counted and replayed; a link that fails goes DOWN, and no copy stays bound to a route
over it; width changes, training, disabling and enabling move it between the states of Table 29.1; a request without response is sent again
and fails after 8 resends, or after 200 µs without a route; the link records are written and returned. -/
def Obligations.Links : Prop :=
  ∀ (s : State) (n w : Nat) (x : Link), s.links[n]? = some x →
    let me := s.marten.values.pkg
    let up : Prop := x.st = .up ∨ x.st = .degraded
    let becomes (y : Link) (t : State) : Prop := t.links[n]? = some y ∧ t.mem = s.mem
    (up → x.inRow + 1 < 16 → RunsTo (.flitCrcError n) s fun t => ∃ y : Link, t.links[n]? = some y ∧ y.st = x.st ∧
      y.crcErr = min (x.crcErr + 1) (2 ^ 32 - 1) ∧ min (x.replay + 1) (2 ^ 32 - 1) ≤ y.replay ∧ t.mem = s.mem) ∧
    (up → RunsTo (.linkDown n) s fun t =>
      (∃ y : Link, t.links[n]? = some y ∧ y.st = .down ∧ y.width = 0 ∧ y.downs = min (x.downs + 1) (2 ^ 16 - 1)) ∧
      ∀ c, c < 256 → ∀ u ∈ (t.core c).window, s.crosses u.route (me, n) = false) ∧
    (up → (trainedState n w = .up ∨ trainedState n w = .degraded) →
      RunsTo (.linkWidthChange n w) s (becomes { x with width := w, st := trainedState n w })) ∧
    (x.st = .down → RunsTo (.linkRetrain n) s (becomes { x with st := .training })) ∧
    (x.st = .training → trainedState n w ≠ .down →
      RunsTo (.linkTrainingDone n w) s (becomes { x with st := trainedState n w, width := w, inRow := 0 })) ∧
    (x.st = .training → trainedState n w = .down →
      RunsTo (.linkTrainingDone n w) s (becomes { x with st := .down, width := 0, inRow := 0, downs := min (x.downs + 1) (2 ^ 16 - 1) })) ∧
    (up → RunsTo (.linkDisable n) s (becomes { x with disabling := true })) ∧
    (x.disabling = true → s.boundTo n = false →
      RunsTo (.linkDisableDrained n) s (becomes { x with st := .disabled, disabling := false, inRow := 0 })) ∧
    (x.st = .disabled → RunsTo (.linkEnable n) s (becomes { x with st := .training })) ∧
    (up → RunsTo (.rttMeasure n w) s (becomes { x with rttNs := min w (2 ^ 16 - 1) })) ∧
    (∀ p : Nat, p ≠ me → RunsTo (.linkFailureNews p n) s fun t => (p, n) ∈ t.news ∧
      ∀ c, c < 256 → ∀ u ∈ (t.core c).window, s.crosses u.route (p, n) = false) ∧
    (∀ (idx : Nat) (r : Req) (p a : Nat), s.reqs[idx]? = some r → r.dest = .peer p a →
      let fails (t : State) : Prop := t.reqs = s.reqs.erase r ∧ t.mem = s.mem ∧
        (t.strand r.core r.strand).deferred =
          (s.strand r.core r.strand).deferred ++ [(Cause.linkFailed, 2 ^ 15, BitVec.ofNat 64 r.acc.va)] ∧
        (t.strand r.core r.strand).regs = (s.strand r.core r.strand).regs
      let waited : Prop := r.user = .strand ∧ r.kind = .load ∧ r.reg.isSome = true ∧ r.core < 260 ∧ r.strand < 4 ∧
        (s.strand r.core r.strand).stores = []
      (r.sentAt + s.micros 50 ≤ s.now → r.resends < 8 →
        let r' := { r with resends := r.resends + 1, sentAt := s.now }
        Runs (.requestResend idx) s { s with reqs := s.reqs.set idx r', outbox := s.outbox ++ s.again r' } ∧
          (r.kind = .load → s.again r' = [.request r'])) ∧
      (r.sentAt + s.micros 50 ≤ s.now → 8 ≤ r.resends → waited → RunsTo (.requestResend idx) s fails) ∧
      (s.reachable p = false → r.sentAt + s.micros 200 ≤ s.now → waited → RunsTo (.noRouteTimeout idx) s fails)) ∧
    (s.memOk → 6 ≤ s.marten.bootStep →
      RunsTo .linkRecordUpdate s fun t => t.byte (s.marten.values.linkRecords + 64 * n) = BitVec.ofNat 8 x.st.code ∧
        ∀ j, j < s.marten.values.linkRecords ∨ s.marten.values.linkRecords + 64 * s.links.length ≤ j → t.byte j = s.byte j) ∧
    (7 ≤ s.marten.bootStep → Runs .linkRecordRequest s
      { s with outbox := s.outbox ++ [.management (s.bytes s.marten.values.linkRecords 6144)] })

/-- Tier 2. Scrubbing, power and Marten (R432 to R438, R473, R477 to R482): a scrub corrects or poisons what it finds; the forecast
registers count active cores; the power manager takes the highest clock that the cap allows; a trip, a cap, heat and a shutdown do as their
rules say; a package reset boots as far as its images are accepted; telemetry and attestation answer on the management VLAN. -/
def Obligations.PowerAndMarten : Prop :=
  ∀ (s : State) (n core die : Nat) (x : Sensors),
    let p := s.power
    let found (bad : Bool) (w : Nat) (t : State) : Prop := t.softErrors = [] ∧ t.mem = s.mem ∧
      (∀ v : Nat, v ∈ t.poison ↔ v ∈ s.poison ∨ (bad = true ∧ v = w)) ∧
      t.power = if bad then { p with uecnt := min (p.uecnt + 1) (2 ^ 32 - 1) } else { p with cecnt := p.cecnt + 1, uecnt := min p.uecnt (2 ^ 32 - 1) }
    (∀ (bad : Bool) (w : Nat), s.softErrors = [(w, bad)] →
      (isDevice (64 * n) = true → reservedPa (64 * n) = false → w / 8 = n → RunsTo (.memoryScrub n) s (found bad w)) ∧
      (core < 256 → n < 2 ^ 18 → w = spBase core / 8 + n → RunsTo (.scratchpadScrub core n) s (found bad w))) ∧
    (∀ r : BitVec 64, p.forecast[die]? = some r → RunsTo (.forecastUpdate die) s fun t => ∃ y : BitVec 64, t.power.forecast[die]? = some y ∧
      bitsOf y.toNat 6 0 = s.activeCores die .mat ∧ bitsOf y.toNat 13 7 = s.activeCores die .vec ∧
      bitsOf y.toNat 20 14 = s.activeCores die .xp ∧ bitsOf y.toNat 27 21 = s.activeCores die .cpy ∧
      bitsOf y.toNat 34 28 = s.activeCores die .row ∧ bitsOf y.toNat 41 35 = s.activeShips die ∧
      bitsOf y.toNat 63 48 = (bitsOf r.toNat 63 48 + 1) % 2 ^ 16) ∧
    (∀ f : Nat, p.hotDies x = [] → p.tripped = false → f ≤ 1100 → f % 50 = 0 → p.allows (1000 + f) = true →
      (∀ g : Nat, f < g → g ≤ 1100 → g % 50 = 0 → p.allows (1000 + g) = false) →
      RunsTo (.clockSelect x) s fun t => t.power.freq = 1000 + f ∧ t.power.pwr = x.power % 2 ^ 16) ∧
    (p.hotDies x ≠ [] → RunsTo (.clockSelect x) s (fun t => t.power.freq ≤ p.freq) ∧
      RunsTo (.thermalThrottle x) s (fun t => t.power.freq = max 1000 (p.freq - 50))) ∧
    (p.cap < n → Runs (.powerTrip n) s { s with power := { p with pwr := n % 2 ^ 16, freq := 1000, tripped := true } }) ∧
    (1000 ≤ n → n ≤ 3200 → Runs (.capSet n) s { s with power := { p with cap := n } }) ∧
    ((∃ d ∈ x.dies, 1150 ≤ d) → RunsTo (.thermalShutdown x) s fun t => t.power.on = false) ∧
    (7 ≤ s.marten.bootStep →
      (RunsTo .telemetryRequest s fun t => ∃ bs : List Byte, t.outbox = s.outbox ++ [.management bs] ∧ t.mem = s.mem ∧
        leNat (bs.take 64) = p.record % 2 ^ 512) ∧
      (∀ nonce : BitVec 256, RunsTo (.attestationRequest nonce) s fun t => ∃ bs : List Byte, t.outbox = s.outbox ++ [.management bs] ∧
        leNat (bs.take 32) = nonce.toNat ∧ t.marten.count = (s.marten.count + 1) % 2 ^ 64 ∧ t.mem = s.mem)) ∧
    (∀ b : BootInput,
      (BootInput.accepts b 1 b.copyA = false → BootInput.accepts b 1 b.copyB = false → RunsTo (.packageReset b) s fun t =>
        t.marten.bootStep = 1 ∧ t.now = 0 ∧ (∀ c k, (t.strand c k).state = .idle) ∧ ∀ j, isDevice j = false → t.byte j = 0) ∧
      (∀ f : FwImage, (f = if BootInput.accepts b 1 b.copyA then b.copyA else b.copyB) → BootInput.accepts b 1 f = true →
        RunsTo (.packageReset b) s fun t => 2 ≤ t.marten.bootStep ∧
          t.marten.m[0]? = some (sha512 (List.replicate 64 0 ++ FwImage.digest f)) ∧ t.marten.svn[0]? = some (FwImage.svn f)) ∧
      (∀ f : FwImage, (f = if BootInput.accepts b 1 b.copyA then b.copyA else b.copyB) → BootInput.accepts b 1 f = true →
        b.configOk = true → BootValues.inRange b.values = true → b.memoryOk = true → BootInput.accepts b 2 b.service = true →
        BootInput.accepts b 3 b.phy = true → b.cabledPkg = b.values.pkg →
        RunsTo (.packageReset b) s fun t => t.marten.bootStep = 8 ∧ t.marten.values = b.values ∧
          ∀ c, 256 ≤ c → c < 260 → (t.strand c 0).state = .run ∧ (t.strand c 0).sys.super = true))

/-! ## Returns, faults, moves and invalidation -/

/-- Tier 2. What comes back (R42, R94, R101, R124, R168, R199): a result within its latency, a load, the response to a request, the
acknowledgement of a stream's stores and an arrival at a hierarchical barrier each have the effect of their rule and no other. -/
def Obligations.Returns : Prop :=
  ∀ (s : State) (c k idx pkg id : Nat) (d : Reg) (acked : BitVec 32) (refused : List (BitVec 32 × Nat)),
    let y := s.strand c k
    (c < 260 → k < 4 →
      (∀ p : Pend, y.pendOf d = some p → (p.kind = .latency ∨ p.kind = .divider) → RunsTo (.pendingResultWritten c k d.toNat) s fun t =>
        t.strand c k = { y with pend := y.pend.erase p } ∧ t.mem = s.mem ∧
        ∀ c' k', ¬ (c' = c ∧ k' = k) → t.strand c' k' = s.strand c' k') ∧
      (∀ (p : Pend) (a : Acc) (e : Dest) (v : Reply), y.pendOf d = some p → p.kind = .load a e false → RunsTo (.loadReturn c k d.toNat v) s fun t =>
        t.strand c k = { y with pend := y.pend.erase p } ∧ t.mem = s.mem) ∧
      (∀ (p : Pend) (r : Req) (signed : Bool), y.pendOf d = some p → p.kind = .request id → d ≠ 0 → r.acc.op = .load d signed → r.core = c → r.strand = k →
        r.user = .strand → y.stores = [] → (s.reqs.find? fun r => r.id == id && (r.kind == .load || r.kind == .atomic)) = some r →
        (∀ v : Word, RunsTo (.loadReturn c k d.toNat (.data v)) s fun t => t.reqs = s.reqs.erase r ∧ t.mem = s.mem ∧
          (t.strand c k).pend = y.pend.erase p ∧
          ∀ z, (t.strand c k).reg z = if z = d then extendLoad r.acc.size signed (r.overlay v).toNat else y.reg z) ∧
        (∀ cause : Nat, RunsTo (.loadReturn c k d.toNat (.failed cause)) s fun t => t.reqs = s.reqs.erase r ∧ t.mem = s.mem ∧
          t.strand c k = { y with pend := y.pend.erase p, deferred := y.deferred ++ [(cause, 2 ^ 15, BitVec.ofNat 64 r.acc.va)] })) ∧
      (let x := y.stream pkg
       pkg ≠ s.marten.values.pkg → x.lost = false → seqWithin x.acked x.sent acked = true →
        (∀ b ∈ y.stores, b.sent = true ∨ ∃ key, b.dest = some (.here key)) →
        RunsTo (.remoteStoreAck c k pkg ⟨acked, refused⟩) s fun t =>
          (t.strand c k).stream pkg = { x with acked := acked } ∧ (t.strand c k).regs = y.regs ∧ t.mem = s.mem ∧
          (t.strand c k).stores = y.stores.filter (fun b => !b.inStream pkg x.acked acked) ∧
          (refused = [] → (t.strand c k).deferred = y.deferred) ∧
          ∀ b ∈ y.stores, ∀ cause : Nat, b.inStream pkg x.acked acked = true → b.acc.pc.toNat % 2 = 0 →
            refused.find? (·.1 == b.streamSeq) = some (b.streamSeq, cause) →
            (cause, 2 ^ 15, BitVec.ofNat 64 b.acc.va) ∈ (t.strand c k).deferred)) ∧
    (∀ a : Arrival, s.arrivals[idx]? = some a → (∀ x ∈ s.arrivals.take idx, x.follows a = false) →
      let b := s.bar a.scope a.inst a.id
      (a.expect = none → b.failed = none → RunsTo (.barrierArrival (.sent idx)) s fun t =>
        let b' := t.bar a.scope a.inst a.id
        t.arrivals = s.arrivals.eraseIdx idx ∧ t.mem = s.mem ∧ b'.expect = b.expect ∧ b'.failed = none ∧
        (if b.count + 1 = b.expect then b'.count = 0 ∧ b'.phase = b.phase + 1 else b'.count = b.count + 1 ∧ b'.phase = b.phase)) ∧
      (∀ n : Nat, a.expect = some n → RunsTo (.barrierArrival (.sent idx)) s fun t =>
        let b' := t.bar a.scope a.inst a.id
        t.arrivals = s.arrivals.eraseIdx idx ∧ t.mem = s.mem ∧ b'.expect = n ∧ b'.count = 0 ∧ b'.phase = b.phase ∧ b'.failed = none)) ∧
    (∀ (scope n who pl : Nat), s.mayArrive scope who = true →
      let b := s.bar scope (s.instOf 0 scope) n
      b.failed = none → RunsTo (.barrierArrival (.outside scope n who pl)) s fun t =>
        let b' := t.bar scope (s.instOf 0 scope) n
        t.cores = s.cores ∧ t.mem = s.mem ∧ b'.expect = b.expect ∧
        (if b.count + 1 = b.expect then b'.count = 0 ∧ b'.phase = b.phase + 1 else b'.count = b.count + 1 ∧ b'.phase = b.phase))

/-- Tier 2. Fault rings and dispositions (R101, R104, R416 to R419): a fault is recorded at the next place of its die's ring with event 7; a
RETRY lets a suspended task go back to READY and a strand fetch again; any other disposition fails what the fault held with XLATE. Moving
pages and invalidation (R96, R413, R444): a page whose counter has passed its threshold moves to a free granule, and without one its counter
is cleared; when its bytes have come the granule holds them and the leaf is committed there, and becomes DIRECT at every other package that
maps it; an invalidation drops the held translations that its word names and clears the word. -/
def Obligations.FaultsAndMoves : Prop :=
  (∀ (s : State) (idx die slot : Nat) (f : OpenFault),
     let recorded (t : State) : Prop :=
       let n := s.fids.getD f.die 0
       let x := t.readNat (s.recordPlace f.die n) 64
       t.fids = s.fids.set f.die (n + 1) ∧ x = s.faultRecord f n ∧ bitsOf x 7 0 = 1 + n / 256 % 255 ∧ bitsOf x 157 155 = f.kind % 8 ∧
       bitsOf x 319 256 = (n + 1) % 2 ^ 64 ∧ (∃ g ∈ t.faults, g.fid = f.fid ∧ g.recNo = some n) ∧
       (t.strand (256 + f.die) 0).sys.evpend.getLsbD 7 = true ∧
       ∀ j, j < s.recordPlace f.die n ∨ s.recordPlace f.die n + 64 ≤ j → t.byte j = s.byte j
     (s.memOk → f.die < 4 → f.recNo = none → (∀ g ∈ s.faults, g.die = f.die → 256 ≤ s.fids.getD f.die 0 → g.recNo ≠ some (s.fids.getD f.die 0 - 256)) →
       (s.faults[idx]? = some f → RunsTo (.resolvableFault idx) s recorded) ∧
       ((s.faults.find? fun g => g.die == die && g.recNo.isNone) = some f → RunsTo (.heldFaultRecord die) s recorded)) ∧
     (s.disposed die slot = some f →
       (f.isRetry = true →
         (∀ (c : Nat) (q : BitVec 32) (u : Task), f.holder = .task c q → s.suspended c q f = some u → (∀ e a : Word, u.cmd ≠ .vrun e a ∨ u.stored = false) →
           RunsTo (.dispRetry die slot) s fun t => t.faults = s.faults.erase f ∧ t.mem = s.mem ∧
             ∃ w ∈ (t.core c).window, w = { u with state := .ready, fault := none, waited := 0, age := 0 }) ∧
         (∀ c k : Nat, c < 260 → k < 4 → f.holder = .fetch c k → s.standsAt c k f = true → RunsTo (.dispRetry die slot) s fun t =>
           t.faults = s.faults.erase f ∧ t.mem = s.mem ∧
           t.strand c k = { s.strand c k with state := .run, reason := 0, obj := 0, waited := 0 })) ∧
       (f.isRetry = false →
         (∀ (c : Nat) (q : BitVec 32) (u : Task), f.holder = .task c q → s.suspended c q f = some u → RunsTo (.dispRefuse die slot) s fun t =>
           t.faults.length < s.faults.length ∧ Ended s t c u (-(Cause.xlate : Int))) ∧
         (∀ c k : Nat, c < 260 → k < 4 → f.holder = .fetch c k → s.standsAt c k f = true → (s.strand c k).sys.tvec ≠ 0 →
           (s.strand c k).sys.intrap = false → RunsTo (.dispRefuse die slot) s fun t =>
             let y := t.strand c k
             t.faults = s.faults.erase f ∧ y.pc = (s.strand c k).sys.tvec &&& ~~~3#64 ∧ y.sys.epc = (s.strand c k).pc ∧
             bitsOf y.sys.ecause.toNat 7 0 = Cause.xlate ∧ y.sys.eval = BitVec.ofNat 64 f.va ∧ y.sys.intrap = true ∧ y.state = .run)))) ∧
  (∀ (s : State) (space page g svc n other : Nat) (l : Leaf) (bytes : List Byte), s.pageLeaf space page = some l →
     let me := s.marten.values.pkg
     ((∀ m ∈ s.moving, ¬ (m.space = space ∧ m.page = page)) → g % 65536 = 0 →
       (leafMode l.bits = 4 → migThreshold (leafClass l.bits) = some n → n < s.migCount space page →
         (∀ a : Nat, s.stage2 0 l.partno g = .pa a →
           Runs (.migrationStart space page ⟨some g, me⟩) s { s with moving := s.moving ++ [⟨space, page, g, me, none⟩] }) ∧
         RunsTo (.migrationStart space page ⟨none, me⟩) s fun t => t.migCount space page = 0 ∧ t.moving = s.moving ∧ t.mem = s.mem) ∧
       (∀ p : Partition, other ≠ me → other / 32 = me / 32 → s.part l.partno = some p → other ∈ p.packages → leafMode l.bits ≤ 4 →
         Runs (.migrationStart space page ⟨some g, other⟩) s { s with moving := s.moving ++ [⟨space, page, g, other, l.home⟩] })) ∧
     (∀ (m : Moving) (mover : Nat), (s.moving.find? fun m => m.space == space && m.page == page && m.mover == mover) = some m →
       s.memOk → s.faults = [] → (∀ c, (s.core c).traceHeld = []) → m.granule % 65536 = 0 → m.granule < 2 ^ 48 →
       s.touchesPort l.place 8 = false →
       let moved (peer mode : Nat) (t : State) : Prop :=
         let e := t.readNat l.place 8
         leafMode e = mode ∧ leafC e = true ∧ leafOut e = m.granule ∧ leafPeer e = peer ∧ e % 64 = l.bits % 64 ∧ m ∉ t.moving ∧
           t.migCount space page = 0
       (∀ k : Nat, mover = me → s.stage2 0 l.partno m.granule = .pa k → bytes.length = 65536 → (l.place + 8 ≤ k ∨ k + 65536 ≤ l.place) →
         s.touchesPort k 65536 = false → RunsTo (.migrationComplete space page ⟨bytes, mover⟩) s fun t => moved 0 0 t ∧
           ∀ j, j < l.place ∨ l.place + 8 ≤ j → t.byte j = if k ≤ j ∧ j < k + 65536 then bytes.getD (j - k) 0 else s.byte j) ∧
       (mover ≠ me → RunsTo (.migrationComplete space page ⟨bytes, mover⟩) s fun t => moved (mover % 2 ^ 15) 2 t ∧
         (∀ p i : Nat, m.home = some (p, i) → ⟨p, i, mover, m.granule / 65536⟩ ∈ t.moved) ∧
         ∀ j, j < l.place ∨ l.place + 8 ≤ j → t.byte j = s.byte j)) ∧
     (let w := s.readNat (s.invWord svc) 8
      let clears (stale : TlbEntry → Bool) (t : State) : Prop :=
        t.tlb = s.tlb.filter (fun e => !stale e) ∧ t.readNat (s.invWord svc) 8 = 0 ∧
        ∀ j, j < s.invWord svc ∨ s.invWord svc + 8 ≤ j → t.byte j = s.byte j
      svc < 4 → svc < s.marten.values.faultRings.length → s.memOk → (∀ r ∈ s.reqs, r.user = .strand ∧ r.kind ≠ .fetch) → bitsOf w 63 38 = 0 →
       (bitsOf w 37 36 = 1 → (∀ c k, c < 260 → k < 4 → (s.strand c k).sys.spaceid.toNat = bitsOf w 19 0 → (s.strand c k).underWay = false) →
         RunsTo (.invalidateSpace svc) s (clears fun e => e.space == bitsOf w 19 0)) ∧
       (bitsOf w 37 36 = 2 → (∀ c k, c < 260 → k < 4 → (s.core c).partno = bitsOf w 35 20 → (s.strand c k).underWay = false) →
         RunsTo (.invalidatePartition svc) s (clears fun e => e.partno == bitsOf w 35 20)) ∧
       (bitsOf w 37 36 = 3 → (∀ c k, c < 260 → k < 4 → (s.strand c k).underWay = false) →
         RunsTo (.invalidateAll svc) s (clears fun _ => true))))

/-! ## Copies, remote posts and landing zones -/

/-- Tier 2. Copies (R104, R123, R237 to R239): the next chunk of an issued copy writes its bytes, a later element's over an earlier one's,
and is counted, and what it reads at other packages and hosts is asked for first; after the last one the arrival is made at the copy's
barrier, or without a barrier the copy completes; the reply ends it. Slots at the receiver (R205, R238, R342 to R345, Table 17.4): a chunk
is written into its slot and credited; the arrival after the last chunk makes the slot FULL and is answered 0; too many or too few bytes, a
failure report and the end of a lease make it FAILED with their codes, and its barrier with it. -/
def Obligations.CopiesAndSlots : Prop :=
  (∀ (s : State) (c : Nat) (q : BitVec 32) (u : Task), (s.core c).task q = some u → u.state = .issued →
     (∀ (bits : BitVec 1024) (p : Nat × Option Nat), u.map = some bits → u.cmd.copy = some p → u.cmd.resv = none → u.arrivalSent = false → u.reply = none →
       s.awaits c (.task q) = false →
       let m : Tmap := bits.toNat
       let u' : Task := { u with readTick := s.tick }
       (u.chunk m = [] → u.bar = none → RunsTo (.copyChunkDone c q) s fun t => Ended s t c u 0 ∧ t.mem = s.mem) ∧
       (∀ k : Nat, u.chunk m = [] → u.bar = some k → s.frozenAt (.here k) = false → RunsTo (.copyChunkDone c q) s fun t =>
         let a := (s.tbRelease k (s.copyLate c u k)).tbUpdate k .arrive 0 (s.identity c) 4 u.seq.toNat u.pl
         t.mem = a.1.mem ∧ ∃ w ∈ (t.core c).window, w = { u with arrivalSent := true, reply := some (-(a.2 : Int)) }) ∧
       (∀ r : CopyRun, u.chunk m ≠ [] → u.stage = 0 → s.softErrors = [] → s.copyElems c u' m (u.chunk m) ⟨[], [], [], [], []⟩ = (r, .done) →
         (r.reads ≠ [] → RunsTo (.copyChunkDone c q) s fun t => t.mem = s.mem ∧ ∃ w ∈ (t.core c).window, w = { u' with stage := 1 }) ∧
         (r.reads = [] → r.away = [] → s.memOk → (∀ x ∈ r.cells, s.portHolds x.1 = false) → u.bar = none →
           Task.chunk { u with chunks := u.chunks + 1 } m ≠ [] →
           RunsTo (.copyChunkDone c q) s fun t =>
             (∃ w ∈ (t.core c).window, w = { u with chunks := u.chunks + 1, stage := 0, olds := w.olds }) ∧
             ∀ j, t.byte j = match r.cells.find? (·.1 == j) with | some x => x.2.1 | none => s.byte j) ∧
         (r.reads = [] → r.away ≠ [] → RunsTo (.copyChunkDone c q) s fun t =>
           ∃ w ∈ (t.core c).window, w.seq = u.seq ∧ w.stage = 2 ∧ w.chunks = u.chunks ∧ w.state = .issued))) ∧
     (u.reply = some 0 → RunsTo (.copyArrivalReply c q 0) s (Ended s · c u 0)) ∧
     (∀ e : Nat, 0 < e → u.reply = some (-(e : Int)) → RunsTo (.copyArrivalReply c q (-(e : Int))) s (Ended s · c u (-(e : Int))))) ∧
  (∀ (s : State) (c z i : Nat),
     let y := (s.core c).zone z
     let x := y.slot i
     let bar := y.barKey c i
     let base := y.slotKey c i
     let after (t : State) : Slot := ((t.core c).zone z).slot i
     let failed (code : Nat) (t : State) : Prop := (after t).st = .failed ∧ (after t).code = code ∧
       tbStatus (t.tb bar) = 1 ∧ tbFcode (t.tb bar) = code % 256 ∧ ∀ j, j < bar ∨ bar + 32 ≤ j → t.byte j = s.byte j
     let isOpen : Prop := y.active = true ∧ x.isOpen = true ∧ (s.core c).frozen = false
     s.memOk → s.touchesPort bar 32 = false →
     (isOpen → y.lease ≤ x.lease → RunsTo (.slotLeaseExpiry c z i) s (failed Cause.estale)) ∧
     (∀ (resv : Word) (code : Nat), OutMsg.cprFailure resv code ∈ s.outbox → resvCore resv / 256 = s.marten.values.pkg → s.slotOf resv = .inl (c, z, i) →
       RunsTo (.cprFailureReport resv code) s (failed code)) ∧
     (∀ k : CprChunk, k.who < 2 ^ 23 → k.who / 256 = s.marten.values.pkg → OutMsg.chunk k ∈ s.outbox → resvCore k.resv / 256 = s.marten.values.pkg →
       (∀ p ∈ k.bytes, p.1 < resvSize k.resv) → s.slotOf k.resv = .inl (c, z, i) →
       (x.rbytes < x.rcvd + k.bytes.length → RunsTo (.cprChunkArrival k) s (failed Cause.regionEscape)) ∧
       (x.rcvd + k.bytes.length ≤ x.rbytes → (∀ p ∈ k.bytes, s.tagged (base + p.1) 1 = false ∧ s.portHolds (base + p.1) = false) →
         RunsTo (.cprChunkArrival k) s fun t =>
           (after t).st = .landing ∧ (after t).rcvd = x.rcvd + k.bytes.length ∧ (after t).lease = 0 ∧ (after t).gen = x.gen ∧
           (∀ j, j < bar ∨ bar + 32 ≤ j → t.byte j = match k.bytes.reverse.find? (fun p => base + p.1 == j) with
             | some p => p.2
             | none => s.byte j) ∧
           (s.isLive bar = true → tbStatus (s.tb bar) ≠ 1 → k.bytes.length < 2 ^ 39 → -(2 ^ 39 : Int) ≤ tbPbytes (s.tb bar) - k.bytes.length →
             tbPbytes (t.tb bar) = tbPbytes (s.tb bar) - k.bytes.length))) ∧
     (∀ a : CprArrival, a.who < 2 ^ 23 → a.who / 256 = s.marten.values.pkg → OutMsg.cprArrival a ∈ s.outbox → resvCore a.resv / 256 = s.marten.values.pkg →
       s.chunkUnderWay a.who a.seq = false → s.slotOf a.resv = .inl (c, z, i) →
       let replied (code : Int) (t : State) : Prop := ∀ (w : Nat) (u : Task), s.coreOfIdentity a.who = some w → u ∈ (s.core w).window → u.seq = a.seq →
         u.reply = none → ∃ u' ∈ (t.core w).window, u'.seq = u.seq ∧ u'.reply = some code ∧ u'.cmd = u.cmd ∧ u'.state = u.state
       (x.rcvd ≠ x.rbytes → RunsTo (.cprArrival a) s fun t => failed Cause.regionEscape t ∧ replied (-(Cause.regionEscape : Int)) t) ∧
       (x.rcvd = x.rbytes → (s.tbUpdate bar .arrive 0 a.who 4 a.seq.toNat a.pl).2 = 0 → RunsTo (.cprArrival a) s fun t =>
         (after t).st = .full ∧ (after t).rcvd = x.rcvd ∧ replied 0 t)))

/-- Tier 2. Remote posting (R74 to R78, R242 to R245, R289): a busy post is sent again with the task of its descriptor; an open intake with
room takes a post and answers 0, a full one answers busy, and any other answers ESTALE; admission gives the post a window entry and sets
event 9; the answer ends the posting task or sends it back to READY; a report reaches its entry, or counts in RPFAIL. -/
def Obligations.RemotePosting : Prop :=
  ∀ (s : State) (c : Nat) (q : BitVec 32) (u : Task) (h desc : Word) (tag : Option Word) (rcnt wcnt : Nat),
    let x := s.core c
    let posts : Prop := u.cmd = .rpost h desc tag rcnt wcnt
    (∀ n k mode : Nat,
      let d := s.seenNat (.engine c) k 32
      let vals : List Word := [BitVec.ofNat 64 (d / 2 ^ 64), BitVec.ofNat 64 (d / 2 ^ 128), BitVec.ofNat 64 (d / 2 ^ 192)]
      let g : BitVec 16 := match tag with | some v => v.setWidth 16 | none => 0
      x.freeUnit .cpy = some n → x.chosen .cpy = some u → x.task u.seq = some u → posts → u.waited = 0 →
      s.awaits c (.task u.seq) = false → handlePkg h / 32 < s.marten.values.ngroups → desc.toNat % 32 = 0 → s.softErrors = [] →
      s.copyTranslate c u accRead desc.toNat = .to (.here k) mode → (∀ i, i < 32 → s.poisoned (k + i) 1 = false) →
      (postCmd (bitsOf d 31 0) (bitsOf d 63 32) vals rcnt wcnt).isSome = true →
      (tag.isSome = true → g ≠ 0 ∧ (∀ r ∈ x.reports, r.tag ≠ g) ∧ x.reports.length < 64) →
      RunsTo (.remotePostRetry c u.seq) s fun t =>
        (∃ p : RemotePost, t.outbox = s.outbox ++ [.post p u.seq] ∧ p.handle = h ∧ p.who = s.identity c ∧ p.partno = x.partno ∧ p.tag = g ∧
          p.seq = u.seq ∧ p.c0 = BitVec.ofNat 32 d ∧ p.c1 = BitVec.ofNat 32 (d / 2 ^ 32) ∧ p.vals = vals ∧
          p.reads = (u.ops.filter (·.pos < 4)).map (·.rgn) ∧ p.writes = (u.ops.filter (4 ≤ ·.pos)).map (·.rgn)) ∧
        (∃ w ∈ (t.core c).window, w = { u with state := .issued, inst := some n, waited := 0, stage := 0, sent := true }) ∧
        (t.core c).reports = x.reports ++ if tag.isSome then [(⟨g, u.seq, none⟩ : Report)] else []) ∧
    (∀ p : RemotePost,
      let w := handleCore p.handle
      let i := handleIntake p.handle
      let y := (s.core w).intakes.toList.getD i ⟨.closed, 0, []⟩
      let valid : Prop := p.handle.toNat / 2 ^ 33 = 0 ∧ y.st = .open ∧ y.gen = bitsOf p.handle.toNat 32 25 ∧ (s.core w).partno ≠ 0 ∧
        p.partno = (s.core w).partno
      let answered (es : List RemotePost) (code : Int) (t : State) : Prop :=
        ((t.core w).intakes.toList.getD i ⟨.closed, 0, []⟩).entries = es ∧ t.mem = s.mem ∧
        t.outbox = s.outbox.erase (.post p p.seq) ++ [.postAnswer p.who p.seq code]
      p.who / 256 = s.marten.values.pkg → handlePkg p.handle = s.marten.values.pkg → OutMsg.post p p.seq ∈ s.outbox → s.savedCore p = none →
        (valid → y.entries.length < 32 → RunsTo (.remotePostArrival p) s (answered (y.entries ++ [p]) 0)) ∧
        (valid → 32 ≤ y.entries.length → RunsTo (.remotePostArrival p) s (answered y.entries 1)) ∧
        (y.st ≠ .swapped → ¬ valid → RunsTo (.remotePostArrival p) s (answered y.entries (-(Cause.estale : Int))))) ∧
    (∀ (n : Nat) (p : RemotePost) (cmd : Cmd), x.nextIntake = some (n, p) → x.mayTake 4 = true →
      postCmd p.c0.toNat p.c1.toNat p.vals p.reads.length p.writes.length = some cmd →
      let u0 := newTask x.nextSeq (.remote p.who p.tag) 0 (bitsOf p.c0.toNat 17 16) cmd (postOperands p) ⟨p.who, 4, p.seq.toNat, p.pl, s.now⟩ 8
      x.operandsOk u0 = true → x.bindProblem u0 = none → RunsTo (.intakeAdmit c) s fun t =>
        (∃ w : Task, (t.core c).window = x.window ++ [w] ∧ w.seq = x.nextSeq ∧ w.owner = .remote p.who p.tag ∧ w.cmd = cmd ∧
          w.pri = bitsOf p.c0.toNat 17 16 ∧ w.state = .posted) ∧ (t.core c).nextSeq = x.nextSeq + 1 ∧
        ((t.core c).intakes.toList.getD n ⟨.closed, 0, []⟩).entries = (x.intakes.toList.getD n ⟨.closed, 0, []⟩).entries.tail ∧
        ∀ k, k < 4 → (x.strand k).state ≠ .idle → (t.strand c k).sys.evpend.getLsbD 9 = true) ∧
    (x.task q = some u → u.state = .issued → u.sent = true → posts → handlePkg h = s.marten.values.pkg →
      (OutMsg.postAnswer (s.identity c) q 0 ∈ s.outbox → RunsTo (.postAnswerArrival c q 0) s (Ended s · c u 0)) ∧
      (∀ e : Nat, e = Cause.estale ∨ e = Cause.linkFailed → OutMsg.postAnswer (s.identity c) q (-(e : Int)) ∈ s.outbox →
        RunsTo (.postAnswerArrival c q (-(e : Int))) s fun t => Ended s t c u (-(e : Int)) ∧
          ∀ g : BitVec 16, u.tagHeld = some g → ∀ r ∈ (t.core c).reports, r.tag ≠ g) ∧
      (OutMsg.postAnswer (s.identity c) q 1 ∈ s.outbox → RunsTo (.postAnswerArrival c q 1) s fun t =>
        ∃ w ∈ (t.core c).window, w = { u with state := .ready, inst := none, sent := false, retry := 1024, age := 0, waited := 0 })) ∧
    (∀ status : Int,
      (∀ r ∈ x.reports, r.status = none → RunsTo (.remoteReport c (some r.tag) status) s fun t =>
        { r with status := some status } ∈ (t.core c).reports) ∧
      (c < 260 → RunsTo (.remoteReport c none status) s fun t => (t.core c).rpfail = if x.rpfail = BitVec.allOnes 64 then x.rpfail else x.rpfail + 1))

/-! ## Grids, the debugger, and partitions -/

/-- Tier 2. The halo engine (R322, R323, R326 to R331, Table 16.6): a marker whose writers have retired declares its step to the entry's
peers and, on a step of the grid's depth, starts its shipments and fills; a declared step is kept; a shipment takes its credit, reads its
cells and lands them with the region's stamp, or is refused and counted; a fill writes its constant or only stamps; a notice fails the
entry. -/
def Obligations.GridEvents : Prop :=
  ∀ (s : State) (c n : Nat), c < 260 → n < 4 →
    let g := (s.core c).grid n
    let after (t : State) : Grid := (t.core c).grid n
    (∀ (m : Marker) (rest : List Marker), g.markers = m :: rest → m.waits = [] → RunsTo (.gridMarkerRetire c n) s fun t =>
      let due : Bool := m.step.toNat % g.depth == 0
      (after t).markers = rest ∧ (after t).declared = m.step ∧ t.mem = s.mem ∧
      t.outbox = s.outbox ++ (g.peers.filter fun p => p.2 != s.identity c).map (fun p => OutMsg.declared (s.identity c) p.2 n m.step g.nf) ∧
      (g.st = .active → m.failed = true → (after t).st = .failed ∧ (after t).code = Cause.producerFailed) ∧
      t.fills = s.fills ++ (if due && !m.failed then g.fillsOf c n m else []) ∧
      (m.failed = false → (after t).st = g.st ∧ t.ships = s.ships ++ (if due then (g.shipments c n m).mapIdx fun j h =>
        { h with num := s.nextShip + j, since := s.tick, st := if g.st = .active then .credit else .notice } else []))) ∧
    (∀ (who : Nat) (d : BitVec 32) (nf : Nat),
      let first := s.outbox.find? fun m => match m with
        | .declared w c' n' _ _ => w == who && c' == s.identity c && n' == n
        | _ => false
      (first = some (OutMsg.declared who (s.identity c) n d nf) ∨ first = none ∧ who / 256 ≠ s.marten.values.pkg) →
      RunsTo (.declaredStepArrival c n who d nf) s fun t => (after t).st = g.st ∧ t.mem = s.mem ∧
        (after t).peerSteps.find? (·.1 == who) = if newsOf g.peerSteps who d then some (who, d, nf) else g.peerSteps.find? (·.1 == who)) ∧
    (g.st = .active → (∃ m : Shipment, m ∈ s.ships ∧ m.st = .notice ∧ m.dst = s.identity c ∧ m.grid = n) → ∀ rs : List Nat, (∀ m ∈ s.ships, m.region ∈ rs) →
      RunsTo (.gridFailureNotice c n rs) s fun t => (after t).st = .failed ∧ (after t).code = Cause.producerFailed ∧ t.mem = s.mem ∧
        t.ships.length < s.ships.length) ∧
    (∀ (i : Nat) (h : Shipment), s.ships[i]? = some h → h.core = c → h.grid = n →
      (h.st = .credit → g.st ≠ .active → Runs (.haloShipmentCredit i) s { s with ships := s.ships.set i { h with st := .notice, since := s.tick } }) ∧
      (∀ (d : BitVec 32) (nf : Nat), h.st = .credit → g.st = .active → s.knownStep h = some (d, nf) →
        (d - (h.step - BitVec.ofNat 32 nf + 1)).toNat < 2 ^ 31 →
        Runs (.haloShipmentCredit i) s { s with ships := s.ships.set i { h with st := .reading, since := s.tick } }) ∧
      (h.st = .reading → s.readsNext h = true → s.softErrors = [] → RunsTo (.haloShipmentRead i) s fun t =>
        let f := g.field h.step
        let size := (s.core c).cellSize f
        ∃ (d : ShipData), t.ships = s.ships.set i { h with st := .flight, data := some d, since := s.tick } ∧ t.mem = s.mem ∧
          d.core = h.dst ∧ d.grid = n ∧ d.step = h.step ∧ d.region = h.region ∧ d.who = s.identity c ∧ d.esize = size ∧ d.shape = g.shape ∧
          d.cells = (g.moves h).map fun m => (m.1, match (s.core c).cellKey c f m.2 with
            | some p => s.readElem (.engine c) size p
            | none => (Config.unstated s.tick).toNat % 16 ^ size)) ∧
      (∀ (d : ShipData) (w : Nat), h.st = .flight → h.data = some d → s.coreOfIdentity h.dst = some w → s.fillsFirst w = false → d.grid = n →
        let y := (s.core w).grid n
        let f := y.field d.step
        let size := (s.core w).cellSize f
        let places := d.cells.filterMap fun p => ((s.core w).cellKey w f p.1).map fun k => (k.1, p.2)
        let bytes := places.flatMap fun p => (leBytes (size / 2) p.2).mapIdx fun j b => (p.1 + j, b)
        let expected : Prop := y.shape = d.shape ∧ size = d.esize ∧ y.regionRules y.rules y.coord d.region = d.rules
        let free : Prop := (s.core w).frozen = false ∧ ∀ p ∈ places, s.tagged p.1 (size / 2) = false
        let ended (t : State) : Prop := t.ships = s.ships.filter (·.num != h.num) ∧ t.reqs = s.reqs.filter (·.user != .shipment h.num)
        (y.st = .active → expected → free → s.memOk → (∀ b ∈ bytes, s.portHolds b.1 = false) →
          RunsTo (.haloShipmentLand (.ours i)) s fun t => ended t ∧
            (∀ j, t.byte j = match bytes.reverse.find? (·.1 == j) with | some b => b.2 | none => s.byte j) ∧
            ∀ b : Buf, (s.core w).buf f = some b →
              ∃ a : Arriver, a.who = d.who ∧ (t.core w).buf f = some (b.modTile d.region fun x => x.setStamp d.step a)) ∧
        (¬ (y.st = .active ∧ expected ∧ free) → RunsTo (.haloShipmentLand (.ours i)) s fun t => ended t ∧ t.mem = s.mem ∧
          (t.core w).refusedHere = (s.core w).refusedHere + 1 ∧ (t.core c).refusedThere = (s.core c).refusedThere + 1)) ∧
      (∀ d : ShipData, h.st = .flight → h.data = some d → s.coreOfIdentity h.dst = none → (∀ r ∈ s.reqs, r.user ≠ .shipment h.num) →
        RunsTo (.haloShipmentLand (.ours i)) s fun t => t.ships = s.ships ∧ t.mem = s.mem ∧ ∃ r : Req, t.reqs = s.reqs ++ [r] ∧
          r.user = .shipment h.num ∧ t.outbox = s.outbox ++ [.shipment { d with pl := s.crossPl d.pl (h.dst / 256) }]) ∧
      (∀ landed : Bool, h.st = .flight → (∃ r ∈ s.reqs, r.user = .shipment h.num) → RunsTo (.haloShipmentLand (.answered i landed)) s fun t =>
        t.ships = s.ships.filter (·.num != h.num) ∧ t.mem = s.mem ∧ (∀ r ∈ t.reqs, r.user ≠ .shipment h.num) ∧
        (t.core c).refusedThere = (s.core c).refusedThere + if landed then 0 else 1)) ∧
    (∀ (i : Nat) (h : HaloFill), s.fills[i]? = some h → h.core = c → h.grid = n → (∀ k ∈ s.fills.take i, dieOf k.core ≠ dieOf c) → s.memOk →
      let f := g.field h.step
      let size := (s.core c).cellSize f
      let ks := (g.cells h.region).filterMap fun x => ((s.core c).cellKey c f x).map (·.1)
      let stamped (t : State) : Prop := ∀ b : Buf, (s.core c).buf f = some b →
        ∃ a : Arriver, (t.core c).buf f = some (b.modTile h.region fun x => x.setStamp h.step a)
      (h.value = none → RunsTo (.haloFillLand i) s fun t => t.fills = s.fills.eraseIdx i ∧ t.mem = s.mem ∧ stamped t) ∧
      (∀ v : Word, h.value = some v → (s.core c).frozen = false → (∀ k ∈ ks, s.tagged k (size / 2) = false) →
        let bytes := ks.flatMap fun k => (leBytes (size / 2) v.toNat).mapIdx fun j b => (k + j, b)
        (∀ b ∈ bytes, s.portHolds b.1 = false) → RunsTo (.haloFillLand i) s fun t => t.fills = s.fills.eraseIdx i ∧ stamped t ∧
          ∀ j, t.byte j = match bytes.reverse.find? (·.1 == j) with | some b => b.2 | none => s.byte j))

/-- Tier 2. Stopping a partition (R51, R52, R364, R420, R427, R454): a pre-emption request stands on an ACTIVE partition, held while a debug
stop holds it; after its limit, by the host's stop or by the stop word the partition is stopped, which leaves its queues STALLED and its
cores reset with empty windows; a fatal stop stops every strand of the launch in this package and ends the launch, or tells the packages
that hold other strands of it. -/
def Obligations.PartitionStops : Prop :=
  ∀ (s : State) (no : Nat) (p : Partition), s.part no = some p → p.st = .active →
    let stopped (t : State) : Prop :=
      (∀ c ∈ p.cores, c < 260 → (t.core c).window = [] ∧ (t.core c).partno = no ∧ ∀ k, k < 4 → (t.strand c k).state = .idle) ∧
      (∀ q ∈ t.queues, q.entry.partno = no → q.entry.state = 2) ∧
      ∃ p' : Partition, t.part no = some p' ∧ p'.st = .active ∧ p'.cores = p.cores ∧ p'.preempt = none
    (p.preempt = none → s.debugHolds no = false → RunsTo (.preemptRequest no) s fun t =>
      t.part no = some { p with preempt := some s.now } ∧ t.cores = s.cores ∧ t.mem = s.mem) ∧
    (p.preempt = none → s.debugHolds no = true → RunsTo (.preemptRequest no) s fun t =>
      t.part no = some { p with preemptHeld := true } ∧ t.cores = s.cores ∧ t.mem = s.mem) ∧
    (∀ since : Nat, p.preempt = some since → s.debugHolds no = false → p.plimit ≤ s.now - since → RunsTo (.preemptLimit no) s stopped) ∧
    RunsTo (.partitionStop no) s stopped ∧
    (∀ svc : Nat, svc < 4 → svc < s.marten.values.faultRings.length →
      let word := s.marten.values.faultRings.getD svc 0 + 16512
      let w := s.readNat word 8
      bitsOf w 63 18 = 0 → bitsOf w 17 16 = 1 → bitsOf w 15 0 = no → s.partBusy p = true → s.memOk → s.touchesPort word 8 = false →
      RunsTo (.partitionStopRequest svc) s fun t => stopped t ∧ t.readNat word 8 = 0) ∧
    (∀ (source : FatalSource) (n : Nat) (l : Launch), s.stoppedLaunch source n = some l → s.launches.find? (fun m : Launch => m.id == l.id) = some l →
      RunsTo (.fatalStop source n) s fun t =>
        let far := l.away.filter fun a : Nat × AwayState => a.2 != .ended
        (∀ d i, d < 256 → i < 4 → (s.strand d i).launch = some l.id → (t.strand d i).state = .stopped ∨ (t.strand d i).state = .idle) ∧
        (l.home = none → far ≠ [] → (∀ a ∈ far, OutMsg.launchStop a.1 l.id ∈ t.outbox) ∧ ∀ m ∈ t.launches, m.id = l.id → m.stopping = false) ∧
        (l.home.isSome = true ∨ far = [] → ∀ m ∈ t.launches, m.id ≠ l.id) ∧
        ∀ pkg id : Nat, l.home = some (pkg, id) → ∃ e : Option (Nat × Bool), OutMsg.launchEnded pkg id e ∈ t.outbox)

/-- Tier 2. Partitions come, are saved, return and go (R424 to R426, R441 to R443): creation gives the record its cores, key slot, queues
and configured barriers; a save keeps the cores and leaves them free and zeroed; a resume brings them back with every parked strand in RUN;
a release leaves no core, queue, key or record of the partition. -/
def Obligations.PartitionLife : Prop :=
  ∀ (s : State) (r : PartRequest) (no : Nat) (p : Partition),
    (8 ≤ s.marten.bootStep → s.canCreate r = true → RunsTo (.partitionCreate r) s fun t =>
      t.part r.partno = some (PartRequest.toRecord r) ∧ (∀ c ∈ r.cores, (t.core c).partno = r.partno ∧ (t.core c).zeroed = false) ∧
      (∃ k ∈ t.marten.keys, k.1 = r.keyslot) ∧
      (∀ q ∈ r.queues, ∃ q' ∈ t.queues, q'.no = q.1 ∧ q'.entry = { q.2 with state := 1, partno := r.partno }) ∧
      ∀ c, c ∉ r.cores → (t.core c).partno = (s.core c).partno) ∧
    (s.part no = some p → p.st = .active → p.preempt.isSome = true → s.debugHolds no = false → s.saveReady p = true →
      RunsTo (.partitionSave no) s fun t =>
        (∀ c ∈ p.cores, c < 260 → (t.core c).partno = 0 ∧ (t.core c).zeroed = true ∧ (t.core c).window = [] ∧
          ∀ k, k < 4 → (t.strand c k).state = .idle) ∧
        ∃ p' : Partition, t.part no = some p' ∧ p'.st = .saved ∧ p'.preempt = none ∧ p'.cores = p.cores ∧ p'.saved.map (·.1) = p.cores) ∧
    (s.part no = some p → p.st = .saved → (∀ c ∈ p.cores, (s.core c).partno = 0 ∧ (s.core c).zeroed = true) → (p.saved.map (·.1)).Nodup →
      RunsTo (.partitionResume no) s fun t =>
        (∀ y ∈ p.saved, y.1 < 260 → (t.core y.1).partno = y.2.partno ∧ (t.core y.1).window = y.2.window ∧ (t.core y.1).bufs = y.2.bufs ∧
          ∀ k, k < 4 → (t.strand y.1 k).state = if (y.2.strand k).state = .parked then .run else (y.2.strand k).state) ∧
        ∃ p' : Partition, t.part no = some p' ∧ p'.st = .active ∧ p'.preempt = none ∧ p'.saved = []) ∧
    (s.part no = some p → no ≠ 0 → RunsTo (.partitionRelease no) s fun t =>
      t.part no = none ∧ (∀ c, (t.core c).partno ≠ no) ∧ (∀ q ∈ t.queues, q.entry.partno ≠ no) ∧ ∀ k ∈ t.marten.keys, k.1 ≠ p.keyslot)
end

