-- ==== Sys2Proof/Laws/State.lean ====
section
/-!
SUPPORT. The shared updates of State, field by field: what each leaves as it was, and what it writes.
-/
namespace Sys2Proof.Machine

variable (s : State)

/-! ## setCore -/

@[simp] theorem State.setCore_mem (c : Nat) (x : Core) : (s.setCore c x).mem = s.mem := by unfold State.setCore; split <;> rfl
@[simp] theorem State.setCore_live (c : Nat) (x : Core) : (s.setCore c x).live = s.live := by unfold State.setCore; split <;> rfl
@[simp] theorem State.setCore_barTimes (c : Nat) (x : Core) : (s.setCore c x).barTimes = s.barTimes := by unfold State.setCore; split <;> rfl
@[simp] theorem State.setCore_poison (c : Nat) (x : Core) : (s.setCore c x).poison = s.poison := by unfold State.setCore; split <;> rfl
@[simp] theorem State.setCore_softErrors (c : Nat) (x : Core) : (s.setCore c x).softErrors = s.softErrors := by unfold State.setCore; split <;> rfl
@[simp] theorem State.setCore_residue (c : Nat) (x : Core) : (s.setCore c x).residue = s.residue := by unfold State.setCore; split <;> rfl
@[simp] theorem State.setCore_bars (c : Nat) (x : Core) : (s.setCore c x).bars = s.bars := by unfold State.setCore; split <;> rfl
@[simp] theorem State.setCore_arrivals (c : Nat) (x : Core) : (s.setCore c x).arrivals = s.arrivals := by unfold State.setCore; split <;> rfl
@[simp] theorem State.setCore_reqs (c : Nat) (x : Core) : (s.setCore c x).reqs = s.reqs := by unfold State.setCore; split <;> rfl
@[simp] theorem State.setCore_nextReq (c : Nat) (x : Core) : (s.setCore c x).nextReq = s.nextReq := by unfold State.setCore; split <;> rfl
@[simp] theorem State.setCore_reqSeqs (c : Nat) (x : Core) : (s.setCore c x).reqSeqs = s.reqSeqs := by unfold State.setCore; split <;> rfl
@[simp] theorem State.setCore_atomLog (c : Nat) (x : Core) : (s.setCore c x).atomLog = s.atomLog := by unfold State.setCore; split <;> rfl
@[simp] theorem State.setCore_inStreams (c : Nat) (x : Core) : (s.setCore c x).inStreams = s.inStreams := by unfold State.setCore; split <;> rfl
@[simp] theorem State.setCore_faults (c : Nat) (x : Core) : (s.setCore c x).faults = s.faults := by unfold State.setCore; split <;> rfl
@[simp] theorem State.setCore_nextFault (c : Nat) (x : Core) : (s.setCore c x).nextFault = s.nextFault := by unfold State.setCore; split <;> rfl
@[simp] theorem State.setCore_fids (c : Nat) (x : Core) : (s.setCore c x).fids = s.fids := by unfold State.setCore; split <;> rfl
@[simp] theorem State.setCore_parts (c : Nat) (x : Core) : (s.setCore c x).parts = s.parts := by unfold State.setCore; split <;> rfl
@[simp] theorem State.setCore_queues (c : Nat) (x : Core) : (s.setCore c x).queues = s.queues := by unfold State.setCore; split <;> rfl
@[simp] theorem State.setCore_packets (c : Nat) (x : Core) : (s.setCore c x).packets = s.packets := by unfold State.setCore; split <;> rfl
@[simp] theorem State.setCore_launches (c : Nat) (x : Core) : (s.setCore c x).launches = s.launches := by unfold State.setCore; split <;> rfl
@[simp] theorem State.setCore_nextLaunch (c : Nat) (x : Core) : (s.setCore c x).nextLaunch = s.nextLaunch := by unfold State.setCore; split <;> rfl
@[simp] theorem State.setCore_conns (c : Nat) (x : Core) : (s.setCore c x).conns = s.conns := by unfold State.setCore; split <;> rfl
@[simp] theorem State.setCore_endpoints (c : Nat) (x : Core) : (s.setCore c x).endpoints = s.endpoints := by unfold State.setCore; split <;> rfl
@[simp] theorem State.setCore_remap (c : Nat) (x : Core) : (s.setCore c x).remap = s.remap := by unfold State.setCore; split <;> rfl
@[simp] theorem State.setCore_ships (c : Nat) (x : Core) : (s.setCore c x).ships = s.ships := by unfold State.setCore; split <;> rfl
@[simp] theorem State.setCore_fills (c : Nat) (x : Core) : (s.setCore c x).fills = s.fills := by unfold State.setCore; split <;> rfl
@[simp] theorem State.setCore_links (c : Nat) (x : Core) : (s.setCore c x).links = s.links := by unfold State.setCore; split <;> rfl
@[simp] theorem State.setCore_moving (c : Nat) (x : Core) : (s.setCore c x).moving = s.moving := by unfold State.setCore; split <;> rfl
@[simp] theorem State.setCore_migCounts (c : Nat) (x : Core) : (s.setCore c x).migCounts = s.migCounts := by unfold State.setCore; split <;> rfl
@[simp] theorem State.setCore_tlb (c : Nat) (x : Core) : (s.setCore c x).tlb = s.tlb := by unfold State.setCore; split <;> rfl
@[simp] theorem State.setCore_rline (c : Nat) (x : Core) : (s.setCore c x).rline = s.rline := by unfold State.setCore; split <;> rfl
@[simp] theorem State.setCore_marten (c : Nat) (x : Core) : (s.setCore c x).marten = s.marten := by unfold State.setCore; split <;> rfl
@[simp] theorem State.setCore_power (c : Nat) (x : Core) : (s.setCore c x).power = s.power := by unfold State.setCore; split <;> rfl
@[simp] theorem State.setCore_drops (c : Nat) (x : Core) : (s.setCore c x).drops = s.drops := by unfold State.setCore; split <;> rfl
@[simp] theorem State.setCore_ports (c : Nat) (x : Core) : (s.setCore c x).ports = s.ports := by unfold State.setCore; split <;> rfl
@[simp] theorem State.setCore_notified (c : Nat) (x : Core) : (s.setCore c x).notified = s.notified := by unfold State.setCore; split <;> rfl
@[simp] theorem State.setCore_news (c : Nat) (x : Core) : (s.setCore c x).news = s.news := by unfold State.setCore; split <;> rfl
@[simp] theorem State.setCore_outbox (c : Nat) (x : Core) : (s.setCore c x).outbox = s.outbox := by unfold State.setCore; split <;> rfl
@[simp] theorem State.setCore_now (c : Nat) (x : Core) : (s.setCore c x).now = s.now := by unfold State.setCore; split <;> rfl
@[simp] theorem State.setCore_tick (c : Nat) (x : Core) : (s.setCore c x).tick = s.tick := by unfold State.setCore; split <;> rfl
@[simp] theorem State.setCore_turn (c : Nat) (x : Core) : (s.setCore c x).turn = s.turn := by unfold State.setCore; split <;> rfl
@[simp] theorem State.setCore_at_ (c : Nat) (x : Core) : (s.setCore c x).at_ = s.at_ := by unfold State.setCore; split <;> rfl
@[simp] theorem State.setCore_ir (c : Nat) (x : Core) : (s.setCore c x).ir = s.ir := by unfold State.setCore; split <;> rfl
@[simp] theorem State.setCore_late (c : Nat) (x : Core) : (s.setCore c x).late = s.late := by unfold State.setCore; split <;> rfl
@[simp] theorem State.setCore_nextLate (c : Nat) (x : Core) : (s.setCore c x).nextLate = s.nextLate := by unfold State.setCore; split <;> rfl
@[simp] theorem State.setCore_barSeen (c : Nat) (x : Core) : (s.setCore c x).barSeen = s.barSeen := by unfold State.setCore; split <;> rfl
@[simp] theorem State.setCore_scSeen (c : Nat) (x : Core) : (s.setCore c x).scSeen = s.scSeen := by unfold State.setCore; split <;> rfl
@[simp] theorem State.setCore_nextShip (c : Nat) (x : Core) : (s.setCore c x).nextShip = s.nextShip := by unfold State.setCore; split <;> rfl
@[simp] theorem State.setCore_moved (c : Nat) (x : Core) : (s.setCore c x).moved = s.moved := by unfold State.setCore; split <;> rfl

/-! ## modCore -/

@[simp] theorem State.modCore_mem (c : Nat) (f : Core → Core) : (s.modCore c f).mem = s.mem := by simp [State.modCore]
@[simp] theorem State.modCore_live (c : Nat) (f : Core → Core) : (s.modCore c f).live = s.live := by simp [State.modCore]
@[simp] theorem State.modCore_barTimes (c : Nat) (f : Core → Core) : (s.modCore c f).barTimes = s.barTimes := by simp [State.modCore]
@[simp] theorem State.modCore_poison (c : Nat) (f : Core → Core) : (s.modCore c f).poison = s.poison := by simp [State.modCore]
@[simp] theorem State.modCore_softErrors (c : Nat) (f : Core → Core) : (s.modCore c f).softErrors = s.softErrors := by simp [State.modCore]
@[simp] theorem State.modCore_residue (c : Nat) (f : Core → Core) : (s.modCore c f).residue = s.residue := by simp [State.modCore]
@[simp] theorem State.modCore_bars (c : Nat) (f : Core → Core) : (s.modCore c f).bars = s.bars := by simp [State.modCore]
@[simp] theorem State.modCore_arrivals (c : Nat) (f : Core → Core) : (s.modCore c f).arrivals = s.arrivals := by simp [State.modCore]
@[simp] theorem State.modCore_reqs (c : Nat) (f : Core → Core) : (s.modCore c f).reqs = s.reqs := by simp [State.modCore]
@[simp] theorem State.modCore_nextReq (c : Nat) (f : Core → Core) : (s.modCore c f).nextReq = s.nextReq := by simp [State.modCore]
@[simp] theorem State.modCore_reqSeqs (c : Nat) (f : Core → Core) : (s.modCore c f).reqSeqs = s.reqSeqs := by simp [State.modCore]
@[simp] theorem State.modCore_atomLog (c : Nat) (f : Core → Core) : (s.modCore c f).atomLog = s.atomLog := by simp [State.modCore]
@[simp] theorem State.modCore_inStreams (c : Nat) (f : Core → Core) : (s.modCore c f).inStreams = s.inStreams := by simp [State.modCore]
@[simp] theorem State.modCore_faults (c : Nat) (f : Core → Core) : (s.modCore c f).faults = s.faults := by simp [State.modCore]
@[simp] theorem State.modCore_nextFault (c : Nat) (f : Core → Core) : (s.modCore c f).nextFault = s.nextFault := by simp [State.modCore]
@[simp] theorem State.modCore_fids (c : Nat) (f : Core → Core) : (s.modCore c f).fids = s.fids := by simp [State.modCore]
@[simp] theorem State.modCore_parts (c : Nat) (f : Core → Core) : (s.modCore c f).parts = s.parts := by simp [State.modCore]
@[simp] theorem State.modCore_queues (c : Nat) (f : Core → Core) : (s.modCore c f).queues = s.queues := by simp [State.modCore]
@[simp] theorem State.modCore_packets (c : Nat) (f : Core → Core) : (s.modCore c f).packets = s.packets := by simp [State.modCore]
@[simp] theorem State.modCore_launches (c : Nat) (f : Core → Core) : (s.modCore c f).launches = s.launches := by simp [State.modCore]
@[simp] theorem State.modCore_nextLaunch (c : Nat) (f : Core → Core) : (s.modCore c f).nextLaunch = s.nextLaunch := by simp [State.modCore]
@[simp] theorem State.modCore_conns (c : Nat) (f : Core → Core) : (s.modCore c f).conns = s.conns := by simp [State.modCore]
@[simp] theorem State.modCore_endpoints (c : Nat) (f : Core → Core) : (s.modCore c f).endpoints = s.endpoints := by simp [State.modCore]
@[simp] theorem State.modCore_remap (c : Nat) (f : Core → Core) : (s.modCore c f).remap = s.remap := by simp [State.modCore]
@[simp] theorem State.modCore_ships (c : Nat) (f : Core → Core) : (s.modCore c f).ships = s.ships := by simp [State.modCore]
@[simp] theorem State.modCore_fills (c : Nat) (f : Core → Core) : (s.modCore c f).fills = s.fills := by simp [State.modCore]
@[simp] theorem State.modCore_links (c : Nat) (f : Core → Core) : (s.modCore c f).links = s.links := by simp [State.modCore]
@[simp] theorem State.modCore_moving (c : Nat) (f : Core → Core) : (s.modCore c f).moving = s.moving := by simp [State.modCore]
@[simp] theorem State.modCore_migCounts (c : Nat) (f : Core → Core) : (s.modCore c f).migCounts = s.migCounts := by simp [State.modCore]
@[simp] theorem State.modCore_tlb (c : Nat) (f : Core → Core) : (s.modCore c f).tlb = s.tlb := by simp [State.modCore]
@[simp] theorem State.modCore_rline (c : Nat) (f : Core → Core) : (s.modCore c f).rline = s.rline := by simp [State.modCore]
@[simp] theorem State.modCore_marten (c : Nat) (f : Core → Core) : (s.modCore c f).marten = s.marten := by simp [State.modCore]
@[simp] theorem State.modCore_power (c : Nat) (f : Core → Core) : (s.modCore c f).power = s.power := by simp [State.modCore]
@[simp] theorem State.modCore_drops (c : Nat) (f : Core → Core) : (s.modCore c f).drops = s.drops := by simp [State.modCore]
@[simp] theorem State.modCore_ports (c : Nat) (f : Core → Core) : (s.modCore c f).ports = s.ports := by simp [State.modCore]
@[simp] theorem State.modCore_notified (c : Nat) (f : Core → Core) : (s.modCore c f).notified = s.notified := by simp [State.modCore]
@[simp] theorem State.modCore_news (c : Nat) (f : Core → Core) : (s.modCore c f).news = s.news := by simp [State.modCore]
@[simp] theorem State.modCore_outbox (c : Nat) (f : Core → Core) : (s.modCore c f).outbox = s.outbox := by simp [State.modCore]
@[simp] theorem State.modCore_now (c : Nat) (f : Core → Core) : (s.modCore c f).now = s.now := by simp [State.modCore]
@[simp] theorem State.modCore_tick (c : Nat) (f : Core → Core) : (s.modCore c f).tick = s.tick := by simp [State.modCore]
@[simp] theorem State.modCore_turn (c : Nat) (f : Core → Core) : (s.modCore c f).turn = s.turn := by simp [State.modCore]
@[simp] theorem State.modCore_at_ (c : Nat) (f : Core → Core) : (s.modCore c f).at_ = s.at_ := by simp [State.modCore]
@[simp] theorem State.modCore_ir (c : Nat) (f : Core → Core) : (s.modCore c f).ir = s.ir := by simp [State.modCore]
@[simp] theorem State.modCore_late (c : Nat) (f : Core → Core) : (s.modCore c f).late = s.late := by simp [State.modCore]
@[simp] theorem State.modCore_nextLate (c : Nat) (f : Core → Core) : (s.modCore c f).nextLate = s.nextLate := by simp [State.modCore]
@[simp] theorem State.modCore_barSeen (c : Nat) (f : Core → Core) : (s.modCore c f).barSeen = s.barSeen := by simp [State.modCore]
@[simp] theorem State.modCore_scSeen (c : Nat) (f : Core → Core) : (s.modCore c f).scSeen = s.scSeen := by simp [State.modCore]
@[simp] theorem State.modCore_nextShip (c : Nat) (f : Core → Core) : (s.modCore c f).nextShip = s.nextShip := by simp [State.modCore]
@[simp] theorem State.modCore_moved (c : Nat) (f : Core → Core) : (s.modCore c f).moved = s.moved := by simp [State.modCore]

/-! ## modStrand -/

@[simp] theorem State.modStrand_mem (c k : Nat) (f : Strand → Strand) : (s.modStrand c k f).mem = s.mem := by simp [State.modStrand]
@[simp] theorem State.modStrand_live (c k : Nat) (f : Strand → Strand) : (s.modStrand c k f).live = s.live := by simp [State.modStrand]
@[simp] theorem State.modStrand_barTimes (c k : Nat) (f : Strand → Strand) : (s.modStrand c k f).barTimes = s.barTimes := by simp [State.modStrand]
@[simp] theorem State.modStrand_poison (c k : Nat) (f : Strand → Strand) : (s.modStrand c k f).poison = s.poison := by simp [State.modStrand]
@[simp] theorem State.modStrand_softErrors (c k : Nat) (f : Strand → Strand) : (s.modStrand c k f).softErrors = s.softErrors := by simp [State.modStrand]
@[simp] theorem State.modStrand_residue (c k : Nat) (f : Strand → Strand) : (s.modStrand c k f).residue = s.residue := by simp [State.modStrand]
@[simp] theorem State.modStrand_bars (c k : Nat) (f : Strand → Strand) : (s.modStrand c k f).bars = s.bars := by simp [State.modStrand]
@[simp] theorem State.modStrand_arrivals (c k : Nat) (f : Strand → Strand) : (s.modStrand c k f).arrivals = s.arrivals := by simp [State.modStrand]
@[simp] theorem State.modStrand_reqs (c k : Nat) (f : Strand → Strand) : (s.modStrand c k f).reqs = s.reqs := by simp [State.modStrand]
@[simp] theorem State.modStrand_nextReq (c k : Nat) (f : Strand → Strand) : (s.modStrand c k f).nextReq = s.nextReq := by simp [State.modStrand]
@[simp] theorem State.modStrand_reqSeqs (c k : Nat) (f : Strand → Strand) : (s.modStrand c k f).reqSeqs = s.reqSeqs := by simp [State.modStrand]
@[simp] theorem State.modStrand_atomLog (c k : Nat) (f : Strand → Strand) : (s.modStrand c k f).atomLog = s.atomLog := by simp [State.modStrand]
@[simp] theorem State.modStrand_inStreams (c k : Nat) (f : Strand → Strand) : (s.modStrand c k f).inStreams = s.inStreams := by simp [State.modStrand]
@[simp] theorem State.modStrand_faults (c k : Nat) (f : Strand → Strand) : (s.modStrand c k f).faults = s.faults := by simp [State.modStrand]
@[simp] theorem State.modStrand_nextFault (c k : Nat) (f : Strand → Strand) : (s.modStrand c k f).nextFault = s.nextFault := by simp [State.modStrand]
@[simp] theorem State.modStrand_fids (c k : Nat) (f : Strand → Strand) : (s.modStrand c k f).fids = s.fids := by simp [State.modStrand]
@[simp] theorem State.modStrand_parts (c k : Nat) (f : Strand → Strand) : (s.modStrand c k f).parts = s.parts := by simp [State.modStrand]
@[simp] theorem State.modStrand_queues (c k : Nat) (f : Strand → Strand) : (s.modStrand c k f).queues = s.queues := by simp [State.modStrand]
@[simp] theorem State.modStrand_packets (c k : Nat) (f : Strand → Strand) : (s.modStrand c k f).packets = s.packets := by simp [State.modStrand]
@[simp] theorem State.modStrand_launches (c k : Nat) (f : Strand → Strand) : (s.modStrand c k f).launches = s.launches := by simp [State.modStrand]
@[simp] theorem State.modStrand_nextLaunch (c k : Nat) (f : Strand → Strand) : (s.modStrand c k f).nextLaunch = s.nextLaunch := by simp [State.modStrand]
@[simp] theorem State.modStrand_conns (c k : Nat) (f : Strand → Strand) : (s.modStrand c k f).conns = s.conns := by simp [State.modStrand]
@[simp] theorem State.modStrand_endpoints (c k : Nat) (f : Strand → Strand) : (s.modStrand c k f).endpoints = s.endpoints := by simp [State.modStrand]
@[simp] theorem State.modStrand_remap (c k : Nat) (f : Strand → Strand) : (s.modStrand c k f).remap = s.remap := by simp [State.modStrand]
@[simp] theorem State.modStrand_ships (c k : Nat) (f : Strand → Strand) : (s.modStrand c k f).ships = s.ships := by simp [State.modStrand]
@[simp] theorem State.modStrand_fills (c k : Nat) (f : Strand → Strand) : (s.modStrand c k f).fills = s.fills := by simp [State.modStrand]
@[simp] theorem State.modStrand_links (c k : Nat) (f : Strand → Strand) : (s.modStrand c k f).links = s.links := by simp [State.modStrand]
@[simp] theorem State.modStrand_moving (c k : Nat) (f : Strand → Strand) : (s.modStrand c k f).moving = s.moving := by simp [State.modStrand]
@[simp] theorem State.modStrand_migCounts (c k : Nat) (f : Strand → Strand) : (s.modStrand c k f).migCounts = s.migCounts := by simp [State.modStrand]
@[simp] theorem State.modStrand_tlb (c k : Nat) (f : Strand → Strand) : (s.modStrand c k f).tlb = s.tlb := by simp [State.modStrand]
@[simp] theorem State.modStrand_rline (c k : Nat) (f : Strand → Strand) : (s.modStrand c k f).rline = s.rline := by simp [State.modStrand]
@[simp] theorem State.modStrand_marten (c k : Nat) (f : Strand → Strand) : (s.modStrand c k f).marten = s.marten := by simp [State.modStrand]
@[simp] theorem State.modStrand_power (c k : Nat) (f : Strand → Strand) : (s.modStrand c k f).power = s.power := by simp [State.modStrand]
@[simp] theorem State.modStrand_drops (c k : Nat) (f : Strand → Strand) : (s.modStrand c k f).drops = s.drops := by simp [State.modStrand]
@[simp] theorem State.modStrand_ports (c k : Nat) (f : Strand → Strand) : (s.modStrand c k f).ports = s.ports := by simp [State.modStrand]
@[simp] theorem State.modStrand_notified (c k : Nat) (f : Strand → Strand) : (s.modStrand c k f).notified = s.notified := by simp [State.modStrand]
@[simp] theorem State.modStrand_news (c k : Nat) (f : Strand → Strand) : (s.modStrand c k f).news = s.news := by simp [State.modStrand]
@[simp] theorem State.modStrand_outbox (c k : Nat) (f : Strand → Strand) : (s.modStrand c k f).outbox = s.outbox := by simp [State.modStrand]
@[simp] theorem State.modStrand_now (c k : Nat) (f : Strand → Strand) : (s.modStrand c k f).now = s.now := by simp [State.modStrand]
@[simp] theorem State.modStrand_tick (c k : Nat) (f : Strand → Strand) : (s.modStrand c k f).tick = s.tick := by simp [State.modStrand]
@[simp] theorem State.modStrand_turn (c k : Nat) (f : Strand → Strand) : (s.modStrand c k f).turn = s.turn := by simp [State.modStrand]
@[simp] theorem State.modStrand_at_ (c k : Nat) (f : Strand → Strand) : (s.modStrand c k f).at_ = s.at_ := by simp [State.modStrand]
@[simp] theorem State.modStrand_ir (c k : Nat) (f : Strand → Strand) : (s.modStrand c k f).ir = s.ir := by simp [State.modStrand]
@[simp] theorem State.modStrand_late (c k : Nat) (f : Strand → Strand) : (s.modStrand c k f).late = s.late := by simp [State.modStrand]
@[simp] theorem State.modStrand_nextLate (c k : Nat) (f : Strand → Strand) : (s.modStrand c k f).nextLate = s.nextLate := by simp [State.modStrand]
@[simp] theorem State.modStrand_barSeen (c k : Nat) (f : Strand → Strand) : (s.modStrand c k f).barSeen = s.barSeen := by simp [State.modStrand]
@[simp] theorem State.modStrand_scSeen (c k : Nat) (f : Strand → Strand) : (s.modStrand c k f).scSeen = s.scSeen := by simp [State.modStrand]
@[simp] theorem State.modStrand_nextShip (c k : Nat) (f : Strand → Strand) : (s.modStrand c k f).nextShip = s.nextShip := by simp [State.modStrand]
@[simp] theorem State.modStrand_moved (c k : Nat) (f : Strand → Strand) : (s.modStrand c k f).moved = s.moved := by simp [State.modStrand]

/-! ## modMe -/

@[simp] theorem State.modMe_mem (f : Strand → Strand) : (s.modMe f).mem = s.mem := by simp [State.modMe]
@[simp] theorem State.modMe_live (f : Strand → Strand) : (s.modMe f).live = s.live := by simp [State.modMe]
@[simp] theorem State.modMe_barTimes (f : Strand → Strand) : (s.modMe f).barTimes = s.barTimes := by simp [State.modMe]
@[simp] theorem State.modMe_poison (f : Strand → Strand) : (s.modMe f).poison = s.poison := by simp [State.modMe]
@[simp] theorem State.modMe_softErrors (f : Strand → Strand) : (s.modMe f).softErrors = s.softErrors := by simp [State.modMe]
@[simp] theorem State.modMe_residue (f : Strand → Strand) : (s.modMe f).residue = s.residue := by simp [State.modMe]
@[simp] theorem State.modMe_bars (f : Strand → Strand) : (s.modMe f).bars = s.bars := by simp [State.modMe]
@[simp] theorem State.modMe_arrivals (f : Strand → Strand) : (s.modMe f).arrivals = s.arrivals := by simp [State.modMe]
@[simp] theorem State.modMe_reqs (f : Strand → Strand) : (s.modMe f).reqs = s.reqs := by simp [State.modMe]
@[simp] theorem State.modMe_nextReq (f : Strand → Strand) : (s.modMe f).nextReq = s.nextReq := by simp [State.modMe]
@[simp] theorem State.modMe_reqSeqs (f : Strand → Strand) : (s.modMe f).reqSeqs = s.reqSeqs := by simp [State.modMe]
@[simp] theorem State.modMe_atomLog (f : Strand → Strand) : (s.modMe f).atomLog = s.atomLog := by simp [State.modMe]
@[simp] theorem State.modMe_inStreams (f : Strand → Strand) : (s.modMe f).inStreams = s.inStreams := by simp [State.modMe]
@[simp] theorem State.modMe_faults (f : Strand → Strand) : (s.modMe f).faults = s.faults := by simp [State.modMe]
@[simp] theorem State.modMe_nextFault (f : Strand → Strand) : (s.modMe f).nextFault = s.nextFault := by simp [State.modMe]
@[simp] theorem State.modMe_fids (f : Strand → Strand) : (s.modMe f).fids = s.fids := by simp [State.modMe]
@[simp] theorem State.modMe_parts (f : Strand → Strand) : (s.modMe f).parts = s.parts := by simp [State.modMe]
@[simp] theorem State.modMe_queues (f : Strand → Strand) : (s.modMe f).queues = s.queues := by simp [State.modMe]
@[simp] theorem State.modMe_packets (f : Strand → Strand) : (s.modMe f).packets = s.packets := by simp [State.modMe]
@[simp] theorem State.modMe_launches (f : Strand → Strand) : (s.modMe f).launches = s.launches := by simp [State.modMe]
@[simp] theorem State.modMe_nextLaunch (f : Strand → Strand) : (s.modMe f).nextLaunch = s.nextLaunch := by simp [State.modMe]
@[simp] theorem State.modMe_conns (f : Strand → Strand) : (s.modMe f).conns = s.conns := by simp [State.modMe]
@[simp] theorem State.modMe_endpoints (f : Strand → Strand) : (s.modMe f).endpoints = s.endpoints := by simp [State.modMe]
@[simp] theorem State.modMe_remap (f : Strand → Strand) : (s.modMe f).remap = s.remap := by simp [State.modMe]
@[simp] theorem State.modMe_ships (f : Strand → Strand) : (s.modMe f).ships = s.ships := by simp [State.modMe]
@[simp] theorem State.modMe_fills (f : Strand → Strand) : (s.modMe f).fills = s.fills := by simp [State.modMe]
@[simp] theorem State.modMe_links (f : Strand → Strand) : (s.modMe f).links = s.links := by simp [State.modMe]
@[simp] theorem State.modMe_moving (f : Strand → Strand) : (s.modMe f).moving = s.moving := by simp [State.modMe]
@[simp] theorem State.modMe_migCounts (f : Strand → Strand) : (s.modMe f).migCounts = s.migCounts := by simp [State.modMe]
@[simp] theorem State.modMe_tlb (f : Strand → Strand) : (s.modMe f).tlb = s.tlb := by simp [State.modMe]
@[simp] theorem State.modMe_rline (f : Strand → Strand) : (s.modMe f).rline = s.rline := by simp [State.modMe]
@[simp] theorem State.modMe_marten (f : Strand → Strand) : (s.modMe f).marten = s.marten := by simp [State.modMe]
@[simp] theorem State.modMe_power (f : Strand → Strand) : (s.modMe f).power = s.power := by simp [State.modMe]
@[simp] theorem State.modMe_drops (f : Strand → Strand) : (s.modMe f).drops = s.drops := by simp [State.modMe]
@[simp] theorem State.modMe_ports (f : Strand → Strand) : (s.modMe f).ports = s.ports := by simp [State.modMe]
@[simp] theorem State.modMe_notified (f : Strand → Strand) : (s.modMe f).notified = s.notified := by simp [State.modMe]
@[simp] theorem State.modMe_news (f : Strand → Strand) : (s.modMe f).news = s.news := by simp [State.modMe]
@[simp] theorem State.modMe_outbox (f : Strand → Strand) : (s.modMe f).outbox = s.outbox := by simp [State.modMe]
@[simp] theorem State.modMe_now (f : Strand → Strand) : (s.modMe f).now = s.now := by simp [State.modMe]
@[simp] theorem State.modMe_tick (f : Strand → Strand) : (s.modMe f).tick = s.tick := by simp [State.modMe]
@[simp] theorem State.modMe_turn (f : Strand → Strand) : (s.modMe f).turn = s.turn := by simp [State.modMe]
@[simp] theorem State.modMe_at_ (f : Strand → Strand) : (s.modMe f).at_ = s.at_ := by simp [State.modMe]
@[simp] theorem State.modMe_ir (f : Strand → Strand) : (s.modMe f).ir = s.ir := by simp [State.modMe]
@[simp] theorem State.modMe_late (f : Strand → Strand) : (s.modMe f).late = s.late := by simp [State.modMe]
@[simp] theorem State.modMe_nextLate (f : Strand → Strand) : (s.modMe f).nextLate = s.nextLate := by simp [State.modMe]
@[simp] theorem State.modMe_barSeen (f : Strand → Strand) : (s.modMe f).barSeen = s.barSeen := by simp [State.modMe]
@[simp] theorem State.modMe_scSeen (f : Strand → Strand) : (s.modMe f).scSeen = s.scSeen := by simp [State.modMe]
@[simp] theorem State.modMe_nextShip (f : Strand → Strand) : (s.modMe f).nextShip = s.nextShip := by simp [State.modMe]
@[simp] theorem State.modMe_moved (f : Strand → Strand) : (s.modMe f).moved = s.moved := by simp [State.modMe]

/-! ## setReg -/

@[simp] theorem State.setReg_mem (r : Reg) (v : Word) : (s.setReg r v).mem = s.mem := by simp [State.setReg]
@[simp] theorem State.setReg_live (r : Reg) (v : Word) : (s.setReg r v).live = s.live := by simp [State.setReg]
@[simp] theorem State.setReg_barTimes (r : Reg) (v : Word) : (s.setReg r v).barTimes = s.barTimes := by simp [State.setReg]
@[simp] theorem State.setReg_poison (r : Reg) (v : Word) : (s.setReg r v).poison = s.poison := by simp [State.setReg]
@[simp] theorem State.setReg_softErrors (r : Reg) (v : Word) : (s.setReg r v).softErrors = s.softErrors := by simp [State.setReg]
@[simp] theorem State.setReg_residue (r : Reg) (v : Word) : (s.setReg r v).residue = s.residue := by simp [State.setReg]
@[simp] theorem State.setReg_bars (r : Reg) (v : Word) : (s.setReg r v).bars = s.bars := by simp [State.setReg]
@[simp] theorem State.setReg_arrivals (r : Reg) (v : Word) : (s.setReg r v).arrivals = s.arrivals := by simp [State.setReg]
@[simp] theorem State.setReg_reqs (r : Reg) (v : Word) : (s.setReg r v).reqs = s.reqs := by simp [State.setReg]
@[simp] theorem State.setReg_nextReq (r : Reg) (v : Word) : (s.setReg r v).nextReq = s.nextReq := by simp [State.setReg]
@[simp] theorem State.setReg_reqSeqs (r : Reg) (v : Word) : (s.setReg r v).reqSeqs = s.reqSeqs := by simp [State.setReg]
@[simp] theorem State.setReg_atomLog (r : Reg) (v : Word) : (s.setReg r v).atomLog = s.atomLog := by simp [State.setReg]
@[simp] theorem State.setReg_inStreams (r : Reg) (v : Word) : (s.setReg r v).inStreams = s.inStreams := by simp [State.setReg]
@[simp] theorem State.setReg_faults (r : Reg) (v : Word) : (s.setReg r v).faults = s.faults := by simp [State.setReg]
@[simp] theorem State.setReg_nextFault (r : Reg) (v : Word) : (s.setReg r v).nextFault = s.nextFault := by simp [State.setReg]
@[simp] theorem State.setReg_fids (r : Reg) (v : Word) : (s.setReg r v).fids = s.fids := by simp [State.setReg]
@[simp] theorem State.setReg_parts (r : Reg) (v : Word) : (s.setReg r v).parts = s.parts := by simp [State.setReg]
@[simp] theorem State.setReg_queues (r : Reg) (v : Word) : (s.setReg r v).queues = s.queues := by simp [State.setReg]
@[simp] theorem State.setReg_packets (r : Reg) (v : Word) : (s.setReg r v).packets = s.packets := by simp [State.setReg]
@[simp] theorem State.setReg_launches (r : Reg) (v : Word) : (s.setReg r v).launches = s.launches := by simp [State.setReg]
@[simp] theorem State.setReg_nextLaunch (r : Reg) (v : Word) : (s.setReg r v).nextLaunch = s.nextLaunch := by simp [State.setReg]
@[simp] theorem State.setReg_conns (r : Reg) (v : Word) : (s.setReg r v).conns = s.conns := by simp [State.setReg]
@[simp] theorem State.setReg_endpoints (r : Reg) (v : Word) : (s.setReg r v).endpoints = s.endpoints := by simp [State.setReg]
@[simp] theorem State.setReg_remap (r : Reg) (v : Word) : (s.setReg r v).remap = s.remap := by simp [State.setReg]
@[simp] theorem State.setReg_ships (r : Reg) (v : Word) : (s.setReg r v).ships = s.ships := by simp [State.setReg]
@[simp] theorem State.setReg_fills (r : Reg) (v : Word) : (s.setReg r v).fills = s.fills := by simp [State.setReg]
@[simp] theorem State.setReg_links (r : Reg) (v : Word) : (s.setReg r v).links = s.links := by simp [State.setReg]
@[simp] theorem State.setReg_moving (r : Reg) (v : Word) : (s.setReg r v).moving = s.moving := by simp [State.setReg]
@[simp] theorem State.setReg_migCounts (r : Reg) (v : Word) : (s.setReg r v).migCounts = s.migCounts := by simp [State.setReg]
@[simp] theorem State.setReg_tlb (r : Reg) (v : Word) : (s.setReg r v).tlb = s.tlb := by simp [State.setReg]
@[simp] theorem State.setReg_rline (r : Reg) (v : Word) : (s.setReg r v).rline = s.rline := by simp [State.setReg]
@[simp] theorem State.setReg_marten (r : Reg) (v : Word) : (s.setReg r v).marten = s.marten := by simp [State.setReg]
@[simp] theorem State.setReg_power (r : Reg) (v : Word) : (s.setReg r v).power = s.power := by simp [State.setReg]
@[simp] theorem State.setReg_drops (r : Reg) (v : Word) : (s.setReg r v).drops = s.drops := by simp [State.setReg]
@[simp] theorem State.setReg_ports (r : Reg) (v : Word) : (s.setReg r v).ports = s.ports := by simp [State.setReg]
@[simp] theorem State.setReg_notified (r : Reg) (v : Word) : (s.setReg r v).notified = s.notified := by simp [State.setReg]
@[simp] theorem State.setReg_news (r : Reg) (v : Word) : (s.setReg r v).news = s.news := by simp [State.setReg]
@[simp] theorem State.setReg_outbox (r : Reg) (v : Word) : (s.setReg r v).outbox = s.outbox := by simp [State.setReg]
@[simp] theorem State.setReg_now (r : Reg) (v : Word) : (s.setReg r v).now = s.now := by simp [State.setReg]
@[simp] theorem State.setReg_tick (r : Reg) (v : Word) : (s.setReg r v).tick = s.tick := by simp [State.setReg]
@[simp] theorem State.setReg_turn (r : Reg) (v : Word) : (s.setReg r v).turn = s.turn := by simp [State.setReg]
@[simp] theorem State.setReg_at_ (r : Reg) (v : Word) : (s.setReg r v).at_ = s.at_ := by simp [State.setReg]
@[simp] theorem State.setReg_ir (r : Reg) (v : Word) : (s.setReg r v).ir = s.ir := by simp [State.setReg]
@[simp] theorem State.setReg_late (r : Reg) (v : Word) : (s.setReg r v).late = s.late := by simp [State.setReg]
@[simp] theorem State.setReg_nextLate (r : Reg) (v : Word) : (s.setReg r v).nextLate = s.nextLate := by simp [State.setReg]
@[simp] theorem State.setReg_barSeen (r : Reg) (v : Word) : (s.setReg r v).barSeen = s.barSeen := by simp [State.setReg]
@[simp] theorem State.setReg_scSeen (r : Reg) (v : Word) : (s.setReg r v).scSeen = s.scSeen := by simp [State.setReg]
@[simp] theorem State.setReg_nextShip (r : Reg) (v : Word) : (s.setReg r v).nextShip = s.nextShip := by simp [State.setReg]
@[simp] theorem State.setReg_moved (r : Reg) (v : Word) : (s.setReg r v).moved = s.moved := by simp [State.setReg]

/-! ## finish -/

@[simp] theorem State.finish_mem (n : Nat) : (s.finish n).mem = s.mem := by simp [State.finish]
@[simp] theorem State.finish_live (n : Nat) : (s.finish n).live = s.live := by simp [State.finish]
@[simp] theorem State.finish_barTimes (n : Nat) : (s.finish n).barTimes = s.barTimes := by simp [State.finish]
@[simp] theorem State.finish_poison (n : Nat) : (s.finish n).poison = s.poison := by simp [State.finish]
@[simp] theorem State.finish_softErrors (n : Nat) : (s.finish n).softErrors = s.softErrors := by simp [State.finish]
@[simp] theorem State.finish_residue (n : Nat) : (s.finish n).residue = s.residue := by simp [State.finish]
@[simp] theorem State.finish_bars (n : Nat) : (s.finish n).bars = s.bars := by simp [State.finish]
@[simp] theorem State.finish_arrivals (n : Nat) : (s.finish n).arrivals = s.arrivals := by simp [State.finish]
@[simp] theorem State.finish_reqs (n : Nat) : (s.finish n).reqs = s.reqs := by simp [State.finish]
@[simp] theorem State.finish_nextReq (n : Nat) : (s.finish n).nextReq = s.nextReq := by simp [State.finish]
@[simp] theorem State.finish_reqSeqs (n : Nat) : (s.finish n).reqSeqs = s.reqSeqs := by simp [State.finish]
@[simp] theorem State.finish_atomLog (n : Nat) : (s.finish n).atomLog = s.atomLog := by simp [State.finish]
@[simp] theorem State.finish_inStreams (n : Nat) : (s.finish n).inStreams = s.inStreams := by simp [State.finish]
@[simp] theorem State.finish_faults (n : Nat) : (s.finish n).faults = s.faults := by simp [State.finish]
@[simp] theorem State.finish_nextFault (n : Nat) : (s.finish n).nextFault = s.nextFault := by simp [State.finish]
@[simp] theorem State.finish_fids (n : Nat) : (s.finish n).fids = s.fids := by simp [State.finish]
@[simp] theorem State.finish_parts (n : Nat) : (s.finish n).parts = s.parts := by simp [State.finish]
@[simp] theorem State.finish_queues (n : Nat) : (s.finish n).queues = s.queues := by simp [State.finish]
@[simp] theorem State.finish_packets (n : Nat) : (s.finish n).packets = s.packets := by simp [State.finish]
@[simp] theorem State.finish_launches (n : Nat) : (s.finish n).launches = s.launches := by simp [State.finish]
@[simp] theorem State.finish_nextLaunch (n : Nat) : (s.finish n).nextLaunch = s.nextLaunch := by simp [State.finish]
@[simp] theorem State.finish_conns (n : Nat) : (s.finish n).conns = s.conns := by simp [State.finish]
@[simp] theorem State.finish_endpoints (n : Nat) : (s.finish n).endpoints = s.endpoints := by simp [State.finish]
@[simp] theorem State.finish_remap (n : Nat) : (s.finish n).remap = s.remap := by simp [State.finish]
@[simp] theorem State.finish_ships (n : Nat) : (s.finish n).ships = s.ships := by simp [State.finish]
@[simp] theorem State.finish_fills (n : Nat) : (s.finish n).fills = s.fills := by simp [State.finish]
@[simp] theorem State.finish_links (n : Nat) : (s.finish n).links = s.links := by simp [State.finish]
@[simp] theorem State.finish_moving (n : Nat) : (s.finish n).moving = s.moving := by simp [State.finish]
@[simp] theorem State.finish_migCounts (n : Nat) : (s.finish n).migCounts = s.migCounts := by simp [State.finish]
@[simp] theorem State.finish_tlb (n : Nat) : (s.finish n).tlb = s.tlb := by simp [State.finish]
@[simp] theorem State.finish_rline (n : Nat) : (s.finish n).rline = s.rline := by simp [State.finish]
@[simp] theorem State.finish_marten (n : Nat) : (s.finish n).marten = s.marten := by simp [State.finish]
@[simp] theorem State.finish_power (n : Nat) : (s.finish n).power = s.power := by simp [State.finish]
@[simp] theorem State.finish_drops (n : Nat) : (s.finish n).drops = s.drops := by simp [State.finish]
@[simp] theorem State.finish_ports (n : Nat) : (s.finish n).ports = s.ports := by simp [State.finish]
@[simp] theorem State.finish_notified (n : Nat) : (s.finish n).notified = s.notified := by simp [State.finish]
@[simp] theorem State.finish_news (n : Nat) : (s.finish n).news = s.news := by simp [State.finish]
@[simp] theorem State.finish_outbox (n : Nat) : (s.finish n).outbox = s.outbox := by simp [State.finish]
@[simp] theorem State.finish_now (n : Nat) : (s.finish n).now = s.now := by simp [State.finish]
@[simp] theorem State.finish_tick (n : Nat) : (s.finish n).tick = s.tick := by simp [State.finish]
@[simp] theorem State.finish_turn (n : Nat) : (s.finish n).turn = s.turn := by simp [State.finish]
@[simp] theorem State.finish_at_ (n : Nat) : (s.finish n).at_ = s.at_ := by simp [State.finish]
@[simp] theorem State.finish_ir (n : Nat) : (s.finish n).ir = s.ir := by simp [State.finish]
@[simp] theorem State.finish_late (n : Nat) : (s.finish n).late = s.late := by simp [State.finish]
@[simp] theorem State.finish_nextLate (n : Nat) : (s.finish n).nextLate = s.nextLate := by simp [State.finish]
@[simp] theorem State.finish_barSeen (n : Nat) : (s.finish n).barSeen = s.barSeen := by simp [State.finish]
@[simp] theorem State.finish_scSeen (n : Nat) : (s.finish n).scSeen = s.scSeen := by simp [State.finish]
@[simp] theorem State.finish_nextShip (n : Nat) : (s.finish n).nextShip = s.nextShip := by simp [State.finish]
@[simp] theorem State.finish_moved (n : Nat) : (s.finish n).moved = s.moved := by simp [State.finish]

/-! ## jump -/

@[simp] theorem State.jump_mem (a : Word) : (s.jump a).mem = s.mem := by simp [State.jump]
@[simp] theorem State.jump_live (a : Word) : (s.jump a).live = s.live := by simp [State.jump]
@[simp] theorem State.jump_barTimes (a : Word) : (s.jump a).barTimes = s.barTimes := by simp [State.jump]
@[simp] theorem State.jump_poison (a : Word) : (s.jump a).poison = s.poison := by simp [State.jump]
@[simp] theorem State.jump_softErrors (a : Word) : (s.jump a).softErrors = s.softErrors := by simp [State.jump]
@[simp] theorem State.jump_residue (a : Word) : (s.jump a).residue = s.residue := by simp [State.jump]
@[simp] theorem State.jump_bars (a : Word) : (s.jump a).bars = s.bars := by simp [State.jump]
@[simp] theorem State.jump_arrivals (a : Word) : (s.jump a).arrivals = s.arrivals := by simp [State.jump]
@[simp] theorem State.jump_reqs (a : Word) : (s.jump a).reqs = s.reqs := by simp [State.jump]
@[simp] theorem State.jump_nextReq (a : Word) : (s.jump a).nextReq = s.nextReq := by simp [State.jump]
@[simp] theorem State.jump_reqSeqs (a : Word) : (s.jump a).reqSeqs = s.reqSeqs := by simp [State.jump]
@[simp] theorem State.jump_atomLog (a : Word) : (s.jump a).atomLog = s.atomLog := by simp [State.jump]
@[simp] theorem State.jump_inStreams (a : Word) : (s.jump a).inStreams = s.inStreams := by simp [State.jump]
@[simp] theorem State.jump_faults (a : Word) : (s.jump a).faults = s.faults := by simp [State.jump]
@[simp] theorem State.jump_nextFault (a : Word) : (s.jump a).nextFault = s.nextFault := by simp [State.jump]
@[simp] theorem State.jump_fids (a : Word) : (s.jump a).fids = s.fids := by simp [State.jump]
@[simp] theorem State.jump_parts (a : Word) : (s.jump a).parts = s.parts := by simp [State.jump]
@[simp] theorem State.jump_queues (a : Word) : (s.jump a).queues = s.queues := by simp [State.jump]
@[simp] theorem State.jump_packets (a : Word) : (s.jump a).packets = s.packets := by simp [State.jump]
@[simp] theorem State.jump_launches (a : Word) : (s.jump a).launches = s.launches := by simp [State.jump]
@[simp] theorem State.jump_nextLaunch (a : Word) : (s.jump a).nextLaunch = s.nextLaunch := by simp [State.jump]
@[simp] theorem State.jump_conns (a : Word) : (s.jump a).conns = s.conns := by simp [State.jump]
@[simp] theorem State.jump_endpoints (a : Word) : (s.jump a).endpoints = s.endpoints := by simp [State.jump]
@[simp] theorem State.jump_remap (a : Word) : (s.jump a).remap = s.remap := by simp [State.jump]
@[simp] theorem State.jump_ships (a : Word) : (s.jump a).ships = s.ships := by simp [State.jump]
@[simp] theorem State.jump_fills (a : Word) : (s.jump a).fills = s.fills := by simp [State.jump]
@[simp] theorem State.jump_links (a : Word) : (s.jump a).links = s.links := by simp [State.jump]
@[simp] theorem State.jump_moving (a : Word) : (s.jump a).moving = s.moving := by simp [State.jump]
@[simp] theorem State.jump_migCounts (a : Word) : (s.jump a).migCounts = s.migCounts := by simp [State.jump]
@[simp] theorem State.jump_tlb (a : Word) : (s.jump a).tlb = s.tlb := by simp [State.jump]
@[simp] theorem State.jump_rline (a : Word) : (s.jump a).rline = s.rline := by simp [State.jump]
@[simp] theorem State.jump_marten (a : Word) : (s.jump a).marten = s.marten := by simp [State.jump]
@[simp] theorem State.jump_power (a : Word) : (s.jump a).power = s.power := by simp [State.jump]
@[simp] theorem State.jump_drops (a : Word) : (s.jump a).drops = s.drops := by simp [State.jump]
@[simp] theorem State.jump_ports (a : Word) : (s.jump a).ports = s.ports := by simp [State.jump]
@[simp] theorem State.jump_notified (a : Word) : (s.jump a).notified = s.notified := by simp [State.jump]
@[simp] theorem State.jump_news (a : Word) : (s.jump a).news = s.news := by simp [State.jump]
@[simp] theorem State.jump_outbox (a : Word) : (s.jump a).outbox = s.outbox := by simp [State.jump]
@[simp] theorem State.jump_now (a : Word) : (s.jump a).now = s.now := by simp [State.jump]
@[simp] theorem State.jump_tick (a : Word) : (s.jump a).tick = s.tick := by simp [State.jump]
@[simp] theorem State.jump_turn (a : Word) : (s.jump a).turn = s.turn := by simp [State.jump]
@[simp] theorem State.jump_at_ (a : Word) : (s.jump a).at_ = s.at_ := by simp [State.jump]
@[simp] theorem State.jump_ir (a : Word) : (s.jump a).ir = s.ir := by simp [State.jump]
@[simp] theorem State.jump_late (a : Word) : (s.jump a).late = s.late := by simp [State.jump]
@[simp] theorem State.jump_nextLate (a : Word) : (s.jump a).nextLate = s.nextLate := by simp [State.jump]
@[simp] theorem State.jump_barSeen (a : Word) : (s.jump a).barSeen = s.barSeen := by simp [State.jump]
@[simp] theorem State.jump_scSeen (a : Word) : (s.jump a).scSeen = s.scSeen := by simp [State.jump]
@[simp] theorem State.jump_nextShip (a : Word) : (s.jump a).nextShip = s.nextShip := by simp [State.jump]
@[simp] theorem State.jump_moved (a : Word) : (s.jump a).moved = s.moved := by simp [State.jump]

/-! ## waitFor -/

@[simp] theorem State.waitFor_mem (r o : Nat) : (s.waitFor r o).mem = s.mem := by simp [State.waitFor]
@[simp] theorem State.waitFor_live (r o : Nat) : (s.waitFor r o).live = s.live := by simp [State.waitFor]
@[simp] theorem State.waitFor_barTimes (r o : Nat) : (s.waitFor r o).barTimes = s.barTimes := by simp [State.waitFor]
@[simp] theorem State.waitFor_poison (r o : Nat) : (s.waitFor r o).poison = s.poison := by simp [State.waitFor]
@[simp] theorem State.waitFor_softErrors (r o : Nat) : (s.waitFor r o).softErrors = s.softErrors := by simp [State.waitFor]
@[simp] theorem State.waitFor_residue (r o : Nat) : (s.waitFor r o).residue = s.residue := by simp [State.waitFor]
@[simp] theorem State.waitFor_bars (r o : Nat) : (s.waitFor r o).bars = s.bars := by simp [State.waitFor]
@[simp] theorem State.waitFor_arrivals (r o : Nat) : (s.waitFor r o).arrivals = s.arrivals := by simp [State.waitFor]
@[simp] theorem State.waitFor_reqs (r o : Nat) : (s.waitFor r o).reqs = s.reqs := by simp [State.waitFor]
@[simp] theorem State.waitFor_nextReq (r o : Nat) : (s.waitFor r o).nextReq = s.nextReq := by simp [State.waitFor]
@[simp] theorem State.waitFor_reqSeqs (r o : Nat) : (s.waitFor r o).reqSeqs = s.reqSeqs := by simp [State.waitFor]
@[simp] theorem State.waitFor_atomLog (r o : Nat) : (s.waitFor r o).atomLog = s.atomLog := by simp [State.waitFor]
@[simp] theorem State.waitFor_inStreams (r o : Nat) : (s.waitFor r o).inStreams = s.inStreams := by simp [State.waitFor]
@[simp] theorem State.waitFor_faults (r o : Nat) : (s.waitFor r o).faults = s.faults := by simp [State.waitFor]
@[simp] theorem State.waitFor_nextFault (r o : Nat) : (s.waitFor r o).nextFault = s.nextFault := by simp [State.waitFor]
@[simp] theorem State.waitFor_fids (r o : Nat) : (s.waitFor r o).fids = s.fids := by simp [State.waitFor]
@[simp] theorem State.waitFor_parts (r o : Nat) : (s.waitFor r o).parts = s.parts := by simp [State.waitFor]
@[simp] theorem State.waitFor_queues (r o : Nat) : (s.waitFor r o).queues = s.queues := by simp [State.waitFor]
@[simp] theorem State.waitFor_packets (r o : Nat) : (s.waitFor r o).packets = s.packets := by simp [State.waitFor]
@[simp] theorem State.waitFor_launches (r o : Nat) : (s.waitFor r o).launches = s.launches := by simp [State.waitFor]
@[simp] theorem State.waitFor_nextLaunch (r o : Nat) : (s.waitFor r o).nextLaunch = s.nextLaunch := by simp [State.waitFor]
@[simp] theorem State.waitFor_conns (r o : Nat) : (s.waitFor r o).conns = s.conns := by simp [State.waitFor]
@[simp] theorem State.waitFor_endpoints (r o : Nat) : (s.waitFor r o).endpoints = s.endpoints := by simp [State.waitFor]
@[simp] theorem State.waitFor_remap (r o : Nat) : (s.waitFor r o).remap = s.remap := by simp [State.waitFor]
@[simp] theorem State.waitFor_ships (r o : Nat) : (s.waitFor r o).ships = s.ships := by simp [State.waitFor]
@[simp] theorem State.waitFor_fills (r o : Nat) : (s.waitFor r o).fills = s.fills := by simp [State.waitFor]
@[simp] theorem State.waitFor_links (r o : Nat) : (s.waitFor r o).links = s.links := by simp [State.waitFor]
@[simp] theorem State.waitFor_moving (r o : Nat) : (s.waitFor r o).moving = s.moving := by simp [State.waitFor]
@[simp] theorem State.waitFor_migCounts (r o : Nat) : (s.waitFor r o).migCounts = s.migCounts := by simp [State.waitFor]
@[simp] theorem State.waitFor_tlb (r o : Nat) : (s.waitFor r o).tlb = s.tlb := by simp [State.waitFor]
@[simp] theorem State.waitFor_rline (r o : Nat) : (s.waitFor r o).rline = s.rline := by simp [State.waitFor]
@[simp] theorem State.waitFor_marten (r o : Nat) : (s.waitFor r o).marten = s.marten := by simp [State.waitFor]
@[simp] theorem State.waitFor_power (r o : Nat) : (s.waitFor r o).power = s.power := by simp [State.waitFor]
@[simp] theorem State.waitFor_drops (r o : Nat) : (s.waitFor r o).drops = s.drops := by simp [State.waitFor]
@[simp] theorem State.waitFor_ports (r o : Nat) : (s.waitFor r o).ports = s.ports := by simp [State.waitFor]
@[simp] theorem State.waitFor_notified (r o : Nat) : (s.waitFor r o).notified = s.notified := by simp [State.waitFor]
@[simp] theorem State.waitFor_news (r o : Nat) : (s.waitFor r o).news = s.news := by simp [State.waitFor]
@[simp] theorem State.waitFor_outbox (r o : Nat) : (s.waitFor r o).outbox = s.outbox := by simp [State.waitFor]
@[simp] theorem State.waitFor_now (r o : Nat) : (s.waitFor r o).now = s.now := by simp [State.waitFor]
@[simp] theorem State.waitFor_tick (r o : Nat) : (s.waitFor r o).tick = s.tick := by simp [State.waitFor]
@[simp] theorem State.waitFor_turn (r o : Nat) : (s.waitFor r o).turn = s.turn := by simp [State.waitFor]
@[simp] theorem State.waitFor_at_ (r o : Nat) : (s.waitFor r o).at_ = s.at_ := by simp [State.waitFor]
@[simp] theorem State.waitFor_ir (r o : Nat) : (s.waitFor r o).ir = s.ir := by simp [State.waitFor]
@[simp] theorem State.waitFor_late (r o : Nat) : (s.waitFor r o).late = s.late := by simp [State.waitFor]
@[simp] theorem State.waitFor_nextLate (r o : Nat) : (s.waitFor r o).nextLate = s.nextLate := by simp [State.waitFor]
@[simp] theorem State.waitFor_barSeen (r o : Nat) : (s.waitFor r o).barSeen = s.barSeen := by simp [State.waitFor]
@[simp] theorem State.waitFor_scSeen (r o : Nat) : (s.waitFor r o).scSeen = s.scSeen := by simp [State.waitFor]
@[simp] theorem State.waitFor_nextShip (r o : Nat) : (s.waitFor r o).nextShip = s.nextShip := by simp [State.waitFor]
@[simp] theorem State.waitFor_moved (r o : Nat) : (s.waitFor r o).moved = s.moved := by simp [State.waitFor]

/-! ## result -/

@[simp] theorem State.result_mem (d : Reg) (v : Word) (n : Nat) : (s.result d v n).mem = s.mem := by simp [State.result]
@[simp] theorem State.result_live (d : Reg) (v : Word) (n : Nat) : (s.result d v n).live = s.live := by simp [State.result]
@[simp] theorem State.result_barTimes (d : Reg) (v : Word) (n : Nat) : (s.result d v n).barTimes = s.barTimes := by simp [State.result]
@[simp] theorem State.result_poison (d : Reg) (v : Word) (n : Nat) : (s.result d v n).poison = s.poison := by simp [State.result]
@[simp] theorem State.result_softErrors (d : Reg) (v : Word) (n : Nat) : (s.result d v n).softErrors = s.softErrors := by simp [State.result]
@[simp] theorem State.result_residue (d : Reg) (v : Word) (n : Nat) : (s.result d v n).residue = s.residue := by simp [State.result]
@[simp] theorem State.result_bars (d : Reg) (v : Word) (n : Nat) : (s.result d v n).bars = s.bars := by simp [State.result]
@[simp] theorem State.result_arrivals (d : Reg) (v : Word) (n : Nat) : (s.result d v n).arrivals = s.arrivals := by simp [State.result]
@[simp] theorem State.result_reqs (d : Reg) (v : Word) (n : Nat) : (s.result d v n).reqs = s.reqs := by simp [State.result]
@[simp] theorem State.result_nextReq (d : Reg) (v : Word) (n : Nat) : (s.result d v n).nextReq = s.nextReq := by simp [State.result]
@[simp] theorem State.result_reqSeqs (d : Reg) (v : Word) (n : Nat) : (s.result d v n).reqSeqs = s.reqSeqs := by simp [State.result]
@[simp] theorem State.result_atomLog (d : Reg) (v : Word) (n : Nat) : (s.result d v n).atomLog = s.atomLog := by simp [State.result]
@[simp] theorem State.result_inStreams (d : Reg) (v : Word) (n : Nat) : (s.result d v n).inStreams = s.inStreams := by simp [State.result]
@[simp] theorem State.result_faults (d : Reg) (v : Word) (n : Nat) : (s.result d v n).faults = s.faults := by simp [State.result]
@[simp] theorem State.result_nextFault (d : Reg) (v : Word) (n : Nat) : (s.result d v n).nextFault = s.nextFault := by simp [State.result]
@[simp] theorem State.result_fids (d : Reg) (v : Word) (n : Nat) : (s.result d v n).fids = s.fids := by simp [State.result]
@[simp] theorem State.result_parts (d : Reg) (v : Word) (n : Nat) : (s.result d v n).parts = s.parts := by simp [State.result]
@[simp] theorem State.result_queues (d : Reg) (v : Word) (n : Nat) : (s.result d v n).queues = s.queues := by simp [State.result]
@[simp] theorem State.result_packets (d : Reg) (v : Word) (n : Nat) : (s.result d v n).packets = s.packets := by simp [State.result]
@[simp] theorem State.result_launches (d : Reg) (v : Word) (n : Nat) : (s.result d v n).launches = s.launches := by simp [State.result]
@[simp] theorem State.result_nextLaunch (d : Reg) (v : Word) (n : Nat) : (s.result d v n).nextLaunch = s.nextLaunch := by simp [State.result]
@[simp] theorem State.result_conns (d : Reg) (v : Word) (n : Nat) : (s.result d v n).conns = s.conns := by simp [State.result]
@[simp] theorem State.result_endpoints (d : Reg) (v : Word) (n : Nat) : (s.result d v n).endpoints = s.endpoints := by simp [State.result]
@[simp] theorem State.result_remap (d : Reg) (v : Word) (n : Nat) : (s.result d v n).remap = s.remap := by simp [State.result]
@[simp] theorem State.result_ships (d : Reg) (v : Word) (n : Nat) : (s.result d v n).ships = s.ships := by simp [State.result]
@[simp] theorem State.result_fills (d : Reg) (v : Word) (n : Nat) : (s.result d v n).fills = s.fills := by simp [State.result]
@[simp] theorem State.result_links (d : Reg) (v : Word) (n : Nat) : (s.result d v n).links = s.links := by simp [State.result]
@[simp] theorem State.result_moving (d : Reg) (v : Word) (n : Nat) : (s.result d v n).moving = s.moving := by simp [State.result]
@[simp] theorem State.result_migCounts (d : Reg) (v : Word) (n : Nat) : (s.result d v n).migCounts = s.migCounts := by simp [State.result]
@[simp] theorem State.result_tlb (d : Reg) (v : Word) (n : Nat) : (s.result d v n).tlb = s.tlb := by simp [State.result]
@[simp] theorem State.result_rline (d : Reg) (v : Word) (n : Nat) : (s.result d v n).rline = s.rline := by simp [State.result]
@[simp] theorem State.result_marten (d : Reg) (v : Word) (n : Nat) : (s.result d v n).marten = s.marten := by simp [State.result]
@[simp] theorem State.result_power (d : Reg) (v : Word) (n : Nat) : (s.result d v n).power = s.power := by simp [State.result]
@[simp] theorem State.result_drops (d : Reg) (v : Word) (n : Nat) : (s.result d v n).drops = s.drops := by simp [State.result]
@[simp] theorem State.result_ports (d : Reg) (v : Word) (n : Nat) : (s.result d v n).ports = s.ports := by simp [State.result]
@[simp] theorem State.result_notified (d : Reg) (v : Word) (n : Nat) : (s.result d v n).notified = s.notified := by simp [State.result]
@[simp] theorem State.result_news (d : Reg) (v : Word) (n : Nat) : (s.result d v n).news = s.news := by simp [State.result]
@[simp] theorem State.result_outbox (d : Reg) (v : Word) (n : Nat) : (s.result d v n).outbox = s.outbox := by simp [State.result]
@[simp] theorem State.result_now (d : Reg) (v : Word) (n : Nat) : (s.result d v n).now = s.now := by simp [State.result]
@[simp] theorem State.result_tick (d : Reg) (v : Word) (n : Nat) : (s.result d v n).tick = s.tick := by simp [State.result]
@[simp] theorem State.result_turn (d : Reg) (v : Word) (n : Nat) : (s.result d v n).turn = s.turn := by simp [State.result]
@[simp] theorem State.result_at_ (d : Reg) (v : Word) (n : Nat) : (s.result d v n).at_ = s.at_ := by simp [State.result]
@[simp] theorem State.result_ir (d : Reg) (v : Word) (n : Nat) : (s.result d v n).ir = s.ir := by simp [State.result]
@[simp] theorem State.result_late (d : Reg) (v : Word) (n : Nat) : (s.result d v n).late = s.late := by simp [State.result]
@[simp] theorem State.result_nextLate (d : Reg) (v : Word) (n : Nat) : (s.result d v n).nextLate = s.nextLate := by simp [State.result]
@[simp] theorem State.result_barSeen (d : Reg) (v : Word) (n : Nat) : (s.result d v n).barSeen = s.barSeen := by simp [State.result]
@[simp] theorem State.result_scSeen (d : Reg) (v : Word) (n : Nat) : (s.result d v n).scSeen = s.scSeen := by simp [State.result]
@[simp] theorem State.result_nextShip (d : Reg) (v : Word) (n : Nat) : (s.result d v n).nextShip = s.nextShip := by simp [State.result]
@[simp] theorem State.result_moved (d : Reg) (v : Word) (n : Nat) : (s.result d v n).moved = s.moved := by simp [State.result]

/-! ## modCtx -/

@[simp] theorem State.modCtx_mem (f : Ctx → Ctx) : (s.modCtx f).mem = s.mem := by simp [State.modCtx]
@[simp] theorem State.modCtx_live (f : Ctx → Ctx) : (s.modCtx f).live = s.live := by simp [State.modCtx]
@[simp] theorem State.modCtx_barTimes (f : Ctx → Ctx) : (s.modCtx f).barTimes = s.barTimes := by simp [State.modCtx]
@[simp] theorem State.modCtx_poison (f : Ctx → Ctx) : (s.modCtx f).poison = s.poison := by simp [State.modCtx]
@[simp] theorem State.modCtx_softErrors (f : Ctx → Ctx) : (s.modCtx f).softErrors = s.softErrors := by simp [State.modCtx]
@[simp] theorem State.modCtx_residue (f : Ctx → Ctx) : (s.modCtx f).residue = s.residue := by simp [State.modCtx]
@[simp] theorem State.modCtx_bars (f : Ctx → Ctx) : (s.modCtx f).bars = s.bars := by simp [State.modCtx]
@[simp] theorem State.modCtx_arrivals (f : Ctx → Ctx) : (s.modCtx f).arrivals = s.arrivals := by simp [State.modCtx]
@[simp] theorem State.modCtx_reqs (f : Ctx → Ctx) : (s.modCtx f).reqs = s.reqs := by simp [State.modCtx]
@[simp] theorem State.modCtx_nextReq (f : Ctx → Ctx) : (s.modCtx f).nextReq = s.nextReq := by simp [State.modCtx]
@[simp] theorem State.modCtx_reqSeqs (f : Ctx → Ctx) : (s.modCtx f).reqSeqs = s.reqSeqs := by simp [State.modCtx]
@[simp] theorem State.modCtx_atomLog (f : Ctx → Ctx) : (s.modCtx f).atomLog = s.atomLog := by simp [State.modCtx]
@[simp] theorem State.modCtx_inStreams (f : Ctx → Ctx) : (s.modCtx f).inStreams = s.inStreams := by simp [State.modCtx]
@[simp] theorem State.modCtx_faults (f : Ctx → Ctx) : (s.modCtx f).faults = s.faults := by simp [State.modCtx]
@[simp] theorem State.modCtx_nextFault (f : Ctx → Ctx) : (s.modCtx f).nextFault = s.nextFault := by simp [State.modCtx]
@[simp] theorem State.modCtx_fids (f : Ctx → Ctx) : (s.modCtx f).fids = s.fids := by simp [State.modCtx]
@[simp] theorem State.modCtx_parts (f : Ctx → Ctx) : (s.modCtx f).parts = s.parts := by simp [State.modCtx]
@[simp] theorem State.modCtx_queues (f : Ctx → Ctx) : (s.modCtx f).queues = s.queues := by simp [State.modCtx]
@[simp] theorem State.modCtx_packets (f : Ctx → Ctx) : (s.modCtx f).packets = s.packets := by simp [State.modCtx]
@[simp] theorem State.modCtx_launches (f : Ctx → Ctx) : (s.modCtx f).launches = s.launches := by simp [State.modCtx]
@[simp] theorem State.modCtx_nextLaunch (f : Ctx → Ctx) : (s.modCtx f).nextLaunch = s.nextLaunch := by simp [State.modCtx]
@[simp] theorem State.modCtx_conns (f : Ctx → Ctx) : (s.modCtx f).conns = s.conns := by simp [State.modCtx]
@[simp] theorem State.modCtx_endpoints (f : Ctx → Ctx) : (s.modCtx f).endpoints = s.endpoints := by simp [State.modCtx]
@[simp] theorem State.modCtx_remap (f : Ctx → Ctx) : (s.modCtx f).remap = s.remap := by simp [State.modCtx]
@[simp] theorem State.modCtx_ships (f : Ctx → Ctx) : (s.modCtx f).ships = s.ships := by simp [State.modCtx]
@[simp] theorem State.modCtx_fills (f : Ctx → Ctx) : (s.modCtx f).fills = s.fills := by simp [State.modCtx]
@[simp] theorem State.modCtx_links (f : Ctx → Ctx) : (s.modCtx f).links = s.links := by simp [State.modCtx]
@[simp] theorem State.modCtx_moving (f : Ctx → Ctx) : (s.modCtx f).moving = s.moving := by simp [State.modCtx]
@[simp] theorem State.modCtx_migCounts (f : Ctx → Ctx) : (s.modCtx f).migCounts = s.migCounts := by simp [State.modCtx]
@[simp] theorem State.modCtx_tlb (f : Ctx → Ctx) : (s.modCtx f).tlb = s.tlb := by simp [State.modCtx]
@[simp] theorem State.modCtx_rline (f : Ctx → Ctx) : (s.modCtx f).rline = s.rline := by simp [State.modCtx]
@[simp] theorem State.modCtx_marten (f : Ctx → Ctx) : (s.modCtx f).marten = s.marten := by simp [State.modCtx]
@[simp] theorem State.modCtx_power (f : Ctx → Ctx) : (s.modCtx f).power = s.power := by simp [State.modCtx]
@[simp] theorem State.modCtx_drops (f : Ctx → Ctx) : (s.modCtx f).drops = s.drops := by simp [State.modCtx]
@[simp] theorem State.modCtx_ports (f : Ctx → Ctx) : (s.modCtx f).ports = s.ports := by simp [State.modCtx]
@[simp] theorem State.modCtx_notified (f : Ctx → Ctx) : (s.modCtx f).notified = s.notified := by simp [State.modCtx]
@[simp] theorem State.modCtx_news (f : Ctx → Ctx) : (s.modCtx f).news = s.news := by simp [State.modCtx]
@[simp] theorem State.modCtx_outbox (f : Ctx → Ctx) : (s.modCtx f).outbox = s.outbox := by simp [State.modCtx]
@[simp] theorem State.modCtx_now (f : Ctx → Ctx) : (s.modCtx f).now = s.now := by simp [State.modCtx]
@[simp] theorem State.modCtx_tick (f : Ctx → Ctx) : (s.modCtx f).tick = s.tick := by simp [State.modCtx]
@[simp] theorem State.modCtx_turn (f : Ctx → Ctx) : (s.modCtx f).turn = s.turn := by simp [State.modCtx]
@[simp] theorem State.modCtx_at_ (f : Ctx → Ctx) : (s.modCtx f).at_ = s.at_ := by simp [State.modCtx]
@[simp] theorem State.modCtx_ir (f : Ctx → Ctx) : (s.modCtx f).ir = s.ir := by simp [State.modCtx]
@[simp] theorem State.modCtx_late (f : Ctx → Ctx) : (s.modCtx f).late = s.late := by simp [State.modCtx]
@[simp] theorem State.modCtx_nextLate (f : Ctx → Ctx) : (s.modCtx f).nextLate = s.nextLate := by simp [State.modCtx]
@[simp] theorem State.modCtx_barSeen (f : Ctx → Ctx) : (s.modCtx f).barSeen = s.barSeen := by simp [State.modCtx]
@[simp] theorem State.modCtx_scSeen (f : Ctx → Ctx) : (s.modCtx f).scSeen = s.scSeen := by simp [State.modCtx]
@[simp] theorem State.modCtx_nextShip (f : Ctx → Ctx) : (s.modCtx f).nextShip = s.nextShip := by simp [State.modCtx]
@[simp] theorem State.modCtx_moved (f : Ctx → Ctx) : (s.modCtx f).moved = s.moved := by simp [State.modCtx]

/-! ## vdone -/

@[simp] theorem State.vdone_mem (f : Flags) : (s.vdone f).mem = s.mem := by simp [State.vdone]
@[simp] theorem State.vdone_live (f : Flags) : (s.vdone f).live = s.live := by simp [State.vdone]
@[simp] theorem State.vdone_barTimes (f : Flags) : (s.vdone f).barTimes = s.barTimes := by simp [State.vdone]
@[simp] theorem State.vdone_poison (f : Flags) : (s.vdone f).poison = s.poison := by simp [State.vdone]
@[simp] theorem State.vdone_softErrors (f : Flags) : (s.vdone f).softErrors = s.softErrors := by simp [State.vdone]
@[simp] theorem State.vdone_residue (f : Flags) : (s.vdone f).residue = s.residue := by simp [State.vdone]
@[simp] theorem State.vdone_bars (f : Flags) : (s.vdone f).bars = s.bars := by simp [State.vdone]
@[simp] theorem State.vdone_arrivals (f : Flags) : (s.vdone f).arrivals = s.arrivals := by simp [State.vdone]
@[simp] theorem State.vdone_reqs (f : Flags) : (s.vdone f).reqs = s.reqs := by simp [State.vdone]
@[simp] theorem State.vdone_nextReq (f : Flags) : (s.vdone f).nextReq = s.nextReq := by simp [State.vdone]
@[simp] theorem State.vdone_reqSeqs (f : Flags) : (s.vdone f).reqSeqs = s.reqSeqs := by simp [State.vdone]
@[simp] theorem State.vdone_atomLog (f : Flags) : (s.vdone f).atomLog = s.atomLog := by simp [State.vdone]
@[simp] theorem State.vdone_inStreams (f : Flags) : (s.vdone f).inStreams = s.inStreams := by simp [State.vdone]
@[simp] theorem State.vdone_faults (f : Flags) : (s.vdone f).faults = s.faults := by simp [State.vdone]
@[simp] theorem State.vdone_nextFault (f : Flags) : (s.vdone f).nextFault = s.nextFault := by simp [State.vdone]
@[simp] theorem State.vdone_fids (f : Flags) : (s.vdone f).fids = s.fids := by simp [State.vdone]
@[simp] theorem State.vdone_parts (f : Flags) : (s.vdone f).parts = s.parts := by simp [State.vdone]
@[simp] theorem State.vdone_queues (f : Flags) : (s.vdone f).queues = s.queues := by simp [State.vdone]
@[simp] theorem State.vdone_packets (f : Flags) : (s.vdone f).packets = s.packets := by simp [State.vdone]
@[simp] theorem State.vdone_launches (f : Flags) : (s.vdone f).launches = s.launches := by simp [State.vdone]
@[simp] theorem State.vdone_nextLaunch (f : Flags) : (s.vdone f).nextLaunch = s.nextLaunch := by simp [State.vdone]
@[simp] theorem State.vdone_conns (f : Flags) : (s.vdone f).conns = s.conns := by simp [State.vdone]
@[simp] theorem State.vdone_endpoints (f : Flags) : (s.vdone f).endpoints = s.endpoints := by simp [State.vdone]
@[simp] theorem State.vdone_remap (f : Flags) : (s.vdone f).remap = s.remap := by simp [State.vdone]
@[simp] theorem State.vdone_ships (f : Flags) : (s.vdone f).ships = s.ships := by simp [State.vdone]
@[simp] theorem State.vdone_fills (f : Flags) : (s.vdone f).fills = s.fills := by simp [State.vdone]
@[simp] theorem State.vdone_links (f : Flags) : (s.vdone f).links = s.links := by simp [State.vdone]
@[simp] theorem State.vdone_moving (f : Flags) : (s.vdone f).moving = s.moving := by simp [State.vdone]
@[simp] theorem State.vdone_migCounts (f : Flags) : (s.vdone f).migCounts = s.migCounts := by simp [State.vdone]
@[simp] theorem State.vdone_tlb (f : Flags) : (s.vdone f).tlb = s.tlb := by simp [State.vdone]
@[simp] theorem State.vdone_rline (f : Flags) : (s.vdone f).rline = s.rline := by simp [State.vdone]
@[simp] theorem State.vdone_marten (f : Flags) : (s.vdone f).marten = s.marten := by simp [State.vdone]
@[simp] theorem State.vdone_power (f : Flags) : (s.vdone f).power = s.power := by simp [State.vdone]
@[simp] theorem State.vdone_drops (f : Flags) : (s.vdone f).drops = s.drops := by simp [State.vdone]
@[simp] theorem State.vdone_ports (f : Flags) : (s.vdone f).ports = s.ports := by simp [State.vdone]
@[simp] theorem State.vdone_notified (f : Flags) : (s.vdone f).notified = s.notified := by simp [State.vdone]
@[simp] theorem State.vdone_news (f : Flags) : (s.vdone f).news = s.news := by simp [State.vdone]
@[simp] theorem State.vdone_outbox (f : Flags) : (s.vdone f).outbox = s.outbox := by simp [State.vdone]
@[simp] theorem State.vdone_now (f : Flags) : (s.vdone f).now = s.now := by simp [State.vdone]
@[simp] theorem State.vdone_tick (f : Flags) : (s.vdone f).tick = s.tick := by simp [State.vdone]
@[simp] theorem State.vdone_turn (f : Flags) : (s.vdone f).turn = s.turn := by simp [State.vdone]
@[simp] theorem State.vdone_at_ (f : Flags) : (s.vdone f).at_ = s.at_ := by simp [State.vdone]
@[simp] theorem State.vdone_ir (f : Flags) : (s.vdone f).ir = s.ir := by simp [State.vdone]
@[simp] theorem State.vdone_late (f : Flags) : (s.vdone f).late = s.late := by simp [State.vdone]
@[simp] theorem State.vdone_nextLate (f : Flags) : (s.vdone f).nextLate = s.nextLate := by simp [State.vdone]
@[simp] theorem State.vdone_barSeen (f : Flags) : (s.vdone f).barSeen = s.barSeen := by simp [State.vdone]
@[simp] theorem State.vdone_scSeen (f : Flags) : (s.vdone f).scSeen = s.scSeen := by simp [State.vdone]
@[simp] theorem State.vdone_nextShip (f : Flags) : (s.vdone f).nextShip = s.nextShip := by simp [State.vdone]
@[simp] theorem State.vdone_moved (f : Flags) : (s.vdone f).moved = s.moved := by simp [State.vdone]

/-! ## Cores and strands -/

@[simp] theorem State.core_setCore_self (c : Nat) (x : Core) (h : c < 260) : (s.setCore c x).core c = x := by
  simp [State.core, State.setCore, h]

@[simp] theorem State.core_setCore_ne (c d : Nat) (x : Core) (h : d ≠ c) : (s.setCore c x).core d = s.core d := by
  unfold State.core State.setCore
  by_cases hc : c < 260 <;> by_cases hd : d < 260 <;> simp [hc, hd, h.symm]

theorem State.setCore_eq (c : Nat) (x : Core) (h : c < 260) : s.setCore c x = { s with cores := s.cores.set c x } := dif_pos h

theorem State.setCore_off (c : Nat) (x : Core) (h : ¬ c < 260) : s.setCore c x = s := by simp [State.setCore, h]

@[simp] theorem State.core_modCore_self (c : Nat) (f : Core → Core) (h : c < 260) : (s.modCore c f).core c = f (s.core c) := by
  simp [State.modCore, h]

@[simp] theorem State.core_modCore_ne (c d : Nat) (f : Core → Core) (h : d ≠ c) : (s.modCore c f).core d = s.core d := by
  simp [State.modCore, h]

@[simp] theorem Core.strand_setStrand_self (x : Core) (k : Nat) (t : Strand) (h : k < 4) : (x.setStrand k t).strand k = t := by
  simp [Core.strand, Core.setStrand, h]

@[simp] theorem Core.strand_setStrand_ne (x : Core) (k j : Nat) (t : Strand) (h : j ≠ k) : (x.setStrand k t).strand j = x.strand j := by
  unfold Core.strand Core.setStrand
  by_cases hk : k < 4 <;> by_cases hj : j < 4 <;> simp [hk, hj, h.symm]

/-- Changing a strand leaves everything of its core but the strands. -/
theorem Core.setStrand_rest (x : Core) (k : Nat) (t : Strand) : x.setStrand k t = { x with strands := (x.setStrand k t).strands } := by
  unfold Core.setStrand; split <;> rfl

@[simp] theorem State.me_modMe (f : Strand → Strand) : (s.modMe f).me = f s.me := by
  have hc : s.at_.core.val < 260 := s.at_.core.isLt
  have hk : s.at_.strand.val < 4 := s.at_.strand.isLt
  simp [State.me, State.modMe, State.modStrand, State.strand, State.myCore, State.myStrand, Core.modStrand, hc, hk]

/-- Changing the strand that moves changes nothing else. -/
theorem State.modMe_onlyMe (f : Strand → Strand) : s.onlyMe (s.modMe f) := by
  have hc : s.at_.core.val < 260 := s.at_.core.isLt
  refine ⟨?_, fun c => ?_, fun c k h => ?_⟩
  · simp only [State.modMe, State.modStrand, State.modCore, State.myCore, State.setCore_eq _ _ _ hc]
  · by_cases h : c = s.at_.core.val
    · subst h
      simp only [State.modMe, State.modStrand, State.myCore, State.core_modCore_self _ _ _ hc, Core.modStrand]
      exact Core.setStrand_rest _ _ _
    · simp [State.modMe, State.modStrand, State.myCore, h]
  · by_cases hc' : c = s.at_.core.val
    · subst hc'
      have hk : k ≠ s.at_.strand.val := fun e => h ⟨rfl, e⟩
      simp [State.strand, State.modMe, State.modStrand, State.myCore, State.myStrand, hc, Core.modStrand, hk]
    · simp [State.strand, State.modMe, State.modStrand, State.myCore, hc']

theorem State.onlyMe_trans {a b c : State} (h : a.onlyMe b) (g : b.onlyMe c) (hc : b.myCore = a.myCore) (hk : b.myStrand = a.myStrand) :
    a.onlyMe c := by
  refine ⟨?_, fun n => ?_, fun n k hn => ?_⟩
  · rw [g.1, h.1]
  · rw [g.2.1, h.2.1]
  · rw [g.2.2 n k (by rw [hc, hk]; exact hn), h.2.2 n k hn]

/-! ## Registers -/

@[simp] theorem Strand.reg_setReg (t : Strand) (d r : Reg) (v : Word) :
    (t.setReg d v).reg r = if r = d ∧ r ≠ 0 then v else t.reg r := by
  have hg : ∀ u : Strand, r ≠ 0 → u.reg r = u.regs[r.toNat]'(r.isLt) := fun u h => if_neg h
  by_cases hr : r = 0
  · subst hr; simp [Strand.reg]
  · by_cases hd : d = 0
    · subst hd; simp [Strand.setReg]
    · have hs : t.setReg d v = { t with regs := t.regs.set d.toNat v d.isLt, tokArriver := t.tokArriver.filter (·.1 != d) } := if_neg hd
      rw [hg _ hr, hg _ hr, hs]
      by_cases e : r = d
      · subst e; rw [if_pos ⟨rfl, hr⟩]; exact Vector.getElem_set_self _
      · have h : d.toNat ≠ r.toNat := fun h => e (BitVec.eq_of_toNat_eq h.symm)
        rw [if_neg fun x => e x.1]; exact Vector.getElem_set_ne d.isLt r.isLt h

/-- Writing a register leaves all of its strand but the registers and the arriver kept for that register's token. -/
theorem Strand.setReg_rest (t : Strand) (d : Reg) (v : Word) :
    t.setReg d v = { t with regs := (t.setReg d v).regs, tokArriver := (t.setReg d v).tokArriver } := by
  unfold Strand.setReg; split <;> rfl

/-- A result is written as Wrote says. -/
theorem State.result_wrote (d : Reg) (v : Word) (n : Nat) : Wrote s (s.result d v n) d v n := by
  have h : s.result d v n = s.modMe fun t => (t.setReg d v).finish n := by
    have hc : s.at_.core.val < 260 := s.at_.core.isLt
    have hk : s.at_.strand.val < 4 := s.at_.strand.isLt
    simp [State.result, State.finish, State.setReg, State.modMe, State.modStrand, State.modCore, State.myCore, State.myStrand, State.core,
      State.setCore_eq, hc, Core.modStrand, Core.strand, Core.setStrand, hk]
  have hm : (s.result d v n).me = (s.me.setReg d v).finish n := by rw [h, State.me_modMe]
  have hp : s.me.setReg d v = { s.me with regs := (s.me.setReg d v).regs, tokArriver := (s.me.setReg d v).tokArriver } :=
    Strand.setReg_rest _ _ _
  refine ⟨?_, ?_, ?_, ?_, ?_, ?_, ?_⟩
  · rw [h]; exact State.modMe_onlyMe s _
  · rw [hm, hp]; rfl
  · intro r
    show (s.result d v n).me.reg r = _
    rw [hm]
    exact Strand.reg_setReg s.me d r v
  all_goals rw [hm, hp]; rfl

end Sys2Proof.Machine
end

