-- ==== Sys2Proof/Laws/Control.lean ====
section
/-!
SUPPORT. What the shared endings of a control-core instruction do: a result, a result within its latency, a jump, a branch, a wait, a trap
and a return.
-/
namespace Sys2Proof.Machine

variable (s : State)

/-- Two changes of the strand that moves are one. -/
theorem State.modMe_modMe (f g : Strand → Strand) : (s.modMe f).modMe g = s.modMe fun t => g (f t) := by
  have hc : s.at_.core.val < 260 := s.at_.core.isLt
  have hk : s.at_.strand.val < 4 := s.at_.strand.isLt
  simp [State.modMe, State.modStrand, State.modCore, State.myCore, State.myStrand, State.core, State.setCore_eq, hc, Core.modStrand,
    Core.strand, Core.setStrand, hk]

theorem Strand.mark_rest (t : Strand) (d : Reg) (k : PendKind) : t.mark d k = { t with pend := (t.mark d k).pend } := by
  unfold Strand.mark; split <;> rfl

@[simp] theorem Strand.reg_mark (t : Strand) (d r : Reg) (k : PendKind) : (t.mark d k).reg r = t.reg r := by
  rw [Strand.mark_rest]; rfl

/-- A mark on a strand that has written a register is the mark on the strand. -/
theorem Strand.mark_pend (t u : Strand) (d : Reg) (k : PendKind) (h : u.pend = t.pend) : (u.mark d k).pend = (t.mark d k).pend := by
  unfold Strand.mark; split <;> simp [h]

/-- A result within its latency is written, and its register stays pending (R168). -/
theorem State.setLater_wroteLater (d : Reg) (v : Word) (k : PendKind) (n : Nat) :
    WroteLater s ((s.setLater d v k).finish n) d v k n := by
  have h : (s.setLater d v k).finish n = s.modMe fun t => ((t.setReg d v).mark d k).finish n := State.modMe_modMe _ _ _
  have hm : ((s.setLater d v k).finish n).me = ((s.me.setReg d v).mark d k).finish n := by rw [h, State.me_modMe]
  have hp := Strand.setReg_rest s.me d v
  have hq := Strand.mark_rest (s.me.setReg d v) d k
  refine ⟨?_, ?_, ?_, ?_, ?_, ?_, ?_⟩
  · rw [h]; exact State.modMe_onlyMe s _
  · rw [hm, hq, hp]; rfl
  · intro r
    show ((s.setLater d v k).finish n).me.reg r = _
    rw [hm]
    show ((s.me.setReg d v).mark d k).reg r = _
    rw [Strand.reg_mark]
    exact Strand.reg_setReg s.me d r v
  · rw [hm]
    show ((s.me.setReg d v).mark d k).pend = _
    exact Strand.mark_pend _ _ _ _ (by rw [hp])
  all_goals rw [hm, hq, hp]; rfl

/-- A product (R171): with no residue fault pending, the result after its latency. -/
theorem State.multiply_wroteLater (d : Reg) (v : Word) (h : s.residue = 0) : WroteLater s (s.multiply d v) d v .latency 4 := by
  have e : s.multiply d v = (s.setLater d v .latency).finish 4 := by simp [State.multiply, State.checked, h]
  rw [e]; exact State.setLater_wroteLater s d v _ 4

theorem State.divide_wroteLater (d : Reg) (v : Word) (h : s.residue = 0) (hb : s.dividerBusy = false) :
    WroteLater s (s.divide d v) d v .divider 4 := by
  have e : s.divide d v = (s.setLater d v .divider).finish 4 := by simp [State.divide, State.checked, h, hb]
  rw [e]; exact State.setLater_wroteLater s d v _ 4

theorem State.later_wroteLater (d : Reg) (v : Word) : WroteLater s (s.later d v) d v .latency 4 := State.setLater_wroteLater s d v _ 4

/-- An adder or shifter result with no residue fault pending. -/
theorem State.arith_wrote (d : Reg) (v : Word) (n : Nat) (h : s.residue = 0) : Wrote s (s.arith d v n) d v n := by
  have e : s.arith d v n = s.result d v n := by simp [State.arith, State.checked, h]
  rw [e]; exact State.result_wrote s d v n

/-- A jump with a link. -/
theorem State.link_jumped (d : Reg) (n : Nat) (target : Word) : Jumped s (s.link d n target) d (s.me.pc + BitVec.ofNat 64 n) target := by
  generalize hv : s.me.pc + BitVec.ofNat 64 n = v
  have h : s.link d n target = s.modMe fun t => { (t.setReg d v).finish 0 with pc := target, hold := s.now + 3 } := by
    subst hv; unfold State.link State.jump; rw [State.setReg_now]; exact State.modMe_modMe _ _ _
  have hm : (s.link d n target).me = { (s.me.setReg d v).finish 0 with pc := target, hold := s.now + 3 } := by rw [h, State.me_modMe]
  have hp := Strand.setReg_rest s.me d v
  refine ⟨?_, ?_, ?_, ?_, ?_, ?_, ?_⟩
  · rw [h]; exact State.modMe_onlyMe s _
  · rw [hm, hp]; rfl
  · intro r
    show (s.link d n target).me.reg r = _
    rw [hm]
    exact Strand.reg_setReg s.me d r v
  all_goals first | (rw [hm, hp]; done) | (rw [hm, hp]; rfl)

/-- A taken branch. -/
theorem State.jump_jumped (target : Word) : Jumped s (s.jump target) 0 0 target := by
  have hm : (s.jump target).me = { s.me.finish 0 with pc := target, hold := s.now + 3 } := State.me_modMe _ _
  refine ⟨State.modMe_onlyMe s _, ?_, ?_, ?_, ?_, ?_, ?_⟩
  · rw [hm]; rfl
  · intro r
    have : (s.jump target).reg r = s.reg r := by show (s.jump target).me.reg r = _; rw [hm]; rfl
    rw [this]; split
    · rename_i h; exact absurd h.1 h.2
    · rfl
  all_goals first | (rw [hm]; done) | (rw [hm]; rfl)

/-- An instruction that writes no register and completes. -/
theorem State.finish_wrote (n : Nat) : Wrote s (s.finish n) 0 0 n := by
  have hm : (s.finish n).me = s.me.finish n := State.me_modMe _ _
  refine ⟨State.modMe_onlyMe s _, ?_, ?_, ?_, ?_, ?_, ?_⟩
  · rw [hm]; rfl
  · intro r
    have : (s.finish n).reg r = s.reg r := by show (s.finish n).me.reg r = _; rw [hm]; rfl
    rw [this]; split
    · rename_i h; exact absurd h.1 h.2
    · rfl
  all_goals first | (rw [hm]; done) | (rw [hm]; rfl)

/-- A branch, taken or not. -/
theorem State.branch_goes (taken : Bool) (off : BitVec 16) :
    (taken = true → Jumped s (s.branch taken off) 0 0 (s.me.pc + imm16 off * 4)) ∧ (taken = false → Wrote s (s.branch taken off) 0 0 4) := by
  constructor <;> intro h <;> subst h
  · exact State.jump_jumped s _
  · exact State.finish_wrote s 4

/-- A wait. -/
theorem State.waitFor_waits (r o : Nat) : Waits s (s.waitFor r o) r o := by
  have hm : (s.waitFor r o).me = _ := State.me_modMe s _
  exact ⟨State.modMe_onlyMe s _, by rw [hm]⟩

/-- A trap that is not fatal (R282). -/
theorem State.trap_trapped (cause : Nat) (v : Word) (hf : s.me.fatal cause = false) (hc : cause < 256) : Trapped s (s.trap cause v) cause v := by
  let f (t : Strand) : Strand := { t.finish 0 with
    pc := t.sys.tvec &&& ~~~3#64,
    sys := { t.sys with epc := s.me.pc, ecause := ecauseOf cause 0 false false, eval := v, intrap := true } }
  have h : s.trap cause v = s.modMe f := by
    have : (s.strand s.myCore s.myStrand).fatal cause = false := hf
    unfold State.trap State.trapAt
    rw [this]; rfl
  have hm : (s.trap cause v).me = f s.me := by rw [h]; exact State.me_modMe s f
  refine ⟨?_, ?_, ?_, ?_, ?_, ?_, ?_, ?_, ?_, ?_, ?_, ?_, ?_⟩
  · rw [h]; exact State.modMe_onlyMe s f
  all_goals rw [hm]
  all_goals try rfl
  show bitsOf (ecauseOf cause 0 false false).toNat 7 0 = cause
  simp [ecauseOf, bitsOf]
  omega

end Sys2Proof.Machine
end

