-- ==== Sys2Proof/Laws/Memory.lean ====
section
/-!
SUPPORT. Memory: read after write, the canonical form, and the operations that keep it.
-/
namespace Sys2Proof.Machine

/-! ## One byte -/

theorem Memory.above_mono {k j : Nat} (h : j ≤ k) : ∀ {m : List Host.Cell}, Memory.above k m = true → Memory.above j m = true
  | [], _ => rfl
  | (a, _) :: m, e => by
    simp only [Memory.above, Bool.and_eq_true, decide_eq_true_eq] at e ⊢
    exact ⟨by omega, Memory.above_mono h e.2⟩

theorem Memory.get_above {k : Nat} : ∀ {m : List Host.Cell}, Memory.above k m = true → Memory.get m k = Memory.unlisted
  | [], _ => rfl
  | (a, b) :: m, h => by
    simp only [Memory.above, Bool.and_eq_true, decide_eq_true_eq] at h
    simp [Memory.get, show a ≠ k by omega, h.1]

/-- A write at a key above a bound keeps the list above it. -/
theorem Memory.above_set {j k : Nat} {b : Byte} (h : j < k) : ∀ {m : List Host.Cell}, Memory.above j m = true →
    Memory.above j (Memory.set m k b) = true
  | [], _ => by unfold Memory.set; split <;> simp [Memory.above, h]
  | (a, x) :: m, e => by
    simp only [Memory.above, Bool.and_eq_true, decide_eq_true_eq] at e
    unfold Memory.set
    repeat' split
    all_goals simp [Memory.above, h, e, Memory.above_set h e.2]

/-- A write keeps the canonical form. -/
theorem Memory.wf_set (k : Nat) (b : Byte) : ∀ {m : List Host.Cell}, Memory.wf m = true → Memory.wf (Memory.set m k b) = true
  | [], _ => by
    unfold Memory.set
    split <;> simp_all [Memory.wf, Memory.above]
  | (a, x) :: m, e => by
    simp only [Memory.wf, Bool.and_eq_true, decide_eq_true_eq] at e
    unfold Memory.set
    split
    · rename_i h
      split
      · simp [Memory.wf, e]
      · rename_i hb
        simp [Memory.wf, Memory.above, h, hb, e, Memory.above_mono (Nat.le_of_lt h) e.1.1]
    · rename_i h
      split
      · rename_i h'
        subst h'
        split
        · exact e.2
        · rename_i hb
          simp [Memory.wf, e, hb]
      · rename_i h'
        have hlt : a < k := by omega
        simp [Memory.wf, e, Memory.above_set hlt e.1.1, Memory.wf_set k b e.2]

/-- Reading after writing one byte. -/
theorem Memory.get_set (k j : Nat) (b : Byte) : ∀ {m : List Host.Cell}, Memory.wf m = true →
    Memory.get (Memory.set m k b) j = if j = k then b else Memory.get m j
  | [], _ => by
    unfold Memory.set
    split
    · rename_i hb
      by_cases h : j = k <;> simp [h, hb, Memory.get]
    · by_cases h : j = k
      · simp [h, Memory.get]
      · simp [h, Memory.get, Ne.symm h]
  | (a, x) :: m, e => by
    simp only [Memory.wf, Bool.and_eq_true, decide_eq_true_eq] at e
    have hm := Memory.get_above e.1.1
    have hr := Memory.get_set k j b e.2
    unfold Memory.set
    split
    · rename_i h
      have hk : Memory.get m k = Memory.unlisted := Memory.get_above (Memory.above_mono (Nat.le_of_lt h) e.1.1)
      split
      · rename_i hb
        by_cases hj : j = k
        · subst hj; simp [Memory.get, show a ≠ j by omega, h, hb]
        · simp [hj]
      · by_cases hj : j = k
        · simp [Memory.get, hj]
        · by_cases hlt : j < k
          · simp [Memory.get, Ne.symm hj, hj, hlt, show a ≠ j by omega, show j < a by omega]
          · simp only [Memory.get, if_neg (Ne.symm hj), if_neg hlt, if_neg hj]
    · split
      · rename_i h h'
        subst h'
        split
        · rename_i hb
          by_cases hj : j = k
          · subst hj; simp [hm, hb]
          · by_cases hlt : j < k
            · simp [hj, Memory.get, Ne.symm hj, hlt, Memory.get_above (Memory.above_mono (Nat.le_of_lt hlt) e.1.1)]
            · simp [hj, Memory.get, Ne.symm hj, hlt]
        · by_cases hj : j = k
          · simp [Memory.get, hj]
          · simp [Memory.get, hj, Ne.symm hj]
      · rename_i h h'
        have hlt : a < k := by omega
        by_cases hja : a = j
        · subst hja; simp [Memory.get, Ne.symm h']
        · by_cases hjl : j < a
          · simp [Memory.get, hja, hjl, show j ≠ k by omega]
          · simp [Memory.get, hja, hjl, hr]

/-! ## Several bytes -/

theorem Memory.wf_setBytes : ∀ {m : List Host.Cell} (bs : List Byte) (k : Nat), Memory.wf m = true → Memory.wf (Memory.setBytes m k bs) = true
  | _, [], _, h => h
  | _, _ :: bs, _, h => Memory.wf_setBytes bs _ (Memory.wf_set _ _ h)

/-- Reading after writing several bytes: those written, and every other byte as it was. -/
theorem Memory.get_setBytes : ∀ {m : List Host.Cell} (bs : List Byte) (k j : Nat), Memory.wf m = true →
    Memory.get (Memory.setBytes m k bs) j = if k ≤ j ∧ j < k + bs.length then bs.getD (j - k) 0 else Memory.get m j
  | m, [], k, j, _ => by rw [if_neg (by simp)]; rfl
  | m, b :: bs, k, j, h => by
    rw [Memory.setBytes, Memory.get_setBytes bs (k + 1) j (Memory.wf_set k b h), Memory.get_set k j b h]
    by_cases h1 : j = k
    · subst h1; simp
    · by_cases h2 : k + 1 ≤ j ∧ j < k + 1 + bs.length
      · have e : j - k = (j - (k + 1)) + 1 := by omega
        rw [if_pos h2, if_pos (by simp only [List.length_cons]; omega), e]; simp
      · rw [if_neg h2, if_neg h1, if_neg (by simp only [List.length_cons]; omega)]

theorem Memory.wf_foldl_set : ∀ {m : List Host.Cell} (l : List (Nat × Byte)), Memory.wf m = true →
    Memory.wf (l.foldl (fun m c => Memory.set m c.1 c.2) m) = true
  | _, [], h => h
  | _, _ :: l, h => Memory.wf_foldl_set l (Memory.wf_set _ _ h)

theorem Memory.above_filter (p : Host.Cell → Bool) {k : Nat} : ∀ {m : List Host.Cell}, Memory.above k m = true →
    Memory.above k (m.filter p) = true
  | [], _ => rfl
  | c :: m, h => by
    obtain ⟨a, x⟩ := c
    simp only [Memory.above, Bool.and_eq_true, decide_eq_true_eq] at h
    by_cases hp : p (a, x) = true
    · simp [hp, Memory.above, h, Memory.above_filter p h.2]
    · simp [hp, Memory.above_filter p h.2]

theorem Memory.wf_filter (p : Host.Cell → Bool) : ∀ {m : List Host.Cell}, Memory.wf m = true → Memory.wf (m.filter p) = true
  | [], _ => rfl
  | c :: m, h => by
    obtain ⟨a, x⟩ := c
    simp only [Memory.wf, Bool.and_eq_true, decide_eq_true_eq] at h
    by_cases hp : p (a, x) = true
    · simp [hp, Memory.wf, h, Memory.above_filter p h.1.1, Memory.wf_filter p h.2]
    · simp [hp, Memory.wf_filter p h.2]

/-! ## The memory operations of the state -/

/-- Taking dispositions changes no memory. -/
@[simp] theorem State.latchDisp_mem (s : State) : s.latchDisp.mem = s.mem := by unfold State.latchDisp; split <;> rfl

/-- Changing late writes changes nothing else. -/
theorem State.modLate_only (s : State) (f : Late → Late) : ∃ l, s.modLate f = { s with late := l } := by
  unfold State.modLate; split
  exacts [⟨s.late, rfl⟩, ⟨_, rfl⟩]

theorem State.enterDies_only (s : State) (ds : List Nat) (want : Late → Bool) : ∃ l, s.enterDies ds want = { s with late := l } := by
  unfold State.enterDies; split
  · exact ⟨s.late, rfl⟩
  · exact s.modLate_only _

theorem State.settleOver_only (s : State) (k n : Nat) : ∃ l, s.settleOver k n = { s with late := l } := by
  obtain ⟨l, h⟩ := s.enterDies_only [0, 1, 2, 3] (·.touches k n)
  unfold State.settleOver
  rw [h]
  exact State.modLate_only _ _

theorem State.settleFor_only (s : State) (by_ : Writer) (die k n : Nat) : ∃ l, s.settleFor by_ die k n = { s with late := l } := by
  obtain ⟨l, h⟩ := s.enterDies_only [die] (·.touches k n)
  unfold State.settleFor
  rw [h]
  exact State.modLate_only _ _

/-- A fold of operations that change only the late writes changes nothing else. -/
theorem State.foldl_late_only {α : Type} (g : State → α → State) (hg : ∀ s a, ∃ l, g s a = { s with late := l }) :
    ∀ (as : List α) (s : State), ∃ l, as.foldl g s = { s with late := l }
  | [], s => ⟨s.late, rfl⟩
  | a :: as, s => by
    obtain ⟨l, h⟩ := hg s a
    obtain ⟨l', h'⟩ := State.foldl_late_only g hg as { s with late := l }
    exact ⟨l', by rw [List.foldl_cons, h, h']⟩

/-- A write becoming late changes the late writes and their number, and nothing else. -/
theorem State.noteLate_only (s : State) (by_ : Writer) (die : Nat) (clock ks : List Nat) :
    ∃ l n, s.noteLate by_ die clock ks = { s with late := l, nextLate := n } := by
  unfold State.noteLate
  split
  · exact ⟨s.late, s.nextLate, rfl⟩
  · rename_i k ks
    obtain ⟨l, h⟩ := State.foldl_late_only (fun s k => s.settleFor by_ die k 1) (fun s k => s.settleFor_only by_ die k 1) (k :: ks) s
    rw [h]
    exact iteInduction (motive := fun u : State => ∃ l n, u = { s with late := l, nextLate := n })
      (fun _ => ⟨l, s.nextLate, rfl⟩) fun _ => ⟨_, _, rfl⟩

@[simp] theorem State.settleOver_mem (s : State) (k n : Nat) : (s.settleOver k n).mem = s.mem := by
  obtain ⟨l, h⟩ := s.settleOver_only k n; rw [h]

@[simp] theorem State.noteLate_mem (s : State) (by_ : Writer) (die : Nat) (clock ks : List Nat) :
    (s.noteLate by_ die clock ks).mem = s.mem := by
  obtain ⟨l, n, h⟩ := s.noteLate_only by_ die clock ks; rw [h]

@[simp] theorem State.putMem_mem (s : State) (k n : Nat) (m : List Host.Cell) : (s.putMem k n m).mem = m := by simp [State.putMem]

/-- What a write at a key leaves in memory does not hang on the late writes. -/
theorem State.storeBytes_late (s : State) (l : List Late) (n k : Nat) (bs : List Byte) :
    ({ s with late := l, nextLate := n } : State).storeBytes k bs = s.storeBytes k bs := rfl

@[simp] theorem State.putBytes_mem (s : State) (k : Nat) (bs : List Byte) : (s.putBytes k bs).mem = s.storeBytes k bs := by
  simp [State.putBytes]

@[simp] theorem State.writeBytes_mem (s : State) (k : Nat) (bs : List Byte) : (s.writeBytes k bs).mem = s.storeBytes k bs := by
  obtain ⟨l, h⟩ := s.settleOver_only k bs.length
  simp only [State.writeBytes, State.putBytes_mem, h]
  exact s.storeBytes_late l s.nextLate k bs

@[simp] theorem State.lateBytes_mem (s : State) (by_ : Writer) (die : Nat) (clock : List Nat) (k : Nat) (bs : List Byte) :
    (s.lateBytes by_ die clock k bs).mem = s.storeBytes k bs := by
  obtain ⟨l, n, h⟩ := s.noteLate_only by_ die clock ((List.range bs.length).map (k + ·))
  simp only [State.lateBytes, State.putBytes_mem, h]
  exact s.storeBytes_late l n k bs

@[simp] theorem State.unitWrite_mem (s : State) (k : Nat) (bs : List Byte) : (s.unitWrite k bs).mem = Memory.setBytes s.mem k bs := by
  simp [State.unitWrite]

/-- Away from the unit's own fields, bytes are stored where they are said to go, and nowhere else. -/
theorem State.get_storeBytes (s : State) (k j : Nat) (bs : List Byte) (hm : s.memOk) (hp : s.touchesPort k bs.length = false) :
    Memory.get (s.storeBytes k bs) j = if k ≤ j ∧ j < k + bs.length then bs.getD (j - k) 0 else s.byte j := by
  simp [State.byte, State.storeBytes, hp, Memory.get_setBytes bs k j hm]

theorem State.byte_writeBytes (s : State) (k j : Nat) (bs : List Byte) (hm : s.memOk) (hp : s.touchesPort k bs.length = false) :
    (s.writeBytes k bs).byte j = if k ≤ j ∧ j < k + bs.length then bs.getD (j - k) 0 else s.byte j := by
  unfold State.byte; rw [State.writeBytes_mem]; exact s.get_storeBytes k j bs hm hp

/-- A unit's own write goes where it is said to go. -/
theorem State.byte_unitWrite (s : State) (k j : Nat) (bs : List Byte) (hm : s.memOk) :
    (s.unitWrite k bs).byte j = if k ≤ j ∧ j < k + bs.length then bs.getD (j - k) 0 else s.byte j := by
  simp [State.byte, Memory.get_setBytes bs k j hm]

/-- The bytes of a store keep the canonical form. -/
theorem State.wf_storeBytes {s : State} (k : Nat) (bs : List Byte) (h : s.memOk) : Memory.wf (s.storeBytes k bs) = true := by
  unfold State.storeBytes
  split
  · exact Memory.wf_foldl_set _ h
  · exact Memory.wf_setBytes _ _ h

theorem State.memOk_writeBytes {s : State} (k : Nat) (bs : List Byte) (h : s.memOk) : (s.writeBytes k bs).memOk := by
  unfold State.memOk; rw [State.writeBytes_mem]; exact State.wf_storeBytes k bs h

theorem State.memOk_lateBytes {s : State} (by_ : Writer) (die : Nat) (clock : List Nat) (k : Nat) (bs : List Byte) (h : s.memOk) :
    (s.lateBytes by_ die clock k bs).memOk := by
  unfold State.memOk; rw [State.lateBytes_mem]; exact State.wf_storeBytes k bs h

theorem State.memOk_unitWrite {s : State} (k : Nat) (bs : List Byte) (h : s.memOk) : (s.unitWrite k bs).memOk := by
  unfold State.memOk; rw [State.unitWrite_mem]; exact Memory.wf_setBytes _ _ h

theorem State.memOk_writeNat {s : State} (k n v : Nat) (h : s.memOk) : (s.writeNat k n v).memOk := State.memOk_writeBytes _ _ h

theorem State.memOk_putMarked {s : State} (cells : List (Nat × Byte × Bool)) (h : s.memOk) : (s.putMarked cells).memOk := by
  have go : ∀ (l : List (Nat × Byte × Bool)) (m : List Host.Cell), Memory.wf m = true →
      Memory.wf (l.foldl (fun m x => Memory.set m x.1 x.2.1) m) = true := fun l => by
    induction l with
    | nil => exact fun _ h => h
    | cons x l ih => exact fun m h => ih _ (Memory.wf_set _ _ h)
  unfold State.memOk State.putMarked
  simp only [State.latchDisp_mem]
  exact go _ _ h

/-- A fold of operations that keep the canonical form keeps it. -/
theorem State.memOk_foldl {α : Type} (g : State → α → State) (hg : ∀ s a, s.memOk → (g s a).memOk) :
    ∀ (as : List α) {s : State}, s.memOk → (as.foldl g s).memOk
  | [], _, h => h
  | a :: as, _, h => State.memOk_foldl g hg as (hg _ a h)

theorem State.memOk_noteLate {s : State} (by_ : Writer) (die : Nat) (clock ks : List Nat) (h : s.memOk) :
    (s.noteLate by_ die clock ks).memOk := by
  unfold State.memOk; rw [State.noteLate_mem]; exact h

theorem State.memOk_writeMarked {s : State} (by_ : Writer) (die : Nat) (clock : List Nat) (cells : List (Nat × Byte × Bool)) (h : s.memOk) :
    (s.writeMarked by_ die clock cells).memOk :=
  State.memOk_putMarked _ (State.memOk_foldl _ (fun _ ks h => State.memOk_noteLate by_ die clock ks h) _ h)

theorem State.memOk_zeroRange {s : State} (k n : Nat) (h : s.memOk) : (s.zeroRange k n).memOk := by
  unfold State.memOk State.zeroRange; simp only [State.settleOver_mem]; exact Memory.wf_filter _ h

theorem State.memOk_putTb {s : State} (k x : Nat) (h : s.memOk) : (s.putTb k x).memOk := State.memOk_writeNat _ _ _ h

theorem State.memOk_of_mem {s t : State} (e : t.mem = s.mem) (h : s.memOk) : t.memOk := by unfold State.memOk; rw [e]; exact h

theorem State.memOk_writeElem {s : State} (e : Nat) (p : Nat × Nat) (v : Nat) (h : s.memOk) : (s.writeElem e p v).memOk := by
  unfold State.writeElem; split <;> exact State.memOk_writeNat _ _ _ h

/-- Memory at reset is in the canonical form. -/
theorem State.reset_mem : State.reset.mem = [] := rfl

end Sys2Proof.Machine
end

