-- ==== Sys2Proof/Laws/Access.lean ====
section
/-!
SUPPORT. What the SCL accesses do: a load, a store, an atomic at a place of this package, and a buffered store at its home.
-/
namespace Sys2Proof.Machine

variable (s : State)

/-! ## Finding soft errors -/

theorem State.detect_none (k n : Nat) (h : s.softErrors = []) : s.detect k n = s := by simp [State.detect, h]

/-! ## Views: with no late write, every reader sees what the homes hold -/

theorem State.seenByte_settled (r : Reader) (k : Nat) (h : s.late = []) : s.seenByte r k = s.byte k := by simp [State.seenByte, h]

theorem State.seenNat_settled (r : Reader) (k n : Nat) (h : s.late = []) : s.seenNat r k n = s.readNat k n := by
  simp [State.seenNat, State.readNat, State.bytes, State.seenByte_settled s r _ h]

theorem State.mySeen_settled (key n : Nat) (h : s.late = []) : s.mySeen key n = s.readNat key n := s.seenNat_settled _ key n h

theorem State.noteRelease_settled (scope : Nat) (h : s.late = []) : s.noteRelease scope = s := by simp [State.noteRelease, h]

/-- A narrow acquire with no late write changes nothing. -/
theorem State.acquire_settled (scope : Nat) (h : s.late = []) (hn : scope < 4) : s.acquire scope = s := by simp [State.acquire, h, hn]

/-! ## Loads -/

@[simp] theorem bindLoads_reg (p : List Pend) (key n : Nat) (r : Reg) :
    ((bindLoads p key n).any fun x => x.reg == r) = p.any fun x => x.reg == r := by
  unfold bindLoads
  rw [List.any_map]
  congr 1
  funext x
  simp only [Function.comp]
  split
  · split <;> rfl
  · rfl

/-- What the strand's own stores that touch none of the bytes forward. -/
theorem forwardByte_none (skip : Option Nat) (k va i n : Nat) (hi : i < n) (b : Byte) : ∀ xs : List Buffered,
    (∀ x ∈ xs, x.touches k va n = false) → forwardByte skip xs (k + i) (va + i) b = b
  | [], _ => rfl
  | x :: xs, h => by
    have hx := h x (by simp)
    have ho : x.offset (k + i) (va + i) = none := by
      unfold Buffered.touches overlaps at hx
      unfold Buffered.offset
      cases hd : x.dest with
      | none =>
        simp only [hd, Bool.and_eq_false_iff, decide_eq_false_iff_not] at hx ⊢
        rw [if_neg (by omega)]
      | some d =>
        simp only [hd, Bool.and_eq_false_iff, decide_eq_false_iff_not] at hx ⊢
        rw [if_neg (by omega)]
    simp only [forwardByte, ho]
    exact forwardByte_none skip k va i n hi b xs fun y hy => h y (by simp [hy])

/-- A load whose bytes no store of the strand in flight touches binds what its core sees of memory. -/
theorem State.loadValue_plain (key va n : Nat) (hs : ∀ b ∈ s.me.stores, b.touches key va n = false) :
    s.loadValue s.myCore s.myStrand key va n none = s.mySeen key n := by
  unfold State.loadValue State.mySeen State.seenNat
  congr 1
  apply List.map_congr_left
  intro i hi
  exact forwardByte_none none key va i n (by simpa using hi) _ _ hs

/-- Only what a change makes of the strand that moves matters. -/
theorem State.modMe_congr {f g : Strand → Strand} (h : f s.me = g s.me) : s.modMe f = s.modMe g :=
  congrArg (fun t => s.setCore s.myCore ((s.core s.myCore).setStrand s.myStrand t)) h

/-- A change that leaves the strand that moves as it is leaves the state. -/
theorem State.modMe_id : (s.modMe fun t => t) = s := by
  have hc : s.at_.core.val < 260 := s.at_.core.isLt
  have hk : s.at_.strand.val < 4 := s.at_.strand.isLt
  simp [State.modMe, State.modStrand, State.modCore, State.myCore, State.myStrand, State.core, State.setCore_eq, hc, Core.modStrand,
    Core.strand, Core.setStrand, hk]
  exact congrArg (fun v => { s with cores := v }) (Vector.set_getElem_self hc)

/-- What a read notes is in the strand that moves. -/
theorem State.noteRead_me (key n : Nat) : ∃ r, s.noteRead s.myCore s.myStrand key n = s.modMe fun t => { t with read := r } := by
  unfold State.noteRead
  split
  · exact ⟨s.me.read, (s.modMe_id.symm.trans (s.modMe_congr rfl))⟩
  · exact ⟨s.joinLate s.me.read (s.readFrom (.scl s.myCore) key n), s.modMe_congr rfl⟩

theorem State.countMigrate_other (space va n mode : Nat) (h : mode ≠ 4) : s.countMigrate space va n mode = s := by
  simp [State.countMigrate, h]

/-- An access at a place of this package. -/
theorem State.access_here {s : State} (a : Acc) (key : Nat) (h : Reaches s a.kind a.va a.size key) :
    ∃ mode, mode ≠ 4 ∧ s.access a = s.accessAt a (.here key) mode := by
  obtain ⟨mode, hm, ht⟩ := h.place
  refine ⟨mode, hm, ?_⟩
  unfold State.access
  simp [h.aligned, ht]

/-- A load with a value issues, with reads noted. -/
theorem State.loaded (rs : List Nat) (a : Acc) (d : Reg) (v : Word) (key n : Nat) (late : Bool) :
    Loaded s (((s.modMe fun t => { t with read := rs, pend := bindLoads t.pend key n }).setLater d v (.load a (.here key) late)).finish 4) d v := by
  have h : ((s.modMe fun t => { t with read := rs, pend := bindLoads t.pend key n }).setLater d v (.load a (.here key) late)).finish 4 =
      s.modMe fun t => ((({ t with read := rs, pend := bindLoads t.pend key n } : Strand).setReg d v).mark d (.load a (.here key) late)).finish 4 := by
    unfold State.setLater State.finish
    rw [State.modMe_modMe, State.modMe_modMe]
  generalize hu : ((s.modMe fun t => { t with read := rs, pend := bindLoads t.pend key n }).setLater d v (.load a (.here key) late)).finish 4 = u at h
  have hm : u.me = ((({ s.me with read := rs, pend := bindLoads s.me.pend key n } : Strand).setReg d v).mark d (.load a (.here key) late)).finish 4 := by
    rw [h, State.me_modMe]
  have hp := Strand.setReg_rest ({ s.me with read := rs, pend := bindLoads s.me.pend key n } : Strand) d v
  have hq : (({ s.me with read := rs, pend := bindLoads s.me.pend key n } : Strand).setReg d v).mark d (.load a (.here key) late) =
      { ({ s.me with read := rs, pend := bindLoads s.me.pend key n } : Strand).setReg d v with
        pend := bindLoads s.me.pend key n ++ [⟨d, .load a (.here key) late⟩] } := by
    unfold Strand.mark; rw [if_neg (by simp [PendKind.isAccess]), hp]
  have hpend : u.me.pend = bindLoads s.me.pend key n ++ [⟨d, .load a (.here key) late⟩] := by rw [hm, hq]; rfl
  refine ⟨?_, ?_, ?_, ?_, ?_, ?_, ?_⟩
  · rw [h]; exact State.modMe_onlyMe s _
  · rw [hm, hq, hp]; rfl
  · intro r
    show u.me.reg r = _
    rw [hm, hq]
    exact Strand.reg_setReg ({ s.me with read := rs, pend := bindLoads s.me.pend key n } : Strand) d r v
  · intro hd; unfold Strand.pending; rw [hpend]; exact Bool.and_eq_true_iff.mpr ⟨bne_iff_ne.mpr hd, by simp⟩
  · intro r hr
    have e : (d == r) = false := beq_eq_false_iff_ne.mpr (Ne.symm hr)
    unfold Strand.pending
    rw [hpend, List.any_append, bindLoads_reg, List.any_cons, e]
    simp only [List.any_nil, Bool.or_false]
  · rw [hm, hq, hp]; rfl
  · rw [hm, hq, hp]; rfl

/-- A load of memory itself. -/
theorem State.access_loaded {s : State} (a : Acc) (d : Reg) (signed : Bool) (key : Nat) (ho : a.op = .load d signed)
    (h : ReadsMemory s accRead a.va a.size key) : Loaded s (s.access a) d (extendLoad a.size signed (s.mySeen key a.size)) := by
  have hk : a.kind = accRead := by simp [Acc.kind, ho]
  obtain ⟨mode, hm, he⟩ := State.access_here a key (hk ▸ h.toReaches)
  rw [he]
  unfold State.accessAt
  simp only [ho, State.countMigrate_other s _ _ _ _ hm, h.free, Strand.hostStoreHeld]
  unfold State.loadHere
  obtain ⟨rs, hr⟩ := s.noteRead_me key a.size
  simp only [State.detect_none s _ _ h.sound, h.clean, State.loadValue_plain s key a.va a.size h.alone, hr, State.modMe_modMe]
  exact State.loaded s rs a d _ key a.size true

/-! ## Stores -/

/-- A buffer whose entries all have places here keeps its order. -/
theorem State.sendFrom_here (c k : Nat) : ∀ (bs kept : List Buffered) (s : State), (∀ b ∈ bs, ∃ j, b.dest = some (.here j)) →
    s.sendFrom c k bs kept = s.modStrand c k fun t => { t with stores := kept ++ bs }
  | [], kept, s, _ => by simp [State.sendFrom]
  | b :: bs, kept, s, h => by
    obtain ⟨j, hj⟩ := h b (by simp)
    unfold State.sendFrom
    split
    · rfl
    · simp only [hj]
      rw [State.sendFrom_here c k bs (kept ++ [b]) s fun x hx => h x (by simp [hx])]
      simp

/-- A store enters the buffer. -/
theorem State.access_stored {s : State} (a : Acc) (v : Word) (fl : Bool) (key : Nat) (ho : a.op = .store v fl)
    (h : Reaches s accWrite a.va a.size key) (hw : s.writable key a.size) (hb : ∀ b ∈ s.me.stores, ∃ j, b.dest = some (.here j)) :
    Stored s (s.access a) a key := by
  have hk : a.kind = accWrite := by simp [Acc.kind, ho]
  obtain ⟨mode, hm, he⟩ := State.access_here a key (hk ▸ h)
  let f (t : Strand) : Strand :=
    { t with pend := bindLoads t.pend key a.size, stores := t.stores ++ [s.entry a (some (.here key)) none] }
  have hs : s.access a = s.modMe fun t => ({ f t with stores := (f s.me).stores } : Strand).finish 4 := by
    rw [he]
    unfold State.accessAt
    simp only [ho, State.countMigrate_other s _ _ _ _ hm, hw.1, hw.2, Bool.false_eq_true, if_false]
    unfold State.storeTo State.buffer State.sendReady
    have hme : (s.modMe f).strand (s.modMe f).myCore (s.modMe f).myStrand = f s.me := State.me_modMe s f
    have hsf : (s.modMe f).sendFrom (s.modMe f).myCore (s.modMe f).myStrand (f s.me).stores [] =
        (s.modMe f).modMe fun t => { t with stores := (f s.me).stores } := by
      rw [State.sendFrom_here]
      · rfl
      · intro b hb'
        rcases List.mem_append.mp hb' with hb' | hb'
        · exact hb b hb'
        · simp only [List.mem_singleton] at hb'; subst hb'; exact ⟨key, rfl⟩
    show State.finish ((s.modMe f).sendFrom (s.modMe f).myCore (s.modMe f).myStrand
      ((s.modMe f).strand (s.modMe f).myCore (s.modMe f).myStrand).stores []) 4 = _
    rw [hme, hsf]
    unfold State.finish
    rw [State.modMe_modMe, State.modMe_modMe]
  have hm' : (s.access a).me = (f s.me).finish 4 := by rw [hs, State.me_modMe]
  refine ⟨?_, ?_, ?_, ?_, ?_, ?_, ?_⟩
  · rw [hs]; exact State.modMe_onlyMe s _
  · rw [hm']; rfl
  · rw [hm']; rfl
  · rw [hm']; rfl
  · intro r; rw [hm']; unfold Strand.pending
    show ((r != 0) && (bindLoads s.me.pend key a.size).any fun p => p.reg == r) = _
    rw [bindLoads_reg]
  · rw [hm']; rfl
  · rw [hm']; rfl

/-! ## Writing bytes -/

theorem leBytes_length : ∀ (n v : Nat), (leBytes n v).length = n
  | 0, _ => rfl
  | n + 1, v => by simp [leBytes, leBytes_length n]

theorem leBytes_getD : ∀ (n v i : Nat), i < n → (leBytes n v).getD i 0 = BitVec.ofNat 8 (v / 2 ^ (8 * i))
  | n + 1, v, 0, _ => by simp [leBytes]
  | n + 1, v, i + 1, h => by
    have ih := leBytes_getD n (v / 256) i (by omega)
    have e : v / 2 ^ (8 * (i + 1)) = v / 256 / 2 ^ (8 * i) := by
      rw [Nat.div_div_eq_div_mul, Nat.mul_add, Nat.pow_add, Nat.mul_comm]
    rw [e, ← ih]; simp [leBytes]

/-- Writing a value writes its bytes and no other. -/
theorem State.writeNat_bytes (k n v j : Nat) (hm : s.memOk) (hp : s.touchesPort k n = false) :
    (s.writeNat k n v).byte j = if k ≤ j ∧ j < k + n then BitVec.ofNat 8 (v / 2 ^ (8 * (j - k))) else s.byte j := by
  unfold State.writeNat
  rw [State.byte_writeBytes s k j (leBytes n v) hm (by rw [leBytes_length]; exact hp), leBytes_length]
  split
  · rename_i h; rw [leBytes_getD n v _ (by omega)]
  · rfl

end Sys2Proof.Machine
end

