-- ==== Sys2Proof/Laws/Lanes.lean ====
section
/-!
SUPPORT. The context that moves, the lanes of its registers, and the lane rule: what an instruction that writes lanes does.
-/
namespace Sys2Proof.Machine

variable (s : State)

/-! ## The context -/

@[simp] theorem State.ctx_modCtx (f : Ctx → Ctx) : (s.modCtx f).ctx = f s.ctx := by
  have hc : s.at_.core.val < 260 := s.at_.core.isLt
  simp [State.ctx, State.modCtx, State.here, State.myCore, hc]

theorem State.modCtx_onlyCtx (f : Ctx → Ctx) : s.onlyCtx (s.modCtx f) := by
  have hc : s.at_.core.val < 260 := s.at_.core.isLt
  refine ⟨?_, fun c => ?_, fun c h => ?_, fun x h => ?_⟩
  · simp only [State.modCtx, State.modCore, State.myCore, State.setCore_eq _ _ _ hc]
  · by_cases h : c = s.at_.core.val
    · subst h; simp only [State.modCtx, State.myCore, State.core_modCore_self _ _ _ hc]
    · simp [State.modCtx, State.myCore, h]
  · simp only [State.myCore] at h
    simp [State.modCtx, State.myCore, h]
  · have hx : s.at_.ctx.val ≠ x.val := fun e => h (Fin.ext e.symm)
    simp [State.here, State.modCtx, State.myCore, hc, hx]

theorem State.onlyCtx_trans {a b c : State} (h : a.onlyCtx b) (g : b.onlyCtx c) (hc : b.at_ = a.at_) : a.onlyCtx c := by
  refine ⟨?_, fun n => ?_, fun n hn => ?_, fun x hx => ?_⟩
  · rw [g.1, h.1]
  · rw [g.2.1, h.2.1]
  · rw [g.2.2.1 n (by simpa [State.myCore, hc] using hn), h.2.2.1 n hn]
  · rw [g.2.2.2 x (by rw [hc]; exact hx), h.2.2.2 x hx]

/-! ## Registers and lanes -/

@[simp] theorem Ctx.vreg_setV (y : Ctx) (d r : VReg) (x : BitVec 4096) : (y.setV d x).vreg r = if r = d then x else y.vreg r := by
  unfold Ctx.vreg Ctx.setV
  by_cases h : r = d
  · subst h; simp
  · have e : d.toNat ≠ r.toNat := fun e => h (BitVec.eq_of_toNat_eq e.symm)
    simp [h, e]

@[simp] theorem Ctx.vreg_flags (y : Ctx) (p : Word) (f : Flags) (r : VReg) : ({ y with pc := p, flags := f } : Ctx).vreg r = y.vreg r := rfl

/-- Packing keeps every lane. -/
theorem packLanes_lane (n : Nat) (hn : 0 < n) : ∀ (xs : List Nat) (i : Nat), packLanes n xs / 2 ^ (n * i) % 2 ^ n = xs.getD i 0 % 2 ^ n
  | [], i => by simp [packLanes]
  | x :: xs, 0 => by simp [packLanes]
  | x :: xs, i + 1 => by
    have e : packLanes n (x :: xs) / 2 ^ (n * (i + 1)) = packLanes n xs / 2 ^ (n * i) := by
      rw [packLanes, Nat.mul_add, Nat.mul_one, Nat.add_comm (n * i) n, Nat.pow_add, ← Nat.div_div_eq_div_mul,
        Nat.add_mul_div_right _ _ (Nat.two_pow_pos n), Nat.div_eq_of_lt (Nat.mod_lt _ (Nat.two_pow_pos n)), Nat.zero_add]
    rw [e, packLanes_lane n hn xs i]; simp

theorem packLanes_lt (n : Nat) : ∀ xs : List Nat, packLanes n xs < 2 ^ (n * xs.length)
  | [] => by simp [packLanes]
  | x :: xs => by
    have ih := packLanes_lt n xs
    have h1 : x % 2 ^ n < 2 ^ n := Nat.mod_lt _ (Nat.two_pow_pos n)
    simp only [packLanes, List.length_cons, Nat.mul_add, Nat.mul_one, Nat.pow_add]
    calc x % 2 ^ n + packLanes n xs * 2 ^ n < 2 ^ n + packLanes n xs * 2 ^ n := by omega
      _ = (packLanes n xs + 1) * 2 ^ n := by ring
      _ ≤ 2 ^ (n * xs.length) * 2 ^ n := Nat.mul_le_mul_right _ ih

/-- A register packed from its lanes has them. -/
theorem lane_pack (n : Nat) (hn : 0 < n) (hd : n * (4096 / n) ≤ 4096) (xs : List Nat) (hx : xs.length ≤ 4096 / n) (i : Nat) :
    (BitVec.ofNat 4096 (packLanes n xs)).toNat / 2 ^ (n * i) % 2 ^ n = xs.getD i 0 % 2 ^ n := by
  have h : packLanes n xs < 2 ^ 4096 :=
    lt_of_lt_of_le (packLanes_lt n xs) (Nat.pow_le_pow_right (by decide) ((Nat.mul_le_mul_left n hx).trans hd))
  rw [BitVec.toNat_ofNat, Nat.mod_eq_of_lt h, packLanes_lane n hn]

/-- The registers of a group after they have been written one after the other. -/
theorem Ctx.vreg_foldl (X : Nat → BitVec 4096) (d r : VReg) : ∀ (g : Nat), g ≤ 64 → ∀ y : Ctx,
    ((List.range g).foldl (fun y k => y.setV (d + BitVec.ofNat 6 k) (X k)) y).vreg r =
      if (r - d).toNat < g then X (r - d).toNat else y.vreg r
  | 0, _, y => by simp
  | g + 1, hg, y => by
    rw [List.range_succ, List.foldl_append, List.foldl_cons, List.foldl_nil, Ctx.vreg_setV, Ctx.vreg_foldl X d r g (by omega) y]
    by_cases h : r = d + BitVec.ofNat 6 g
    · have e : (r - d).toNat = g := by
        subst h
        have : d + BitVec.ofNat 6 g - d = BitVec.ofNat 6 g := by rw [BitVec.add_comm]; exact BitVec.add_sub_cancel _ _
        rw [this, BitVec.toNat_ofNat, Nat.mod_eq_of_lt (by omega)]
      rw [if_pos h, if_pos (by omega), e]
    · have e : (r - d).toNat ≠ g := fun e => h (by
        have hr : r - d = BitVec.ofNat 6 g := BitVec.eq_of_toNat_eq (by rw [e, BitVec.toNat_ofNat, Nat.mod_eq_of_lt (by omega)])
        rw [← hr, BitVec.add_comm]; exact (BitVec.sub_add_cancel r d).symm)
      rw [if_neg h]
      by_cases h2 : (r - d).toNat < g
      · rw [if_pos h2, if_pos (by omega)]
      · rw [if_neg h2, if_neg (by omega)]

theorem Ctx.foldl_setV_rest (X : Nat → BitVec 4096) (d : VReg) : ∀ (l : List Nat) (y : Ctx),
    l.foldl (fun y k => y.setV (d + BitVec.ofNat 6 k) (X k)) y =
      { y with v := (l.foldl (fun y k => y.setV (d + BitVec.ofNat 6 k) (X k)) y).v }
  | [], _ => rfl
  | k :: l, y => by
    rw [List.foldl_cons, Ctx.foldl_setV_rest X d l (y.setV (d + BitVec.ofNat 6 k) (X k))]; rfl

theorem Ctx.setGroup_rest (y : Ctx) (d : VReg) (n g : Nat) (xs : List Nat) : y.setGroup d n g xs = { y with v := (y.setGroup d n g xs).v } :=
  Ctx.foldl_setV_rest _ d (List.range g) y

theorem reg_in_group (d : VReg) (k : Nat) (h : k < 64) : (d + BitVec.ofNat 6 k - d).toNat = k := by
  have : d + BitVec.ofNat 6 k - d = BitVec.ofNat 6 k := by rw [BitVec.add_comm]; exact BitVec.add_sub_cancel _ _
  rw [this, BitVec.toNat_ofNat, Nat.mod_eq_of_lt (by omega)]

/-- Writing a group gives each element its value. -/
theorem Ctx.elem_setGroup (y : Ctx) (d : VReg) (n g : Nat) (xs : List Nat) (hn : 0 < n) (hd : n * (4096 / n) ≤ 4096) (hg : 0 < g)
    (h64 : g ≤ 64) (i : Nat) (hi : i < g * (4096 / n)) : (y.setGroup d n g xs).elem d n g i = xs.getD i 0 % 2 ^ n := by
  have hm : i % g < g := Nat.mod_lt _ hg
  have hq : i / g < 4096 / n := Nat.div_lt_of_lt_mul hi
  unfold Ctx.elem Ctx.lane Ctx.setGroup
  rw [Ctx.vreg_foldl (fun k => BitVec.ofNat 4096 (packLanes n ((List.range (4096 / n)).map fun p => xs.getD (p * g + k) 0))) d _ g h64,
    reg_in_group d (i % g) (by omega), if_pos hm, lane_pack n hn hd _ (by simp)]
  have e : i / g * g + i % g = i := by rw [Nat.mul_comm]; exact Nat.div_add_mod i g
  simp [hq, e]

theorem Ctx.vreg_setGroup_ne (y : Ctx) (d r : VReg) (n g : Nat) (xs : List Nat) (h64 : g ≤ 64) (h : g ≤ (r - d).toNat) :
    (y.setGroup d n g xs).vreg r = y.vreg r := by
  unfold Ctx.setGroup
  rw [Ctx.vreg_foldl (fun k => BitVec.ofNat 4096 (packLanes n ((List.range (4096 / n)).map fun p => xs.getD (p * g + k) 0))) d r g h64,
    if_neg (by omega)]

theorem lanesOf_getD (n : Nat) (x : BitVec 4096) (i : Nat) (h : i < 4096 / n) : (lanesOf n x).getD i 0 = x.toNat / 2 ^ (n * i) % 2 ^ n := by
  simp [lanesOf, h]

@[simp] theorem lanesOf_length (n : Nat) (x : BitVec 4096) : (lanesOf n x).length = 4096 / n := by simp [lanesOf]

@[simp] theorem Ctx.groupLanes_length (y : Ctx) (r : VReg) (n g : Nat) : (y.groupLanes r n g).length = g * (4096 / n) := by
  simp [Ctx.groupLanes]

theorem Ctx.groupLanes_getD (y : Ctx) (r : VReg) (n g : Nat) (hg : 0 < g) (i : Nat) (hi : i < g * (4096 / n)) :
    (y.groupLanes r n g).getD i 0 = y.elem r n g i := by
  have hm : i % g < g := Nat.mod_lt _ hg
  have hq : i / g < 4096 / n := Nat.div_lt_of_lt_mul hi
  have e : (lanesOf n (y.vreg (r + BitVec.ofNat 6 (i % g)))).getD (i / g) 0 = y.elem r n g i := lanesOf_getD n _ _ hq
  simp only [Ctx.groupLanes, List.getD_eq_getElem?_getD, List.getElem?_map, List.getElem?_range hi, List.getElem?_range hm,
    Option.map_some, Option.getD_some]
  simpa [List.getD_eq_getElem?_getD] using e

/-! ## The lane rule -/

theorem mergeLanes_getD (act : Nat → Bool) (old : List Nat) (new : List (Nat × Flags)) (i : Nat) (ho : i < old.length) (hn : i < new.length) :
    (mergeLanes act old new).1.getD i 0 = if act i then (new.getD i (0, 0)).1 else old.getD i 0 := by
  simp [mergeLanes, ho, hn]

/-- A bit of the union of flags. -/
theorem foldl_or_bit (b : Nat) : ∀ (l : List Flags) (a : Flags), (l.foldl (· ||| ·) a).getLsbD b = true ↔
    a.getLsbD b = true ∨ ∃ x ∈ l, x.getLsbD b = true
  | [], a => by simp
  | x :: l, a => by
    rw [List.foldl_cons, foldl_or_bit b l (a ||| x)]
    simp [or_assoc]

theorem mergeLanes_flags (act : Nat → Bool) (old : List Nat) (new : List (Nat × Flags)) (b : Nat) :
    (mergeLanes act old new).2.getLsbD b = true ↔ ∃ i, i < new.length ∧ act i = true ∧ ((new.getD i (0, 0)).2).getLsbD b = true := by
  unfold mergeLanes
  rw [foldl_or_bit]
  constructor
  · rintro (h | ⟨x, hx, h⟩)
    · simp at h
    · obtain ⟨i, hi, rfl⟩ := List.mem_mapIdx.mp hx
      by_cases ha : act i = true
      · exact ⟨i, hi, ha, by simpa [ha, hi] using h⟩
      · simp [ha] at h
  · rintro ⟨i, hi, ha, h⟩
    refine .inr ⟨(new.getD i (0, 0)).2, List.mem_mapIdx.mpr ⟨i, hi, by simp [ha, hi]⟩, h⟩

/-- Writing lanes: with an activity, the word completes and WroteLanes holds. -/
theorem State.writeLanes_wrote (vd : VReg) (n g : Nat) (m : Bool) (act : Nat → Bool) (new : List (Nat × Flags))
    (hact : s.ctx.activity m = some act) (hn : 0 < n) (hd : n * (4096 / n) ≤ 4096) (hg : 0 < g) (h64 : g ≤ 64)
    (hl : new.length = g * (4096 / n)) :
    ∃ t, s.writeLanes vd n g m new = .next t ∧ WroteLanes s t vd n g act (fun i => new.getD i (0, 0)) := by
  have hr : s.writeLanes vd n g m new =
      .next ((s.modCtx fun y => y.setGroup vd n g (mergeLanes act (s.ctx.groupLanes vd n g) new).1).vdone
        (mergeLanes act (s.ctx.groupLanes vd n g) new).2) := by
    unfold State.writeLanes; rw [hact]
  refine ⟨_, hr, ?_⟩
  generalize hM : mergeLanes act (s.ctx.groupLanes vd n g) new = M
  have hc : ((s.modCtx fun y => y.setGroup vd n g M.1).vdone M.2).ctx =
      { s.ctx.setGroup vd n g M.1 with pc := (s.ctx.setGroup vd n g M.1).pc + 8, flags := (s.ctx.setGroup vd n g M.1).flags ||| M.2 } := by
    simp [State.vdone]
  have hrest := Ctx.setGroup_rest s.ctx vd n g M.1
  refine ⟨?_, fun i hi => ?_, fun r h => ?_, fun b => ?_, ?_⟩
  · exact State.onlyCtx_trans (State.modCtx_onlyCtx _ _) (State.modCtx_onlyCtx _ _) (by simp)
  · have hv : ∀ r, ((s.modCtx fun y => y.setGroup vd n g M.1).vdone M.2).ctx.vreg r = (s.ctx.setGroup vd n g M.1).vreg r := fun r => by
      rw [hc]; rfl
    have he : ((s.modCtx fun y => y.setGroup vd n g M.1).vdone M.2).ctx.elem vd n g i = (s.ctx.setGroup vd n g M.1).elem vd n g i := by
      unfold Ctx.elem Ctx.lane; rw [hv]
    rw [he, Ctx.elem_setGroup s.ctx vd n g M.1 hn hd hg h64 i hi, ← hM,
      mergeLanes_getD act _ new i (by rw [Ctx.groupLanes_length]; exact hi) (by omega)]
    by_cases ha : act i = true
    · simp [ha]
    · simp only [ha, if_false, Bool.false_eq_true]
      rw [Ctx.groupLanes_getD s.ctx vd n g hg i hi]
      exact Nat.mod_mod _ _
  · rw [hc]
    exact Ctx.vreg_setGroup_ne s.ctx vd r n g M.1 h64 h
  · have hf : (s.ctx.setGroup vd n g M.1).flags = s.ctx.flags := by rw [hrest]
    rw [hc]
    show (((s.ctx.setGroup vd n g M.1).flags ||| M.2).getLsbD b = true) ↔ _
    rw [hf, BitVec.getLsbD_or, Bool.or_eq_true, ← hM, mergeLanes_flags, hl]
  · rw [hc, hrest]

theorem WroteLanes.congr {s t : State} {vd : VReg} {n g : Nat} {act : Nat → Bool} {f f' : Nat → Nat × Flags}
    (h : WroteLanes s t vd n g act f) (e : ∀ i, i < g * (4096 / n) → f i = f' i) : WroteLanes s t vd n g act f' := by
  refine ⟨h.frame, fun i hi => ?_, h.others, fun b => ?_, h.rest⟩
  · rw [h.lanes i hi, e i hi]
  · rw [h.flags b]
    constructor
    · rintro (x | ⟨i, hi, ha, hb⟩)
      · exact .inl x
      · exact .inr ⟨i, hi, ha, by rw [← e i hi]; exact hb⟩
    · rintro (x | ⟨i, hi, ha, hb⟩)
      · exact .inl x
      · exact .inr ⟨i, hi, ha, by rw [e i hi]; exact hb⟩

/-- The widths of the sixteen types. -/
theorem tyBits_cases (ty : Nat) : tyBits ty = 4 ∨ tyBits ty = 8 ∨ tyBits ty = 16 ∨ tyBits ty = 32 ∨ tyBits ty = 64 := by
  unfold tyBits; split <;> simp

theorem tyBits_pos (ty : Nat) : 0 < tyBits ty := by rcases tyBits_cases ty with h | h | h | h | h <;> omega

theorem tyBits_lanes (ty : Nat) : tyBits ty * (4096 / tyBits ty) ≤ 4096 := Nat.mul_div_le _ _

theorem Ctx.lanes_getD (y : Ctx) (r : VReg) (ty i : Nat) (h : i < 4096 / tyBits ty) : (y.lanes r ty).getD i 0 = y.lane r (tyBits ty) i :=
  lanesOf_getD _ _ _ h

@[simp] theorem Ctx.lanes_length (y : Ctx) (r : VReg) (ty : Nat) : (y.lanes r ty).length = 4096 / tyBits ty := lanesOf_length _ _

/-- A lane instruction of one source. -/
theorem State.lane1_wrote (vd va : VReg) (ty : BitVec 4) (m : Bool) (f : Nat → Nat × Flags) (act : Nat → Bool)
    (h : s.ctx.activity m = some act) :
    ∃ t, s.lane1 vd va ty m f = .next t ∧
      WroteLanes s t vd (tyBits ty.toNat) 1 act fun i => f (s.ctx.lane va (tyBits ty.toNat) i) := by
  obtain ⟨t, e, w⟩ := State.writeLanes_wrote s vd (tyBits ty.toNat) 1 m act ((s.ctx.lanes va ty.toNat).map f) h
    (tyBits_pos _) (tyBits_lanes _) (by decide) (by decide) (by simp)
  refine ⟨t, e, w.congr fun i hi => ?_⟩
  have hi' : i < 4096 / tyBits ty.toNat := by omega
  have := Ctx.lanes_getD s.ctx va ty.toNat i hi'
  simp only [List.getD_eq_getElem?_getD, List.getElem?_map] at this ⊢
  rw [← this]
  simp [hi']

/-- A lane instruction of two sources. -/
theorem State.lane2_wrote (vd va vb : VReg) (ty : BitVec 4) (m : Bool) (f : Nat → Nat → Nat × Flags) (act : Nat → Bool)
    (h : s.ctx.activity m = some act) :
    ∃ t, s.lane2 vd va vb ty m f = .next t ∧
      WroteLanes s t vd (tyBits ty.toNat) 1 act fun i => f (s.ctx.lane va (tyBits ty.toNat) i) (s.ctx.lane vb (tyBits ty.toNat) i) := by
  obtain ⟨t, e, w⟩ := State.writeLanes_wrote s vd (tyBits ty.toNat) 1 m act
    (List.zipWith f (s.ctx.lanes va ty.toNat) (s.ctx.lanes vb ty.toNat)) h
    (tyBits_pos _) (tyBits_lanes _) (by decide) (by decide) (by simp)
  refine ⟨t, e, w.congr fun i hi => ?_⟩
  have hi' : i < 4096 / tyBits ty.toNat := by omega
  have ha := Ctx.lanes_getD s.ctx va ty.toNat i hi'
  have hb := Ctx.lanes_getD s.ctx vb ty.toNat i hi'
  simp only [List.getD_eq_getElem?_getD] at ha hb ⊢
  rw [← ha, ← hb]
  simp [hi']

/-- A lane instruction of three sources. -/
theorem State.lane3_wrote (vd va vb vc : VReg) (ty : BitVec 4) (m : Bool) (f : Nat → Nat → Nat → Nat × Flags) (act : Nat → Bool)
    (h : s.ctx.activity m = some act) :
    ∃ t, s.lane3 vd va vb vc ty m f = .next t ∧
      WroteLanes s t vd (tyBits ty.toNat) 1 act fun i =>
        f (s.ctx.lane va (tyBits ty.toNat) i) (s.ctx.lane vb (tyBits ty.toNat) i) (s.ctx.lane vc (tyBits ty.toNat) i) := by
  obtain ⟨t, e, w⟩ := State.writeLanes_wrote s vd (tyBits ty.toNat) 1 m act
    (List.zipWith (fun (p : Nat × Nat) z => f p.1 p.2 z)
      (List.zipWith Prod.mk (s.ctx.lanes va ty.toNat) (s.ctx.lanes vb ty.toNat)) (s.ctx.lanes vc ty.toNat)) h
    (tyBits_pos _) (tyBits_lanes _) (by decide) (by decide) (by simp)
  refine ⟨t, e, w.congr fun i hi => ?_⟩
  have hi' : i < 4096 / tyBits ty.toNat := by omega
  have ha := Ctx.lanes_getD s.ctx va ty.toNat i hi'
  have hb := Ctx.lanes_getD s.ctx vb ty.toNat i hi'
  have hc := Ctx.lanes_getD s.ctx vc ty.toNat i hi'
  simp only [List.getD_eq_getElem?_getD] at ha hb hc ⊢
  rw [← ha, ← hb, ← hc]
  simp [hi']

end Sys2Proof.Machine
end

