-- ==== Sys2Proof/Laws/PerInstr.lean ====
section
/-!
SUPPORT. The family F: what holds of every instruction as syntax. The encoding of a well-formed instruction fits the instruction's
bytes, of which there are 4 or 8; an event row has no encoding.
-/
namespace Sys2Proof.Laws.F
open Sys2Proof

/-- A well-formed instruction has 4 or 8 bytes, and its encoding fits them. -/
def Statement (i : Instr) : Prop := i.wellFormed = true → (i.size = 4 ∨ i.size = 8) ∧ i.encode < 2 ^ (8 * i.size)

/-- An event row is not well-formed. -/
theorem event {i : Instr} (h : i.problem = some .event) : Statement i := by
  intro w; simp [Instr.wellFormed, h] at w

theorem four {i : Instr} (hs : i.size = 4) (he : i.encode < 2 ^ 32) : Statement i := by intro _; rw [hs]; exact ⟨.inl rfl, he⟩

theorem eight {i : Instr} (hs : i.size = 8) (he : i.encode < 2 ^ 64) : Statement i := by intro _; rw [hs]; exact ⟨.inr rfl, he⟩

/-! ## The formats -/

theorem bit_lt (b : Bool) : b.toNat < 2 := by cases b <;> decide

theorem bit_le (b : Bool) : b.toNat ≤ 1 := by cases b <;> decide

/-- A number below a closed bound. -/
theorem small {m n : Nat} (h : Nat.blt m n = true) : m < n := by simpa [Nat.blt, Nat.ble_eq] using h

theorem wordA_lt {op func : Nat} (d a b : Reg) (ho : op < 64) (hf : func < 2048) : wordA op d a b func < 2 ^ 32 := by
  have := d.isLt; have := a.isLt; have := b.isLt; unfold wordA; omega

theorem wordI_lt {op imm : Nat} (d a : Reg) (ho : op < 64) (hf : imm < 2 ^ 16) : wordI op d a imm < 2 ^ 32 := by
  have := d.isLt; have := a.isLt; unfold wordI; omega

theorem wordM_lt {op w : Nat} (d a : Reg) (imm : BitVec 12) (ho : op < 64) (hf : w < 16) : wordM op d a imm w < 2 ^ 32 := by
  have := d.isLt; have := a.isLt; have := imm.isLt; unfold wordM; omega

theorem wordJ_lt {op : Nat} (d : Reg) (off : BitVec 21) (ho : op < 64) : wordJ op d off < 2 ^ 32 := by
  have := d.isLt; have := off.isLt; unfold wordJ; omega

theorem wordF_lt {k : Nat} (scope p q : BitVec 3) (hk : k < 8) : wordF scope k p q < 2 ^ 32 := by
  have := scope.isLt; have := p.isLt; have := q.isLt; unfold wordF; omega

theorem wordL_lt {f : Nat} (d a : Reg) (imm : BitVec 32) (hf : f < 2 ^ 16) : wordL d a f imm < 2 ^ 64 := by
  have := d.isLt; have := a.isLt; have := imm.isLt; unfold wordL; omega

theorem wordN_lt {op m : Nat} (d a : Reg) (num : BitVec 12) (ho : op < 64) (hm : m < 16) : wordN op d a num m < 2 ^ 32 := by
  have := d.isLt; have := a.isLt; have := num.isLt; unfold wordN; omega

theorem atomFunc_lt {code : Nat} (wide ar : Bool) (scope : BitVec 3) (h : code < 16) : atomFunc code wide scope ar < 2048 := by
  have := scope.isLt; have := bit_lt wide; have := bit_lt ar; unfold atomFunc; omega

theorem barFunc_lt {m : Nat} (scope : BitVec 3) (id : BitVec 4) (h : m < 16) :
    scope.toNat * 2 ^ 8 + id.toNat * 2 ^ 4 + m < 2048 := by
  have := scope.isLt; have := id.isLt; omega

theorem tbFunc_lt (scope : BitVec 3) : scope.toNat * 2 ^ 8 < 2048 := by have := scope.isLt; omega

theorem wordT_lt {op sub w1 : Nat} (h : TaskHead) (ho : op < 64) (hs : sub < 8) (hw : w1 < 2 ^ 32) : wordT op sub h w1 < 2 ^ 64 := by
  have := h.tok.isLt; have := h.pri.isLt; have := h.rbase.isLt; have := h.rcnt.isLt; have := h.wbase.isLt; have := h.wcnt.isLt
  unfold wordT; omega

theorem mm_lt (fa fb : BitVec 4) : fa.toNat * 2 ^ 28 + fb.toNat * 2 ^ 24 < 2 ^ 32 := by
  have := fa.isLt; have := fb.isLt; omega

theorem drain_lt (f : DrainFields) : f.encode < 2 ^ 32 := by
  have := f.fout.isLt; have := f.rm.isLt; have := f.clr.isLt; have := bit_lt f.sat; have := bit_lt f.rs; have := bit_lt f.cs
  have := bit_lt f.bi; have := bit_lt f.rsf; have := bit_lt f.csf; have := bit_lt f.tgt; have := bit_lt f.acci
  unfold DrainFields.encode; omega

theorem row_lt (f : RowFields) : f.encode < 2 ^ 32 := by
  have := f.opk.isLt; have := f.fin.isLt; have := f.fout.isLt; have := f.rm.isLt; have := f.preg.isLt; have := bit_lt f.sat
  have := bit_lt f.causal
  unfold RowFields.encode; omega

theorem two_lt (a b : Reg) : a.toNat * 2 ^ 27 + b.toNat * 2 ^ 22 < 2 ^ 32 := by have := a.isLt; have := b.isLt; omega

theorem cpr_lt (a b : Reg) : a.toNat * 2 ^ 27 + b.toNat * 2 ^ 17 < 2 ^ 32 := by have := a.isLt; have := b.isLt; omega

theorem three_lt (a b c : Reg) : a.toNat * 2 ^ 27 + b.toNat * 2 ^ 22 + c.toNat * 2 ^ 17 < 2 ^ 32 := by
  have := a.isLt; have := b.isLt; have := c.isLt; omega

theorem one_lt (a : Reg) : a.toNat * 2 ^ 27 < 2 ^ 32 := by have := a.isLt; omega

theorem wordVA_lt {major low : Nat} (vd va vb vc : VReg) (ty ty2 : BitVec 4) (rm : BitVec 3) (sat m : Bool) (hm : major < 256)
    (hl : low < 2 ^ 19) : wordVA major vd va vb vc ty ty2 rm sat m low < 2 ^ 64 := by
  have := vd.isLt; have := va.isLt; have := vb.isLt; have := vc.isLt; have := ty.isLt; have := ty2.isLt; have := rm.isLt
  have := bit_lt sat; have := bit_lt m
  unfold wordVA; omega

theorem shift_lt (k : BitVec 5) : 2 ^ 15 + k.toNat < 2 ^ 19 := by have := k.isLt; omega

theorem imm_lt (k : BitVec 16) : k.toNat < 2 ^ 19 := by have := k.isLt; omega

theorem pred_lt (k : BitVec 3) : k.toNat * 2 ^ 16 < 2 ^ 19 := by have := k.isLt; omega

theorem wordVM_lt {major imm : Nat} (vd : VReg) (abase aidx : AReg) (ty layout : BitVec 4) (m : Bool) (hm : major < 256)
    (hl : imm < 2 ^ 19) : wordVM major vd abase aidx ty layout m imm < 2 ^ 64 := by
  have := vd.isLt; have := abase.isLt; have := aidx.isLt; have := ty.isLt; have := layout.isLt; have := bit_lt m
  unfold wordVM; omega

theorem idx_lt (k : VReg) : k.toNat < 2 ^ 19 := by have := k.isLt; omega

theorem wordVC_lt {major imm : Nat} (ad aa ab : AReg) (hm : major < 256) (hl : imm < 2 ^ 44) :
    wordVC major ad aa ab imm < 2 ^ 64 := by
  have := ad.isLt; have := aa.isLt; have := ab.isLt; unfold wordVC; omega

theorem off_lt (k : BitVec 32) : k.toNat < 2 ^ 44 := by have := k.isLt; omega

theorem amount_lt (k : BitVec 6) : k.toNat < 2 ^ 44 := by have := k.isLt; omega

theorem shamt_lt {j : Nat} (k : BitVec 6) (h : j < 4) : j * 2 ^ 14 + k.toNat < 2 ^ 16 := by have := k.isLt; omega

/-! ## The constructors -/

theorem add (d : Reg) (a : Reg) (b : Reg) : Statement (.add d a b) :=
  four rfl (wordA_lt d a b (small rfl) (small rfl))
theorem sub (d : Reg) (a : Reg) (b : Reg) : Statement (.sub d a b) :=
  four rfl (wordA_lt d a b (small rfl) (small rfl))
theorem and (d : Reg) (a : Reg) (b : Reg) : Statement (.and d a b) :=
  four rfl (wordA_lt d a b (small rfl) (small rfl))
theorem or (d : Reg) (a : Reg) (b : Reg) : Statement (.or d a b) :=
  four rfl (wordA_lt d a b (small rfl) (small rfl))
theorem xor (d : Reg) (a : Reg) (b : Reg) : Statement (.xor d a b) :=
  four rfl (wordA_lt d a b (small rfl) (small rfl))
theorem andn (d : Reg) (a : Reg) (b : Reg) : Statement (.andn d a b) :=
  four rfl (wordA_lt d a b (small rfl) (small rfl))
theorem sll (d : Reg) (a : Reg) (b : Reg) : Statement (.sll d a b) :=
  four rfl (wordA_lt d a b (small rfl) (small rfl))
theorem srl (d : Reg) (a : Reg) (b : Reg) : Statement (.srl d a b) :=
  four rfl (wordA_lt d a b (small rfl) (small rfl))
theorem sra (d : Reg) (a : Reg) (b : Reg) : Statement (.sra d a b) :=
  four rfl (wordA_lt d a b (small rfl) (small rfl))
theorem ror (d : Reg) (a : Reg) (b : Reg) : Statement (.ror d a b) :=
  four rfl (wordA_lt d a b (small rfl) (small rfl))
theorem slt (d : Reg) (a : Reg) (b : Reg) : Statement (.slt d a b) :=
  four rfl (wordA_lt d a b (small rfl) (small rfl))
theorem sltn (d : Reg) (a : Reg) (b : Reg) : Statement (.sltn d a b) :=
  four rfl (wordA_lt d a b (small rfl) (small rfl))
theorem min (d : Reg) (a : Reg) (b : Reg) : Statement (.min d a b) :=
  four rfl (wordA_lt d a b (small rfl) (small rfl))
theorem max (d : Reg) (a : Reg) (b : Reg) : Statement (.max d a b) :=
  four rfl (wordA_lt d a b (small rfl) (small rfl))
theorem minn (d : Reg) (a : Reg) (b : Reg) : Statement (.minn d a b) :=
  four rfl (wordA_lt d a b (small rfl) (small rfl))
theorem maxn (d : Reg) (a : Reg) (b : Reg) : Statement (.maxn d a b) :=
  four rfl (wordA_lt d a b (small rfl) (small rfl))
theorem mul (d : Reg) (a : Reg) (b : Reg) : Statement (.mul d a b) :=
  four rfl (wordA_lt d a b (small rfl) (small rfl))
theorem mulh (d : Reg) (a : Reg) (b : Reg) : Statement (.mulh d a b) :=
  four rfl (wordA_lt d a b (small rfl) (small rfl))
theorem mulhn (d : Reg) (a : Reg) (b : Reg) : Statement (.mulhn d a b) :=
  four rfl (wordA_lt d a b (small rfl) (small rfl))
theorem div (d : Reg) (a : Reg) (b : Reg) : Statement (.div d a b) :=
  four rfl (wordA_lt d a b (small rfl) (small rfl))
theorem divn (d : Reg) (a : Reg) (b : Reg) : Statement (.divn d a b) :=
  four rfl (wordA_lt d a b (small rfl) (small rfl))
theorem rem (d : Reg) (a : Reg) (b : Reg) : Statement (.rem d a b) :=
  four rfl (wordA_lt d a b (small rfl) (small rfl))
theorem remn (d : Reg) (a : Reg) (b : Reg) : Statement (.remn d a b) :=
  four rfl (wordA_lt d a b (small rfl) (small rfl))
theorem clz (d : Reg) (a : Reg) : Statement (.clz d a) :=
  four rfl (wordA_lt d a 0 (small rfl) (small rfl))
theorem ctz (d : Reg) (a : Reg) : Statement (.ctz d a) :=
  four rfl (wordA_lt d a 0 (small rfl) (small rfl))
theorem popc (d : Reg) (a : Reg) : Statement (.popc d a) :=
  four rfl (wordA_lt d a 0 (small rfl) (small rfl))
theorem brev (d : Reg) (a : Reg) : Statement (.brev d a) :=
  four rfl (wordA_lt d a 0 (small rfl) (small rfl))
theorem bswap (d : Reg) (a : Reg) : Statement (.bswap d a) :=
  four rfl (wordA_lt d a 0 (small rfl) (small rfl))
theorem clmul (d : Reg) (a : Reg) (b : Reg) : Statement (.clmul d a b) :=
  four rfl (wordA_lt d a b (small rfl) (small rfl))
theorem clmulh (d : Reg) (a : Reg) (b : Reg) : Statement (.clmulh d a b) :=
  four rfl (wordA_lt d a b (small rfl) (small rfl))
theorem addw (d : Reg) (a : Reg) (b : Reg) : Statement (.addw d a b) :=
  four rfl (wordA_lt d a b (small rfl) (small rfl))
theorem subw (d : Reg) (a : Reg) (b : Reg) : Statement (.subw d a b) :=
  four rfl (wordA_lt d a b (small rfl) (small rfl))
theorem sllw (d : Reg) (a : Reg) (b : Reg) : Statement (.sllw d a b) :=
  four rfl (wordA_lt d a b (small rfl) (small rfl))
theorem srlw (d : Reg) (a : Reg) (b : Reg) : Statement (.srlw d a b) :=
  four rfl (wordA_lt d a b (small rfl) (small rfl))
theorem sraw (d : Reg) (a : Reg) (b : Reg) : Statement (.sraw d a b) :=
  four rfl (wordA_lt d a b (small rfl) (small rfl))
theorem exts (d : Reg) (a : Reg) (b : Reg) : Statement (.exts d a b) :=
  four rfl (wordA_lt d a b (small rfl) (small rfl))
theorem extz (d : Reg) (a : Reg) (b : Reg) : Statement (.extz d a b) :=
  four rfl (wordA_lt d a b (small rfl) (small rfl))
theorem seq (d : Reg) (a : Reg) (b : Reg) : Statement (.seq d a b) :=
  four rfl (wordA_lt d a b (small rfl) (small rfl))
theorem sne (d : Reg) (a : Reg) (b : Reg) : Statement (.sne d a b) :=
  four rfl (wordA_lt d a b (small rfl) (small rfl))
theorem addi (d : Reg) (a : Reg) (imm : BitVec 16) : Statement (.addi d a imm) :=
  four rfl (wordI_lt d a (small rfl) imm.isLt)
theorem andi (d : Reg) (a : Reg) (imm : BitVec 16) : Statement (.andi d a imm) :=
  four rfl (wordI_lt d a (small rfl) imm.isLt)
theorem ori (d : Reg) (a : Reg) (imm : BitVec 16) : Statement (.ori d a imm) :=
  four rfl (wordI_lt d a (small rfl) imm.isLt)
theorem xori (d : Reg) (a : Reg) (imm : BitVec 16) : Statement (.xori d a imm) :=
  four rfl (wordI_lt d a (small rfl) imm.isLt)
theorem slti (d : Reg) (a : Reg) (imm : BitVec 16) : Statement (.slti d a imm) :=
  four rfl (wordI_lt d a (small rfl) imm.isLt)
theorem sltni (d : Reg) (a : Reg) (imm : BitVec 16) : Statement (.sltni d a imm) :=
  four rfl (wordI_lt d a (small rfl) imm.isLt)
theorem slli (d : Reg) (a : Reg) (n : BitVec 6) : Statement (.slli d a n) :=
  four rfl (wordI_lt d a (small rfl) (shamt_lt n (small rfl)))
theorem srli (d : Reg) (a : Reg) (n : BitVec 6) : Statement (.srli d a n) :=
  four rfl (wordI_lt d a (small rfl) (shamt_lt n (small rfl)))
theorem srai (d : Reg) (a : Reg) (n : BitVec 6) : Statement (.srai d a n) :=
  four rfl (wordI_lt d a (small rfl) (shamt_lt n (small rfl)))
theorem rori (d : Reg) (a : Reg) (n : BitVec 6) : Statement (.rori d a n) :=
  four rfl (wordI_lt d a (small rfl) (shamt_lt n (small rfl)))
theorem lih (d : Reg) (imm : BitVec 16) : Statement (.lih d imm) :=
  four rfl (wordI_lt d 0 (small rfl) imm.isLt)
theorem addpc (d : Reg) (imm : BitVec 16) : Statement (.addpc d imm) :=
  four rfl (wordI_lt d 0 (small rfl) imm.isLt)
theorem beq (a : Reg) (b : Reg) (off : BitVec 16) : Statement (.beq a b off) :=
  four rfl (wordI_lt a b (small rfl) off.isLt)
theorem bne (a : Reg) (b : Reg) (off : BitVec 16) : Statement (.bne a b off) :=
  four rfl (wordI_lt a b (small rfl) off.isLt)
theorem blt (a : Reg) (b : Reg) (off : BitVec 16) : Statement (.blt a b off) :=
  four rfl (wordI_lt a b (small rfl) off.isLt)
theorem bge (a : Reg) (b : Reg) (off : BitVec 16) : Statement (.bge a b off) :=
  four rfl (wordI_lt a b (small rfl) off.isLt)
theorem bltn (a : Reg) (b : Reg) (off : BitVec 16) : Statement (.bltn a b off) :=
  four rfl (wordI_lt a b (small rfl) off.isLt)
theorem bgen (a : Reg) (b : Reg) (off : BitVec 16) : Statement (.bgen a b off) :=
  four rfl (wordI_lt a b (small rfl) off.isLt)
theorem jal (d : Reg) (off : BitVec 21) : Statement (.jal d off) :=
  four rfl (wordJ_lt d off (small rfl))
theorem jalr (d : Reg) (a : Reg) (imm : BitVec 16) : Statement (.jalr d a imm) :=
  four rfl (wordI_lt d a (small rfl) imm.isLt)
theorem ldI8 (d : Reg) (a : Reg) (imm : BitVec 12) : Statement (.ldI8 d a imm) :=
  four rfl (wordM_lt d a imm (small rfl) (small rfl))
theorem ldI16 (d : Reg) (a : Reg) (imm : BitVec 12) : Statement (.ldI16 d a imm) :=
  four rfl (wordM_lt d a imm (small rfl) (small rfl))
theorem ldI32 (d : Reg) (a : Reg) (imm : BitVec 12) : Statement (.ldI32 d a imm) :=
  four rfl (wordM_lt d a imm (small rfl) (small rfl))
theorem ld64 (d : Reg) (a : Reg) (imm : BitVec 12) : Statement (.ld64 d a imm) :=
  four rfl (wordM_lt d a imm (small rfl) (small rfl))
theorem ldN8 (d : Reg) (a : Reg) (imm : BitVec 12) : Statement (.ldN8 d a imm) :=
  four rfl (wordM_lt d a imm (small rfl) (small rfl))
theorem ldN16 (d : Reg) (a : Reg) (imm : BitVec 12) : Statement (.ldN16 d a imm) :=
  four rfl (wordM_lt d a imm (small rfl) (small rfl))
theorem ldN32 (d : Reg) (a : Reg) (imm : BitVec 12) : Statement (.ldN32 d a imm) :=
  four rfl (wordM_lt d a imm (small rfl) (small rfl))
theorem st8 (d : Reg) (a : Reg) (imm : BitVec 12) : Statement (.st8 d a imm) :=
  four rfl (wordM_lt d a imm (small rfl) (small rfl))
theorem st16 (d : Reg) (a : Reg) (imm : BitVec 12) : Statement (.st16 d a imm) :=
  four rfl (wordM_lt d a imm (small rfl) (small rfl))
theorem st32 (d : Reg) (a : Reg) (imm : BitVec 12) : Statement (.st32 d a imm) :=
  four rfl (wordM_lt d a imm (small rfl) (small rfl))
theorem st64 (d : Reg) (a : Reg) (imm : BitVec 12) : Statement (.st64 d a imm) :=
  four rfl (wordM_lt d a imm (small rfl) (small rfl))
theorem st64F (d : Reg) (a : Reg) (imm : BitVec 12) : Statement (.st64F d a imm) :=
  four rfl (wordM_lt d a imm (small rfl) (small rfl))
theorem atomAdd (d : Reg) (a : Reg) (b : Reg) (ar : Bool) (scope : BitVec 3) (wide : Bool) : Statement (.atomAdd d a b ar scope wide) :=
  four rfl (wordA_lt d a b (small rfl) (atomFunc_lt wide ar scope (small rfl)))
theorem atomAnd (d : Reg) (a : Reg) (b : Reg) (ar : Bool) (scope : BitVec 3) (wide : Bool) : Statement (.atomAnd d a b ar scope wide) :=
  four rfl (wordA_lt d a b (small rfl) (atomFunc_lt wide ar scope (small rfl)))
theorem atomOr (d : Reg) (a : Reg) (b : Reg) (ar : Bool) (scope : BitVec 3) (wide : Bool) : Statement (.atomOr d a b ar scope wide) :=
  four rfl (wordA_lt d a b (small rfl) (atomFunc_lt wide ar scope (small rfl)))
theorem atomXor (d : Reg) (a : Reg) (b : Reg) (ar : Bool) (scope : BitVec 3) (wide : Bool) : Statement (.atomXor d a b ar scope wide) :=
  four rfl (wordA_lt d a b (small rfl) (atomFunc_lt wide ar scope (small rfl)))
theorem atomXchg (d : Reg) (a : Reg) (b : Reg) (ar : Bool) (scope : BitVec 3) (wide : Bool) : Statement (.atomXchg d a b ar scope wide) :=
  four rfl (wordA_lt d a b (small rfl) (atomFunc_lt wide ar scope (small rfl)))
theorem atomCas (d : Reg) (a : Reg) (b : Reg) (ar : Bool) (scope : BitVec 3) (wide : Bool) : Statement (.atomCas d a b ar scope wide) :=
  four rfl (wordA_lt d a b (small rfl) (atomFunc_lt wide ar scope (small rfl)))
theorem atomMin (d : Reg) (a : Reg) (b : Reg) (ar : Bool) (scope : BitVec 3) (wide : Bool) : Statement (.atomMin d a b ar scope wide) :=
  four rfl (wordA_lt d a b (small rfl) (atomFunc_lt wide ar scope (small rfl)))
theorem atomMax (d : Reg) (a : Reg) (b : Reg) (ar : Bool) (scope : BitVec 3) (wide : Bool) : Statement (.atomMax d a b ar scope wide) :=
  four rfl (wordA_lt d a b (small rfl) (atomFunc_lt wide ar scope (small rfl)))
theorem atomMinn (d : Reg) (a : Reg) (b : Reg) (ar : Bool) (scope : BitVec 3) (wide : Bool) : Statement (.atomMinn d a b ar scope wide) :=
  four rfl (wordA_lt d a b (small rfl) (atomFunc_lt wide ar scope (small rfl)))
theorem atomMaxn (d : Reg) (a : Reg) (b : Reg) (ar : Bool) (scope : BitVec 3) (wide : Bool) : Statement (.atomMaxn d a b ar scope wide) :=
  four rfl (wordA_lt d a b (small rfl) (atomFunc_lt wide ar scope (small rfl)))
theorem atomFadd (d : Reg) (a : Reg) (b : Reg) (ar : Bool) (scope : BitVec 3) : Statement (.atomFadd d a b ar scope) :=
  four rfl (wordA_lt d a b (small rfl) (atomFunc_lt false ar scope (small rfl)))
theorem atomFmin (d : Reg) (a : Reg) (b : Reg) (ar : Bool) (scope : BitVec 3) : Statement (.atomFmin d a b ar scope) :=
  four rfl (wordA_lt d a b (small rfl) (atomFunc_lt false ar scope (small rfl)))
theorem atomFmax (d : Reg) (a : Reg) (b : Reg) (ar : Bool) (scope : BitVec 3) : Statement (.atomFmax d a b ar scope) :=
  four rfl (wordA_lt d a b (small rfl) (atomFunc_lt false ar scope (small rfl)))
theorem atomIncw (d : Reg) (a : Reg) (b : Reg) (ar : Bool) (scope : BitVec 3) (wide : Bool) : Statement (.atomIncw d a b ar scope wide) :=
  four rfl (wordA_lt d a b (small rfl) (atomFunc_lt wide ar scope (small rfl)))
theorem atomAddb (d : Reg) (a : Reg) (b : Reg) (ar : Bool) (scope : BitVec 3) (wide : Bool) : Statement (.atomAddb d a b ar scope wide) :=
  four rfl (wordA_lt d a b (small rfl) (atomFunc_lt wide ar scope (small rfl)))
theorem fenceAcq (scope : BitVec 3) : Statement (.fenceAcq scope) :=
  four rfl (wordF_lt scope 0 0 (small rfl))
theorem fenceRel (scope : BitVec 3) : Statement (.fenceRel scope) :=
  four rfl (wordF_lt scope 0 0 (small rfl))
theorem fenceAr (scope : BitVec 3) : Statement (.fenceAr scope) :=
  four rfl (wordF_lt scope 0 0 (small rfl))
theorem fenceSc (scope : BitVec 3) : Statement (.fenceSc scope) :=
  four rfl (wordF_lt scope 0 0 (small rfl))
theorem fenceX (scope : BitVec 3) (p : BitVec 3) (q : BitVec 3) : Statement (.fenceX scope p q) :=
  four rfl (wordF_lt scope p q (small rfl))
theorem barArv (scope : BitVec 3) (id : BitVec 4) : Statement (.barArv scope id) :=
  four rfl (wordA_lt 0 0 0 (small rfl) (barFunc_lt scope id (small rfl)))
theorem barWait (d : Reg) (scope : BitVec 3) (id : BitVec 4) : Statement (.barWait d scope id) :=
  four rfl (wordA_lt d 0 0 (small rfl) (barFunc_lt scope id (small rfl)))
theorem barSync (d : Reg) (scope : BitVec 3) (id : BitVec 4) : Statement (.barSync d scope id) :=
  four rfl (wordA_lt d 0 0 (small rfl) (barFunc_lt scope id (small rfl)))
theorem barCfg (d : Reg) (a : Reg) (scope : BitVec 3) (id : BitVec 4) : Statement (.barCfg d a scope id) :=
  four rfl (wordA_lt d a 0 (small rfl) (barFunc_lt scope id (small rfl)))
theorem tbInit (d : Reg) (a : Reg) (b : Reg) (scope : BitVec 3) : Statement (.tbInit d a b scope) :=
  four rfl (wordA_lt d a b (small rfl) (tbFunc_lt scope))
theorem tbExpect (d : Reg) (a : Reg) (b : Reg) : Statement (.tbExpect d a b) :=
  four rfl (wordA_lt d a b (small rfl) (small rfl))
theorem tbArv (d : Reg) (a : Reg) (b : Reg) : Statement (.tbArv d a b) :=
  four rfl (wordA_lt d a b (small rfl) (small rfl))
theorem tbWait (d : Reg) (a : Reg) (b : Reg) : Statement (.tbWait d a b) :=
  four rfl (wordA_lt d a b (small rfl) (small rfl))
theorem tbTest (d : Reg) (a : Reg) : Statement (.tbTest d a) :=
  four rfl (wordA_lt d a 0 (small rfl) (small rfl))
theorem tbInval (d : Reg) (a : Reg) : Statement (.tbInval d a) :=
  four rfl (wordA_lt d a 0 (small rfl) (small rfl))
theorem tbName (d : Reg) (a : Reg) (b : Reg) : Statement (.tbName d a b) :=
  four rfl (wordA_lt d a b (small rfl) (small rfl))
theorem tkWait (d : Reg) (a : Reg) : Statement (.tkWait d a) :=
  four rfl (wordA_lt d a 0 (small rfl) (small rfl))
theorem tkTest (d : Reg) (a : Reg) : Statement (.tkTest d a) :=
  four rfl (wordA_lt d a 0 (small rfl) (small rfl))
theorem tkAfter (a : Reg) : Statement (.tkAfter a) :=
  four rfl (wordA_lt 0 a 0 (small rfl) (small rfl))
theorem tbAfter (a : Reg) (b : Reg) : Statement (.tbAfter a b) :=
  four rfl (wordA_lt 0 a b (small rfl) (small rfl))
theorem bufDef (d : Reg) (a : Reg) (b : Reg) : Statement (.bufDef d a b) :=
  four rfl (wordA_lt d a b (small rfl) (small rfl))
theorem bufUndef (d : Reg) (a : Reg) : Statement (.bufUndef d a) :=
  four rfl (wordA_lt d a 0 (small rfl) (small rfl))
theorem rgnB (q : QReg) (a : Reg) (b : Reg) : Statement (.rgnB q a b) :=
  four rfl (wordA_lt (q.setWidth 5) a b (small rfl) (small rfl))
theorem rgnO (q : QReg) (a : Reg) : Statement (.rgnO q a) :=
  four rfl (wordA_lt (q.setWidth 5) a 0 (small rfl) (small rfl))
theorem rgnE (q : QReg) (a : Reg) : Statement (.rgnE q a) :=
  four rfl (wordA_lt (q.setWidth 5) a 0 (small rfl) (small rfl))
theorem rgnClr (q : QReg) : Statement (.rgnClr q) :=
  four rfl (wordA_lt (q.setWidth 5) 0 0 (small rfl) (small rfl))
theorem mm (h : TaskHead) (fa : BitVec 4) (fb : BitVec 4) : Statement (.mm h fa fb) :=
  eight rfl (wordT_lt h (small rfl) (small rfl) (mm_lt fa fb))
theorem mmd (h : TaskHead) (f : DrainFields) : Statement (.mmd h f) :=
  eight rfl (wordT_lt h (small rfl) (small rfl) (drain_lt f))
theorem mmz (h : TaskHead) : Statement (.mmz h) :=
  eight rfl (wordT_lt h (small rfl) (small rfl) (small rfl))
theorem xp (h : TaskHead) : Statement (.xp h) :=
  eight rfl (wordT_lt h (small rfl) (small rfl) (small rfl))
theorem row (h : TaskHead) (f : RowFields) : Statement (.row h f) :=
  eight rfl (wordT_lt h (small rfl) (small rfl) (row_lt f))
theorem vrun (h : TaskHead) (ent : Reg) (arg : Reg) : Statement (.vrun h ent arg) :=
  eight rfl (wordT_lt h (small rfl) (small rfl) (two_lt ent arg))
theorem cp (h : TaskHead) (map : Reg) (bar : Reg) : Statement (.cp h map bar) :=
  eight rfl (wordT_lt h (small rfl) (small rfl) (two_lt map bar))
theorem cpW (h : TaskHead) (map : Reg) (bar : Reg) : Statement (.cpW h map bar) :=
  eight rfl (wordT_lt h (small rfl) (small rfl) (two_lt map bar))
theorem cpG (h : TaskHead) (map : Reg) (bar : Reg) : Statement (.cpG h map bar) :=
  eight rfl (wordT_lt h (small rfl) (small rfl) (two_lt map bar))
theorem cpS (h : TaskHead) (map : Reg) (bar : Reg) : Statement (.cpS h map bar) :=
  eight rfl (wordT_lt h (small rfl) (small rfl) (two_lt map bar))
theorem cpF (h : TaskHead) (map : Reg) (bar : Reg) : Statement (.cpF h map bar) :=
  eight rfl (wordT_lt h (small rfl) (small rfl) (two_lt map bar))
theorem cpR (h : TaskHead) (map : Reg) (res : Reg) : Statement (.cpR h map res) :=
  eight rfl (wordT_lt h (small rfl) (small rfl) (cpr_lt map res))
theorem taskRpost (h : TaskHead) (hreg : Reg) (dreg : Reg) (tgr : Reg) : Statement (.taskRpost h hreg dreg tgr) :=
  eight rfl (wordT_lt h (small rfl) (small rfl) (three_lt hreg dreg tgr))
theorem taskRstat (h : TaskHead) (tgr : Reg) : Statement (.taskRstat h tgr) :=
  eight rfl (wordT_lt h (small rfl) (small rfl) (one_lt tgr))
theorem lzDef (d : Reg) (a : Reg) (b : Reg) : Statement (.lzDef d a b) :=
  four rfl (wordA_lt d a b (small rfl) (small rfl))
theorem lzResv (d : Reg) (a : Reg) (b : Reg) : Statement (.lzResv d a b) :=
  four rfl (wordA_lt d a b (small rfl) (small rfl))
theorem lzRel (d : Reg) (a : Reg) (b : Reg) : Statement (.lzRel d a b) :=
  four rfl (wordA_lt d a b (small rfl) (small rfl))
theorem lzStat (d : Reg) (a : Reg) (b : Reg) : Statement (.lzStat d a b) :=
  four rfl (wordA_lt d a b (small rfl) (small rfl))
theorem lzUndef (d : Reg) (a : Reg) : Statement (.lzUndef d a) :=
  four rfl (wordA_lt d a 0 (small rfl) (small rfl))
theorem gridDef (d : Reg) (a : Reg) (b : Reg) : Statement (.gridDef d a b) :=
  four rfl (wordA_lt d a b (small rfl) (small rfl))
theorem gridBc (d : Reg) (a : Reg) (b : Reg) : Statement (.gridBc d a b) :=
  four rfl (wordA_lt d a b (small rfl) (small rfl))
theorem gridStep (d : Reg) (a : Reg) (b : Reg) : Statement (.gridStep d a b) :=
  four rfl (wordA_lt d a b (small rfl) (small rfl))
theorem gridStat (d : Reg) (a : Reg) (b : Reg) : Statement (.gridStat d a b) :=
  four rfl (wordA_lt d a b (small rfl) (small rfl))
theorem gridUndef (d : Reg) (a : Reg) : Statement (.gridUndef d a) :=
  four rfl (wordA_lt d a 0 (small rfl) (small rfl))
theorem ecall (a : Reg) : Statement (.ecall a) :=
  four rfl (wordA_lt 0 a 0 (small rfl) (small rfl))
theorem trap (a : Reg) (b : Reg) : Statement (.trap a b) :=
  four rfl (wordA_lt 0 a b (small rfl) (small rfl))
theorem sysr (d : Reg) (num : BitVec 12) : Statement (.sysr d num) :=
  four rfl (wordN_lt d 0 num (small rfl) (small rfl))
theorem sysw (num : BitVec 12) (a : Reg) : Statement (.sysw num a) :=
  four rfl (wordN_lt 0 a num (small rfl) (small rfl))
theorem spawn (d : Reg) (a : Reg) (b : Reg) : Statement (.spawn d a b) :=
  four rfl (wordA_lt d a b (small rfl) (small rfl))
theorem waitev (d : Reg) (a : Reg) : Statement (.waitev d a) :=
  four rfl (wordA_lt d a 0 (small rfl) (small rfl))
theorem accAlloc (d : Reg) (a : Reg) : Statement (.accAlloc d a) :=
  four rfl (wordA_lt d a 0 (small rfl) (small rfl))
theorem accFree (d : Reg) (a : Reg) (b : Reg) : Statement (.accFree d a b) :=
  four rfl (wordA_lt d a b (small rfl) (small rfl))
theorem memCommit (d : Reg) (a : Reg) : Statement (.memCommit d a) :=
  four rfl (wordA_lt d a 0 (small rfl) (small rfl))
theorem memDecommit (d : Reg) (a : Reg) : Statement (.memDecommit d a) :=
  four rfl (wordA_lt d a 0 (small rfl) (small rfl))
theorem traceMark (a : Reg) (b : Reg) : Statement (.traceMark a b) :=
  four rfl (wordA_lt 0 a b (small rfl) (small rfl))
theorem stepEnd (d : Reg) (a : Reg) : Statement (.stepEnd d a) :=
  four rfl (wordA_lt d a 0 (small rfl) (small rfl))
theorem li (d : Reg) (imm : BitVec 32) : Statement (.li d imm) :=
  eight rfl (wordL_lt d 0 imm (small rfl))
theorem lihi (d : Reg) (a : Reg) (imm : BitVec 32) : Statement (.lihi d a imm) :=
  eight rfl (wordL_lt d a imm (small rfl))
theorem addl (d : Reg) (a : Reg) (imm : BitVec 32) : Statement (.addl d a imm) :=
  eight rfl (wordL_lt d a imm (small rfl))
theorem jall (d : Reg) (imm : BitVec 32) : Statement (.jall d imm) :=
  eight rfl (wordL_lt d 0 imm (small rfl))
theorem illegalWord (inContext : Bool) (word : Word) : Statement (.illegalWord inContext word) := event rfl
theorem vadd (vd : VReg) (va : VReg) (vb : VReg) (ty : BitVec 4) (m : Bool) : Statement (.vadd vd va vb ty m) :=
  eight rfl (wordVA_lt vd va vb 0 ty 0 0 false m (small rfl) (small rfl))
theorem vsub (vd : VReg) (va : VReg) (vb : VReg) (ty : BitVec 4) (m : Bool) : Statement (.vsub vd va vb ty m) :=
  eight rfl (wordVA_lt vd va vb 0 ty 0 0 false m (small rfl) (small rfl))
theorem vmul (vd : VReg) (va : VReg) (vb : VReg) (ty : BitVec 4) (m : Bool) : Statement (.vmul vd va vb ty m) :=
  eight rfl (wordVA_lt vd va vb 0 ty 0 0 false m (small rfl) (small rfl))
theorem vmulh (vd : VReg) (va : VReg) (vb : VReg) (ty : BitVec 4) (m : Bool) : Statement (.vmulh vd va vb ty m) :=
  eight rfl (wordVA_lt vd va vb 0 ty 0 0 false m (small rfl) (small rfl))
theorem vmad (vd : VReg) (va : VReg) (vb : VReg) (vc : VReg) (ty : BitVec 4) (m : Bool) : Statement (.vmad vd va vb vc ty m) :=
  eight rfl (wordVA_lt vd va vb vc ty 0 0 false m (small rfl) (small rfl))
theorem vmin (vd : VReg) (va : VReg) (vb : VReg) (ty : BitVec 4) (m : Bool) : Statement (.vmin vd va vb ty m) :=
  eight rfl (wordVA_lt vd va vb 0 ty 0 0 false m (small rfl) (small rfl))
theorem vmax (vd : VReg) (va : VReg) (vb : VReg) (ty : BitVec 4) (m : Bool) : Statement (.vmax vd va vb ty m) :=
  eight rfl (wordVA_lt vd va vb 0 ty 0 0 false m (small rfl) (small rfl))
theorem vabs (vd : VReg) (va : VReg) (ty : BitVec 4) (sat : Bool) (m : Bool) : Statement (.vabs vd va ty sat m) :=
  eight rfl (wordVA_lt vd va 0 0 ty 0 0 sat m (small rfl) (small rfl))
theorem vneg (vd : VReg) (va : VReg) (ty : BitVec 4) (sat : Bool) (m : Bool) : Statement (.vneg vd va ty sat m) :=
  eight rfl (wordVA_lt vd va 0 0 ty 0 0 sat m (small rfl) (small rfl))
theorem vand (vd : VReg) (va : VReg) (vb : VReg) (ty : BitVec 4) (m : Bool) : Statement (.vand vd va vb ty m) :=
  eight rfl (wordVA_lt vd va vb 0 ty 0 0 false m (small rfl) (small rfl))
theorem vor (vd : VReg) (va : VReg) (vb : VReg) (ty : BitVec 4) (m : Bool) : Statement (.vor vd va vb ty m) :=
  eight rfl (wordVA_lt vd va vb 0 ty 0 0 false m (small rfl) (small rfl))
theorem vxor (vd : VReg) (va : VReg) (vb : VReg) (ty : BitVec 4) (m : Bool) : Statement (.vxor vd va vb ty m) :=
  eight rfl (wordVA_lt vd va vb 0 ty 0 0 false m (small rfl) (small rfl))
theorem vnot (vd : VReg) (va : VReg) (ty : BitVec 4) (m : Bool) : Statement (.vnot vd va ty m) :=
  eight rfl (wordVA_lt vd va 0 0 ty 0 0 false m (small rfl) (small rfl))
theorem vsll (vd : VReg) (va : VReg) (vb : VReg) (ty : BitVec 4) (m : Bool) : Statement (.vsll vd va vb ty m) :=
  eight rfl (wordVA_lt vd va vb 0 ty 0 0 false m (small rfl) (small rfl))
theorem vsllImm (vd : VReg) (va : VReg) (k : BitVec 5) (ty : BitVec 4) (m : Bool) : Statement (.vsllImm vd va k ty m) :=
  eight rfl (wordVA_lt vd va 0 0 ty 0 0 false m (small rfl) (shift_lt k))
theorem vsrl (vd : VReg) (va : VReg) (vb : VReg) (ty : BitVec 4) (m : Bool) : Statement (.vsrl vd va vb ty m) :=
  eight rfl (wordVA_lt vd va vb 0 ty 0 0 false m (small rfl) (small rfl))
theorem vsrlImm (vd : VReg) (va : VReg) (k : BitVec 5) (ty : BitVec 4) (m : Bool) : Statement (.vsrlImm vd va k ty m) :=
  eight rfl (wordVA_lt vd va 0 0 ty 0 0 false m (small rfl) (shift_lt k))
theorem vsra (vd : VReg) (va : VReg) (vb : VReg) (ty : BitVec 4) (m : Bool) : Statement (.vsra vd va vb ty m) :=
  eight rfl (wordVA_lt vd va vb 0 ty 0 0 false m (small rfl) (small rfl))
theorem vsraImm (vd : VReg) (va : VReg) (k : BitVec 5) (ty : BitVec 4) (m : Bool) : Statement (.vsraImm vd va k ty m) :=
  eight rfl (wordVA_lt vd va 0 0 ty 0 0 false m (small rfl) (shift_lt k))
theorem vadds (vd : VReg) (va : VReg) (vb : VReg) (ty : BitVec 4) (m : Bool) : Statement (.vadds vd va vb ty m) :=
  eight rfl (wordVA_lt vd va vb 0 ty 0 0 false m (small rfl) (small rfl))
theorem vsubs (vd : VReg) (va : VReg) (vb : VReg) (ty : BitVec 4) (m : Bool) : Statement (.vsubs vd va vb ty m) :=
  eight rfl (wordVA_lt vd va vb 0 ty 0 0 false m (small rfl) (small rfl))
theorem vavg (vd : VReg) (va : VReg) (vb : VReg) (ty : BitVec 4) (m : Bool) : Statement (.vavg vd va vb ty m) :=
  eight rfl (wordVA_lt vd va vb 0 ty 0 0 false m (small rfl) (small rfl))
theorem vclz (vd : VReg) (va : VReg) (ty : BitVec 4) (m : Bool) : Statement (.vclz vd va ty m) :=
  eight rfl (wordVA_lt vd va 0 0 ty 0 0 false m (small rfl) (small rfl))
theorem vpopc (vd : VReg) (va : VReg) (ty : BitVec 4) (m : Bool) : Statement (.vpopc vd va ty m) :=
  eight rfl (wordVA_lt vd va 0 0 ty 0 0 false m (small rfl) (small rfl))
theorem vclmul (vd : VReg) (va : VReg) (vb : VReg) (ty : BitVec 4) (m : Bool) : Statement (.vclmul vd va vb ty m) :=
  eight rfl (wordVA_lt vd va vb 0 ty 0 0 false m (small rfl) (small rfl))
theorem vclmulh (vd : VReg) (va : VReg) (vb : VReg) (ty : BitVec 4) (m : Bool) : Statement (.vclmulh vd va vb ty m) :=
  eight rfl (wordVA_lt vd va vb 0 ty 0 0 false m (small rfl) (small rfl))
theorem vmulw (vd : VReg) (va : VReg) (vb : VReg) (ty : BitVec 4) (ty2 : BitVec 4) (m : Bool) : Statement (.vmulw vd va vb ty ty2 m) :=
  eight rfl (wordVA_lt vd va vb 0 ty ty2 0 false m (small rfl) (small rfl))
theorem vaddw (vd : VReg) (va : VReg) (vb : VReg) (ty : BitVec 4) (ty2 : BitVec 4) (m : Bool) : Statement (.vaddw vd va vb ty ty2 m) :=
  eight rfl (wordVA_lt vd va vb 0 ty ty2 0 false m (small rfl) (small rfl))
theorem vdot4 (vd : VReg) (va : VReg) (vb : VReg) (vc : VReg) (ty : BitVec 4) (ty2 : BitVec 4) (sat : Bool) (m : Bool) : Statement (.vdot4 vd va vb vc ty ty2 sat m) :=
  eight rfl (wordVA_lt vd va vb vc ty ty2 0 sat m (small rfl) (small rfl))
theorem vfadd (vd : VReg) (va : VReg) (vb : VReg) (ty : BitVec 4) (rm : BitVec 3) (sat : Bool) (m : Bool) : Statement (.vfadd vd va vb ty rm sat m) :=
  eight rfl (wordVA_lt vd va vb 0 ty 0 rm sat m (small rfl) (small rfl))
theorem vfsub (vd : VReg) (va : VReg) (vb : VReg) (ty : BitVec 4) (rm : BitVec 3) (sat : Bool) (m : Bool) : Statement (.vfsub vd va vb ty rm sat m) :=
  eight rfl (wordVA_lt vd va vb 0 ty 0 rm sat m (small rfl) (small rfl))
theorem vfmul (vd : VReg) (va : VReg) (vb : VReg) (ty : BitVec 4) (rm : BitVec 3) (sat : Bool) (m : Bool) : Statement (.vfmul vd va vb ty rm sat m) :=
  eight rfl (wordVA_lt vd va vb 0 ty 0 rm sat m (small rfl) (small rfl))
theorem vfma (vd : VReg) (va : VReg) (vb : VReg) (vc : VReg) (ty : BitVec 4) (rm : BitVec 3) (sat : Bool) (m : Bool) : Statement (.vfma vd va vb vc ty rm sat m) :=
  eight rfl (wordVA_lt vd va vb vc ty 0 rm sat m (small rfl) (small rfl))
theorem vfms (vd : VReg) (va : VReg) (vb : VReg) (vc : VReg) (ty : BitVec 4) (rm : BitVec 3) (sat : Bool) (m : Bool) : Statement (.vfms vd va vb vc ty rm sat m) :=
  eight rfl (wordVA_lt vd va vb vc ty 0 rm sat m (small rfl) (small rfl))
theorem vfnma (vd : VReg) (va : VReg) (vb : VReg) (vc : VReg) (ty : BitVec 4) (rm : BitVec 3) (sat : Bool) (m : Bool) : Statement (.vfnma vd va vb vc ty rm sat m) :=
  eight rfl (wordVA_lt vd va vb vc ty 0 rm sat m (small rfl) (small rfl))
theorem vfmin (vd : VReg) (va : VReg) (vb : VReg) (ty : BitVec 4) (m : Bool) : Statement (.vfmin vd va vb ty m) :=
  eight rfl (wordVA_lt vd va vb 0 ty 0 0 false m (small rfl) (small rfl))
theorem vfmax (vd : VReg) (va : VReg) (vb : VReg) (ty : BitVec 4) (m : Bool) : Statement (.vfmax vd va vb ty m) :=
  eight rfl (wordVA_lt vd va vb 0 ty 0 0 false m (small rfl) (small rfl))
theorem vfminp (vd : VReg) (va : VReg) (vb : VReg) (ty : BitVec 4) (m : Bool) : Statement (.vfminp vd va vb ty m) :=
  eight rfl (wordVA_lt vd va vb 0 ty 0 0 false m (small rfl) (small rfl))
theorem vfmaxp (vd : VReg) (va : VReg) (vb : VReg) (ty : BitVec 4) (m : Bool) : Statement (.vfmaxp vd va vb ty m) :=
  eight rfl (wordVA_lt vd va vb 0 ty 0 0 false m (small rfl) (small rfl))
theorem vfabs (vd : VReg) (va : VReg) (ty : BitVec 4) (m : Bool) : Statement (.vfabs vd va ty m) :=
  eight rfl (wordVA_lt vd va 0 0 ty 0 0 false m (small rfl) (small rfl))
theorem vfneg (vd : VReg) (va : VReg) (ty : BitVec 4) (m : Bool) : Statement (.vfneg vd va ty m) :=
  eight rfl (wordVA_lt vd va 0 0 ty 0 0 false m (small rfl) (small rfl))
theorem vfcpys (vd : VReg) (va : VReg) (vb : VReg) (ty : BitVec 4) (m : Bool) : Statement (.vfcpys vd va vb ty m) :=
  eight rfl (wordVA_lt vd va vb 0 ty 0 0 false m (small rfl) (small rfl))
theorem vfdiv (vd : VReg) (va : VReg) (vb : VReg) (ty : BitVec 4) (rm : BitVec 3) (sat : Bool) (m : Bool) : Statement (.vfdiv vd va vb ty rm sat m) :=
  eight rfl (wordVA_lt vd va vb 0 ty 0 rm sat m (small rfl) (small rfl))
theorem vfsqrt (vd : VReg) (va : VReg) (ty : BitVec 4) (rm : BitVec 3) (sat : Bool) (m : Bool) : Statement (.vfsqrt vd va ty rm sat m) :=
  eight rfl (wordVA_lt vd va 0 0 ty 0 rm sat m (small rfl) (small rfl))
theorem vexp2 (vd : VReg) (va : VReg) (ty : BitVec 4) (rm : BitVec 3) (sat : Bool) (m : Bool) : Statement (.vexp2 vd va ty rm sat m) :=
  eight rfl (wordVA_lt vd va 0 0 ty 0 rm sat m (small rfl) (small rfl))
theorem vlog2 (vd : VReg) (va : VReg) (ty : BitVec 4) (rm : BitVec 3) (sat : Bool) (m : Bool) : Statement (.vlog2 vd va ty rm sat m) :=
  eight rfl (wordVA_lt vd va 0 0 ty 0 rm sat m (small rfl) (small rfl))
theorem vrcp (vd : VReg) (va : VReg) (ty : BitVec 4) (rm : BitVec 3) (sat : Bool) (m : Bool) : Statement (.vrcp vd va ty rm sat m) :=
  eight rfl (wordVA_lt vd va 0 0 ty 0 rm sat m (small rfl) (small rfl))
theorem vrsqrt (vd : VReg) (va : VReg) (ty : BitVec 4) (rm : BitVec 3) (sat : Bool) (m : Bool) : Statement (.vrsqrt vd va ty rm sat m) :=
  eight rfl (wordVA_lt vd va 0 0 ty 0 rm sat m (small rfl) (small rfl))
theorem vsinpi (vd : VReg) (va : VReg) (ty : BitVec 4) (rm : BitVec 3) (sat : Bool) (m : Bool) : Statement (.vsinpi vd va ty rm sat m) :=
  eight rfl (wordVA_lt vd va 0 0 ty 0 rm sat m (small rfl) (small rfl))
theorem vcospi (vd : VReg) (va : VReg) (ty : BitVec 4) (rm : BitVec 3) (sat : Bool) (m : Bool) : Statement (.vcospi vd va ty rm sat m) :=
  eight rfl (wordVA_lt vd va 0 0 ty 0 rm sat m (small rfl) (small rfl))
theorem vfrnd (vd : VReg) (va : VReg) (ty : BitVec 4) (rm : BitVec 3) (m : Bool) : Statement (.vfrnd vd va ty rm m) :=
  eight rfl (wordVA_lt vd va 0 0 ty 0 rm false m (small rfl) (small rfl))
theorem vfclass (vd : VReg) (va : VReg) (ty : BitVec 4) (m : Bool) : Statement (.vfclass vd va ty m) :=
  eight rfl (wordVA_lt vd va 0 0 ty 0 0 false m (small rfl) (small rfl))
theorem vfscale (vd : VReg) (va : VReg) (vb : VReg) (ty : BitVec 4) (rm : BitVec 3) (sat : Bool) (m : Bool) : Statement (.vfscale vd va vb ty rm sat m) :=
  eight rfl (wordVA_lt vd va vb 0 ty 0 rm sat m (small rfl) (small rfl))
theorem vcvt (vd : VReg) (va : VReg) (ty : BitVec 4) (ty2 : BitVec 4) (rm : BitVec 3) (sat : Bool) (m : Bool) : Statement (.vcvt vd va ty ty2 rm sat m) :=
  eight rfl (wordVA_lt vd va 0 0 ty ty2 rm sat m (small rfl) (small rfl))
theorem vcvtw (vd : VReg) (va : VReg) (ty : BitVec 4) (ty2 : BitVec 4) (rm : BitVec 3) (sat : Bool) (m : Bool) : Statement (.vcvtw vd va ty ty2 rm sat m) :=
  eight rfl (wordVA_lt vd va 0 0 ty ty2 rm sat m (small rfl) (small rfl))
theorem vcvtn (vd : VReg) (va : VReg) (ty : BitVec 4) (ty2 : BitVec 4) (rm : BitVec 3) (sat : Bool) (m : Bool) : Statement (.vcvtn vd va ty ty2 rm sat m) :=
  eight rfl (wordVA_lt vd va 0 0 ty ty2 rm sat m (small rfl) (small rfl))
theorem vcmp (va : VReg) (vb : VReg) (ty : BitVec 4) (pred : BitVec 3) (m : Bool) : Statement (.vcmp va vb ty pred m) :=
  eight rfl (wordVA_lt 0 va vb 0 ty 0 0 false m (small rfl) (pred_lt pred))
theorem mpush (va : VReg) (ty : BitVec 4) (m : Bool) : Statement (.mpush va ty m) :=
  eight rfl (wordVA_lt 0 va 0 0 ty 0 0 false m (small rfl) (small rfl))
theorem minv (ty : BitVec 4) : Statement (.minv ty) :=
  eight rfl (wordVA_lt 0 0 0 0 ty 0 0 false false (small rfl) (small rfl))
theorem mcnt (ad : AReg) (ty : BitVec 4) : Statement (.mcnt ad ty) :=
  eight rfl (wordVA_lt (ad.setWidth 6) 0 0 0 ty 0 0 false false (small rfl) (small rfl))
theorem mfirst (ad : AReg) (ty : BitVec 4) : Statement (.mfirst ad ty) :=
  eight rfl (wordVA_lt (ad.setWidth 6) 0 0 0 ty 0 0 false false (small rfl) (small rfl))
theorem mld (abase : AReg) (aidx : AReg) (imm : BitVec 16) : Statement (.mld abase aidx imm) :=
  eight rfl (wordVM_lt 0 abase aidx 0 0 false (small rfl) (imm_lt imm))
theorem mst (abase : AReg) (aidx : AReg) (imm : BitVec 16) : Statement (.mst abase aidx imm) :=
  eight rfl (wordVM_lt 0 abase aidx 0 0 false (small rfl) (imm_lt imm))
theorem vbcast (vd : VReg) (va : VReg) (ty : BitVec 4) (m : Bool) (imm : BitVec 16) : Statement (.vbcast vd va ty m imm) :=
  eight rfl (wordVA_lt vd va 0 0 ty 0 0 false m (small rfl) (imm_lt imm))
theorem vsplat (vd : VReg) (an : AReg) (ty : BitVec 4) (m : Bool) : Statement (.vsplat vd an ty m) :=
  eight rfl (wordVA_lt vd (an.setWidth 6) 0 0 ty 0 0 false m (small rfl) (small rfl))
theorem vshuf (vd : VReg) (va : VReg) (vb : VReg) (ty : BitVec 4) (m : Bool) : Statement (.vshuf vd va vb ty m) :=
  eight rfl (wordVA_lt vd va vb 0 ty 0 0 false m (small rfl) (small rfl))
theorem vrot (vd : VReg) (va : VReg) (ty : BitVec 4) (m : Bool) (imm : BitVec 16) : Statement (.vrot vd va ty m imm) :=
  eight rfl (wordVA_lt vd va 0 0 ty 0 0 false m (small rfl) (imm_lt imm))
theorem vslide (vd : VReg) (va : VReg) (vb : VReg) (ty : BitVec 4) (m : Bool) (imm : BitVec 16) : Statement (.vslide vd va vb ty m imm) :=
  eight rfl (wordVA_lt vd va vb 0 ty 0 0 false m (small rfl) (imm_lt imm))
theorem vzip (vd : VReg) (va : VReg) (vb : VReg) (ty : BitVec 4) : Statement (.vzip vd va vb ty) :=
  eight rfl (wordVA_lt vd va vb 0 ty 0 0 false false (small rfl) (small rfl))
theorem vuzp (vd : VReg) (va : VReg) (ty : BitVec 4) : Statement (.vuzp vd va ty) :=
  eight rfl (wordVA_lt vd va 0 0 ty 0 0 false false (small rfl) (small rfl))
theorem vcmprs (vd : VReg) (va : VReg) (an : AReg) (ty : BitVec 4) : Statement (.vcmprs vd va an ty) :=
  eight rfl (wordVA_lt vd va (an.setWidth 6) 0 ty 0 0 false false (small rfl) (small rfl))
theorem vexpnd (vd : VReg) (va : VReg) (ty : BitVec 4) : Statement (.vexpnd vd va ty) :=
  eight rfl (wordVA_lt vd va 0 0 ty 0 0 false false (small rfl) (small rfl))
theorem viota (vd : VReg) (ty : BitVec 4) : Statement (.viota vd ty) :=
  eight rfl (wordVA_lt vd 0 0 0 ty 0 0 false false (small rfl) (small rfl))
theorem vsel (vd : VReg) (va : VReg) (vb : VReg) (ty : BitVec 4) : Statement (.vsel vd va vb ty) :=
  eight rfl (wordVA_lt vd va vb 0 ty 0 0 false false (small rfl) (small rfl))
theorem vmov (vd : VReg) (va : VReg) (ty : BitVec 4) (m : Bool) : Statement (.vmov vd va ty m) :=
  eight rfl (wordVA_lt vd va 0 0 ty 0 0 false m (small rfl) (small rfl))
theorem vrsum (vd : VReg) (va : VReg) (ty : BitVec 4) (sat : Bool) (m : Bool) : Statement (.vrsum vd va ty sat m) :=
  eight rfl (wordVA_lt vd va 0 0 ty 0 0 sat m (small rfl) (small rfl))
theorem vrmax (vd : VReg) (va : VReg) (ty : BitVec 4) (m : Bool) : Statement (.vrmax vd va ty m) :=
  eight rfl (wordVA_lt vd va 0 0 ty 0 0 false m (small rfl) (small rfl))
theorem vrmin (vd : VReg) (va : VReg) (ty : BitVec 4) (m : Bool) : Statement (.vrmin vd va ty m) :=
  eight rfl (wordVA_lt vd va 0 0 ty 0 0 false m (small rfl) (small rfl))
theorem vrxor (vd : VReg) (va : VReg) (ty : BitVec 4) (m : Bool) : Statement (.vrxor vd va ty m) :=
  eight rfl (wordVA_lt vd va 0 0 ty 0 0 false m (small rfl) (small rfl))
theorem vrfsum (vd : VReg) (va : VReg) (ty : BitVec 4) (rm : BitVec 3) (sat : Bool) (m : Bool) : Statement (.vrfsum vd va ty rm sat m) :=
  eight rfl (wordVA_lt vd va 0 0 ty 0 rm sat m (small rfl) (small rfl))
theorem vrfmax (vd : VReg) (va : VReg) (ty : BitVec 4) (m : Bool) : Statement (.vrfmax vd va ty m) :=
  eight rfl (wordVA_lt vd va 0 0 ty 0 0 false m (small rfl) (small rfl))
theorem vld (vd : VReg) (abase : AReg) (aidx : AReg) (ty : BitVec 4) (layout : BitVec 4) (m : Bool) (imm : BitVec 16) : Statement (.vld vd abase aidx ty layout m imm) :=
  eight rfl (wordVM_lt vd abase aidx ty layout m (small rfl) (imm_lt imm))
theorem vst (vd : VReg) (abase : AReg) (aidx : AReg) (ty : BitVec 4) (layout : BitVec 4) (m : Bool) (imm : BitVec 16) : Statement (.vst vd abase aidx ty layout m imm) :=
  eight rfl (wordVM_lt vd abase aidx ty layout m (small rfl) (imm_lt imm))
theorem vlds (vd : VReg) (abase : AReg) (aidx : AReg) (ty : BitVec 4) (layout : BitVec 4) (m : Bool) (imm : BitVec 16) : Statement (.vlds vd abase aidx ty layout m imm) :=
  eight rfl (wordVM_lt vd abase aidx ty layout m (small rfl) (imm_lt imm))
theorem vsts (vd : VReg) (abase : AReg) (aidx : AReg) (ty : BitVec 4) (layout : BitVec 4) (m : Bool) (imm : BitVec 16) : Statement (.vsts vd abase aidx ty layout m imm) :=
  eight rfl (wordVM_lt vd abase aidx ty layout m (small rfl) (imm_lt imm))
theorem vgath (vd : VReg) (abase : AReg) (aidx : AReg) (ty : BitVec 4) (layout : BitVec 4) (m : Bool) (vi : VReg) : Statement (.vgath vd abase aidx ty layout m vi) :=
  eight rfl (wordVM_lt vd abase aidx ty layout m (small rfl) (idx_lt vi))
theorem vscat (vd : VReg) (abase : AReg) (aidx : AReg) (ty : BitVec 4) (layout : BitVec 4) (m : Bool) (vi : VReg) : Statement (.vscat vd abase aidx ty layout m vi) :=
  eight rfl (wordVM_lt vd abase aidx ty layout m (small rfl) (idx_lt vi))
theorem vldb (vd : VReg) (abase : AReg) (aidx : AReg) (ty : BitVec 4) (layout : BitVec 4) (m : Bool) (imm : BitVec 16) : Statement (.vldb vd abase aidx ty layout m imm) :=
  eight rfl (wordVM_lt vd abase aidx ty layout m (small rfl) (imm_lt imm))
theorem ali (ad : AReg) (imm : BitVec 32) : Statement (.ali ad imm) :=
  eight rfl (wordVC_lt ad 0 0 (small rfl) (off_lt imm))
theorem aadd (ad : AReg) (aa : AReg) (ab : AReg) : Statement (.aadd ad aa ab) :=
  eight rfl (wordVC_lt ad aa ab (small rfl) (small rfl))
theorem aaddi (ad : AReg) (aa : AReg) (imm : BitVec 32) : Statement (.aaddi ad aa imm) :=
  eight rfl (wordVC_lt ad aa 0 (small rfl) (off_lt imm))
theorem amul (ad : AReg) (aa : AReg) (ab : AReg) : Statement (.amul ad aa ab) :=
  eight rfl (wordVC_lt ad aa ab (small rfl) (small rfl))
theorem ashl (ad : AReg) (aa : AReg) (n : BitVec 6) : Statement (.ashl ad aa n) :=
  eight rfl (wordVC_lt ad aa 0 (small rfl) (amount_lt n))
theorem amovv (ad : AReg) (va : VReg) (ty : BitVec 4) (imm : BitVec 16) : Statement (.amovv ad va ty imm) :=
  eight rfl (wordVA_lt (ad.setWidth 6) va 0 0 ty 0 0 false false (small rfl) (imm_lt imm))
theorem vloop (ad : AReg) (off : BitVec 32) : Statement (.vloop ad off) :=
  eight rfl (wordVC_lt ad 0 0 (small rfl) (off_lt off))
theorem vj (off : BitVec 32) : Statement (.vj off) :=
  eight rfl (wordVC_lt 0 0 0 (small rfl) (off_lt off))
theorem vbz (off : BitVec 32) : Statement (.vbz off) :=
  eight rfl (wordVC_lt 0 0 0 (small rfl) (off_lt off))
theorem vbnz (off : BitVec 32) : Statement (.vbnz off) :=
  eight rfl (wordVC_lt 0 0 0 (small rfl) (off_lt off))
theorem abne (aa : AReg) (ab : AReg) (off : BitVec 32) : Statement (.abne aa ab off) :=
  eight rfl (wordVC_lt 0 aa ab (small rfl) (off_lt off))
theorem vtrap (code : BitVec 32) : Statement (.vtrap code) :=
  eight rfl (wordVC_lt 0 0 0 (small rfl) (off_lt code))
theorem eret : Statement (.eret) :=
  four rfl (wordA_lt 0 0 0 (small rfl) (small rfl))
theorem safept : Statement (.safept) :=
  four rfl (wordA_lt 0 0 0 (small rfl) (small rfl))
theorem ckpt : Statement (.ckpt) :=
  four rfl (wordA_lt 0 0 0 (small rfl) (small rfl))
theorem endStrand : Statement (.endStrand) :=
  four rfl (wordA_lt 0 0 0 (small rfl) (small rfl))
theorem yield : Statement (.yield) :=
  four rfl (wordA_lt 0 0 0 (small rfl) (small rfl))
theorem halt : Statement (.halt) :=
  four rfl (wordA_lt 0 0 0 (small rfl) (small rfl))
theorem mand : Statement (.mand) :=
  eight rfl (wordVA_lt 0 0 0 0 0 0 0 false false (small rfl) (small rfl))
theorem mor : Statement (.mor) :=
  eight rfl (wordVA_lt 0 0 0 0 0 0 0 false false (small rfl) (small rfl))
theorem mandn : Statement (.mandn) :=
  eight rfl (wordVA_lt 0 0 0 0 0 0 0 false false (small rfl) (small rfl))
theorem mpop : Statement (.mpop) :=
  eight rfl (wordVA_lt 0 0 0 0 0 0 0 false false (small rfl) (small rfl))
theorem vend : Statement (.vend) :=
  eight rfl (wordVC_lt 0 0 0 (small rfl) (small rfl))
theorem registerWrite (core : Nat) (strand : Nat) (num : BitVec 12) (value : Word) : Statement (.registerWrite core strand num value) := event rfl
theorem evset (core : Nat) (value : Word) : Statement (.evset core value) := event rfl
theorem trctlWrite (core : Nat) (strand : Nat) (value : Word) : Statement (.trctlWrite core strand value) := event rfl
theorem trbaseWrite (core : Nat) (strand : Nat) (value : Word) : Statement (.trbaseWrite core strand value) := event rfl
theorem corectlFlush (core : Nat) (mask : BitVec 4) : Statement (.corectlFlush core mask) := event rfl
theorem corectlFlushin (core : Nat) : Statement (.corectlFlushin core) := event rfl
theorem corectlStop (core : Nat) (mask : BitVec 4) : Statement (.corectlStop core mask) := event rfl
theorem corectlReset (core : Nat) (mask : BitVec 4) : Statement (.corectlReset core mask) := event rfl
theorem timerExpiry (core : Nat) (strand : Nat) : Statement (.timerExpiry core strand) := event rfl
theorem windowGrant (core : Nat) : Statement (.windowGrant core) := event rfl
theorem taskReady (core : Nat) (seq : BitVec 32) : Statement (.taskReady core seq) := event rfl
theorem taskIssue (core : Nat) (cls : EngineClass) (unit : Nat) : Statement (.taskIssue core cls unit) := event rfl
theorem taskAging (core : Nat) (seq : BitVec 32) : Statement (.taskAging core seq) := event rfl
theorem taskComplete (core : Nat) (seq : BitVec 32) : Statement (.taskComplete core seq) := event rfl
theorem producerFailed (core : Nat) (seq : BitVec 32) : Statement (.producerFailed core seq) := event rfl
theorem stampStaleLimit (core : Nat) (seq : BitVec 32) : Statement (.stampStaleLimit core seq) := event rfl
theorem launchStart (launch : LaunchBegin) : Statement (.launchStart launch) := event rfl
theorem launchComplete (launch : LaunchFinish) : Statement (.launchComplete launch) := event rfl
theorem loadReturn (core : Nat) (strand : Nat) (idx : Nat) (data : Reply) : Statement (.loadReturn core strand idx data) := event rfl
theorem remoteStoreAck (core : Nat) (strand : Nat) (pkg : Nat) (ack : StreamAck) : Statement (.remoteStoreAck core strand pkg ack) := event rfl
theorem barrierArrival (arr : BarArrival) : Statement (.barrierArrival arr) := event rfl
theorem copyChunkDone (core : Nat) (seq : BitVec 32) : Statement (.copyChunkDone core seq) := event rfl
theorem copyArrivalReply (core : Nat) (seq : BitVec 32) (code : Int) : Statement (.copyArrivalReply core seq code) := event rfl
theorem resolvableFault (idx : Nat) : Statement (.resolvableFault idx) := event rfl
theorem heldFaultRecord (die : Nat) : Statement (.heldFaultRecord die) := event rfl
theorem dispRetry (die : Nat) (slot : Nat) : Statement (.dispRetry die slot) := event rfl
theorem dispRefuse (die : Nat) (slot : Nat) : Statement (.dispRefuse die slot) := event rfl
theorem migrationStart (space : Nat) (page : Nat) (goal : MoveGoal) : Statement (.migrationStart space page goal) := event rfl
theorem migrationComplete (space : Nat) (page : Nat) (moved : MovedPage) : Statement (.migrationComplete space page moved) := event rfl
theorem remotePostArrival (post : RemotePost) : Statement (.remotePostArrival post) := event rfl
theorem remotePostRetry (core : Nat) (seq : BitVec 32) : Statement (.remotePostRetry core seq) := event rfl
theorem intakeAdmit (core : Nat) : Statement (.intakeAdmit core) := event rfl
theorem remoteReport (core : Nat) (tag : Option (BitVec 16)) (status : Int) : Statement (.remoteReport core tag status) := event rfl
theorem lzResvRequest (req : ResvRequest) : Statement (.lzResvRequest req) := event rfl
theorem lzResvAnswer (core : Nat) (strand : Nat) (idx : Nat) (answer : Word) : Statement (.lzResvAnswer core strand idx answer) := event rfl
theorem cprChunkArrival (chunk : CprChunk) : Statement (.cprChunkArrival chunk) := event rfl
theorem cprArrival (arr : CprArrival) : Statement (.cprArrival arr) := event rfl
theorem cprFailureReport (resv : Word) (code : Nat) : Statement (.cprFailureReport resv code) := event rfl
theorem slotLeaseExpiry (core : Nat) (zone : Nat) (slot : Nat) : Statement (.slotLeaseExpiry core zone slot) := event rfl
theorem gridMarkerRetire (core : Nat) (grid : Nat) : Statement (.gridMarkerRetire core grid) := event rfl
theorem declaredStepArrival (core : Nat) (grid : Nat) (who : Nat) (declared : BitVec 32) (nf : Nat) : Statement (.declaredStepArrival core grid who declared nf) := event rfl
theorem haloShipmentCredit (idx : Nat) : Statement (.haloShipmentCredit idx) := event rfl
theorem haloShipmentRead (idx : Nat) : Statement (.haloShipmentRead idx) := event rfl
theorem haloShipmentLand (src : ShipSource) : Statement (.haloShipmentLand src) := event rfl
theorem haloFillLand (idx : Nat) : Statement (.haloFillLand idx) := event rfl
theorem gridFailureNotice (core : Nat) (grid : Nat) (regions : List Nat) : Statement (.gridFailureNotice core grid regions) := event rfl
theorem breakpointStop (core : Nat) (strand : Nat) (entry : Nat) : Statement (.breakpointStop core strand entry) := event rfl
theorem debugStepRequest (core : Nat) (strand : Nat) : Statement (.debugStepRequest core strand) := event rfl
theorem debugHaltRequest (request : HaltRequest) : Statement (.debugHaltRequest request) := event rfl
theorem debugResume (core : Nat) (request : ResumeRequest) : Statement (.debugResume core request) := event rfl
theorem traceSample (core : Nat) (strand : Nat) : Statement (.traceSample core strand) := event rfl
theorem preemptRequest (part : Nat) : Statement (.preemptRequest part) := event rfl
theorem preemptLimit (part : Nat) : Statement (.preemptLimit part) := event rfl
theorem partitionSave (part : Nat) : Statement (.partitionSave part) := event rfl
theorem partitionResume (part : Nat) : Statement (.partitionResume part) := event rfl
theorem partitionStop (part : Nat) : Statement (.partitionStop part) := event rfl
theorem partitionStopRequest (svc : Nat) : Statement (.partitionStopRequest svc) := event rfl
theorem partitionCreate (req : PartRequest) : Statement (.partitionCreate req) := event rfl
theorem partitionRelease (part : Nat) : Statement (.partitionRelease part) := event rfl
theorem fatalStop (source : FatalSource) (no : Nat) : Statement (.fatalStop source no) := event rfl
theorem invalidateSpace (svc : Nat) : Statement (.invalidateSpace svc) := event rfl
theorem invalidatePartition (svc : Nat) : Statement (.invalidatePartition svc) := event rfl
theorem invalidateAll (svc : Nat) : Statement (.invalidateAll svc) := event rfl
theorem imageLoad (part : Nat) (space : Nat) (at_ : LoadPlace) (file : List Byte) : Statement (.imageLoad part space at_ file) := event rfl
theorem frameReceive (frame : Frame) : Statement (.frameReceive frame) := event rfl
theorem eqtWrite (conn : Nat) (hdr : BitVec 256) (payload : List Byte) : Statement (.eqtWrite conn hdr payload) := event rfl
theorem eqtFadd (conn : Nat) (hdr : BitVec 256) (payload : List Byte) : Statement (.eqtFadd conn hdr payload) := event rfl
theorem eqtRead (conn : Nat) (hdr : BitVec 256) (payload : List Byte) : Statement (.eqtRead conn hdr payload) := event rfl
theorem eqtNotify (conn : Nat) (hdr : BitVec 256) (payload : List Byte) : Statement (.eqtNotify conn hdr payload) := event rfl
theorem eqtAck (conn : Nat) (hdr : BitVec 256) : Statement (.eqtAck conn hdr) := event rfl
theorem eqtNack (conn : Nat) (hdr : BitVec 256) : Statement (.eqtNack conn hdr) := event rfl
theorem eqtRetransmit (conn : Nat) (seq : BitVec 32) : Statement (.eqtRetransmit conn seq) := event rfl
theorem eqtAckTimer (conn : Nat) : Statement (.eqtAckTimer conn) := event rfl
theorem rdmaResponse (idx : Nat) (data : List Byte) : Statement (.rdmaResponse idx data) := event rfl
theorem rdmaInboundRequest (endpoint : Nat) : Statement (.rdmaInboundRequest endpoint) := event rfl
theorem notifyLineWrite (phys : Nat) : Statement (.notifyLineWrite phys) := event rfl
theorem queueOpen (queue : Nat) (entry : QueueEntry) : Statement (.queueOpen queue entry) := event rfl
theorem queuePacketRead (queue : Nat) : Statement (.queuePacketRead queue) := event rfl
theorem packetNop (idx : Nat) : Statement (.packetNop idx) := event rfl
theorem packetLaunch (idx : Nat) : Statement (.packetLaunch idx) := event rfl
theorem packetCopy (idx : Nat) : Statement (.packetCopy idx) := event rfl
theorem packetEvent (idx : Nat) : Statement (.packetEvent idx) := event rfl
theorem packetComplete (idx : Nat) : Statement (.packetComplete idx) := event rfl
theorem queueWatchdogExpiry (queue : Nat) : Statement (.queueWatchdogExpiry queue) := event rfl
theorem eventPortSend (svc : Nat) : Statement (.eventPortSend svc) := event rfl
theorem flitCrcError (link : Nat) : Statement (.flitCrcError link) := event rfl
theorem linkDown (link : Nat) : Statement (.linkDown link) := event rfl
theorem linkWidthChange (link : Nat) (width : Nat) : Statement (.linkWidthChange link width) := event rfl
theorem linkRetrain (link : Nat) : Statement (.linkRetrain link) := event rfl
theorem linkTrainingDone (link : Nat) (width : Nat) : Statement (.linkTrainingDone link width) := event rfl
theorem linkFailureNews (pkg : Nat) (link : Nat) : Statement (.linkFailureNews pkg link) := event rfl
theorem linkDisable (link : Nat) : Statement (.linkDisable link) := event rfl
theorem linkDisableDrained (link : Nat) : Statement (.linkDisableDrained link) := event rfl
theorem linkEnable (link : Nat) : Statement (.linkEnable link) := event rfl
theorem requestResend (idx : Nat) : Statement (.requestResend idx) := event rfl
theorem noRouteTimeout (idx : Nat) : Statement (.noRouteTimeout idx) := event rfl
theorem linkRecordUpdate : Statement (.linkRecordUpdate) := event rfl
theorem rttMeasure (link : Nat) (ns : Nat) : Statement (.rttMeasure link ns) := event rfl
theorem linkRecordRequest : Statement (.linkRecordRequest) := event rfl
theorem memoryScrub (line : Nat) : Statement (.memoryScrub line) := event rfl
theorem scratchpadScrub (core : Nat) (word : Nat) : Statement (.scratchpadScrub core word) := event rfl
theorem forecastUpdate (die : Nat) : Statement (.forecastUpdate die) := event rfl
theorem clockSelect (sensors : Sensors) : Statement (.clockSelect sensors) := event rfl
theorem powerTrip (power : Nat) : Statement (.powerTrip power) := event rfl
theorem capSet (watts : Nat) : Statement (.capSet watts) := event rfl
theorem thermalThrottle (sensors : Sensors) : Statement (.thermalThrottle sensors) := event rfl
theorem thermalShutdown (sensors : Sensors) : Statement (.thermalShutdown sensors) := event rfl
theorem telemetryRequest : Statement (.telemetryRequest) := event rfl
theorem packageReset (boot : BootInput) : Statement (.packageReset boot) := event rfl
theorem attestationRequest (nonce : BitVec 256) : Statement (.attestationRequest nonce) := event rfl
theorem accessPerformedAtHome (acc : HomeAccess) : Statement (.accessPerformedAtHome acc) := event rfl
theorem pendingResultWritten (core : Nat) (strand : Nat) (idx : Nat) : Statement (.pendingResultWritten core strand idx) := event rfl
theorem postAnswerArrival (core : Nat) (seq : BitVec 32) (code : Int) : Statement (.postAnswerArrival core seq code) := event rfl
theorem rdmaTransportGiveUp (endpoint : Nat) : Statement (.rdmaTransportGiveUp endpoint) := event rfl

end Sys2Proof.Laws.F
end

