-- ==== Sys2Proof/Laws/Sync.lean ====
section
/-!
SUPPORT. What releases, the ends of waits and the checks of the transaction-barrier members do, and the fields of an object.
-/
namespace Sys2Proof.Machine

/-! ## Fences -/

theorem Strand.acqReady_iff (t : Strand) : t.acqReady = true ↔ ∀ x ∈ t.pend, x.kind.isAccess = false := by
  simp [Strand.acqReady]

theorem Strand.relReady_iff (t : Strand) (n : Nat) :
    t.relReady n = true ↔ (∀ x ∈ t.pend, x.kind.isAccess = false) ∧ ∀ b ∈ t.stores, b.blocks n = false := by
  simp [Strand.relReady, Strand.acqReady_iff]

theorem Strand.crossReady_iff (t : Strand) :
    t.crossReady = true ↔ (∀ x ∈ t.pend, x.kind.isAccess = false) ∧
      ∀ b ∈ t.stores, b.acc.pc.toNat % 2 = 1 ∨ ∃ p i, b.dest = some (.peer p i) ∧ (t.stream p).lost = true := by
  simp only [Strand.crossReady, Bool.and_eq_true, Strand.acqReady_iff, List.all_eq_true, Bool.or_eq_true, decide_eq_true_eq]
  refine and_congr Iff.rfl (forall_congr' fun b => imp_congr Iff.rfl (or_congr Iff.rfl ?_))
  split
  · rename_i p i h; simp [h]
  · rename_i h
    simp only [Bool.false_eq_true, false_iff, not_exists, not_and]
    exact fun p i hh => absurd hh (h p i)

/-- A release whose condition holds goes on at once, with what it orders noted. -/
theorem State.release_ready (s : State) (n : Nat) (go : State → Out) (h1 : s.me.lostStream n = none) (h2 : s.me.relReady n = true) :
    s.release n go = go (s.noteRelease n) := by
  unfold State.release; rw [h1]; simp [h2]

/-- A release that a lost stream ends traps (R127). -/
theorem State.release_lost (s : State) (n : Nat) (go : State → Out) (x : Stream) (h : s.me.lostStream n = some x) :
    s.release n go = .next (s.streamFailed x) := by
  unfold State.release; rw [h]

/-- A release below GRP scope whose condition does not hold waits. -/
theorem State.release_waits (s : State) (n : Nat) (go : State → Out) (hn : n < 4) (h : s.me.relReady n = false) :
    s.release n go = .next (s.waitFor 3 0) := by
  unfold State.release Strand.lostStream State.flushStreams; simp [hn, h]

/-- The end of a wait that forms no record. -/
theorem State.leave_left (s : State) (a : Arriver) (e : Nat) (h : s.noWaitRecord) : s.leave a e = s.left a e := by
  have h1 : trClass s.me.sys.trctl 5 = false := by
    unfold State.noWaitRecord at h
    unfold trClass bitsOf
    rw [BitVec.getLsbD, Nat.testBit_eq_decide_div_mod_eq] at h
    simpa using h
  have h2 : (s.strand s.myCore s.myStrand).sys.trctl = s.me.sys.trctl := rfl
  unfold State.leave State.leaveWait
  simp only [h2, h1, Bool.false_eq_true, and_false, if_false]
  rfl

/-! ## Objects -/

theorem State.tbPlace_reads {s : State} {va key : Nat} (h : AtObject s va key) : s.tbPlace va false = .inl key := by
  obtain ⟨mode, hp⟩ := h.place
  unfold State.tbPlace
  simp [h.aligned, h.window, hp]

theorem State.tbPlace_writes {s : State} {va key : Nat} (h : AtWritable s va key) : s.tbPlace va true = .inl key := by
  obtain ⟨mode, hp⟩ := h.place
  unfold State.tbPlace
  simp [h.aligned, h.window, hp, h.thawed]

/-- A TB member whose checks pass, with the tags read, acts on its object. -/
theorem State.onTb_at {s : State} {a : Reg} {key : Nat} (w r : Bool) (go : Nat → State → Out) (h : AtObject s (s.reg a).toNat key)
    (hw : s.tbPlace (s.reg a).toNat w = .inl key) : s.onTb a w r go = go key s := by
  unfold State.onTb
  simp only [hw, h.tags, State.detect_none s key 32 h.sound, h.clean, Bool.false_eq_true, and_false, if_false]

/-- A TB member reads the tags of its object's place first (R31, R203). -/
theorem State.onTb_tags {s : State} {a : Reg} {key : Nat} (w r : Bool) (go : Nat → State → Out)
    (hw : s.tbPlace (s.reg a).toNat w = .inl key) (h : s.needsTags (.here key) = true) : s.onTb a w r go = .next s.readTags := by
  unfold State.onTb; simp only [hw, h, if_true]

/-- A TB member whose checks fail traps. -/
theorem State.onTb_traps {s : State} {a : Reg} (w r : Bool) (go : Nat → State → Out) (c : Nat)
    (h : s.tbPlace (s.reg a).toNat w = .inr c) : s.onTb a w r go = .next (s.trap c (s.reg a)) := by
  unfold State.onTb; simp only [h]

/-! ## Bit fields -/

/-- The field just set. -/
theorem bitsOf_putBits (x hi lo v : Nat) (h : lo ≤ hi) : bitsOf (putBits x hi lo v) hi lo = v % 2 ^ (hi + 1 - lo) := by
  unfold bitsOf putBits
  have e : 2 ^ (hi + 1) = 2 ^ (hi + 1 - lo) * 2 ^ lo := by rw [← Nat.pow_add]; congr 1; omega
  have hl : x % 2 ^ lo < 2 ^ lo := Nat.mod_lt _ (Nat.two_pow_pos _)
  generalize hq : x / 2 ^ (hi + 1) = q
  generalize hr : x % 2 ^ lo = r at hl ⊢
  rw [e]
  generalize hm : v % 2 ^ (hi + 1 - lo) = m
  have hmlt : m < 2 ^ (hi + 1 - lo) := by rw [← hm]; exact Nat.mod_lt _ (Nat.two_pow_pos _)
  generalize hA : 2 ^ (hi + 1 - lo) = A at *
  generalize hB : 2 ^ lo = B at *
  have hB0 : 0 < B := by rw [← hB]; exact Nat.two_pow_pos _
  have h1 : r + m * B + q * (A * B) = r + (m + q * A) * B := by rw [Nat.add_mul, Nat.mul_assoc, Nat.add_assoc]
  rw [h1, Nat.add_mul_div_right _ _ hB0, Nat.div_eq_of_lt hl, Nat.zero_add, Nat.add_mul_mod_self_right, Nat.mod_eq_of_lt hmlt]

/-- A field above the one set. -/
theorem bitsOf_putBits_above (x hi lo v hi' lo' : Nat) (h : lo ≤ hi) (h' : hi < lo') :
    bitsOf (putBits x hi lo v) hi' lo' = bitsOf x hi' lo' := by
  unfold bitsOf putBits
  have hl : x % 2 ^ lo < 2 ^ lo := Nat.mod_lt _ (Nat.two_pow_pos _)
  have e : 2 ^ (hi + 1) = 2 ^ (hi + 1 - lo) * 2 ^ lo := by rw [← Nat.pow_add]; congr 1; omega
  have hm : v % 2 ^ (hi + 1 - lo) < 2 ^ (hi + 1 - lo) := Nat.mod_lt _ (Nat.two_pow_pos _)
  have hlow : x % 2 ^ lo + v % 2 ^ (hi + 1 - lo) * 2 ^ lo < 2 ^ (hi + 1) := by
    rw [e]
    calc _ < 2 ^ lo + v % 2 ^ (hi + 1 - lo) * 2 ^ lo := by omega
      _ = (v % 2 ^ (hi + 1 - lo) + 1) * 2 ^ lo := by rw [Nat.add_mul]; omega
      _ ≤ _ := Nat.mul_le_mul_right _ hm
  congr 1
  have e2 : 2 ^ lo' = 2 ^ (hi + 1) * 2 ^ (lo' - (hi + 1)) := by rw [← Nat.pow_add]; congr 1; omega
  rw [e2, ← Nat.div_div_eq_div_mul, ← Nat.div_div_eq_div_mul, Nat.add_mul_div_right _ _ (Nat.two_pow_pos _), Nat.div_eq_of_lt hlow,
    Nat.zero_add]

/-- A field below the one set. -/
theorem bitsOf_putBits_below (x hi lo v hi' lo' : Nat) (h : lo ≤ hi) (hl' : lo' ≤ hi') (h' : hi' < lo) :
    bitsOf (putBits x hi lo v) hi' lo' = bitsOf x hi' lo' := by
  have e : 2 ^ (hi + 1) = 2 ^ (hi + 1 - lo) * 2 ^ lo := by rw [← Nat.pow_add]; congr 1; omega
  have key : putBits x hi lo v % 2 ^ lo = x % 2 ^ lo := by
    unfold putBits
    rw [e, ← Nat.mul_assoc, Nat.add_assoc, ← Nat.add_mul, Nat.add_mul_mod_self_right, Nat.mod_mod]
  have cut (y : Nat) : bitsOf y hi' lo' = bitsOf (y % 2 ^ lo) hi' lo' := by
    unfold bitsOf
    have e1 : 2 ^ lo = 2 ^ (hi' + 1 - lo') * 2 ^ lo' * 2 ^ (lo - (hi' + 1)) := by
      rw [← Nat.pow_add, ← Nat.pow_add]; congr 1; omega
    have e3 : y % 2 ^ lo / 2 ^ lo' = y / 2 ^ lo' % 2 ^ (lo - lo') := by
      have : 2 ^ lo = 2 ^ lo' * 2 ^ (lo - lo') := by rw [← Nat.pow_add]; congr 1; omega
      rw [this, Nat.mod_mul_right_div_self]
    rw [e3]
    have : 2 ^ (hi' + 1 - lo') ∣ 2 ^ (lo - lo') := Nat.pow_dvd_pow 2 (by omega)
    rw [Nat.mod_mod_of_dvd _ this]
  rw [cut (putBits x hi lo v), key, ← cut x]

end Sys2Proof.Machine
end

