-- ==== Sys2Proof/Tests/Slice0.lean ====
section
/-!
SUPPORT. Tests: ill-formed terms that WellFormed refuses, words written out from the spec's encoding tables, single steps on small states, and
for each statement states and operands that meet its hypotheses.
-/
namespace Sys2Proof.Tests
open Sys2Proof Sys2Proof.Machine

set_option Elab.async false

/-! ## Decoding -/

/-- Each pair of control-core words decodes to its instruction. -/
abbrev controlDecodes (l : List (Nat × Nat × Instr)) : Prop := l.map (fun p => decodeControl p.1 p.2.1) = l.map fun p => .instr p.2.2

/-- Each vector word decodes to its instruction. -/
abbrev vectorDecodes (l : List (Nat × Instr)) : Prop := l.map (fun p => decodeVector p.1) = l.map fun p => .instr p.2
/-- The words of register operations, from Tables 7.2, 7.3, 7.5 and 7.6. -/
theorem test_decode_register_operations : controlDecodes [
    (0x0531B800, 0, .add 9 17 23),
    (0x061C2801, 0, .sub 16 28 5),
    (0x06E89002, 0, .and 23 8 18),
    (0x07D3F803, 0, .or 30 19 31),
    (0x04DE6804, 0, .xor 6 30 13),
    (0x05AAD005, 0, .andn 13 10 26),
    (0x06954006, 0, .sll 20 21 8),
    (0x0761A807, 0, .srl 27 1 21),
    (0x046C1808, 0, .sra 3 12 3),
    (0x05578009, 0, .ror 10 23 16),
    (0x0623E80A, 0, .slt 17 3 29),
    (0x070E580B, 0, .sltn 24 14 11),
    (0x07F9C00C, 0, .min 31 25 24),
    (0x04E5300D, 0, .max 7 5 6),
    (0x05D0980E, 0, .minn 14 16 19),
    (0x06BB080F, 0, .maxn 21 27 1),
    (0x07877010, 0, .mul 28 7 14),
    (0x0492D811, 0, .mulh 4 18 27),
    (0x057D4812, 0, .mulhn 11 29 9),
    (0x0649B013, 0, .div 18 9 22),
    (0x07342014, 0, .divn 25 20 4),
    (0x043F8815, 0, .rem 1 31 17),
    (0x050BF016, 0, .remn 8 11 30),
    (0x05F60017, 0, .clz 15 22),
    (0x06C20018, 0, .ctz 22 2),
    (0x07AD0019, 0, .popc 29 13),
    (0x04B8001A, 0, .brev 5 24),
    (0x0584001B, 0, .bswap 12 4),
    (0x066F781C, 0, .clmul 19 15 15),
    (0x075AE01D, 0, .clmulh 26 26 28),
    (0x0446501E, 0, .addw 2 6 10),
    (0x0531B81F, 0, .subw 9 17 23),
    (0x061C2820, 0, .sllw 16 28 5),
    (0x06E89021, 0, .srlw 23 8 18),
    (0x07D3F822, 0, .sraw 30 19 31),
    (0x04DE6823, 0, .exts 6 30 13),
    (0x05AAD024, 0, .extz 13 10 26),
    (0x06954025, 0, .seq 20 21 8),
    (0x0761A826, 0, .sne 27 1 21)] := by
  decide +kernel

/-- The words of immediates and jumps, from Tables 7.2, 7.3, 7.5 and 7.6. -/
theorem test_decode_immediates_and_jumps : controlDecodes [
    (0x086C320D, 0, .addi 3 12 12813),
    (0x0D57431E, 0, .andi 10 23 17182),
    (0x1223542F, 0, .ori 17 3 21551),
    (0x170E6540, 0, .xori 24 14 25920),
    (0x1BF97651, 0, .slti 31 25 30289),
    (0x1CE58762, 0, .sltni 7 5 34658),
    (0x2560DCB7, 0, .lih 11 56503),
    (0x2A40EDC8, 0, .addpc 18 60872),
    (0x5D847650, 0, .jalr 12 4 30288),
    (0x21D00021, 0, .slli 14 16 33),
    (0x22BB4022, 0, .srli 21 27 34),
    (0x23878023, 0, .srai 28 7 35),
    (0x2092C024, 0, .rori 4 18 36),
    (0x58BFFFF0, 0, .jal 5 2097136),
    (0x4284FF34, 0, .beq 20 4 65332),
    (0x47F1FF35, 0, .bne 31 17 65333),
    (0x497EFF36, 0, .blt 11 30 65334),
    (0x4ECCFF37, 0, .bge 22 12 65335),
    (0x5059FF38, 0, .bltn 2 25 65336),
    (0x55A7FF39, 0, .bgen 13 7 65337)] := by
  decide +kernel

/-- The words of loads and stores, from Tables 7.2, 7.3, 7.5 and 7.6. -/
theorem test_decode_loads_and_stores : controlDecodes [
    (0x626FF3C0, 0, .ldI8 19 15 3900),
    (0x635AF3D1, 0, .ldI16 26 26 3901),
    (0x6046F3E2, 0, .ldI32 2 6 3902),
    (0x6131F3F3, 0, .ld64 9 17 3903),
    (0x621CF404, 0, .ldN8 16 28 3904),
    (0x62E8F415, 0, .ldN16 23 8 3905),
    (0x63D3F426, 0, .ldN32 30 19 3906),
    (0x64DE8430, 0, .st8 6 30 2115),
    (0x65AA8441, 0, .st16 13 10 2116),
    (0x66958452, 0, .st32 20 21 2117),
    (0x67618463, 0, .st64 27 1 2118),
    (0x646C847B, 0, .st64F 3 12 2119)] := by
  decide +kernel

/-- The words of atomics and fences, from Tables 7.2, 7.3, 7.5 and 7.6. -/
theorem test_decode_atomics_and_fences : controlDecodes [
    (0x81578210, 0, .atomAdd 10 23 16 true 0 true),
    (0x8223E841, 0, .atomAnd 17 3 29 false 1 false),
    (0x830E5A82, 0, .atomOr 24 14 11 true 2 false),
    (0x83F9C0D3, 0, .atomXor 31 25 24 false 3 true),
    (0x80E53304, 0, .atomXchg 7 5 6 true 4 false),
    (0x81D09945, 0, .atomCas 14 16 19 false 5 false),
    (0x82BB0A16, 0, .atomMin 21 27 1 true 0 true),
    (0x83877047, 0, .atomMax 28 7 14 false 1 false),
    (0x8092DA88, 0, .atomMinn 4 18 27 true 2 false),
    (0x817D48D9, 0, .atomMaxn 11 29 9 false 3 true),
    (0x8249B30A, 0, .atomFadd 18 9 22 true 4),
    (0x8334214B, 0, .atomFmin 25 20 4 false 5),
    (0x803F8A0C, 0, .atomFmax 1 31 17 true 0),
    (0x810BF04D, 0, .atomIncw 8 11 30 false 1 false),
    (0x81F6628E, 0, .atomAddb 15 22 12 true 2 false),
    (0x86800000, 0, .fenceAcq 5),
    (0x86100000, 0, .fenceRel 4),
    (0x85A00000, 0, .fenceAr 3),
    (0x85300000, 0, .fenceSc 2),
    (0x84C34000, 0, .fenceX 1 1 5)] := by
  decide +kernel

/-- The words of barriers and tokens, from Tables 7.2, 7.3, 7.5 and 7.6. -/
theorem test_decode_barriers_and_tokens : controlDecodes [
    (0x880002D0, 0, .barArv 2 13),
    (0x884003D1, 0, .barWait 2 3 13),
    (0x892004D2, 0, .barSync 9 4 13),
    (0x8A1C05D3, 0, .barCfg 16 28 5 13),
    (0x8EE89300, 0, .tbInit 23 8 18 3),
    (0x8FD3F801, 0, .tbExpect 30 19 31),
    (0x8CDE6802, 0, .tbArv 6 30 13),
    (0x8DAAD003, 0, .tbWait 13 10 26),
    (0x8E950004, 0, .tbTest 20 21),
    (0x8F610005, 0, .tbInval 27 1),
    (0x8C6C1806, 0, .tbName 3 12 3),
    (0x91570000, 0, .tkWait 10 23),
    (0x92230001, 0, .tkTest 17 3),
    (0x900E0002, 0, .tkAfter 14),
    (0x9019C003, 0, .tbAfter 25 24)] := by
  decide +kernel

/-- The words of regions zones and grids, from Tables 7.2, 7.3, 7.5 and 7.6. -/
theorem test_decode_regions_zones_and_grids : controlDecodes [
    (0xA0E53000, 0, .bufDef 7 5 6),
    (0xA1D00001, 0, .bufUndef 14 16),
    (0xA13B0802, 0, .rgnB 9 27 1),
    (0xA1270003, 0, .rgnO 9 7),
    (0xA1320004, 0, .rgnE 9 18),
    (0xA1200005, 0, .rgnClr 9),
    (0xB6E89000, 0, .lzDef 23 8 18),
    (0xB7D3F801, 0, .lzResv 30 19 31),
    (0xB4DE6802, 0, .lzRel 6 30 13),
    (0xB5AAD003, 0, .lzStat 13 10 26),
    (0xB6950004, 0, .lzUndef 20 21),
    (0xBB61A800, 0, .gridDef 27 1 21),
    (0xB86C1801, 0, .gridBc 3 12 3),
    (0xB9578002, 0, .gridStep 10 23 16),
    (0xBA23E803, 0, .gridStat 17 3 29),
    (0xBB0E0004, 0, .gridUndef 24 14)] := by
  decide +kernel

/-- The words of tasks, from Tables 7.2, 7.3, 7.5 and 7.6 and Table 10.4. -/
theorem test_decode_tasks : controlDecodes [
    (0xA44E5568, 0xBC000000, .mm ⟨19, 2, 5, 2, 11, 1⟩ 11 12),
    (0xA4CE5768, 0x99B2B000, .mmd ⟨19, 2, 5, 3, 11, 1⟩ ⟨9, 4, true, true, false, true, true, false, false, 21, true⟩),
    (0xA54E5168, 0, .mmz ⟨19, 2, 5, 0, 11, 1⟩),
    (0xA84E5368, 0, .xp ⟨19, 2, 5, 1, 11, 1⟩),
    (0xA8CE5768, 0xAB1E2000, .row ⟨19, 2, 5, 3, 11, 1⟩ ⟨2, 10, 12, 3, true, 17, false⟩),
    (0xA94E59D0, 0xB5C00000, .vrun ⟨19, 2, 5, 4, 14, 2⟩ 22 23),
    (0xAC4E5368, 0xC6400000, .cp ⟨19, 2, 5, 1, 11, 1⟩ 24 25),
    (0xACCE5368, 0xC6400000, .cpW ⟨19, 2, 5, 1, 11, 1⟩ 24 25),
    (0xAD4E5568, 0xC6400000, .cpG ⟨19, 2, 5, 2, 11, 1⟩ 24 25),
    (0xADCE5568, 0xC6400000, .cpS ⟨19, 2, 5, 2, 11, 1⟩ 24 25),
    (0xAE4E5168, 0xC6400000, .cpF ⟨19, 2, 5, 0, 11, 1⟩ 24 25),
    (0xAECE5360, 0xC0340000, .cpR ⟨19, 2, 5, 1, 11, 0⟩ 24 26),
    (0xB04E5568, 0xDF3A0000, .taskRpost ⟨19, 2, 5, 2, 11, 1⟩ 27 28 29),
    (0xB0CE5160, 0xF0000000, .taskRstat ⟨19, 2, 5, 0, 11, 0⟩ 30)] := by
  decide +kernel

/-- The words of system and long forms, from Tables 7.2, 7.3, 7.5 and 7.6. -/
theorem test_decode_system_and_long_forms : controlDecodes [
    (0xC0190000, 0, .ecall 25),
    (0xC0053001, 0, .trap 5 6),
    (0xC0000002, 0, .eret),
    (0xC1C04153, 0, .sysr 14 1045),
    (0xC01B1014, 0, .sysw 257 27),
    (0xC0000005, 0, .safept),
    (0xC0000006, 0, .ckpt),
    (0xC3877007, 0, .spawn 28 7 14),
    (0xC0000008, 0, .endStrand),
    (0xC0000009, 0, .yield),
    (0xC000000A, 0, .halt),
    (0xC092000B, 0, .waitev 4 18),
    (0xC57D0000, 0, .accAlloc 11 29),
    (0xC649B001, 0, .accFree 18 9 22),
    (0xC7340002, 0, .memCommit 25 20),
    (0xC43F0003, 0, .memDecommit 1 31),
    (0xC40BF004, 0, .traceMark 11 30),
    (0xC5F60005, 0, .stepEnd 15 22),
    (0xFAC00000, 0x89ABCDE0, .li 22 2309737952),
    (0xFBAD0001, 0x89ABCDE1, .lihi 29 13 2309737953),
    (0xF8B80002, 0x89ABCDE2, .addl 5 24 2309737954),
    (0xF9800003, 0x89ABCDE3, .jall 12 2309737955)] := by
  decide +kernel

/-- The vector words of integer lanes, from Tables 7.7 and 7.8. -/
theorem test_decode_integer_lanes : vectorDecodes [
    (0x0120E30010000000, .vadd 8 14 12 1 false),
    (0x0239844020000000, .vsub 14 24 17 2 false),
    (0x0352258030080000, .vmul 20 34 22 3 true),
    (0x046AC6C040000000, .vmulh 26 44 27 4 false),
    (0x0583683050000000, .vmad 32 54 32 48 5 false),
    (0x0698094060080000, .vmin 38 0 37 6 true),
    (0x07B0AA8070000000, .vmax 44 10 42 7 false),
    (0x08C9400000100000, .vabs 50 20 0 true false),
    (0x09E1E00010080000, .vneg 56 30 1 false true),
    (0x0AFA8E4020000000, .vand 62 40 57 2 false),
    (0x0B132F8030000000, .vor 4 50 62 3 false),
    (0x0C2BC0C040080000, .vxor 10 60 3 4 true),
    (0x0D40600050000000, .vnot 16 6 5 false),
    (0x0E59034060000000, .vsll 22 16 13 6 false),
    (0x0F8A45C000000000, .vsrl 34 36 23 0 false),
    (0x10BB884020080000, .vsra 46 56 33 2 true),
    (0x11E8CAC040000000, .vadds 58 12 43 4 false),
    (0x12016C0050080000, .vsubs 0 22 48 5 true),
    (0x131A0D4060000000, .vavg 6 32 53 6 false),
    (0x1432A00070000000, .vclz 12 42 7 false),
    (0x154B400000080000, .vpopc 18 52 0 true),
    (0x1663E100F0000000, .vclmul 24 62 4 15 false),
    (0x17788240F0000000, .vclmulh 30 8 9 15 false),
    (0x1891238054080000, .vmulw 36 18 14 5 4 true),
    (0x19A9C4C054000000, .vaddw 42 28 19 5 4 false),
    (0x1AC2660864000000, .vdot4 48 38 24 8 6 4 false false),
    (0x0E71A00070088001, .vsllImm 28 26 1 7 true),
    (0x0FA2E00010008003, .vsrlImm 40 46 3 1 false),
    (0x10D0200030008002, .vsraImm 52 2 2 3 false)] := by
  decide +kernel

/-- The vector words of float lanes, from Tables 7.7 and 7.8. -/
theorem test_decode_float_lanes : vectorDecodes [
    (0x20DB074080180000, .vfadd 54 48 29 8 0 true true),
    (0x21F3A88090200000, .vfsub 60 58 34 9 1 false false),
    (0x220849C0A0500000, .vfmul 2 4 39 10 2 true false),
    (0x2320EB2C80680000, .vfma 8 14 44 44 8 3 false true),
    (0x24398C7590900000, .vfms 14 24 49 53 9 4 true false),
    (0x25522DBEA0000000, .vfnma 20 34 54 62 10 0 false false),
    (0x266ACEC080080000, .vfmin 26 44 59 8 true),
    (0x2783600090000000, .vfmax 32 54 0 9 false),
    (0x28980140A0000000, .vfminp 38 0 5 10 false),
    (0x29B0A28080080000, .vfmaxp 44 10 10 8 true),
    (0x2AC9400090000000, .vfabs 50 20 9 false),
    (0x2BE1E000A0000000, .vfneg 56 30 10 false),
    (0x2CFA864080080000, .vfcpys 62 40 25 8 true),
    (0x2D13278090600000, .vfdiv 4 50 30 9 3 false false),
    (0x2E2BC000A0900000, .vfsqrt 10 60 10 4 true false),
    (0x2F40600080080000, .vexp2 16 6 8 0 false true),
    (0x3059000090300000, .vlog2 22 16 9 1 true false),
    (0x3171A000A0400000, .vrcp 28 26 10 2 false false),
    (0x328A400080780000, .vrsqrt 34 36 8 3 true true),
    (0x33A2E00090800000, .vsinpi 40 46 9 4 false false),
    (0x34BB8000A0100000, .vcospi 46 56 10 0 true false),
    (0x35D0200080280000, .vfrnd 52 2 8 1 true),
    (0x36E8C00090000000, .vfclass 58 12 9 false),
    (0x37016400A0600000, .vfscale 0 22 16 10 3 false false),
    (0x401A0000BE980000, .vcvt 6 32 11 14 4 true true),
    (0x41B2A0008C000000, .vcvtw 44 42 8 12 0 false false),
    (0x42494000B2300000, .vcvtn 18 20 11 2 1 true false)] := by
  decide +kernel

/-- The vector words of masks and permutes, from Tables 7.7 and 7.8. -/
theorem test_decode_masks_and_permutes : vectorDecodes [
    (0x5003E900100C0000, .vcmp 62 36 1 4 true),
    (0x5100800020000000, .mpush 8 2 false),
    (0x5200000030000000, .minv 3),
    (0x5300000000000000, .mand),
    (0x5400000000000000, .mor),
    (0x5500000000000000, .mandn),
    (0x5600000000000000, .mpop),
    (0x572C000040000000, .mcnt 11 4),
    (0x582C000050000000, .mfirst 11 5),
    (0x590358000000ABFE, .mld 13 6 44030),
    (0x5A0358000000ABFF, .mst 13 6 44031),
    (0x6008400000000013, .vbcast 2 4 0 false 19),
    (0x6120C00010000000, .vsplat 8 12 1 false),
    (0x6239844020080000, .vshuf 14 24 17 2 true),
    (0x6352200030000016, .vrot 20 34 3 false 22),
    (0x646AC6C040000017, .vslide 26 44 27 4 false 23),
    (0x6583680050000000, .vzip 32 54 32 5),
    (0x6698000060000000, .vuzp 38 0 6),
    (0x67B0A30070000000, .vcmprs 44 10 12 7),
    (0x68C9400000000000, .vexpnd 50 20 0),
    (0x69E0000010000000, .viota 56 1),
    (0x6AFA8E4020000000, .vsel 62 40 57 2),
    (0x6B13200030080000, .vmov 4 50 3 true)] := by
  decide +kernel

/-- The vector words of reductions memory and control, from Tables 7.7 and 7.8. -/
theorem test_decode_reductions_memory_and_control : vectorDecodes [
    (0x702BC00040100000, .vrsum 10 60 4 true false),
    (0x7140600050000000, .vrmax 16 6 5 false),
    (0x7259000060080000, .vrmin 22 16 6 true),
    (0x7371A00070000000, .vrxor 28 26 7 false),
    (0x748A4000A0100000, .vrfsum 34 36 10 0 true false),
    (0x75A2E00080080000, .vrfmax 40 46 8 true),
    (0x80BB58009100AC12, .vld 46 13 6 9 1 false 44050),
    (0x81D35800F200AC13, .vst 52 13 6 15 2 false 44051),
    (0x82EB58001008AC14, .vlds 58 13 6 1 0 true 44052),
    (0x830358002100AC15, .vsts 0 13 6 2 1 false 44053),
    (0x841B580002000018, .vgath 6 13 6 0 2 false 24),
    (0x8533580000080018, .vscat 12 13 6 0 0 true 24),
    (0x864B58006100AC18, .vldb 18 13 6 6 1 false 44056),
    (0x90E00000DEADBF39, .ali 14 3735928633),
    (0x91E9600000000000, .aadd 14 9 6),
    (0x92E90000DEADBF3B, .aaddi 14 9 3735928635),
    (0x93E9600000000000, .amul 14 9 6),
    (0x94E9000000000025, .ashl 14 9 37),
    (0x952F000060000031, .amovv 11 48 6 49),
    (0x96E00000FFFFFF5F, .vloop 14 4294967135),
    (0x97000000FFFFFF60, .vj 4294967136),
    (0x98000000FFFFFF61, .vbz 4294967137),
    (0x99000000FFFFFF62, .vbnz 4294967138),
    (0x9A096000FFFFFF63, .abne 9 6 4294967139),
    (0x9B00000000000000, .vend),
    (0x9C000000CAFE0064, .vtrap 3405643876)] := by
  decide +kernel

/-! ## Ill-formed terms -/

/-- Each term is refused with its reason. -/
abbrev refusedAs (l : List (Instr × Illegal)) : Prop := l.map (fun p => p.1.problem) = l.map fun p => some p.2

/-- Control-core terms: scopes, paths, registers, counts, lists, types and fields out of their ranges. -/
theorem test_ill_formed_control : refusedAs [
    (.atomAdd 1 2 3 false 6 true, .scope), (.atomFadd 1 2 3 false 7, .scope), (.fenceSc 6, .scope), (.fenceX 6 0 0, .scope),
    (.barCfg 1 2 7 0, .scope), (.tbInit 1 2 3 6, .scope), (.fenceX 3 0 6, .path), (.fenceX 3 0 7, .path),
    (.sysr 1 6, .systemRegister), (.sysr 1 0x40D, .systemRegister), (.sysw 0x7FF 1, .systemRegister),
    (.mm ⟨0, 0, 0, 1, 0, 1⟩ 10 10, .counts), (.mm ⟨0, 0, 15, 2, 0, 1⟩ 10 10, .regionList), (.mm ⟨0, 0, 0, 2, 0, 1⟩ 10 9, .types),
    (.mmd ⟨0, 0, 0, 2, 0, 1⟩ ⟨8, 0, false, false, false, false, false, false, false, 0, false⟩, .counts),
    (.mmd ⟨0, 0, 0, 1, 0, 1⟩ ⟨15, 0, false, false, false, false, false, false, false, 0, false⟩, .types),
    (.mmd ⟨0, 0, 0, 1, 0, 1⟩ ⟨8, 5, false, false, false, false, false, false, false, 0, false⟩, .rounding),
    (.mmd ⟨0, 0, 0, 1, 0, 1⟩ ⟨8, 0, false, false, false, false, true, false, false, 0, false⟩, .operand),
    (.mmd ⟨0, 0, 0, 1, 0, 1⟩ ⟨8, 0, false, false, false, false, false, true, false, 0, false⟩, .operand),
    (.mmd ⟨0, 0, 0, 1, 0, 1⟩ ⟨9, 0, false, false, false, false, false, false, true, 0, false⟩, .operand),
    (.mmz ⟨0, 0, 0, 1, 0, 1⟩, .counts), (.xp ⟨0, 0, 0, 1, 0, 0⟩, .counts), (.row ⟨0, 0, 0, 1, 0, 1⟩ ⟨3, 8, 8, 0, false, 0, false⟩, .counts),
    (.row ⟨0, 0, 0, 4, 0, 1⟩ ⟨3, 8, 8, 0, false, 0, false⟩, .member), (.row ⟨0, 0, 0, 1, 0, 1⟩ ⟨0, 7, 8, 0, false, 0, false⟩, .types),
    (.row ⟨0, 0, 0, 1, 0, 1⟩ ⟨0, 8, 13, 0, false, 0, false⟩, .types), (.row ⟨0, 0, 0, 1, 0, 1⟩ ⟨0, 8, 8, 7, false, 0, false⟩, .rounding),
    (.row ⟨0, 0, 0, 1, 0, 1⟩ ⟨0, 8, 8, 0, false, 0, true⟩, .operand), (.vrun ⟨0, 0, 0, 5, 0, 0⟩ 1 2, .regionList),
    (.vrun ⟨0, 0, 0, 0, 0, 3⟩ 1 2, .regionList), (.vrun ⟨0, 0, 0, 0, 15, 2⟩ 1 2, .regionList), (.cpG ⟨0, 0, 0, 1, 0, 1⟩ 1 2, .counts),
    (.cpR ⟨0, 0, 0, 1, 0, 1⟩ 1 2, .counts), (.taskRpost ⟨0, 0, 13, 4, 0, 0⟩ 1 2 3, .regionList), (.taskRstat ⟨0, 0, 0, 0, 0, 0⟩ 0, .operand)] := by
  decide +kernel

/-- Vector terms, and an event row. -/
theorem test_ill_formed_vector : refusedAs [
    (.vadd 1 2 3 8 false, .types), (.vabs 1 2 4 false false, .types), (.vsllImm 1 2 4 3 false, .amount), (.vsrlImm 1 2 8 0 false, .amount),
    (.vclmul 1 2 3 6 false, .types), (.vmulw 2 4 6 2 0 false, .types), (.vmulw 3 4 6 2 1 false, .alignment), (.vdot4 1 2 3 4 2 4 false false, .types),
    (.vfadd 1 2 3 7 0 false false, .types), (.vfadd 1 2 3 8 5 false false, .rounding), (.vfabs 1 2 14 false, .types),
    (.vcvt 1 2 8 9 0 false false, .types), (.vcvtw 2 4 8 7 0 false false, .types), (.vcvtw 3 4 8 9 0 false false, .alignment),
    (.vcvtn 3 5 9 8 0 false false, .alignment), (.vcmp 1 2 15 0 false, .types), (.vcmp 1 2 7 6 false, .predicate), (.vcmp 1 2 8 7 false, .predicate),
    (.vbcast 1 2 2 false 128, .lane), (.vslide 1 2 3 2 false 129, .lane), (.vzip 1 2 3 0, .alignment), (.vuzp 2 3 0, .alignment), (.viota 1 8, .types),
    (.vrsum 1 2 8 false false, .types), (.vrfsum 1 2 8 6 false false, .rounding), (.vld 1 2 3 0 3 false 0, .layout), (.vlds 1 2 3 13 0 false 0, .types),
    (.vgath 1 2 3 0 0 false 6, .alignment), (.amovv 1 2 15 64, .lane), (.vloop 0 1, .operand), (.linkRecordUpdate, .event)] := by
  decide +kernel

/-- Words that no table allocates or whose reserved fields are set, by their reasons (R153, R155, R157, R158, R161, R162). -/
theorem test_illegal_words :
    decodeControl 0 0 = .illegal .major ∧ decodeControl 0x04000027 0 = .illegal .member ∧ decodeControl 0x24A10000 0 = .illegal .field ∧
    decodeControl 0x8000001A 0 = .illegal .field ∧ decodeVector 0 = .illegal .major := by
  decide +kernel

/-! ## Small states -/

/-- The package after reset, with its first strand in RUN and a handler's address in its TVEC. -/
def start : State := State.reset.modMe fun t => { t with state := .run, sys := { t.sys with tvec := 0x1000 } }

/-- A state with values in registers of the strand that moves. -/
def withRegs (l : List (Reg × Word)) (s : State) : State := s.modMe fun t => l.foldl (fun t p => t.setReg p.1 p.2) t

/-- A state whose strand that moves has read the tags that its instruction needs. -/
def tagsKnown (s : State) : State := s.modMe fun t => { t with tagsRead := true }

/-- The first address of the own scratchpad's window, and the key of its byte. -/
abbrev own : Word := 0x0070000000000000

/-- The key of the first byte of core 0's scratchpad. -/
abbrev pad : Nat := 2 ^ 42

/-- A store of 8 bytes to that byte, in the buffer. -/
def storing (value : Word) : Buffered :=
  { acc := ⟨0, own.toNat, 8, .store value false⟩, dest := some (.here pad), fault := none, sent := false, streamSeq := 0, behind := [],
    clock := [], issued := (0, 0) }

/-- The strand that moves with that store in its buffer. -/
def buffering (s : State) : State := s.modMe fun t => { t with stores := [storing 7] }

theorem reaches {s : State} {acc va n key : Nat} (mode : Nat)
    (h : va % n = 0 ∧ mode ≠ 4 ∧ s.myTranslate acc va = .to (.here key) mode ∧ s.softErrors = []) : Reaches s acc va n key :=
  let ⟨aligned, notHost, lands, sound⟩ := h
  ⟨aligned, ⟨mode, notHost, lands⟩, sound⟩

theorem reads {s : State} {acc va n key : Nat} (mode : Nat)
    (h : (va % n = 0 ∧ mode ≠ 4 ∧ s.myTranslate acc va = .to (.here key) mode ∧ s.softErrors = []) ∧
      s.poisoned key n = false ∧ (∀ b ∈ s.me.stores, b.touches key va n = false) ∧ s.loadWaits (.here key) va n = none) :
    ReadsMemory s acc va n key :=
  let ⟨place, clean, alone, free⟩ := h
  { reaches mode place with clean, alone, free }

theorem writes {s : State} {key n : Nat}
    (h : s.frozenAt (.here key) = false ∧ s.tagAt (.here key) n = false ∧ s.needsTags (.here key) = false) : s.writable key n := h

theorem atObject {s : State} {va key : Nat} (mode : Nat)
    (h : va % 32 = 0 ∧ (inOwn va || inMember va) = true ∧ s.myTranslate accRead va = .to (.here key) mode ∧
      s.needsTags (.here key) = false ∧ s.softErrors = [] ∧ s.poisoned key 32 = false) : AtObject s va key :=
  let ⟨aligned, window, lands, tags, sound, clean⟩ := h
  ⟨aligned, window, ⟨mode, lands⟩, tags, sound, clean⟩

theorem atWritable {s : State} {va key : Nat} (mode : Nat)
    (h : (va % 32 = 0 ∧ (inOwn va || inMember va) = true ∧ s.myTranslate accRead va = .to (.here key) mode ∧
      s.needsTags (.here key) = false ∧ s.softErrors = [] ∧ s.poisoned key 32 = false) ∧
      Memory.wf s.mem = true ∧ s.frozenAt (.here key) = false ∧ s.touchesPort key 32 = false) : AtWritable s va key :=
  let ⟨place, mem, thawed, noPort⟩ := h
  { atObject mode place with mem, thawed, noPort }

/-- A strand of space 0 of partition 0, whose memory is device memory: the space's table is at 0x1000, its three levels at 0x10000, 0x20000
and 0x30000, and the leaves of the last are given. -/
def paged (leaves : List (Nat × Nat)) : State :=
  let s : State := { start with marten := { start.marten with values := { start.marten.values with spaceTable := 0x1000, nspaces := 1 } } }
  let s := (s.writeNat 0x1000 16 (0x10000 + 2 ^ 80)).writeNat 0x10000 8 (1 + 2 * 2 ^ 12)
  leaves.foldl (fun s p => s.writeNat (0x30000 + 8 * p.1) 8 p.2) (s.writeNat 0x20000 8 (1 + 3 * 2 ^ 12))

/-- A LOCAL leaf that allows reads and writes in USER mode, for the page at 0x40000, with the given flags above. -/
abbrev leaf (flags : Nat) : Nat := 3 + 4 + 8 + 32 + flags + 4 * 2 ^ 12

/-- A write to the first byte of the second tier, which die 0 sees and core 4's data cache and the other dies do not yet. -/
def lateOne : Late := { id := 5, cells := [(2 ^ 40, 9)], dies := [1, 2, 3], caches := [4], engines := [], clock := [], by_ := .host 0 }

/-- Partition 1, of core 0, with a granule in its tile pool. -/
def onePart : Partition :=
  { no := 1, st := .active, cores := [0], keyslot := 0, s2root := 0, savearea := 0x100000, plimit := 0, packages := [0], others := [], tpool := [0x80000],
    cmap := 0, barids := 1, preempt := none, preemptHeld := false, breakpoints := [], haltReq := [], groupCores := 1, systemCores := 1,
    intakes := [], saved := [], savedShips := [], savedBars := [], savedLive := [] }

/-! ## Witnesses: states and operands that meet the hypotheses of the statements -/

/-- For SumsAndConstants, BitwiseAndShifts, WidthExtension, ProductResults, DivisionResults and ResidueMismatch: no result is marked as a
residue mismatch after reset; widths 0, 1, 63, 64 and 127, shifts of 63 and operands at the ends of their
ranges. -/
theorem witness_integer :
    start.residue = 0 ∧ start.dividerBusy = false ∧
    (withRegs [(1, 0x8000000000000000), (2, -1)] start).residue = 0 ∧
    ((withRegs [(1, 0x8000000000000000), (2, -1)] start).reg 1).toInt = -2 ^ 63 ∧
    ((withRegs [(1, 0x8000000000000000), (2, -1)] start).reg 2).toInt = -1 ∧
    ((withRegs [(2, 128)] start).reg 2).toNat % 128 = 0 ∧ 64 ≤ ((withRegs [(2, 64)] start).reg 2).toNat % 128 ∧
    0 < ((withRegs [(2, 1)] start).reg 2).toNat % 128 ∧ ((withRegs [(2, 63)] start).reg 2).toNat % 128 < 64 ∧
    (start.modMe fun t => t.mark 3 .divider).dividerBusy = true ∧
    ({ start with residue := 1 } : State).power.rescnt < 2 ^ 32 - 2 ∧ ({ start with residue := 1 } : State).residue = 1 ∧
    2 ≤ ({ start with residue := 2 } : State).residue := by
  decide +kernel

/-- An access of the own scratchpad at its first byte and at its last, and one of device memory. -/
theorem witness_Loads :
    ReadsMemory (withRegs [(1, own)] start) accRead own.toNat 8 pad ∧
    ReadsMemory (withRegs [(1, own + 0x1FFFFF)] start) accRead (own + 0x1FFFFF).toNat 1 (pad + 0x1FFFFF) ∧
    ReadsMemory (paged [(1, leaf 64)]) accRead 0x1FFFC 4 0x4FFFC := by
  refine ⟨reads 8 ?_, reads 8 ?_, reads 0 ?_⟩ <;> decide +kernel

/-- A load that the strand's latest store serves, and one of a page that reads as zero. -/
theorem witness_Loads_served :
    (let s := buffering (withRegs [(1, own)] start)
     Reaches s accRead own.toNat 8 pad ∧ s.poisoned pad 8 = false ∧ s.loadWaits (.here pad) own.toNat 8 = none ∧
     s.me.stores = [] ++ [storing 7]) ∧
    ((paged [(0, leaf 0)]).myTranslate accRead 0xFFF8 = .zero ∧ 0xFFF8 % 8 = 0) := by
  refine ⟨⟨reaches 8 ?_, ?_⟩, ?_⟩ <;> decide +kernel

/-- A store that issues with its tags read, to an empty buffer. -/
theorem witness_Stores :
    let s := tagsKnown (withRegs [(1, own)] start)
    Reaches s accWrite own.toNat 8 pad ∧ s.writable pad 8 ∧ ∀ b ∈ s.me.stores, ∃ j, b.dest = some (.here j) := by
  refine ⟨reaches 8 ?_, writes ?_, fun b hb => ?_⟩
  any_goals decide +kernel
  rw [show (tagsKnown (withRegs [(1, own)] start)).me.stores = [] by decide +kernel] at hb
  cases hb

/-- A store in the buffer that may be performed, alone in its cycle. -/
theorem witness_Stores_performed :
    let s := buffering start
    Memory.wf s.mem = true ∧ s.softErrors = [] ∧ (s.strand 0 0).stores[0]? = some (storing 7) ∧ (s.strand 0 0).heldLoads = [] ∧
    s.issuedBefore 0 0 pad 8 (0, 0) = false ∧ s.frozenAt (.here pad) = false ∧ s.tagAt (.here pad) 8 = false ∧
    s.touchesPort pad 8 = false := by
  decide +kernel

/-- The checks of an access that fail: misaligned, unmapped, a page without the right, a frozen scratchpad, a live barrier with the tags
read, tags still to be read; and pages not present. -/
theorem witness_AccessStops :
    (∀ c, c < 22 → start.me.fatal c = false) ∧ own.toNat % 8 = 0 ∧ (own + 4).toNat % 8 ≠ 0 ∧
    start.myTranslate accRead 0 = .fail 4 ∧ (paged [(1, leaf 64 - 8)]).myTranslate accWrite 0x10000 = .fail 5 ∧
    (paged [(1, leaf 64 - 8)]).myTranslate accAtomic 0x10000 = .fail 5 ∧
    (let s := start.modCore 0 fun x => { x with frozen := true }
     s.myTranslate accWrite own.toNat = .to (.here pad) 8 ∧ s.frozenAt (.here pad) = true ∧ s.me.fatal 5 = false) ∧
    (let s := tagsKnown { start with live := [(pad, false)] }
     s.myTranslate accWrite own.toNat = .to (.here pad) 8 ∧ s.frozenAt (.here pad) = false ∧ s.needsTags (.here pad) = false ∧
     s.tagAt (.here pad) 8 = true) ∧ start.needsTags (.here pad) = true ∧ start.frozenAt (.here pad) = false ∧ start.me.arrived = false ∧
    start.myTranslate accAtomic own.toNat = .to (.here pad) 8 ∧
    (paged []).myTranslate accRead 0x20000 = .open 1 3 0 ∧ (paged []).myTranslate accWrite 0x20000 = .open 1 3 0 := by
  decide +kernel

/-- An atomic that is ready, plain and acquire-release. -/
theorem witness_Atomics :
    let s := tagsKnown (withRegs [(1, own), (2, 5), (3, 6)] start)
    Memory.wf s.mem = true ∧ Reaches s accAtomic own.toNat 8 pad ∧ s.writable pad 8 ∧ s.poisoned pad 8 = false ∧
    s.touchesPort pad 8 = false ∧ s.me.stores = [] ∧ s.me.heldLoads = [] ∧ s.me.arrived = false ∧
    s.issuedBefore s.myCore s.myStrand pad 8 (s.now, s.tick) = false ∧ s.me.lostStream 5 = none ∧ s.me.relReady 5 = true := by
  refine ⟨?_, reaches 8 ?_, writes ?_, ?_⟩ <;> decide +kernel

/-- An acquire-release atomic that waits behind a store, and two that have been performed, with every value back and with one out. -/
theorem witness_Atomics_wait :
    (let s := tagsKnown (buffering start)
     s.myTranslate accAtomic own.toNat = .to (.here pad) 8 ∧ s.writable pad 8 ∧ s.me.relReady 3 = false ∧ s.me.arrived = false) ∧
    (let s := start.modMe fun t => { t with arrived := true }
     s.me.arrived = true ∧ (∀ x ∈ s.me.pend, x.kind.isAccess = false)) ∧
    (let s := start.modMe fun t => { (t.mark 3 (.request 0)) with arrived := true }
     s.me.arrived = true ∧ ¬ ∀ x ∈ s.me.pend, x.kind.isAccess = false) := by
  refine ⟨⟨?_, writes ?_, ?_⟩, ?_⟩ <;> decide +kernel

/-- Accesses returned and not, stores performed and not, at a narrow and at a wide scope, a trace write, and streams: one to be marked, one
whose destination has become unreachable. -/
theorem witness_Fences :
    let lost : Stream := ⟨7, 9, 3, 3, true⟩
    let open_ : Stream := ⟨7, 9, 3, 3, false⟩
    let t := start.modMe fun t => { t with streams := [lost] }
    let u := start.modMe fun t => { t with streams := [open_], stores := [{ storing 7 with dest := some (.peer 7 0) }] }
    (∀ x ∈ start.me.pend, x.kind.isAccess = false) ∧ start.me.stores = [] ∧ start.me.lostStream 5 = none ∧
    ¬ (∀ x ∈ (start.modMe fun t => t.mark 3 (.request 0)).me.pend, x.kind.isAccess = false) ∧
    (storing 7).blocks 0 = true ∧ (u.me.lostStream 4 = none ∧ ({ storing 7 with dest := some (.peer 7 0) } : Buffered).blocks 4 = true ∧
      open_.sent ≠ open_.acked ∧ open_.marked ≠ open_.sent) ∧
    ((⟨1, own.toNat, 8, .store 7 false⟩ : Acc).pc.toNat % 2 = 1) ∧ t.me.lostStream 4 = some lost ∧ t.me.fatal 21 = false := by
  decide +kernel

/-- A write that is late for other dies, read, written, ordered and observed by the strand that moves; its home lies in the package and, for
die 0, in the die. -/
theorem witness_FencesOrderViews :
    let s := { start with late := [lateOne] }.modMe fun t => { t with read := [5], wrote := [5], after := [5], observed := [5] }
    lateOne ∈ s.late ∧ lateOne.id ∈ s.me.read ∧ lateOne.id ∈ s.me.after ∧ lateOne.id ∈ s.me.wrote ∧ lateOne.id ∈ s.me.observed ∧
    (∀ x ∈ lateOne.cells, homeIn 0 2 x.1 = true) ∧ (∀ x ∈ lateOne.cells, homeIn 0 3 x.1 = true) ∧ lateOne.lags (.scl 4) = true := by
  decide +kernel

/-- A barrier that the partition holds, one that it does not; the strand has arrived at it in its present phase and in an earlier one. -/
theorem witness_HierarchicalBarriers :
    start.holdsBar 0 0 = true ∧ start.holdsBar 1 0 = false ∧ start.me.fatal 5 = false ∧ start.me.lostStream 0 = none ∧
    start.me.relReady 0 = true ∧ start.me.arrived = false ∧ (start.bar 0 (start.instOf 0 0) 0).failed = none ∧
    start.me.sys.trctl.getLsbD 5 = false ∧ start.me.barMemOf 0 0 = none ∧ start.arriving 0 0 = false ∧
    (let s := start.modMe fun t => { t with barMem := [⟨0, 0, 1, true⟩], arrived := true }
     s.me.barMemOf 0 0 = some ⟨0, 0, 1, true⟩ ∧ (s.bar 0 (s.instOf 0 0) 0).phase ≠ 1 ∧ s.me.arrived = true) ∧
    (let s := start.modMe fun t => { t with barMem := [⟨0, 0, 0, true⟩] }
     s.me.barMemOf 0 0 = some ⟨0, 0, 0, true⟩ ∧ (s.bar 0 (s.instOf 0 0) 0).phase = 0) := by
  decide +kernel

/-- Configurations: of a barrier of a GRP instance that the partition holds, with the greatest count, and within the package with nothing
and with something of the strand on its way to the barrier. -/
theorem witness_HierarchicalBarriers_configured :
    let s := withRegs [(1, 67108863)] { start with parts := [{ onePart with no := 0, barids := BitVec.allOnes 80 }] }
    let arr : Arrival := ⟨0, 0, 0, ⟨0, 0, 0, 0, 0⟩, none, [], some (0, 0)⟩
    let cfg : Arrival := ⟨0, s.instOf 0 0, 0, s.meArriver, some 67108863, [], some (0, 0)⟩
    s.holdsBar 4 0 = true ∧ 0 < (s.reg 1).toNat ∧ (s.reg 1).toNat ≤ 67108863 ∧ s.holdsBar 0 0 = true ∧
    (∀ y ∈ s.arrivals, cfg.follows y = false) ∧ (s.bar 0 0 0).failed = none ∧ cfg.follows arr = true := by
  decide +kernel

/-- An object with 1 arrival expected, none pending, in the first bytes of core 0's scratchpad; w is its word. -/
def object (w : Nat) (slot : Bool) : State := tagsKnown { (withRegs [(1, own)] start).putTb pad w with live := [(pad, slot)] }

/-- A place with no object, read for its tags, and a live object; an object of a slot. -/
theorem witness_BarrierObjectsMade :
    (let s := tagsKnown (withRegs [(1, own), (2, 262143)] start)
     AtWritable s own.toNat pad ∧ s.tagged pad 32 = false ∧ s.isLive pad = false) ∧
    (let s := object (tbFresh 1 0) false
     AtWritable s own.toNat pad ∧ s.isLive pad = true ∧ s.isSlotBar pad = false ∧ tbNamed (s.tb pad) = 0) ∧
    (object (tbFresh 1 0) true).isSlotBar pad = true := by
  refine ⟨⟨atWritable 8 ?_, ?_⟩, ⟨atWritable 8 ?_, ?_⟩, ?_⟩ <;> decide +kernel

/-- After reset no strand has a store in flight. -/
theorem witness_BarrierObjectsMade_quiet (c k : Nat) : (State.reset.strand c k).stores = [] := by
  have h : State.reset.core c = Core.reset := by
    unfold State.core; split
    · simp [State.reset]
    · rfl
  unfold State.strand Core.strand
  rw [h]
  split
  · simp [Core.reset, Strand.reset]
  · rfl

/-- An address that is no multiple of 32, one outside the windows, and one whose tags are still to be read. -/
theorem witness_BarrierObjectTraps :
    ((own + 16).toNat % 32 ≠ 0 ∧ start.me.fatal 3 = false) ∧
    ((0 : Word).toNat % 32 = 0 ∧ (inOwn 0 || inMember 0) = false ∧ start.me.fatal 4 = false) ∧
    (own.toNat % 32 = 0 ∧ (inOwn own.toNat || inMember own.toNat) = true ∧ start.myTranslate accRead own.toNat = .to (.here pad) 8 ∧
      start.frozenAt (.here pad) = false ∧ start.needsTags (.here pad) = true) := by
  decide +kernel

/-- Objects ACTIVE and FAILED, with one arrival pending, with none, and with more, that take an update. -/
theorem witness_BarrierUpdates :
    ∀ w ∈ [tbFresh 1 0, tbFresh 2 0, tbFresh 1 0 + 2 ^ 48 + 19 * 2 ^ 56, tbFresh 1 0 - 2 ^ 238],
      (object w false).isLive pad = true ∧ (object w false).isSlotBar pad = false ∧ (object w false).tb pad = w ∧
      (object w false).me.lostStream (tbScope w) = none ∧ (object w false).me.relReady (tbScope w) = true := by
  decide +kernel

/-- What those objects hold. -/
theorem witness_BarrierUpdates_fields :
    (tbStatus (tbFresh 1 0) = 0 ∧ tbParr (tbFresh 1 0) = 1 ∧ tbPbytes (tbFresh 1 0) = 0) ∧ tbParr (tbFresh 2 0) = 2 ∧
    tbParr (tbFresh 1 0 - 2 ^ 238) = 0 ∧ tbStatus (tbFresh 1 0 + 2 ^ 48 + 19 * 2 ^ 56) = 1 := by
  decide +kernel

/-- They stand where the strand may write, as one of a slot does. -/
theorem witness_BarrierUpdates_places :
    AtWritable (object (tbFresh 1 0) false) own.toNat pad ∧ AtWritable (object (tbFresh 1 0) true) own.toNat pad ∧
    (object (tbFresh 1 0) true).isSlotBar pad = true ∧ start.isLive pad = false := by
  refine ⟨atWritable 8 ?_, atWritable 8 ?_, ?_⟩ <;> decide +kernel

theorem witness_BarrierObjectWaits :
    AtObject (object (tbFresh 1 0) false) own.toNat pad ∧ (object (tbFresh 1 0) false).me.sys.trctl.getLsbD 5 = false ∧
    (object (tbFresh 1 0) false).me.tbWait = none ∧ tbPhase (tbFresh 1 0) = 0 ∧ tbStatus (tbFresh 1 0 + 2 ^ 48) = 1 := by
  refine ⟨atObject 8 ?_, ?_⟩ <;> decide +kernel

/-- A pending token register, and one that is not. -/
theorem witness_TokensAndAnnotations :
    (start.modMe fun t => t.mark 5 (.token 0)).me.pending 5 = true ∧ start.me.pending 5 = false ∧ start.noWaitRecord := by
  unfold State.noWaitRecord
  decide +kernel

/-- A buffer in rows of e0 elements of esize4 half bytes, row by row or with a stride of its own. -/
def box (base esize4 e0 e1 stride : Nat) : Buf :=
  ⟨base, 2, esize4, [e0, e1], [0, stride], 0, [], 0, 0, 0, 0, 0, none, [], 0⟩

/-- A region over 8 × 8 elements of buffer n, or over 8, with a mode. -/
def region (mode n rows : Nat) : BitVec 192 :=
  BitVec.ofNat 192 (mode * 2 ^ 168 + n * 2 ^ 160 + 8 * 2 ^ 64 + rows * 2 ^ 80 + 2 ^ 96 + 2 ^ 112)

/-- A core with five buffers, of 8 × 8 elements of 32 bits, of 16 bits, of accumulators, of 32 bits again, and of 8 indices, and with region
registers that name them. -/
def posting : State :=
  let s := start.modCore 0 fun x => { x with
    bufs := [(0, box own.toNat 8 8 8 32), (1, box (own.toNat + 0x1000) 4 8 8 16), (2, box accNames 8 8 8 512),
      (3, box (own.toNat + 0x2000) 8 8 8 32),
      (4, ⟨own.toNat + 0x3000, 1, 8, [8], [0], 0, [], 0, 0, 0, 0, 0, none, [], 0⟩)],
    reports := [⟨7, 0, none⟩] }
  withRegs [(1, 7)] (s.modMe fun t => ((((((t.setRgn 0 (region 1 0 8)).setRgn 1 (region 1 4 1)).setRgn 2 (region 1 1 8)).setRgn 3
    (region 1 1 8)).setRgn 4 (region 2 3 8)).setRgn 5 (region 3 2 8)).setRgn 6 (region 1 2 8))

/-- Every task form has operands that it may post with. -/
theorem witness_TaskForms :
    ∀ p ∈ ([(⟨6, 0, 2, 2, 5, 1⟩, .mm 9 9), (⟨6, 0, 6, 1, 4, 1⟩, .mmd ⟨8, 0, false, false, false, false, false, false, false, 0, false⟩ 0),
        (⟨6, 0, 0, 0, 5, 1⟩, .mmz), (⟨6, 0, 0, 1, 4, 1⟩, .xp), (⟨6, 0, 0, 1, 4, 1⟩, .row ⟨0, 8, 8, 0, false, 0, false⟩ 0),
        (⟨6, 0, 0, 1, 4, 1⟩, .vrun 0 0), (⟨6, 0, 0, 0, 4, 1⟩, .cp 0 none), (⟨6, 0, 0, 1, 0, 0⟩, .cpW 0 none),
        (⟨6, 0, 0, 2, 4, 1⟩, .cpG 0 none), (⟨6, 0, 0, 2, 0, 0⟩, .cpS 0 none), (⟨6, 0, 0, 0, 4, 1⟩, .cpF 0 none),
        (⟨6, 0, 0, 1, 0, 0⟩, .cpR 0 0), (⟨6, 0, 0, 0, 0, 0⟩, .rpost 0 0 none 0 0), (⟨6, 0, 0, 0, 0, 0⟩, .rstat 7)] : List (TaskHead × Cmd)),
      posting.here.operandsOk (posting.taskOf p.1 p.2) = true ∧ posting.here.bindProblem (posting.taskOf p.1 p.2) = none := by
  decide +kernel

/-- The window is open to a strand in RUN without annotations, and a report stands for the tag of RSTAT. -/
theorem witness_TaskForms_open :
    posting.entryOpen ∧ posting.me.state = .run ∧ posting.me.annTok = none ∧ posting.me.annBar = none ∧ posting.here.defining = [] ∧
    ∃ r ∈ posting.here.reports, r.tag = (posting.reg 1).setWidth 16 := by
  unfold State.entryOpen
  decide +kernel

/-- Annotations of both kinds: a token that is pending, one that is not and holds 0, and an object. -/
theorem witness_TaskForms_annotated :
    let s := (tagsKnown posting).modMe fun t => { t with annTok := some 7, annBar := some (own, 3), pend := [⟨7, .token 5⟩] }
    let u := posting.modMe fun t => { t with annTok := some 7 }
    s.me.annTok = some 7 ∧ s.me.tokenOf 7 = some 5 ∧ s.tbPlace own.toNat false = .inl pad ∧
    u.me.tokenOf 7 = none ∧ u.me.pending 7 = false ∧ 0 ≤ (u.me.reg 7).toInt := by
  decide +kernel

/-- A buffer that another strand defines, 64 entries held, and a full window. -/
theorem witness_TaskForms_stalled :
    (let s := posting.modCore 0 fun x => { x with defining := [(4, 1)] }
     ∃ o ∈ s.me.operands ⟨6, 0, 0, 2, 4, 1⟩, ∃ x ∈ s.here.defining, x.1 = rgnBuf o.rgn ∧ x.2 ≠ s.myStrand) ∧
    (let u : Task := posting.taskOf ⟨0, 0, 0, 0, 5, 1⟩ .mmz
     let s := posting.modCore 0 fun x => { x with window := List.replicate 64 u }
     64 ≤ s.here.heldBy s.myStrand ∧ s.here.granted = [] ∧
     128 ≤ (s.modCore 0 fun x => { x with window := List.replicate 128 u }).here.window.length) := by
  decide +kernel

/-- An operand that names an undefined buffer. -/
theorem witness_TaskForms_refused :
    start.entryOpen ∧ start.me.state = .run ∧ start.me.pending 6 = false ∧ start.here.window = [] ∧
    ∃ o ∈ start.me.operands ⟨6, 0, 0, 1, 0, 0⟩, start.here.buf (rgnBuf o.rgn) = none ∨ (o.pos < 4 ∧ rgnMode o.rgn ≠ 1) := by
  unfold State.entryOpen
  decide +kernel

/-- A buffer descriptor of 64 bytes of one byte each, in bytes 0 to 63 of the own scratchpad. -/
def bufRaw : Nat := own.toNat + 0x1000 + 64 * 2 ^ 64 + 1 * 2 ^ 400 + 1 * 2 ^ 403

/-- A descriptor that is good, for the first and the last entry, and one that is not; an entry that a task names, one that a grid names, one
that is defined and one that is not. -/
theorem witness_RegionsAndBuffers :
    (let s := (withRegs [(1, 255), (2, own)] start).writeNat pad 64 bufRaw
     let e := bufOf (s.readNat pad 64)
     ReadsMemory s accRead own.toNat 64 pad ∧ s.here.gridNames 255 = false ∧ s.here.named [255] = false ∧
     bitsOf (s.readNat pad 64) 511 413 = 0 ∧ e.fieldsOk (bitsOf (s.readNat pad 64) 405 403) = true ∧
     (s.here.dropBuf 255).bufFits e = true) ∧
    (bufOf 0).fieldsOk 0 = false ∧ own.toNat % 64 = 0 ∧ (own + 32).toNat % 64 ≠ 0 ∧ start.me.fatal 3 = false ∧
    (let s := posting.modCore 0 fun x => { x with window := [posting.taskOf ⟨6, 0, 0, 0, 5, 1⟩ .mmz] }
     s.here.named [2] = true ∧ s.here.gridNames 2 = false ∧ s.here.buf 2 ≠ none ∧ s.here.named [3] = false ∧ s.here.buf 3 ≠ none ∧
     s.here.buf 9 = none) ∧
    (let s := posting.modCore 0 fun x => { x with bufs := [(3, { box own.toNat 8 8 8 32 with grid := some (0, 1, 2) })] }
     s.here.gridNames 3 = true) := by
  refine ⟨⟨reads 8 ?_, ?_⟩, ?_⟩ <;> decide +kernel

/-- A zone of one slot of 512 bytes in the own scratchpad, its barrier after it. -/
def zoneRaw : Nat := own.toNat + 0x1000 + (own.toNat + 0x2000) * 2 ^ 64 + 1 * 2 ^ 128 + 1 * 2 ^ 144

/-- Zones that are free and active, a descriptor that is good and one that is not, the last zone number and the first beyond it; slots that
are free and not; a reservation request that passes its checks, and an answer that comes back. -/
theorem witness_LandingZones :
    16 ≤ (16 : Word).toNat ∧ (0 : Nat) < 2 ^ 23 ∧
    (let s := (withRegs [(1, own), (2, 15)] start).writeNat pad 64 zoneRaw
     let y := zoneOf (s.readNat pad 64)
     isService s.myCore = false ∧ ReadsMemory s accRead own.toNat 64 pad ∧ s.here.zoneOk (s.readNat pad 64) y = true ∧
     (s.here.zone 15).active = false ∧ s.tagged (y.barKey 0 0) 32 = false ∧ s.here.frozen = false ∧ Memory.wf s.mem = true ∧
     s.touchesPort (y.barKey 0 0) 32 = false) ∧
    start.here.zoneOk 0 (zoneOf 0) = false ∧
    (let y := { zoneOf zoneRaw with zgen := 1 }
     let s := (start.modCore 0 fun x => { x with partno := 1 }).modZone 0 0 fun _ => y
     (s.here.zone 0).active = true ∧ 0 < (s.here.zone 0).slots.length ∧ ((s.here.zone 0).slot 0).st = .free ∧
     (({ y with slots := [{ Slot.fresh with st := .reserved }] } : Zone).slot 0).st ≠ .free) := by
  refine ⟨?_, ?_, ⟨?_, reads 8 ?_, ?_⟩, ?_⟩ <;> decide +kernel

/-- A grid descriptor of one dimension with 4 cells, one tile, halo 1 and field buffer 3; the map lies 256 bytes into the own scratchpad. -/
def gridRaw : Nat := own.toNat + 0x100 + 2 ^ 64 + 4 * 2 ^ 112 + 3 * 2 ^ 192 + 2 ^ 208 + 2 ^ 220 + 2 ^ 224 + 2 ^ 228

/-- A core of partition 1 with that descriptor and its field buffer. -/
def tiled : State :=
  let s := { start with parts := [onePart] }.modCore 0 fun x => { x with
    partno := 1,
    bufs := [(3, ⟨own.toNat + 0x1000, 1, 8, [6], [0], 0, [6], 0, 0, 1, 0, 0, none, [⟨[], false, none⟩], 0⟩)] }
  withRegs [(1, own)] ((s.writeNat pad 128 gridRaw).writeNat (pad + 0x100) 4 (s.identity 0))

/-- The same core with grid 3 ACTIVE. -/
def gridded : State := tiled.modGrid 0 3 fun _ => { gridOf gridRaw 0 with accepted := 4 }

/-- Grid entries that are undefined, active, with 3 and with 4 markers; the last entry number, the last face and the last rule. -/
theorem witness_GridInstructions :
    (let g := gridOf (tiled.readNat pad 128) 0
     ReadsMemory tiled accRead own.toNat 128 pad ∧ tiled.here.gridOk (tiled.readNat pad 128) g = true ∧
     (tiled.here.grid 3).st = .undefined ∧ tiled.here.fieldsTaken 3 g.fields = false ∧ g.neighbours = [[0]] ∧
     ReadsMemory tiled accRead ((own.toNat + 0x100 + 4 * g.indexOf [0]) % 2 ^ 64) 4 (pad + 0x100) ∧
     (g.coord, tiled.identity 0) ∈ g.neighbours.map (fun c => (c, tiled.readNat (pad + 0x100) 4)) ∧
     tiled.readNat (pad + 0x100) 4 < 2 ^ 23 ∧ tiled.inMyPartition (tiled.readNat (pad + 0x100) 4) = true ∧
     tiled.here.named g.fields = false ∧ tiled.here.tileEntries + g.nf * 3 ^ g.dims ≤ 4096) ∧
    start.here.gridOk 0 (gridOf 0 0) = false ∧ ((start.here.grid 3).st = .undefined ∧ start.here.fieldsTaken 3 [3] = false) ∧
    (let h := gridded.here.grid 3
     h.st = .active ∧ 1 < 2 * h.dims ∧ h.rules.length = 2 * h.dims ∧ h.consts.length = 2 * h.dims ∧ (h.accepted.toNat + 1) % 2 ^ 32 = 5 ∧
     h.markers = [] ∧ gridded.me.gridWait = none ∧ gridded.me.defining = false ∧ gridded.shipsIn 0 3 [.reading, .flight] = 0 ∧ gridded.here.named h.fields = false) ∧
    4 ≤ ((gridded.modGrid 0 3 fun g => { g with markers := List.replicate 4 ⟨5, [], false, 0⟩ }).here.grid 3).markers.length := by
  refine ⟨⟨reads 8 ?_, ?_, ?_, ?_, ?_, reads 8 ?_, ?_⟩, ?_⟩ <;> decide +kernel

/-- A strand that may trap and one whose trap is fatal, inside a handler and outside, in either mode. -/
theorem witness_Traps :
    (∀ c ∈ [1, 2, 5, 7, 8, 9], start.me.fatal c = false) ∧ State.reset.me.fatal 7 = true ∧ (withRegs [(1, 1)] start).reg 1 ≠ 0 ∧
    start.me.sys.intrap = false ∧ (start.modMe fun t => { t with sys := { t.sys with intrap := true } }).me.sys.intrap = true := by
  decide +kernel

/-- For SystemRegisterReads, SystemRegisterWrites and CoreControl: a strand in SUPER mode whose core has its remote window open, and one in USER mode; a strand that waits. -/
theorem witness_SystemRegisters :
    (let s := (start.modMe fun t => { t with sys := { t.sys with super := true } }).modCore 0 fun x => { x with rsel := 0x100 }
     s.me.sys.super = true ∧ s.here.rsel.getLsbD 8 = true ∧ s.me.fatal 5 = false) ∧
    start.here.rsel.getLsbD 8 = false ∧ start.me.sys.super = false ∧ start.me.fatal 2 = false ∧ start.me.relReady 0 = true ∧
    (start.modMe fun t => { t with stores := [storing 7] }).me.relReady 0 = false ∧
    (start.reg 1).toNat % 2 ^ 13 = 0 ∧ ((start.modStrand 0 1 fun t => { t with state := .wait }).here.strand 1).state = .wait ∧
    (start.core 0).window = [] := by
  decide +kernel

/-- A strand that has posted and one that has not, with banks and without, an idle strand and a running one, under a pre-emption and not;
events that are pending and not; a timer about to expire. -/
theorem witness_StrandsAndEvents :
    start.me.state = .run ∧ (start.strand 0 0).state ≠ .idle ∧ (start.strand 0 3).state = .idle ∧ start.here.window = [] ∧
    (posting.modCore 0 fun x => { x with window := [posting.taskOf ⟨6, 0, 0, 0, 5, 1⟩ .mmz] }).here.window.map (·.owner) = [.strand 0] ∧
    (start.modCore 0 fun x => { x with held := 1 }).here.held.getLsbD 0 = true ∧ start.me.fatal 9 = false ∧ start.preempting = false ∧
    ({ start with parts := [{ onePart with preempt := some 0 }] }.modCore 0 fun x => { x with partno := 1 }).preempting = true ∧
    (start.modMe fun t => { t with sys := { t.sys with super := true } }).me.sys.super = true ∧
    ((withRegs [(1, 0x8000)] start).reg 1).getLsbD 15 = true ∧ start.me.sys.evpend.getLsbD 15 = false ∧
    (start.modMe fun t => { t with sys := { t.sys with evpend := 0x8000 } }).me.sys.evpend.getLsbD 15 = true ∧
    start.me.sys.trctl.getLsbD 5 = false ∧
    ((start.modStrand 0 3 fun t => { t with sys := { t.sys with timer := 1 } }).strand 0 3).sys.timer = 1 := by
  decide +kernel

/-- Banks free, held and too many; pages of MEM.COMMIT: misaligned, outside the paged range, without a right, committed, not committed with
an empty pool and with a granule. -/
theorem witness_BanksAndPages :
    (0 + 512 ≤ 512 ∧ ∀ i, i < 512 → start.here.held.getLsbD (0 + i) = false) ∧
    (start.modCore 0 fun x => { x with held := BitVec.allOnes 512 }).here.held.getLsbD 511 = true ∧
    (let s := { paged [(0, leaf 0), (1, leaf 64), (2, leaf 0 - 8), (3, leaf 0 - 32)] with parts := [{ onePart with no := 0 }] }
     (0x10000 : Nat) % 2 ^ 16 = 0 ∧ inPaged 0x10000 = true ∧ inPaged own.toNat = false ∧
     let l0 : Leaf := ⟨leaf 0, 3, 0, 0x30000⟩
     let l1 : Leaf := ⟨leaf 64, 3, 0, 0x30008⟩
     let l2 : Leaf := ⟨leaf 0 - 8, 3, 0, 0x30010⟩
     let l3 : Leaf := ⟨leaf 0 - 32, 3, 0, 0x30018⟩
     (s.walkLeaf 0 0 0 = .leaf l0 ∧ leafMode l0.bits ≤ 1 ∧ leafW l0.bits = true ∧ leafU l0.bits = true ∧ l0.level ≠ 2 ∧
       leafC l0.bits = false ∧ l0.place + 8 ≤ 0x80000 ∧ s.stage2 0 l0.partno 0x80000 = .pa 0x80000 ∧ s.touchesPort l0.place 8 = false) ∧
     (s.walkLeaf 0 0 0x10000 = .leaf l1 ∧ leafC l1.bits = true ∧ leafW l1.bits = true ∧ leafU l1.bits = true) ∧
     (s.walkLeaf 0 0 0x20000 = .leaf l2 ∧ leafW l2.bits = false) ∧ (s.walkLeaf 0 0 0x30000 = .leaf l3 ∧ leafU l3.bits = false) ∧
     s.me.sys.super = false ∧ s.part s.here.partno = some { onePart with no := 0 } ∧ Memory.wf s.mem = true ∧ s.me.fatal 5 = false ∧
     (s.modPart 0 fun p => { p with tpool := [] }).part 0 = some { onePart with no := 0, tpool := [] }) := by
  decide +kernel

/-- A launch whose safe-point table names the address 0x10000. -/
def onelaunch : Launch :=
  { id := 0, partno := 1, queue := 0, packet := 0, cores := [0], ncores := 1, entry := 0, args := 0, space := 0, gp := 0, stkbase := 0,
    stksz := 0, sptab := [(0x10000, ⟨2, 3⟩)], cktab := [], started := true, failure := none, stopping := false, home := none, away := [] }

/-- A strand of partition 1 at a safe point that a breakpoint names. -/
def stopping : State :=
  let s := { start with parts := [{ onePart with breakpoints := [(4, ⟨⟨2, 3⟩, 1, [0], 0⟩)] }], launches := [onelaunch] }
  (s.modMe fun t => { t with pc := 0x10000, launch := some 0 }).modCore 0 fun x => { x with partno := 1 }

/-- A strand of a launch whose trap is fatal. -/
theorem witness_Traps_launch :
    let s := stopping.modMe fun t => { t with sys := { t.sys with tvec := 0 } }
    s.me.fatal 7 = true ∧ ∃ l ∈ s.launches, some l.id = s.me.launch := by
  decide +kernel

/-- Marks that are written and marks that are not; a strand that stops at a breakpoint, one that stands at a stop, and one whose sample
period has just passed. -/
theorem witness_TraceAndDebug :
    (let s := (paged [(1, leaf 64)]).modMe fun t => { t with sys := { t.sys with trctl := 0xB, trbase := 0x10000 } }
     s.me.sys.trctl.getLsbD 3 = true ∧ s.me.sys.trctl.getLsbD 0 = true ∧ s.me.sys.trctl.getLsbD 1 = true ∧ s.me.tr.full = false ∧
     s.me.tr.dropped = 0 ∧ s.here.sameRing 0 0 = true ∧ s.slotPlace 0 0 = .to (.here 0x40000) 0 ∧ Memory.wf s.mem = true ∧ s.touchesPort 0x40000 32 = false) ∧
    start.me.sys.trctl.getLsbD 0 = false ∧
    (stopping.safePointAt 0 0 = some ⟨2, 3⟩ ∧ (stopping.part (stopping.core 0).partno).isSome = true ∧ stopping.me.state = .run ∧
      stopping.me.hold ≤ stopping.now ∧ stopping.me.tr.passed = false ∧ stopping.stopAt 0 0 ⟨2, 3⟩ = some (1, 4) ∧ stopping.me.tr.sampleDue = false ∧
      trClass stopping.me.sys.trctl 8 = false ∧ Memory.wf stopping.mem = true ∧
      stopping.touchesPort (onePart.recordAt 0) 768 = false) ∧
    (let s := stopping.modMe fun t => { t with state := .wait, tr := { t.tr with debugStop := some (1, 4), stopPend := 2 } }
     s.me.tr.debugStop.isSome = true ∧ s.me.state = .wait ∧ (s.part (s.core 0).partno).isSome = true ∧ s.me.tr.stopPend.getLsbD 1 = true) ∧
    (let t := start.modMe fun t => { t with sys := { t.sys with trctl := 0xFFF000 }, tr := { t.tr with sampleCycles := 2 ^ 40 } }
     trPeriod t.me.sys.trctl ≠ 0 ∧ trPeriod t.me.sys.trctl ≤ t.me.tr.sampleCycles) := by
  decide +kernel

/-- A strand whose program counter stands on a page that it may fetch from, where two words lie. -/
def fetching (w0 w1 : Nat) : State :=
  let s := (((paged [(1, leaf (64 + 16))]).writeNat 0x40000 4 w0).writeNat 0x40004 4 w1).modMe fun t => { t with pc := 0x10000 }
  { s with turn := some (.strand 0 0) }

/-- For StepRunsStrand, StepRunsOthers, ControlRoundTrip, VectorRoundTrip, DecodedIsEncoding and StepKeepsMemory: a strand that fetches a one-word form, a two-word form or a word that encodes nothing, with its registers pending and not; and the turn of a strand that is not first; a well-formed instruction of either kind; and a turn of each kind. -/
theorem witness_Steps :
    (∀ s ∈ [fetching 0x90B40000 0, fetching 0x08A00001 7, fetching 0 0],
      s.turn = some (.strand 0 0) ∧ s.power.on = true ∧ s.softErrors = [] ∧ s.me.state = .run ∧ s.me.free s.now = true ∧ s.firstInTurn 0 0 = true ∧
      s.me.deferred = [] ∧ s.fetchHeld 0 0 = false ∧ (s.core 0).icache = [] ∧ s.translate 0 0 false 0 accFetch 0x10000 = .to (.here 0x40000) 0 ∧
      s.translate 0 0 false 0 accFetch 0x10004 = .to (.here 0x40004) 0 ∧ s.poisoned 0x40000 8 = false ∧ s.safePointAt 0 0 = none) ∧
    (let place (j : Nat) : Nat := (j + 4 - 1 - ((fetching 0 0).core 0).lastStrand % 4) % 4
     ((fetching 0 0).strand 0 0).free 0 = true ∧ place 0 < place 1) ∧
    (fetching 0x90B40000 0).blockedOn (.tkWait 5 20) = none ∧
    ((fetching 0x90B40000 0).modMe fun t => t.mark 5 .latency).blockedOn (.tkWait 5 20) = some 5 ∧
    decodeControl ((fetching 0x90B40000 0).readNat 0x40000 4) 0 = .instr (.tkWait 5 20) ∧ isLongWord 0x90B40000 = false ∧
    decodeControl 0 0 = .illegal .major ∧ (Instr.tkWait 5 20).wellFormed = true ∧ (Instr.tkWait 5 20).isVector = false ∧
    (Instr.vand 1 2 3 2 false).wellFormed = true ∧ (Instr.vand 1 2 3 2 false).isVector = true ∧ Memory.wf State.reset.mem = true := by
  decide +kernel

/-- A core whose context 0 runs a VRUN over 4,096 bytes of the own scratchpad, which it may read and write. -/
def running : State :=
  let u : Task := { newTask 5 (.strand 0) 6 0 (.vrun 0 0)
    [⟨0, BitVec.ofNat 192 (2 ^ 168 + 4096 * 2 ^ 64 + 2 ^ 80 + 2 ^ 96 + 2 ^ 112), []⟩,
     ⟨4, BitVec.ofNat 192 (3 * 2 ^ 168 + 4096 * 2 ^ 64 + 2 ^ 80 + 2 ^ 96 + 2 ^ 112), []⟩] start.meArriver 1 with
    state := .issued, inst := some 0 }
  let s := start.modCore 0 fun x => { x with bufs := [(0, ⟨own.toNat, 1, 2, [4096], [0], 0, [], 0, 0, 0, 0, 0, none, [], 0⟩)], window := [u] }
  s.modCtx fun y => { y with task := some 5, a := y.a.set 1 own }

/-- For StepRunsOthers: a context that fetches a word from a page that it may fetch from. -/
theorem witness_Steps_context :
    let p := (paged [(1, leaf (64 + 16))]).writeNat 0x40000 8 (Instr.vand 1 2 3 2 false).encode
    let s := { (p.modCore 0 fun x => { x with window := running.here.window }).modCtx fun y => { y with task := some 5, pc := 0x10000 } with
      turn := some (.ctx 0 0) }
    s.power.on = true ∧ s.softErrors = [] ∧ (∃ t ∈ s.here.window, s.ctxTask = some t ∧ t.state = .issued ∧ t.ring = 0) ∧
    s.ctxInTurn 0 0 = true ∧ s.ctx.code = [] ∧ s.translate 0 0 false 1 accFetch s.ctx.pc.toNat = .to (.here 0x40000) 0 ∧
    s.poisoned 0x40000 8 = false ∧ decodeVector (s.readNat 0x40000 8) = .instr (.vand 1 2 3 2 false) := by
  decide +kernel

/-- The context with masks on its stack, the top first. -/
def masked (ms : List (BitVec 1024)) : State := running.modCtx fun y => { y with masks := ms }

/-- For the statements about vector members (VectorIntegerLanes to ContextControl): a context that runs a VRUN, with no mask, one, two and sixteen; accesses that pass their checks at both ends of the operand, and one
past it that does not. -/
theorem witness_Vector :
    running.ctx.masks = [] ∧ (running.ctx.activity false).isSome = true ∧ ((masked [5]).ctx.activity true).isSome = true ∧
    (masked [5]).ctx.masks = 5 :: [] ∧ (masked [5, 3]).ctx.masks = 5 :: 3 :: [] ∧ (masked (List.replicate 15 5)).ctx.masks.length < 16 ∧
    16 ≤ (masked (List.replicate 16 5)).ctx.masks.length ∧ (masked [5]).ctx.masks.length < 2 ∧
    (∃ u ∈ running.here.window, running.ctxTask = some u ∧ running.softErrors = [] ∧
      (∀ st ∈ [true, false],
        running.laneFault st 0 4 4 ((List.range 128).map fun i => (true, own.toNat + 4 * i)) u = none ∧
        running.laneFault st 0 128 128 [(true, own.toNat + 0xF80)] u = none ∧
        running.laneFault st 0 8 8 [(true, own.toNat + 0x1000)] u = some 14) ∧
      u.cmd = .vrun 0 0 ∧ u.bar = none ∧ u.owner = .strand 0 ∧ u.tok ≠ 0) ∧
    Memory.wf running.mem = true ∧ running.touchesPort pad 512 = false := by
  decide +kernel

/-- Core 0 of `posting` with one task in its window. -/
def tasked (u : Task) : State := posting.modCore 0 fun x => { x with window := [u] }

/-- A task that clears 8 × 8 accumulators, one that converts rows, one that copies a box, and one that runs a program. -/
def mmzTask : Task := posting.taskOf ⟨6, 1, 0, 0, 5, 1⟩ .mmz
def rowTask : Task := posting.taskOf ⟨6, 0, 0, 1, 4, 1⟩ (.row ⟨0, 8, 8, 0, false, 0, false⟩ 0)
def cpTask : Task := posting.taskOf ⟨6, 0, 0, 0, 4, 1⟩ (.cp own none)
def vrunTask : Task := posting.taskOf ⟨6, 0, 0, 1, 4, 1⟩ (.vrun 0x10000 7)

/-- Core 0 with a stamped buffer whose stamp is 5, and a task that waits for stamp n of it. -/
def stamped (policy n : Nat) : State :=
  let b : Buf := { box own.toNat 8 8 8 32 with
    policy := policy, stale := 9, tile := [8, 8], tiles := [⟨[⟨0, 0, .valid, none, [], 5, true⟩], false, none⟩] }
  let s := posting.modCore 0 fun x => { x with bufs := [(0, b)] }
  let u := s.taskOf ⟨6, 0, 0, 0, 0, 0⟩ .xp
  let u := { u with ops := [⟨0, region 1 0 8 + BitVec.ofNat 192 (2 ^ 170 + n * 2 ^ 128), []⟩], staleCount := 9 }
  s.modCore 0 fun x => { x with window := [u] }

/-- A strand that waits for an entry, with none before it in turn; tasks posted with every wait met, with no report to come, failed by a
stamp or a barrier, ready for long, and doomed; one that waits for its stamps alone and has reached its stale limit. -/
theorem witness_TasksAndEngines :
    (let s := start.modStrand 0 3 fun t => { t with state := .wait, reason := 2 }
     (s.core 0).granted = [] ∧ (s.core 0).lastGrant = 4 ∧ (∀ m, m < 3 → (s.core 0).eligible m = false) ∧ (s.core 0).eligible 3 = true) ∧
    (let u := { mmzTask with stamped := some 0 }
     let s := tasked u
     (s.core 0).task 0 = some u ∧ u.state = .posted ∧ u.doomed = false ∧ s.barrierWait u = some 0 ∧
     (s.core 0).reportIn u = some true ∧ s.gridHeld 0 u = false ∧ u.deps = [] ∧ u.tokWait = none ∧ u.cls ≠ 0) ∧
    (let u := { posting.taskOf ⟨6, 0, 0, 0, 0, 0⟩ (.rstat 9) with stamped := some 0 }
     (tasked u).here.reportIn u = none) ∧
    (let u := { mmzTask with stamped := some 0, barWait := some (pad, 1, some 12) }
     (tasked u).barrierWait u = some 12) ∧
    (let u := { mmzTask with state := .ready, age := 2048 }
     (tasked u).here.task 0 = some u) ∧
    (let s := stamped 2 6
     s.here.window.map (fun u => (s.onlyStamps 0 u, s.here.staleLimit u false, decide (9 ≤ u.staleCount))) = [(true, some 9, true)]) := by
  decide +kernel

/-- Free instances with a chosen task, whose issue is refused for banks that it does not hold, and is not. -/
theorem witness_TasksAndEngines_issue :
    (∀ u ∈ [mmzTask, rowTask, vrunTask], let u := { u with state := .ready }
     (tasked u).here.freeUnit u.cmd.cls = some 0 ∧ (tasked u).here.chosen u.cmd.cls = some u ∧ u.waited = 0) ∧
    (let u := { mmzTask with state := .ready }
     let u' := { u with state := .issued, inst := some 0 }
     (((tasked u).here.modTask 0 fun _ => u').issueWrites u').issueCheck 0 u' = some 5 ∧
     let s := (tasked u).modCore 0 fun x => { x with held := BitVec.allOnes 512 }
     ((s.here.modTask 0 fun _ => u').issueWrites u').issueCheck 0 u' = none) ∧
    (let u := { vrunTask with state := .ready }
     let u' := { u with state := .issued, inst := some 0 }
     (((tasked u).here.modTask 0 fun _ => u').issueWrites u').issueCheck 0 u' = none) ∧
    tyInt 3 = true := by
  decide +kernel

/-- The facts of PlacesFree in a form that can be computed. -/
theorem placesFree {s : State} {c : Nat} {u : Task} (ps : List (Nat × Nat))
    (h : (s.results c u).filterMap (fun r => (s.core c).place c (u.op 4) r.1.1 r.1.2) = ps)
    (ha : ((s.results c u).map fun r => (s.core c).place c (u.op 4) r.1.1 r.1.2).Pairwise fun x y => ∀ p ∈ x, ∀ q ∈ y,
      2 * p.1 + p.2 + ((s.core c).opBuf (u.op 4)).esize4 ≤ 2 * q.1 + q.2 ∨ 2 * q.1 + q.2 + ((s.core c).opBuf (u.op 4)).esize4 ≤ 2 * p.1 + p.2)
    (hk : ∀ k ∈ (s.core c).placesOf c (u.op 4), s.frozenAt (.here k) = false ∧
      s.tagAt (.here k) (elemBytes ((s.core c).opBuf (u.op 4)).esize4) = false)
    (hp : ∀ p ∈ ps, s.touchesPort p.1 (elemBytes ((s.core c).opBuf (u.op 4)).esize4) = false) : PlacesFree s c u where
  apart := (List.pairwise_map.mp ha).imp fun h p q hp hq => h p hp q hq
  thawed k hk' := (hk k hk').1
  untagged k hk' := (hk k hk').2
  noPort r hr p hp' := hp p (h ▸ List.mem_filterMap.mpr ⟨r, hr, hp'⟩)

/-- An issued MMZ whose places are free, and whose operand is not empty and has 32-bit elements; a RSTAT whose report has come, and one
whose report is lost. -/
theorem witness_TaskComplete :
    let u := { mmzTask with state := .issued, inst := some 0 }
    let s := tasked u
    s.here.task u.seq = some u ∧ PlacesFree s 0 u ∧ u.cmd.cls = .mat ∧ u.ops.any s.here.opEmpty = false ∧ s.softErrors = [] ∧
    Memory.wf s.mem = true ∧ trClass (s.strand 0 u.ring).sys.trctl 7 = false ∧ (s.here.opBuf (u.op 4)).esize4 = 8 ∧
    u.readOps.any (s.opPoisoned 0) = false ∧
    (let v := { posting.taskOf ⟨6, 0, 0, 0, 0, 0⟩ (.rstat 7) with state := .issued, report := some 0 }
     let w := (tasked v).modCore 0 fun x => { x with reports := [⟨7, 0, some 0⟩] }
     w.here.reportOf v 7 = some ⟨7, 0, some 0⟩ ∧ w.here.reportOf { v with report := some 1 } 7 = none) := by
  refine ⟨?_, placesFree _ rfl ?_ ?_ ?_, ?_⟩ <;> decide +kernel

/-- An image of one data section of 8 bytes. -/
def image : List Byte :=
  leBytes 64 (0x024F5A47 + 2 ^ 32 + 2 * 2 ^ 64 + 2 * 2 ^ 80 + 2 ^ 96 + 64 * 2 ^ 128 + 160 * 2 ^ 192 + 184 * 2 ^ 256 + 0xFFFFFFFF * 2 ^ 288) ++
  leBytes 48 0 ++ leBytes 48 (2 + 3 * 2 ^ 8 + 8 * 2 ^ 128 + 192 * 2 ^ 192) ++ leBytes 24 0 ++ leBytes 8 0 ++ leBytes 8 0x1122334455667788

/-- A space of partition 0, whose record stands in the package, with a page that may be written and one that may not. -/
def housed : State := { paged [(1, leaf 64), (2, leaf 64 - 8 + 2 ^ 12)] with parts := [{ onePart with no := 0 }] }

/-- Where the image is loaded: its stacks are left unmapped. -/
def spot : LoadPlace := ⟨0x10000, 0x20000, 0x90000, 0x100000, 0x20000⟩

/-- A file that cannot be read, an image in which every check holds, and one that breaks the null section. -/
theorem witness_Loading :
    (readable [] = false ∧ headerOk [] = false ∧ readable image = true ∧ tableFails image = [] ∧ tableFails (image.set 64 1) ≠ []) ∧
    housed.spaceEntry 0 = some (0, 0x10000) ∧ (housed.part 0).isSome = true ∧ housed.awaits 0 (.load 0) = false ∧
    housed.loadFails 0 0 spot (image.set 64 1) [] ≠ [] := by
  decide +kernel

/-- The image is placed: its section on one page and its tables on another. -/
theorem witness_Loading_placed :
    let x : Sect := ⟨1, 2, 3, 0, 8, 192, 0, 0, 2 + 3 * 2 ^ 8 + 8 * 2 ^ 128 + 192 * 2 ^ 192⟩
    let base := baseOf image spot
    let tables := placedPoints image base ++ placedCkpts image base
    housed.loadFails 0 0 spot image tables = [] ∧ (fileSects image).filter Sect.content = [x] ∧ Memory.wf housed.mem = true ∧
    placedSect image base x ≠ [] ∧ (base + x.addr) / 65536 = (base + x.addr + (placedSect image base x).length - 1) / 65536 ∧
    housed.loadPlace 0 (base + x.addr) (fun _ => true) = some (.here 0x40000) ∧
    spot.tables / 65536 = (spot.tables + tables.length - 1) / 65536 ∧
    housed.loadPlace 0 spot.tables (fun _ => true) = some (.here 0x50000) := by
  decide +kernel

/-- A launch that may start, alone and as a part of another package's; one whose strands have ended, with a package yet to answer. -/
theorem witness_Launches :
    let l := { onelaunch with started := false }
    let s := { start with parts := [onePart], launches := [l, { onelaunch with id := 1, away := [(3, .asked)] }] }
    (s.launches.find? (·.id == 0) = some l ∧ s.launchRuns l = true ∧ l.home = none ∧ l.away = [] ∧ s.launchCores l = [0]) ∧
    (∀ k, k < 4 → (State.reset.strand 0 k).state = .idle) ∧
    (∀ x ∈ s.launches, x.id ≠ l.id → x.home.isSome = true → x.started = false → ∀ a ∈ x.away, a.2 ≠ .ready) ∧
    (∀ k, k < 4 → (State.reset.strand 0 k).launch ≠ some 0 ∧ (State.reset.strand 0 k).quiet = true) ∧ s.reqs = [] := by
  decide +kernel

/-- A part of another package's launch, asked to start. -/
theorem witness_Launches_guest :
    let g : GuestLaunch := ⟨3, 9, 1, [0], 0, 0, 0, 0, 0, 0, 0, 0⟩
    let l := { onelaunch with started := false, home := some (3, 9), away := [(3, .asked)] }
    let s := { start with parts := [onePart], launches := [l] }
    g.pkg = 3 ∧ g.id = 9 ∧ s.guest 3 9 = some l ∧ s.launchRuns l = true ∧ l.away = [(g.pkg, .asked)] := by
  decide +kernel

/-- A queue of partition 0 whose next packet is given, and packets of it in flight. -/
def queued (bits : Nat) (ps : List Packet) : State :=
  let s := housed.writeNat 0xA0040 64 bits
  { s with queues := [⟨0, ⟨1, 0xA0000, 0xB0000, 6, 0, 1⟩, 1024, 0⟩], packets := ps }

/-- A packet of the queue that has not started. -/
def packet (bits : Nat) : Packet :=
  { queue := 0, index := 0, bits := BitVec.ofNat 512 bits, cores := [], started := false, done := 0, stage := 0, spaceOf := (0, 0x10000),
    launch := none, status := none, event := none, fault := none }

theorem witness_QueuesAndPackets :
    (Memory.wf housed.mem = true ∧ housed.softErrors = [] ∧ housed.queue 1023 = none ∧ housed.touchesPort 0xA0000 (64 + 64 * 2 ^ 16) = false ∧
      housed.touchesPort (housed.queueEntryKey 1023) 64 = false) ∧
    (let q : Queue := ⟨0, ⟨1, 0xA0000, 0xB0000, 6, 0, 1⟩, 1024, 0⟩
     (queued 1 []).queue 0 = some q ∧ q.entry.wdog * 1024 ≤ q.budget ∧ ({ onePart with no := 0 } : Partition).preempt = none ∧
     (∀ b ∈ [1, 1 + 1 * 2 ^ 18], let s := (queued b []).takeNotify 0
       (s.byte (q.slotAt 0)).toNat = packetSeq 6 (s.readNat 0xA0008 8) ∧ s.poisoned (q.slotAt 0) 64 = false ∧
       (let t := (s.hostFence.unitNat 0xA0008 8 1).modQueue 0 fun q => { q with unwritten := 0 }
        t.packetCheck q (s.readNat (q.slotAt 0) 64) = (if b = 1 then .inr [] else .inl 1) ∧ t.spaceEntry 0 = some (0, 0x10000)) ∧
       pktCrec b = false)) ∧
    (∀ k ∈ [0, 1, 2, 3], let p := packet (1 + k * 2 ^ 8)
     let s := queued 1 [p]
     s.packets[0]? = some p ∧ pktKind p.bits.toNat = k ∧ p.status = none ∧ p.fault = none ∧ p.event = none ∧ s.mayStart 0 p = true ∧
     (s.remap.filter fun r => r.space == 0 && r.vec == 0) = []) := by
  decide +kernel

/-- A package whose link to package 1 of its group is up. -/
def joined (s : State) : State :=
  { s with marten := { s.marten with values := { s.marten.values with ngroups := 1 } },
           links := s.links.set (localLink 0 1) { Link.reset with st := .up } }

/-- A COPY here, one from a page of package 1 and one that awaits its bytes; an event with a connection, and a packet that has ended. -/
theorem witness_QueuesAndPackets_copies :
    (let x := 1 + 2 * 2 ^ 8 + 0x10000 * 2 ^ 128 + 0x18000 * 2 ^ 192 + 16 * 2 ^ 256
     let s := (queued 1 [packet x]).underSpace 0 (0, 0x10000)
     bitsOf x 295 256 = 16 ∧ s.pageChecks 256 0 true 4 accRead (pagesOf 0x10000 16) = .parts [⟨0x10000, 16, some (.here 0x40000), 0⟩] ∧
     s.pageChecks 256 0 true 4 accWrite (pagesOf 0x18000 16) = .parts [⟨0x18000, 16, some (.here 0x48000), 0⟩] ∧
     s.touchesPort 0x48000 16 = false ∧ s.awaits 256 (.packet 0 0) = false) ∧
    (let x := 1 + 2 * 2 ^ 8 + 0x30000 * 2 ^ 128 + 0x18000 * 2 ^ 192 + 16 * 2 ^ 256
     let t := joined (queued 1 [packet x])
     let s := { t with mem := Memory.setBytes t.mem 0x30018 (leBytes 8 (leaf 64 + 2 * 2 ^ 7 + 2 ^ 44)), parts := [{ onePart with no := 0, packages := [0, 1] }] }
     let p : PagePart := ⟨0x30000, 16, some (.peer 1 0x40000), 2⟩
     (s.underSpace 0 (0, 0x10000)).pageChecks 256 0 true 4 accRead (pagesOf 0x30000 16) = .parts [p] ∧ awayParts [p] ≠ [] ∧
     ({ s with reqs := [⟨3, 256, 0, .copyRead, .peer 1 0x40000, ⟨0, 0x30000, 16, .store 0 false⟩, 0, 0, 0, false, .packet 0 0, []⟩] } : State).awaits 256
       (.packet 0 0) = true) ∧
    (let s := { queued 1 [packet (1 + 3 * 2 ^ 8)] with
       remap := [⟨0, 0, 0, 5, 1⟩], conns := [(5, ⟨.open, 1, 2, 0, 0, 9, [], [], 0, none, 8, none⟩)] }
     (s.remap.filter fun r => r.space == 0 && r.vec == 0) = [⟨0, 0, 0, 5, 1⟩] ∧ (s.conn 5).map (·.st) = some .open) ∧
    (let x := 1 + 2 ^ 16 + 0x10010 * 2 ^ 64
     pktCrec x = true ∧ pktCaddr x % 16 = 0 ∧ (housed.underSpace 0 (0, 0x10000)).translate 256 0 true 0 accWrite (pktCaddr x) = .to (.here 0x40010) 0 ∧
     (packet x).stage ≠ 3) := by
  decide +kernel

/-- A package that has booted, with its rings, notify pages, link records and three spaces' worth of pages. -/
def booted : State :=
  { housed with marten := { housed.marten with
      bootStep := 8,
      values := { housed.marten.values with eqtPort := 7000, faultRings := [0xC0000, 0x100000, 0x140000, 0x180000], notifyPages := [0xD0000],
                                            notifySummary := 0xE0000, linkRecords := 0xF0000, ngroups := 1 } } }

/-- A connection of partition 0 with one message held in its turn, and a frame that brings a message. -/
def chan (h : BitVec 256) (p : List Byte) : Conn := ⟨.open, 1, 2, 0, 0, 9, [(0, h, p)], [⟨8, 0, [], 0, 15⟩], 0, some 5, 8, none⟩
def frame (size : Nat) (h : BitVec 256) (p : List Byte) : Frame := ⟨size, true, true, true, false, 7000, 1, 2, h, p⟩
def linked (c : Conn) : State := { booted with conns := [(5, c)], now := 2 ^ 40 }

/-- A load of the strand that moves, into s6, at a place elsewhere. -/
def asking (kind : ReqKind) (dest : Dest) : Req :=
  { id := 3, core := 0, strand := 0, kind := kind, dest := dest, acc := ⟨0, 0x10000, 8, .load 6 true⟩, seq := 0, resends := 7, sentAt := 0,
    cached := false, user := .strand, own := [] }

/-- Frames at the limit of size and beyond it, of a known and of an unknown sender, good and bad; messages in and out of the window; acknowledged
and not; a message whose time has passed, with 15 resends and with 16. -/
theorem witness_QueueTransport :
    (let h := eqtHdr 3 0x10000 0 8 0 0 0
     let c := chan 0 []
     let s := linked c
     s.conn 5 = some c ∧ 7 ≤ s.marten.bootStep ∧ (frame 9216 h []).size ≤ 9216 ∧ 9216 < (frame 9217 h []).size ∧
     (s.conns.find? fun x => x.2.st == .open && x.2.ip == 1 && x.2.port == 2) = some (5, c) ∧
     (s.conns.find? fun x => x.2.st == .open && x.2.ip == 9 && x.2.port == 2) = none ∧ eqtOk h [] = true ∧ eqtOk 0 [] = false ∧
     eqtOp h = 3 ∧ (eqtSeq (eqtNumber h 1023 0) - c.rxNext).toNat < 1024 ∧ (∀ m ∈ c.rxHeld, m.1 ≠ eqtSeq (eqtNumber h 1023 0)) ∧
     c.st = .open ∧ c.unacked.length ≤ 1024 ∧ ackCovers 9 8 = true ∧ (∀ v ∈ c.unacked, ackCovers 8 v.seq = false) ∧
     (let bits := fun i => 2 / 2 ^ i % 2 == 1
      (c.unacked.filter fun v => (List.range 64).any fun i => v.seq == 8 + BitVec.ofNat 32 i && !bits i &&
        (List.range 64).any fun j => decide (i < j) && bits j) = [⟨8, 0, [], 0, 15⟩]) ∧
     (c.unacked.take 1024).find? (·.seq == 8) = some ⟨8, 0, [], 0, 15⟩ ∧ s.micros c.rto ≤ s.now - 0 ∧ c.ackDue = some 5 ∧ 5 ≤ s.now) := by
  decide +kernel

/-- Messages of each kind in their turn whose pages pass their checks, and one that is refused; a queue of the connection's partition and one
of another; a notify line; an event port with a good and a bad word; a request that a host answers. -/
theorem witness_HostMessages :
    (∀ p ∈ ([(1, 8, 0, List.replicate 8 1), (3, 0, 8, []), (2, 8, 0, List.replicate 8 1), (4, 0, 0, [])] : List (Nat × Nat × Nat × List Byte)),
      let h := eqtHdr p.1 0x10000 p.2.1 p.2.2.1 0 0 0
      let c := chan h p.2.2.2
      (linked c).conn 5 = some c ∧ c.st = .open ∧ c.fault = none ∧ eqtOp h = p.1 ∧ (c.rxNext, h, p.2.2.2) ∈ c.rxHeld ∧
      c.unacked.length < 1024 ∧ c.sinceAck < 63 ∧ (linked c).awaits 0 (.host 5) = false) ∧
    (let h := eqtHdr 1 0x10000 8 8 0 0 0
     let c := chan h []
     Memory.wf (linked c).mem = true ∧ (linked c).softErrors = [] ∧
     (∀ acc ∈ [accRead, accWrite, accAtomic], (linked c).hostCheck c h acc 8 = .parts [⟨0x10000, 8, some (.here 0x40000), 0⟩]) ∧
     (linked c).touchesPort 0x40000 8 = false ∧ (linked c).poisoned 0x40000 8 = false ∧
     (linked c).hostCheck c (eqtHdr 1 0x20000 8 0 0 0 0) accWrite 8 = .refuse 5) ∧
    (let s := { booted with queues := [⟨0, ⟨1, 0xA0000, 0, 6, 0, 0⟩, 0, 0⟩, ⟨63, ⟨1, 0xA8000, 0, 6, 1, 0⟩, 0, 0⟩], notified := [0xD0FC0] }
     s.queue 0 = some ⟨0, ⟨1, 0xA0000, 0, 6, 0, 0⟩, 0, 0⟩ ∧ s.queue 63 = some ⟨63, ⟨1, 0xA8000, 0, 6, 1, 0⟩, 0, 0⟩ ∧ 0xD0FC0 ∈ s.notified ∧
     s.notifyLines 0xE0000 8 = [] ∧ s.marten.values.notifyPages[0]? = some 0xD0000 ∧ 64 * 0 + (0xD0FC0 - 0xD0000) / 64 = 63 ∧ s.touchesPort 0xE0000 8 = false) ∧
    (let good := (eqtHdr 5 7 0 0 0 1 2).toNat + 5 * 2 ^ 256 + 2 ^ 264
     let s := { linked (chan 0 []) with mem := Memory.setBytes housed.mem 0xC4000 (leBytes 64 good) }
     3 < s.marten.values.faultRings.length ∧ s.ports = [] ∧ bitsOf (s.readNat (s.port 0) 64) 264 264 = 1 ∧
     s.portCheck (s.readNat (s.port 0) 64) 5 = none ∧ s.portCheck (good + 1 + 2 ^ 104) 5 = some 1) ∧
    (let r := asking .rdmaRead (.host 1 0)
     let s := ({ booted with reqs := [r] }).modMe fun t => { t with pend := [⟨6, .request 3⟩] }
     s.reqs[0]? = some r ∧ r.endpoint = some 1 ∧ r.user = .strand ∧ (s.strand 0 0).stores = [] ∧ r.acc.op = .load 6 true ∧
     s.reqs.take 0 = [] ∧ (s.reqs.map (·.id)).Nodup ∧ r.reg.isSome = true) := by
  decide +kernel

/-- A package with link 3 in a state, a core's copy not bound to it, and a request to package 1. -/
def wired (x : Link) : State :=
  let r := asking .load (.peer 1 0x10000)
  { (booted.modMe fun t => { t with pend := [⟨6, .request 3⟩] }) with links := booted.links.set 3 x, reqs := [r], now := 2 ^ 40 }

theorem witness_Links :
    (∀ st ∈ [LinkState.up, .degraded, .down, .training, .disabled],
      let x := { Link.reset with st := st, inRow := 14, disabling := true }
      (wired x).links[3]? = some x ∧ x.inRow + 1 < 16 ∧ (wired x).boundTo 3 = false) ∧
    (trainedState 3 4 = .up ∧ trainedState 3 3 = .degraded ∧ trainedState 3 2 = .degraded ∧ trainedState 3 1 = .down ∧ trainedState 95 64 = .up ∧
      trainedState 95 56 = .degraded ∧ trainedState 95 55 = .down) ∧
    (let s := wired Link.reset
     let r := asking .load (.peer 1 0x10000)
     s.reqs[0]? = some r ∧ r.sentAt + s.micros 200 ≤ s.now ∧ r.resends < 8 ∧ 8 ≤ ({ r with resends := 8 } : Req).resends ∧ s.reachable 1 = false ∧
     r.user = .strand ∧ r.reg.isSome = true ∧ (s.strand 0 0).stores = [] ∧ Memory.wf s.mem = true ∧ 7 ≤ s.marten.bootStep) := by
  decide +kernel

/-- Results pending of every kind, a response to a request, an acknowledgement within its stream, and an arrival. -/
theorem witness_Returns :
    (∀ k ∈ [PendKind.latency, .divider, .load ⟨0, 0, 8, .load 6 true⟩ (.here pad) false, .request 3],
      (start.modMe fun t => { t with pend := [⟨6, k⟩] }).me.pendOf 6 = some ⟨6, k⟩) ∧
    (let r := asking .load (.peer 1 0x10000)
     ([r].find? fun r => r.id == 3 && (r.kind == .load || r.kind == .atomic)) = some r ∧ r.user = .strand ∧ start.me.stores = []) ∧
    (let b : Buffered := { storing 7 with dest := some (.peer 1 0), sent := true, streamSeq := 4 }
     let s := start.modMe fun t => { t with streams := [⟨1, 9, 3, 9, false⟩], stores := [b] }
     1 ≠ s.marten.values.pkg ∧ (s.me.stream 1).lost = false ∧ seqWithin (s.me.stream 1).acked (s.me.stream 1).sent 9 = true ∧
     seqWithin (s.me.stream 1).acked (s.me.stream 1).sent 4 = true ∧ (∀ b ∈ s.me.stores, b.sent = true) ∧ b.inStream 1 3 4 = true ∧
     b.acc.pc.toNat % 2 = 0 ∧ ([(4, 5)] : List (BitVec 32 × Nat)).find? (·.1 == b.streamSeq) = some (b.streamSeq, 5)) ∧
    (∀ e ∈ [none, some 4], let a : Arrival := ⟨1, 0, 0, start.meArriver, e, [], some (0, 0)⟩
     let s := { start with arrivals := [a] }
     s.arrivals[0]? = some a ∧ s.arrivals.take 0 = [] ∧ (s.bar 1 0 0).failed = none ∧ a.expect = e) ∧
    (start.mayArrive 5 256 = true ∧ (start.bar 5 (start.instOf 0 5) 3).failed = none) := by
  decide +kernel

/-- A fault of a task and one of a fetch, recorded and not, with dispositions RETRY and another; a page to be moved and one on its way; an
invalidation of each kind. -/
def faulted (h : Holder) (disp : Nat) (rec_ : Option Nat) : OpenFault := ⟨2, 0, h, 0x20000, 0, 0, 0, 1, 1, 1, 3, rec_, disp⟩

theorem witness_FaultRecords :
    (∀ n ∈ [255, 256], let f := faulted (.fetch 0 0) 0 none
     let s := { booted with faults := [f], fids := [n, 0, 0, 0] }
     Memory.wf s.mem = true ∧ f.die < 4 ∧ f.recNo = none ∧ s.faults[0]? = some f ∧ (∀ g ∈ s.faults, g.recNo ≠ some 0) ∧
     (s.faults.find? fun g => g.die == 0 && g.recNo.isNone) = some f) ∧
    (∀ d ∈ [1, 2], let f := faulted (.task 0 0) d (some 255)
     let s := { tasked { rowTask with state := .suspended, fault := some 2 } with faults := [f] }
     s.disposed 0 255 = some f ∧ f.isRetry = (d == 1) ∧ s.suspended 0 0 f = some { rowTask with state := .suspended, fault := some 2 }) ∧
    (∀ d ∈ [1, 2], let f := faulted (.fetch 0 0) d (some 255)
     let s := { start.modMe fun t => { t with state := .wait, reason := 9, obj := 0x20000 } with faults := [f] }
     s.disposed 0 255 = some f ∧ f.isRetry = (d == 1) ∧ s.standsAt 0 0 f = true ∧ s.me.sys.tvec ≠ 0 ∧ s.me.sys.intrap = false) := by
  decide +kernel

/-- A page that has been reached from here 257 times, whose home package 1 is. -/
def reached : State :=
  { paged [(1, leaf 64 + 4 * 2 ^ 7 + 2 ^ 44)] with parts := [{ onePart with no := 0, packages := [0, 1] }], migCounts := [⟨0, 1, 257⟩] }

/-- What every core of the package and the reset core have, every number has. -/
theorem everyCore {s : State} (p : Core → Prop) (h : ∀ i : Fin 260, p s.cores[i]) (h0 : p Core.reset) (c : Nat) : p (s.core c) := by
  unfold State.core
  split
  · exact h ⟨c, by assumption⟩
  · exact h0

theorem witness_MovesAndInvalidation :
    (let l : Leaf := ⟨leaf 64 + 4 * 2 ^ 7 + 2 ^ 44, 3, 0, 0x30008⟩
     reached.pageLeaf 0 1 = some l ∧ migThreshold (leafClass l.bits) = some 256 ∧ 256 < reached.migCount 0 1 ∧ reached.moving = [] ∧
     leafMode l.bits = 4 ∧ reached.stage2 0 l.partno 0x80000 = .pa 0x80000 ∧ 1 / 32 = reached.marten.values.pkg / 32 ∧
     (reached.part l.partno).map (·.packages) = some [0, 1] ∧
     (∀ m ∈ [⟨0, 1, 0x80000, 0, none⟩, ⟨0, 1, 0x80000, 1, some (2, 7)⟩],
       (({ reached with moving := [m] } : State).moving.find? fun x => x.space == 0 && x.page == 1 && x.mover == m.mover) = some m ∧
       m.granule % 65536 = 0 ∧ m.granule < 2 ^ 48) ∧
     (List.replicate 65536 (0 : Byte)).length = 65536 ∧ Memory.wf reached.mem = true ∧ reached.faults = [] ∧ l.place + 8 ≤ 0x80000 ∧
     (∀ c, (reached.core c).traceHeld = []) ∧ reached.touchesPort 0x80000 65536 = false ∧ reached.touchesPort l.place 8 = false) ∧
    (∀ k ∈ [1, 2, 3], let s := { booted with mem := Memory.setBytes housed.mem 0xC40C0 (leBytes 8 (k * 2 ^ 36)) }
     Memory.wf s.mem = true ∧ bitsOf (s.readNat (s.invWord 0) 8) 63 38 = 0 ∧ s.reqs = [] ∧
     bitsOf (s.readNat (s.invWord 0) 8) 37 36 = k ∧ start.me.underWay = false ∧ (State.reset.strand 259 3).underWay = false) := by
  refine ⟨⟨?_, ?_, ?_, ?_, ?_, ?_, ?_, ?_, ?_, ?_, ?_, ?_, ?_, everyCore (fun x => x.traceHeld = []) ?_ rfl, ?_, ?_⟩, ?_⟩ <;> decide +kernel
/-- An image of a type whose key is the neutral point, for which 0 is a valid signature of every message: its signature has no other use here
than to be valid. -/
def firmware (ty : Nat) : FwImage :=
  ⟨BitVec.ofNat 2048 (0x57465A + ty * 2 ^ 24 + 7 * 2 ^ 32 + 3 * 2 ^ 64 + leNat (sha512 [1, 2, 3]) * 2 ^ 768 + 2 ^ 1280 + 2 ^ 1536), [1, 2, 3]⟩

/-- What a package finds whose images are all accepted. -/
def finds : BootInput :=
  { uds := [], rootHashes := [(BitVec.ofNat 512 (leNat (sha512 (1 :: List.replicate 31 0))), false)], minSvn := [7, 7, 7], copyA := firmware 1,
    copyB := firmware 1, service := firmware 2, phy := firmware 3, config := [], configSvn := 1, configOk := true,
    values := { BootValues.reset with notifyPages := List.replicate 16 0, faultRings := List.replicate 4 0, nspaces := 2 ^ 20, pkg := 32767,
                                      ngroups := 1024 },
    memoryOk := true, linkWidths := [], linkPeers := [], cabledPkg := 32767 }

theorem test_boot_accepts :
    BootInput.accepts finds 1 finds.copyA = true ∧ BootInput.accepts finds 2 finds.service = true ∧ BootInput.accepts finds 3 finds.phy = true ∧
    BootInput.accepts finds 2 finds.copyA = false := by
  decide +kernel

/-- Soft errors of both kinds, the forecast of a die, the highest clock, a hot die, a trip, caps at their ends, and boots that are accepted and
refused. -/
theorem witness_PowerAndMarten :
    ({ start with softErrors := [(8 * 5, true)] } : State).softErrors = [(40, true)] ∧ isDevice (64 * 5) = true ∧ reservedPa (64 * 5) = false ∧
    40 / 8 = 5 ∧ spBase 255 / 8 + (2 ^ 18 - 1) = spBase 255 / 8 + 262143 ∧ start.power.forecast[3]? = some 0 ∧
    (let p := start.power
     p.hotDies ⟨[1000, 0, 0, 0], 0, 500⟩ = [] ∧ p.hotDies ⟨[1001, 0, 0, 0], 0, 500⟩ ≠ [] ∧ p.tripped = false ∧ p.allows (1000 + 1100) = true ∧
     p.cap < 3201 ∧ ∃ d ∈ (⟨[1150], 0, 0⟩ : Sensors).dies, 1150 ≤ d) ∧
    7 ≤ booted.marten.bootStep ∧ finds.configOk = true ∧ BootValues.inRange finds.values = true ∧ finds.memoryOk = true ∧
    finds.cabledPkg = finds.values.pkg ∧
    BootInput.accepts { finds with rootHashes := [] } 1 finds.copyA = false := by
  decide +kernel

/-- A map of n elements of 2^e bytes, all from one place to one other. -/
def mapOf (src dst n e : Nat) : Tmap := src + dst * 2 ^ 64 + n * 2 ^ 128 + e * 2 ^ 896 + 2 ^ 898

/-- A copy that has been issued: a fill with one chunk, and with more than one. -/
def fillMap : Tmap := mapOf own.toNat (own.toNat + 0x1000) 513 3
def filling : Task :=
  { cpTask with state := .issued, inst := some 0, ops := [⟨0, region 1 1 8, []⟩, ⟨4, region 2 1 8, []⟩], cmd := .cpF own none,
                map := some (BitVec.ofNat 1024 fillMap) }

/-- Every element of the fill writes the same eight bytes. -/
theorem fill_elem (n : Nat) (r : CopyRun) : (tasked filling).copyElem 0 filling fillMap n r =
    ({ r with cells := (leBytes 8 own.toNat).mapIdx (fun i b => (pad + 0x1000 + i, b, false)) |>.reverse |> (· ++ r.cells) }, .done) := by
  have hi : fillMap.index n = [n % 513] := by
    simp [Tmap.index, show fillMap.rank = 1 by decide +kernel, show fillMap.ext 0 = 513 by decide +kernel]
  have hw (i : Nat) : walkAddr fillMap.dst fillMap.dstr [i] = own.toNat + 0x1000 := by
    simp only [walkAddr, List.mapIdx_cons, List.mapIdx_nil, show fillMap.dstr 0 = 0 by decide +kernel,
      show fillMap.dst = own.toNat + 0x1000 by decide +kernel, List.foldl, mul_zero]
    decide
  have ht : (tasked filling).copyTranslate 0 filling accWrite (own.toNat + 0x1000) = .to (.here (pad + 0x1000)) 8 := by decide +kernel
  have hm : ((tasked filling).core 0).moved 0 (filling.op 4) (own.toNat + 0x1000) = own.toNat + 0x1000 := by decide +kernel
  have hs : ((tasked filling).core 0).inSpan 0 (filling.op 4) (own.toNat + 0x1000) 8 = true := by decide +kernel
  have hz : (tasked filling).frozenAt (.here (pad + 0x1000)) = false := by decide +kernel
  have hg : (tasked filling).tagAt (.here (pad + 0x1000)) 8 = false := by decide +kernel
  unfold State.copyElem State.elemBytesOf State.elemWrite
  simp only [hi, hw, show fillMap.esize = 8 by decide +kernel, show fillMap.src = own.toNat by decide +kernel,
    show filling.cmd = .cpF own none from rfl, Cmd.isIndexed, Cmd.isFill, Cmd.resv, hm, hs, ht, hz, hg]
  rfl

/-- Its elements read nothing elsewhere and write in those eight bytes alone. -/
theorem fill_elems (l : List Nat) (r : CopyRun) (hr : r.reads = [] ∧ r.away = [] ∧ ∀ x ∈ r.cells, (tasked filling).portHolds x.1 = false) :
    let q := (tasked filling).copyElems 0 filling fillMap l r
    q.2 = .done ∧ q.1.reads = [] ∧ q.1.away = [] ∧ ∀ x ∈ q.1.cells, (tasked filling).portHolds x.1 = false := by
  induction l generalizing r with
  | nil => exact ⟨rfl, hr⟩
  | cons n ns ih =>
    simp only [State.copyElems, fill_elem]
    refine ih _ ⟨hr.1, hr.2.1, fun x hx => ?_⟩
    rcases List.mem_append.mp hx with hx | hx
    · have h : ∀ y ∈ ((leBytes 8 own.toNat).mapIdx fun i b => (pad + 0x1000 + i, b, false)).reverse, (tasked filling).portHolds y.1 = false := by
        decide +kernel
      exact h x hx
    · exact hr.2.2 x hx

/-- A core whose buffers 1 and 2 stand in pages of this package and of package 1, and a copy of one element from one to the other. -/
def spread (src dst : Nat) : State × Task :=
  let s := joined { paged [(1, leaf 64), (2, leaf 64 + 2 * 2 ^ 7 + 2 ^ 44)] with parts := [{ onePart with no := 0, packages := [0, 1] }] }
  let u := { filling with
    cmd := .cp own none, ops := [⟨0, region 1 1 8, []⟩, ⟨4, region 2 2 8, []⟩], map := some (BitVec.ofNat 1024 (mapOf src dst 1 3)) }
  (s.modCore 0 fun x => { x with bufs := [(1, box src 2 8 8 8), (2, box dst 2 8 8 8)], window := [u] }, u)

/-- Copies whose chunk is to come, one here and those that read and that write elsewhere; one whose chunks are done; one that is answered. -/
theorem witness_CopyProgress :
    (let s := tasked filling
     s.here.task 0 = some filling ∧ filling.state = .issued ∧ filling.cmd.copy.isSome = true ∧ filling.cmd.resv = none ∧
     filling.arrivalSent = false ∧ filling.reply = none ∧ s.awaits 0 (.task 0) = false ∧ { filling with readTick := s.tick } = filling ∧
     filling.chunk fillMap ≠ [] ∧ Task.chunk { filling with chunks := filling.chunks + 1 } fillMap ≠ [] ∧
     Task.chunk { filling with chunks := 2 } fillMap = [] ∧ filling.stage = 0 ∧ filling.bar = none ∧ s.softErrors = [] ∧ Memory.wf s.mem = true ∧
     s.frozenAt (.here pad) = false ∧ ({ filling with reply := some (-5) } : Task).reply = some (-((5 : Nat) : Int))) ∧
    (let r := (tasked filling).copyElems 0 filling fillMap (filling.chunk fillMap) ⟨[], [], [], [], []⟩
     r.2 = .done ∧ r.1.reads = [] ∧ r.1.away = [] ∧ ∀ x ∈ r.1.cells, (tasked filling).portHolds x.1 = false) ∧
    ∀ p ∈ [(0x20000, 0x10000), (0x10000, 0x20000)],
      let s := (spread p.1 p.2).1
      let u := (spread p.1 p.2).2
      let m := mapOf p.1 p.2 1 3
      let r := s.copyElems 0 u m (u.chunk m) ⟨[], [], [], [], []⟩
      s.here.task 0 = some u ∧ r.2 = .done ∧ (r.1.reads == []) = (p.1 == 0x10000) ∧ (r.1.away == []) = (p.1 == 0x20000) := by
  refine ⟨?_, fill_elems _ _ (by simp), ?_⟩ <;> decide +kernel

/-- A zone with one slot of 512 bytes that waits for bytes, and its barrier. -/
def receiving (x : Slot) : State :=
  let s := (booted.modCore 0 fun x => { x with partno := 1 }).modZone 0 0 fun _ => { zoneOf zoneRaw with zgen := 1, slots := [x] }
  s.tbInit (pad + 0x2000) 1 0 true

/-- Slots that wait, that are full up, and that have too much or too little; a lease at its end. -/
theorem witness_SlotEvents :
    (let x : Slot := { Slot.fresh with st := .landing, gen := 1, rbytes := 512, rcvd := 504, lease := 2 ^ 24 }
     let s := receiving x
     let r := resvWord 1 (s.identity 0) 0 1 0 1
     (s.core 0).zone 0 = { zoneOf zoneRaw with zgen := 1, slots := [x] } ∧ (s.core 0).frozen = false ∧ x.isOpen = true ∧
     ((s.core 0).zone 0).lease ≤ x.lease ∧ resvCore r / 256 = s.marten.values.pkg ∧ s.slotOf r = .inl (0, 0, 0) ∧ resvSize r = 512 ∧
     x.rcvd + 8 ≤ x.rbytes ∧ x.rbytes < x.rcvd + 9 ∧ x.rcvd ≠ x.rbytes ∧ s.isLive (pad + 0x2000) = true ∧ tbStatus (s.tb (pad + 0x2000)) ≠ 1 ∧
     Memory.wf s.mem = true ∧ s.touchesPort (pad + 0x2000) 32 = false ∧
     (∀ i, i < 8 → s.tagged (((s.core 0).zone 0).slotKey 0 0 + 504 + i) 1 = false ∧ s.portHolds (((s.core 0).zone 0).slotKey 0 0 + 504 + i) = false) ∧
     s.chunkUnderWay 0 3 = false) ∧
    (let s := receiving { Slot.fresh with st := .landing, gen := 1, rbytes := 512, rcvd := 512 }
     (s.tbUpdate (pad + 0x2000) .arrive 0 0 4 3 0).2 = 0 ∧ s.slotOf (resvWord 1 (s.identity 0) 0 1 0 1) = .inl (0, 0, 0)) := by
  decide +kernel

/-- A post of MMZ in a descriptor, one that comes to an intake that is open, one whose intake is full and one whose intake is closed, one that
may be admitted, and answers. -/
def mmzWord : Nat := (Instr.mmz ⟨0, 1, 0, 0, 0, 0⟩).encode
def post : RemotePost :=
  { handle := BitVec.ofNat 64 (2 ^ 25), who := 0, partno := 1, tag := 0, seq := 3, c0 := BitVec.ofNat 32 mmzWord,
    c1 := BitVec.ofNat 32 (mmzWord / 2 ^ 32), vals := [0, 0, 0], reads := [], writes := [region 3 2 8], pl := 0 }

theorem witness_RemotePosting :
    (let u := { posting.taskOf ⟨6, 0, 0, 0, 5, 1⟩ (.rpost 0 own (some 9) 0 1) with state := .ready }
     let s := joined ((tasked u).writeNat pad 32 mmzWord)
     (s.core 0).freeUnit .cpy = some 0 ∧ (s.core 0).chosen .cpy = some u ∧ u.waited = 0 ∧ own.toNat % 32 = 0 ∧ s.softErrors = [] ∧
     s.copyTranslate 0 u accRead own.toNat = .to (.here pad) 8 ∧ (∀ i, i < 32 → s.poisoned (pad + i) 1 = false) ∧
     s.seenNat (.engine 0) pad 32 = mmzWord ∧ s.awaits 0 (.task 0) = false ∧ handlePkg 0 / 32 < s.marten.values.ngroups ∧
     (postCmd (bitsOf mmzWord 31 0) (bitsOf mmzWord 63 32) [0, 0, 0] 0 1).isSome = true ∧ (∀ r ∈ (s.core 0).reports, r.tag ≠ 9) ∧
     (s.core 0).reports.length < 64) ∧
    (let open_ (n : Nat) : State := { posting.modCore 0 fun x => { x with partno := 1, intakes := x.intakes.set 0 ⟨.open, 1, List.replicate n post⟩ } with
       outbox := [.post post 3] }
     (∀ n ∈ [31, 32], let s := open_ n
       post.who / 256 = s.marten.values.pkg ∧ handlePkg post.handle = s.marten.values.pkg ∧ OutMsg.post post post.seq ∈ s.outbox ∧
       s.savedCore post = none ∧ post.handle.toNat / 2 ^ 33 = 0 ∧ (s.core 0).intakes[0].st = .open ∧
       (s.core 0).intakes[0].gen = bitsOf post.handle.toNat 32 25 ∧ post.partno = (s.core 0).partno ∧ (s.core 0).intakes[0].entries.length = n) ∧
     State.reset.cores[0].intakes[0].st = .closed ∧ (open_ 1).here.nextIntake = some (0, post) ∧ (open_ 1).here.mayTake 4 = true ∧
     postCmd post.c0.toNat post.c1.toNat post.vals 0 1 = some .mmz ∧
     (let u := newTask 0 (.remote 0 0) 0 1 .mmz (postOperands post) ⟨0, 4, 3, 0, 0⟩ 8
      (open_ 1).here.operandsOk u = true ∧ (open_ 1).here.bindProblem u = none)) ∧
    (let u := { posting.taskOf ⟨6, 0, 0, 0, 5, 1⟩ (.rpost 0 own (some 9) 0 1) with state := .issued, sent := true, inst := some 0 }
     let s := { tasked u with outbox := [.postAnswer 0 0 0, .postAnswer 0 0 (-20), .postAnswer 0 0 1] }
     s.here.task 0 = some u ∧ u.tagHeld = some 9 ∧ s.identity 0 = 0 ∧ OutMsg.postAnswer 0 0 (-(20 : Nat)) ∈ s.outbox) ∧
    (⟨7, 0, none⟩ : Report) ∈ posting.here.reports := by
  decide +kernel

/-- A core with a grid entry in a state, which has declared step 5 and holds a marker, and with a shipment of region 0 to core d in a state. -/
def shipped (g : GridState) (st : ShipState) (d : Nat) (data : Option ShipData) : State :=
  let e : Grid := { gridOf gridRaw 0 with st := g, accepted := 4, declared := 5, peers := [([0], 0)], markers := [⟨5, [], false, 0⟩] }
  let h : Shipment := { core := 0, grid := 3, step := 5, dst := d, region := 0, st := st, pl := 0, rules := [0, 0], data := data, num := 9, since := 0 }
  { tiled.modGrid 0 3 fun _ => e with ships := [h] }

/-- The entry of that core, and what its shipment brings. -/
def entry (s : State) : Grid := s.here.grid 3
def cargo : ShipData :=
  let g := entry (shipped .active .credit 0 none)
  { core := 0, grid := 3, step := 5, region := 0, who := 0, esize := 8, shape := g.shape, rules := g.regionRules [0, 0] [0] 0, cells := [([0], 1)],
    bad := [], pl := 0 }

/-- A marker that may retire; a declared step that is sent here, and one that another package sends; a notice that has come. -/
theorem witness_GridEvents :
    (∀ st ∈ [GridState.active, .failed], let g := entry (shipped st .credit 0 none)
     g.markers = [⟨5, [], false, 0⟩] ∧ g.st = st ∧ (5 : Nat) % g.depth = 0) ∧
    (let m := OutMsg.declared 0 0 3 5 1
     ({ tiled with outbox := [m] } : State).outbox.find? (fun m => match m with | .declared w c n _ _ => w == 0 && c == 0 && n == 3 | _ => false) = some m ∧
     tiled.outbox = [] ∧ 256 / 256 ≠ tiled.marten.values.pkg ∧ newsOf [(256, 5, 1)] 256 5 = true ∧ newsOf [(256, 5, 1)] 256 4 = false) ∧
    (∃ m ∈ (shipped .active .notice 0 none).ships, m.st = .notice ∧ m.dst = 0 ∧ m.grid = 3 ∧ m.region ∈ [0]) := by
  decide +kernel

/-- A shipment that awaits its credit on an entry that is ACTIVE and on one that is not, one that is to be read, and one that lands, as expected
and not. -/
theorem witness_GridEvents_ships :
    (∀ st ∈ [GridState.active, .failed], let s := shipped st .credit 0 none
     ∃ h : Shipment, s.ships[0]? = some h ∧ h.st = .credit ∧ (entry s).st = st ∧ s.knownStep h = some (5, 1) ∧
       ((5 : BitVec 32) - (h.step - BitVec.ofNat 32 1 + 1)).toNat < 2 ^ 31) ∧
    (let s := shipped .active .reading 0 none
     (∀ h ∈ s.ships, s.readsNext h = true) ∧ s.softErrors = []) ∧
    (let s := shipped .active .flight 0 (some cargo)
     let y := entry s
     s.coreOfIdentity 0 = some 0 ∧ s.fillsFirst 0 = false ∧ y.st = .active ∧ y.shape = cargo.shape ∧ s.here.cellSize (y.field 5) = cargo.esize ∧
     y.regionRules y.rules y.coord 0 = cargo.rules ∧ s.here.frozen = false ∧ s.tagged (pad + 0x1000) 4 = false ∧ Memory.wf s.mem = true ∧
     s.here.cellKey 0 (y.field 5) [0] = some (pad + 0x1000, 0) ∧ s.portHolds (pad + 0x1000) = false ∧ y.shape ≠ { cargo with shape := [] }.shape) := by
  refine ⟨?_, ?_, ?_⟩
  · intro st hst
    exact ⟨_, rfl, by revert st; decide +kernel⟩
  all_goals decide +kernel

/-- A fill of a constant or of none, and the core that it is for. -/
def fillOf (v : Option Word) : HaloFill := { core := 0, grid := 3, step := 5, region := 0, pl := 0, value := v }
def filled (v : Option Word) : State := { shipped .active .credit 0 none with fills := [fillOf v] }

/-- A shipment that leaves for another package and one that is answered; fills that land. -/
theorem witness_GridEvents_away :
    (let s := shipped .active .flight 256 (some { cargo with core := 256 })
     s.coreOfIdentity 256 = none ∧ s.reqs = [] ∧
     ∃ r ∈ ({ s with reqs := [{ asking .shipment (.peer 1 0) with user := .shipment 9 }] } : State).reqs, r.user = .shipment 9) ∧
    (∀ v, (filled v).fills[0]? = some (fillOf v) ∧ (filled v).fills.take 0 = []) ∧
    (let s := filled (some 9)
     (s.core 0).frozen = false ∧ Memory.wf s.mem = true ∧ s.tagged (pad + 0x1000) 4 = false ∧ s.portHolds (pad + 0x1000) = false) := by
  refine ⟨?_, fun _ => ⟨rfl, rfl⟩, ?_⟩ <;> decide +kernel

/-- A partition that runs, one under a pre-emption request, one past its limit, one that a debug stop holds, and a stop word. -/
theorem witness_PartitionStops :
    (let s := { booted with parts := [onePart] }
     s.part 1 = some onePart ∧ onePart.st = .active ∧ onePart.preempt = none ∧ s.debugHolds 1 = false) ∧
    (let s := stopping.modMe fun t => { t with state := .wait, tr := { t.tr with debugStop := some (1, 4) } }
     s.debugHolds 1 = true) ∧
    (let p := { onePart with preempt := some 0, plimit := 210000 }
     let s := { booted with parts := [p], now := 210000 }
     s.part 1 = some p ∧ p.plimit ≤ s.now - 0 ∧ s.debugHolds 1 = false) ∧
    (let s := { booted with parts := [onePart], launches := [onelaunch], mem := Memory.setBytes housed.mem 0xC4080 (leBytes 8 (2 ^ 16 + 1)) }
     let w := s.readNat (s.marten.values.faultRings.getD 0 0 + 16512) 8
     bitsOf w 63 18 = 0 ∧ bitsOf w 17 16 = 1 ∧ bitsOf w 15 0 = 1 ∧ s.partBusy onePart = true ∧ Memory.wf s.mem = true ∧
     s.touchesPort (s.marten.values.faultRings.getD 0 0 + 16512) 8 = false) := by
  decide +kernel

/-- A launch that a fatal trap has stopped, and a package with a launch. -/
def struck : Launch := { onelaunch with stopping := true, failure := some ⟨1, true, 0, 0⟩ }
def launching (l : Launch) : State := { start with launches := [l], parts := [onePart] }

/-- That launch alone, with strands elsewhere, and as a part of another package's. -/
theorem witness_PartitionStops_fatal :
    (∀ l ∈ [struck, { struck with away := [(3, .running)] }],
      (launching l).stoppedLaunch (.core 0) 0 = some l ∧ (launching l).launches.find? (fun m : Launch => m.id == l.id) = some l ∧
      (l.away.filter fun a : Nat × AwayState => a.2 != .ended) = l.away) ∧
    (let g := { struck with home := some (3, 7) }
     (launching g).stoppedLaunch (.package 3) 7 = some g ∧ (launching g).launches.find? (fun m : Launch => m.id == g.id) = some g) := by
  decide +kernel

/-- A request that can be met, of the last compute core, the last key slot and the last queue. -/
def largest : PartRequest :=
  { partno := 65535, cores := [255], keyslot := 1023, s2root := 0, savearea := 0, plimit := 0, tpool := [], cmap := 0, packages := [], others := [],
    groupCores := 1, systemCores := 1, barids := 0, intakes := [(255, 3)], queues := [(1023, ⟨0, 0xA0000, 0, 6, 0, 0⟩)], conns := [(255, 1, 2)],
    rtos := [], endpoints := [], remap := [], breakpoints := [] }

/-- That request; a partition ready to be saved, and one that is saved. -/
theorem witness_PartitionLife :
    (8 ≤ booted.marten.bootStep ∧ booted.canCreate largest = true) ∧
    (let p := { onePart with preempt := some 0 }
     let s := { (start.modMe fun t => { t with state := .parked }).modCore 0 fun x => { x with partno := 1 } with parts := [p] }
     s.part 1 = some p ∧ p.st = .active ∧ p.preempt.isSome = true ∧ s.debugHolds 1 = false ∧ s.saveReady p = true) ∧
    (let p := { onePart with st := .saved, saved := [(0, start.here)] }
     let s := { State.reset with parts := [p] }
     s.part 1 = some p ∧ (s.core 0).partno = 0 ∧ (s.core 0).zeroed = true ∧ (p.saved.map (·.1)).Nodup) := by
  decide +kernel
/-! ## Single steps: the spec's worked examples -/

/-- The state after an instruction that has read the tags it needs. -/
def ran (i : Instr) (s : State) : State := match exec i (tagsKnown s) with | .next t => t | .fault _ => s | .refused _ => s

/-- The value of s3 after an instruction, with values in s1 and s2. -/
def s3 (i : Instr) (x y : Word) : Word := (ran i (withRegs [(1, x), (2, y)] start)).reg 3

/-- R174's example: −7 by 2, 7 by −2, 5 by 0; R173's: CLMUL and MUL of 3 and 3. -/
theorem test_division_and_products :
    [s3 (.div 3 1 2) (-7) 2, s3 (.rem 3 1 2) (-7) 2, s3 (.div 3 1 2) 7 (-2), s3 (.rem 3 1 2) 7 (-2), s3 (.div 3 1 2) 5 0, s3 (.rem 3 1 2) 5 0] =
      [-3, -1, -3, 1, -1, 5] ∧
    s3 (.clmul 3 1 2) 3 3 = 5 ∧ s3 (.mul 3 1 2) 3 3 = 9 := by
  decide +kernel

/-- The constants of R178 and R179, EXTZ of 16 bits, and the jump of the example after R182. -/
theorem test_constants_and_jumps :
    (ran (.addi 5 5 0x8000) (ran (.lih 5 0x1235) start)).reg 5 = 0x12348000 ∧
    (ran (.lihi 5 5 0x01234567) (ran (.li 5 0x07654321) start)).reg 5 = 0x0123456707654321 ∧
    s3 (.extz 3 1 2) 0xFFFFFFFFFFFF1234 16 = 0x1234 ∧
    (ran (.jal 1 64) start).me.pc = start.me.pc + 0x100 ∧ (ran (.beq 5 6 0xFFFE) start).me.pc = start.me.pc - 8 := by
  decide +kernel

/-- A strand at 0x10040 with a handler. -/
def handled : State := withRegs [(6, own + 0x100)] (start.modMe fun t => { t with pc := 0x10040 })

/-- Chapter 13's example: a misaligned load traps, and the handler's return resumes after it. -/
theorem test_trap_and_return :
    (let t := ran (.ld64 5 6 4) handled
     t.me.sys.epc = 0x10040 ∧ t.me.sys.ecause = 3 ∧ t.me.sys.eval = 0x0070000000000104 ∧ t.me.sys.intrap = true ∧ t.me.pc = 0x1000 ∧
     t.reg 5 = handled.reg 5) ∧
    (let t := ran .eret (ran (.sysw 0x009 30) (withRegs [(30, 0x10044)] (ran (.ld64 5 6 4) handled)))
     t.me.pc = 0x10044 ∧ t.me.sys.intrap = false ∧ t.reg 5 = handled.reg 5) := by
  decide +kernel

/-- Table 9.8: the object after TB.EXPECT and TB.ARV, and after both copies. -/
theorem test_barrier_of_two_copies :
    (let s := withRegs [(6, own + 0x10000), (7, 3), (8, 8192)] start
     let s := ran (.tbArv 5 6 0) (ran (.tbExpect 5 6 8) (ran (.tbInit 5 6 7 3) s))
     let k := pad + 0x10000
     let copy (who : Nat) (s : State) : State := ((s.tbUpdate k .credit 4096 who 4 0 0).1.tbUpdate k .arrive 0 who 4 0 0).1
     s.readNat k 8 = 0x000C000000002000 ∧ tbParr (s.tb k) = 2 ∧
     (let t := copy 0x4A5A9 (copy 0x4A5A8 s)
      t.readNat k 8 = 0x000C010000000000 ∧ t.readNat (k + 16) 8 = 0xC00000000000 ∧ t.readNat (k + 24) 8 = 0xC00000000000 ∧
      tbLastid (t.tb k) = 0x4A5A9)) := by
  decide +kernel

/-- R192: an ADDB whose sum passes its bound and a CAS whose comparison fails write nothing; an ADD of 32 bits wraps. -/
theorem test_atomics :
    (let s := (withRegs [(1, own), (2, 5), (3, 9)] start).writeNat pad 8 7
     (ran (.atomAddb 3 1 2 false 0 true) s).readNat pad 8 = 7 ∧ (ran (.atomAddb 3 1 2 false 0 true) s).reg 3 = 7 ∧
     (ran (.atomCas 3 1 2 false 0 true) s).readNat pad 8 = 7 ∧
     (ran (.atomCas 3 1 2 false 0 true) (withRegs [(3, 7)] s)).readNat pad 8 = 5) ∧
    (ran (.atomAdd 3 1 2 false 0 false) ((withRegs [(1, own), (2, 2)] start).writeNat pad 8 0x1FFFFFFFF)).readNat pad 8 = 0x100000001 := by
  decide +kernel

/-- R85's example: element (40, 3) of buffer 20 lies at 0x80710. -/
theorem test_skew : start.padOff 1 (own.toNat + 0x80650) = some 0x80710 := by
  decide +kernel

/-- R144's example: a group of BF16 products, 2^24, 1, −2^24 and zeros, adds 1; and the drain of 1000.0 and of 2000.0 after R145. -/
theorem test_engine_arithmetic :
    (mmGroups 10 10 0 0 ⟨0, 0, 0⟩ (pieces 16 2 ([0x4B80, 0x3F80, 0xCB80].map fun x => (x, 0x3F80)))).bits = 0x3F800000 ∧
    (let f (x : Nat) : Ext := toF32 (mulExt (toF32 (mulExt (decodeTy 8 x) (decodeTy 8 0x3DCCCCCD)).1 0) (decodeTy 8 0x40400000)).1 0
     (encodeTy 11 (f 0x447A0000) 0 false).1 = 0x79 ∧ (encodeTy 11 (f 0x44FA0000) 0 true).1 = 0x7E ∧
     (encodeTy 11 (f 0x44FA0000) 0 false).1 = 0x7F) := by
  decide +kernel

/-- Table 11.7: F32 to E4M3 under RNE, without and with saturation, and the flags of each conversion. -/
theorem test_conversions :
    (let xs := [0x3F800000, 0x3E99999A, 0x43960000, 0x44160000, 0x3A800000, 0x80000000, 0x7FA00000].map (decodeTy 8)
     xs.map (fun x => (encodeTy 11 x 0 false).1) = [0x38, 0x2A, 0x79, 0x7F, 0, 0x80, 0x7F] ∧
     xs.map (fun x => (encodeTy 11 x 0 true).1) = [0x38, 0x2A, 0x79, 0x7E, 0, 0x80, 0x7F] ∧
     xs.map (fun x => (encodeTy 11 x 0 false).2 ||| snanFlag [x]) =
       [0, Flag.nx, Flag.nx, Flag.of ||| Flag.nx, Flag.uf ||| Flag.nx, 0, Flag.nv]) := by
  decide +kernel

/-- The example after R274: the mask of VCMP.GT on lanes i − 64, and the count that VCMPRS writes. -/
theorem test_compress :
    (let row : Nat := (List.range 128).foldl (fun n i => n + (encodeTy 8 (decodeTy 2 ((i + 2 ^ 32 - 64) % 2 ^ 32)) 0 false).1 * 2 ^ (32 * i)) 0
     let s := running.modCtx fun y => { y with v := y.v.set 1 (BitVec.ofNat 4096 row) }
     let t := ran (.vcmprs 2 1 8 8) (ran (.vcmp 1 0 8 4 false) s)
     t.ctx.areg 8 = 63 ∧ t.ctx.lane 2 32 0 = 0x3F800000 ∧ t.ctx.lane 2 32 62 = 0x427C0000 ∧ t.ctx.lane 2 32 63 = 0 ∧ t.ctx.masks.length = 1) := by
  decide +kernel

/-- FIPS 180-4's example: SHA-512 of the bytes of "abc". -/
theorem test_sha512 :
    sha512 [0x61, 0x62, 0x63] = leBytes 64 (leNat
      ([0xdd, 0xaf, 0x35, 0xa1, 0x93, 0x61, 0x7a, 0xba, 0xcc, 0x41, 0x73, 0x49, 0xae, 0x20, 0x41, 0x31] ++
       [0x12, 0xe6, 0xfa, 0x4e, 0x89, 0xa9, 0x7e, 0xa2, 0x0a, 0x9e, 0xee, 0xe6, 0x4b, 0x55, 0xd3, 0x9a] ++
       [0x21, 0x92, 0x99, 0x2a, 0x27, 0x4f, 0xc1, 0xa8, 0x36, 0xba, 0x3c, 0x23, 0xa3, 0xfe, 0xeb, 0xbd] ++
       [0x45, 0x4d, 0x44, 0x23, 0x64, 0x3c, 0xe8, 0x0e, 0x2a, 0x9a, 0xc9, 0x4f, 0xa5, 0x4c, 0xa4, 0x9f])) := by
  decide +kernel
end Sys2Proof.Tests
end

section
/-!
SUPPORT. The changes of a strand and of a core that system registers rest on: what a change of one strand leaves as it was, and changes
that come in either order.
-/
namespace Sys2Proof.Machine

variable (s : State)

/-! ## Strands -/

theorem State.strand_modStrand_self {c k : Nat} (f : Strand → Strand) (hc : c < 260) (hk : k < 4) :
    (s.modStrand c k f).strand c k = f (s.strand c k) := by
  simp [State.strand, State.modStrand, Core.modStrand, hc, hk]

theorem State.strand_modStrand_ne {c k c' k' : Nat} (f : Strand → Strand) (h : ¬ (c' = c ∧ k' = k)) :
    (s.modStrand c k f).strand c' k' = s.strand c' k' := by
  by_cases hc : c' = c
  · subst hc
    have hk : k' ≠ k := fun e => h ⟨rfl, e⟩
    by_cases h260 : c' < 260
    · simp [State.strand, State.modStrand, Core.modStrand, h260, hk]
    · simp [State.modStrand, State.modCore, State.setCore_off _ _ _ h260]
  · simp [State.strand, State.modStrand, hc]

/-- A change that leaves a property of the strand changed leaves it of every strand. -/
theorem State.modStrand_keeps {α : Type} (p : Strand → α) (f : Strand → Strand) (h : ∀ t, p (f t) = p t) (c k c' k' : Nat) :
    p ((s.modStrand c k f).strand c' k') = p (s.strand c' k') := by
  by_cases e : c' = c ∧ k' = k
  · obtain ⟨rfl, rfl⟩ := e
    by_cases hc : c' < 260
    · by_cases hk : k' < 4
      · rw [s.strand_modStrand_self f hc hk, h]
      · simp [State.strand, State.modStrand, Core.modStrand, Core.setStrand, hc, hk]
    · simp [State.modStrand, State.modCore, State.setCore_off _ _ _ hc]
  · rw [s.strand_modStrand_ne f e]

theorem Core.modStrand_id (x : Core) (k : Nat) : (x.modStrand k fun t => t) = x := by
  unfold Core.modStrand Core.setStrand Core.strand
  split
  · exact congrArg (fun v => { x with strands := v }) (Vector.set_getElem_self _)
  · rfl

theorem State.setCore_core (c : Nat) : s.setCore c (s.core c) = s := by
  unfold State.setCore State.core
  split
  · exact congrArg (fun v => { s with cores := v }) (Vector.set_getElem_self _)
  · rfl

/-- A change that changes nothing of a strand leaves the state, whether that strand is there or not. -/
theorem State.modStrand_id (c k : Nat) : (s.modStrand c k fun t => t) = s :=
  (congrArg (s.setCore c) (Core.modStrand_id (s.core c) k)).trans (s.setCore_core c)

/-- Two changes of a core are one. -/
theorem State.modCore_modCore (c : Nat) (f g : Core → Core) : (s.modCore c f).modCore c g = s.modCore c fun x => g (f x) := by
  by_cases hc : c < 260
  · simp [State.modCore, State.core, State.setCore_eq, hc]
  · simp [State.modCore, State.setCore_off, hc]

/-! ## A change behind the end of an instruction -/

/-- A change of the moving strand that does not touch what the end of its instruction sets comes before that end as well as behind it. -/
theorem State.finish_modStrand_comm (n : Nat) (f : Strand → Strand) (h : ∀ t, f (t.finish n) = (f t).finish n) :
    (s.finish n).modStrand s.myCore s.myStrand f = (s.modMe f).finish n := by
  have hl : (s.finish n).modStrand s.myCore s.myStrand f = (s.finish n).modMe f := by
    simp [State.modMe, State.myCore, State.myStrand]
  rw [hl]
  exact (s.modMe_modMe _ f).trans ((s.modMe_congr (h s.me)).trans (s.modMe_modMe f _).symm)

/-- The same of a change of the moving core that leaves its strands. -/
theorem State.finish_modCore_comm (n : Nat) (g : Core → Core) (h : ∀ x k f, g (Core.modStrand x k f) = (g x).modStrand k f) :
    (s.finish n).modCore s.myCore g = (s.modCore s.myCore g).finish n := by
  have hr : (s.modCore s.myCore g).finish n =
      (s.modCore s.myCore g).modCore s.myCore fun x => x.modStrand s.myStrand fun t => t.finish n := by
    simp [State.finish, State.modMe, State.modStrand, State.myCore, State.myStrand]
  rw [hr, s.modCore_modCore]
  simp only [← h]
  exact s.modCore_modCore _ _ _

theorem Core.modStrand_rpfail (v : Word) (x : Core) (k : Nat) (f : Strand → Strand) :
    { x.modStrand k f with rpfail := v } = ({ x with rpfail := v } : Core).modStrand k f := by
  unfold Core.modStrand Core.setStrand; split <;> rfl

theorem Core.modStrand_rsel (v : Word) (x : Core) (k : Nat) (f : Strand → Strand) :
    { x.modStrand k f with rsel := v } = ({ x with rsel := v } : Core).modStrand k f := by
  unfold Core.modStrand Core.setStrand; split <;> rfl

end Sys2Proof.Machine
end

section
/-!
SUPPORT. SYSR (R4, R285, Tables 13.3 to 13.6): which register an instruction reaches, its value, and the registers that a mode or a window
closes.
-/
namespace Sys2Proof.Machine

variable (s : State)

/-! ## The register an instruction reaches -/

/-- Where SYSR and SYSW reach a register of the moving strand or its core: the number lies below the remote window, and its mode is met. -/
def State.ownSys (s : State) (n : Nat) : Prop := n < 0x400 ∧ (sysSuper n = false ∨ s.me.sys.super = true)

theorem State.onSys_own {n : Nat} (go : Nat → Nat → Nat → Bool → State → Out) (h : s.ownSys n) :
    s.onSys (BitVec.ofNat 12 n) go = go s.myCore s.myStrand n false s := by
  obtain ⟨hn, hm⟩ := h
  have e : (BitVec.ofNat 12 n).toNat = n := by simp only [BitVec.toNat_ofNat]; omega
  have hp : (sysSuper n && !s.me.sys.super) = false := by rcases hm with hm | hm <;> simp [hm]
  simp [State.onSys, e, hp, hn]

theorem State.onSys_priv {num : BitVec 12} (go : Nat → Nat → Nat → Bool → State → Out) (h : sysSuper num.toNat = true)
    (hu : s.me.sys.super = false) : s.onSys num go = .next (s.trap Cause.priv s.ir) := by
  simp [State.onSys, h, hu]

theorem bitsOf_bit_eq_zero (x : Word) (i : Nat) : bitsOf x.toNat i i = 0 ↔ x.getLsbD i = false := by
  have hw : i + 1 - i = 1 := by omega
  rw [bitsOf, hw, BitVec.getLsbD, Nat.testBit_eq_decide_div_mod_eq, decide_eq_false_iff_not]
  omega

theorem State.selected_eq : s.selected = (s.here.rsel.toNat % 256, s.here.rsel.toNat / 2 ^ 9 % 4) := by
  simp [State.selected, bitsOf]

/-- In SUPER mode a number of the remote window reaches the selected strand's register. -/
theorem State.onSys_window {num : BitVec 12} (go : Nat → Nat → Nat → Bool → State → Out) (h : 0x400 ≤ num.toNat)
    (hu : s.me.sys.super = true) (hw : s.here.rsel.getLsbD 8 = true) :
    s.onSys num go = go (s.here.rsel.toNat % 256) (s.here.rsel.toNat / 2 ^ 9 % 4) (num.toNat - 0x400) true s := by
  simp [State.onSys, hu, bitsOf_bit_eq_zero, hw, Nat.not_lt.mpr h, s.selected_eq]

theorem State.onSys_closed {num : BitVec 12} (go : Nat → Nat → Nat → Bool → State → Out) (h : 0x400 ≤ num.toNat)
    (hu : s.me.sys.super = true) (hw : s.here.rsel.getLsbD 8 = false) :
    s.onSys num go = .next (s.trap Cause.protect (Config.unstated s.tick)) := by
  have h0 : bitsOf s.here.rsel.toNat 8 8 = 0 := (bitsOf_bit_eq_zero _ 8).2 hw
  simp [State.onSys, hu, h0, Nat.not_lt.mpr h]

theorem exec_sysr (d : Reg) (num : BitVec 12) : exec (.sysr d num) s = execSysr d num s := rfl

theorem exec_sysw (num : BitVec 12) (a : Reg) : exec (.sysw num a) s = execSysw num a s := rfl

/-! ## Values -/

theorem State.sysr_reads {n : Nat} {v : Word} (d : Reg) (h : s.ownSys n) (hv : s.sysRead s.myCore s.myStrand n = v) :
    RunsTo (.sysr d (BitVec.ofNat 12 n)) s (Wrote s · d v 4) := by
  refine ⟨s.result d v 4, ?_, s.result_wrote d v 4⟩
  rw [exec_sysr, execSysr, s.onSys_own _ h, hv]; rfl

theorem State.sysr_reads_window {num : BitVec 12} (d : Reg) (h : 0x400 ≤ num.toNat) (hu : s.me.sys.super = true)
    (hw : s.here.rsel.getLsbD 8 = true) :
    RunsTo (.sysr d num) s (WroteLater s · d
      (s.sysRead (s.here.rsel.toNat % 256) (s.here.rsel.toNat / 2 ^ 9 % 4) (num.toNat - 0x400)) .latency 4) := by
  refine ⟨_, ?_, s.later_wroteLater d _⟩
  rw [exec_sysr, execSysr, s.onSys_window _ h hu hw]; rfl

theorem Core.banksHeld_eq (x : Core) : x.banksHeld = ((List.range 512).filter fun i => x.held.getLsbD i).length := by
  unfold Core.banksHeld maskBits
  congr 2
  funext i
  exact Nat.testBit_eq_decide_div_mod_eq.symm

theorem State.sysRead_wstate (c j : Nat) (k : Fin 4) : s.sysRead c j (0x020 + k) = (s.strand c k).wstate := by
  fin_cases k <;> rfl

theorem Strand.wstate_wait {t : Strand} (h : t.state = .wait) : t.wstate = BitVec.ofNat 64 (t.obj * 2 ^ 8 + t.reason * 2 ^ 4 + 2) := by
  simp [Strand.wstate, h]

theorem Strand.wstate_code {t : Strand} (h : t.state ≠ .wait) : t.wstate = BitVec.ofNat 64 t.state.code := by
  simp [Strand.wstate, h]

/-! ## Registers that a mode or a window closes -/

theorem sysSuper_iff (n : Nat) : sysSuper n = true ↔ n = 0x100 ∨ n = 0x101 ∨ 0x400 ≤ n := by
  simp [sysSuper, or_assoc]

/-- In USER mode every instruction on a register reserved to SUPER mode traps. -/
theorem State.onSys_traps_priv {num : BitVec 12} (go : Nat → Nat → Nat → Bool → State → Out) (h : sysSuper num.toNat = true)
    (hu : s.me.sys.super = false) (hf : s.me.fatal 2 = false) : ∃ t, s.onSys num go = .next t ∧ Trapped s t 2 s.ir :=
  ⟨_, s.onSys_priv go h hu, s.trap_trapped _ _ hf (by decide)⟩

/-- Through a closed window every instruction traps. -/
theorem State.onSys_traps_protect {num : BitVec 12} (go : Nat → Nat → Nat → Bool → State → Out) (h : 0x400 ≤ num.toNat)
    (hu : s.me.sys.super = true) (hw : s.here.rsel.getLsbD 8 = false) (hf : s.me.fatal 5 = false) :
    ∃ t, s.onSys num go = .next t ∧ ∃ v, Trapped s t 5 v := by
  refine ⟨s.trap Cause.protect (Config.unstated s.tick), ?_, _, s.trap_trapped _ _ hf (by decide)⟩
  exact s.onSys_closed go h hu hw

/-- What the check of the register number answers for every continuation, SYSR and SYSW answer. -/
theorem State.sysr_sysw_of_onSys {num : BitVec 12} {P : State → Prop} (d a : Reg) (h : ∀ go, ∃ t, s.onSys num go = .next t ∧ P t) :
    RunsTo (.sysr d num) s P ∧ RunsTo (.sysw num a) s P :=
  ⟨by rw [RunsTo, exec_sysr]; exact h _, by rw [RunsTo, exec_sysw]; exact h _⟩

theorem State.halt_traps (hu : s.me.sys.super = false) (hf : s.me.fatal 2 = false) : RunsTo .halt s (Trapped s · 2 s.ir) := by
  refine ⟨s.trap Cause.priv s.ir, ?_, s.trap_trapped _ _ hf (by decide)⟩
  show execHalt s = _
  simp [execHalt, hu]

/-! ## The statement -/

/-- Settles O24: every number below the window is read by `State.sysr_reads` from its value in `State.sysRead`; the window, the mode and a
closed window are the other branches of `State.onSys`. -/
theorem systemRegisterReads : Obligations.SystemRegisterReads := by
  refine ⟨fun s d k n => ?_, fun s d a n => ⟨fun hn hu hf => ?_, fun hn hu hw hf => ?_, fun hu hf => s.halt_traps hu hf⟩⟩
  · have plain {n : Nat} (v : Word) (h : n < 0x400 ∧ sysSuper n = false) (hv : s.sysRead s.myCore s.myStrand n = v) :
        RunsTo (.sysr d (BitVec.ofNat 12 n)) s (Wrote s · d v 4) := s.sysr_reads d ⟨h.1, .inl h.2⟩ hv
    have hk : 0x020 + k.val < 0x400 ∧ sysSuper (0x020 + k.val) = false := by
      revert k; decide
    refine ⟨plain (n := 0x000) _ (by decide) ?_, plain (n := 0x001) _ (by decide) rfl, plain (n := 0x002) _ (by decide) rfl,
      plain (n := 0x003) _ (by decide) rfl, plain (n := 0x004) _ (by decide) ?_, plain (n := 0x005) _ (by decide) rfl,
      plain (n := 0x008) _ (by decide) rfl, plain (n := 0x009) _ (by decide) rfl, plain (n := 0x00A) _ (by decide) rfl,
      plain (n := 0x00B) _ (by decide) rfl, plain (n := 0x00C) _ (by decide) rfl, plain (n := 0x010) _ (by decide) ?_,
      plain (n := 0x011) _ (by decide) rfl, plain (n := 0x012) _ (by decide) rfl, plain (n := 0x013) _ (by decide) rfl,
      plain (n := 0x014) _ (by decide) rfl, plain (n := 0x015) _ (by decide) ?_, plain (n := 0x018) _ (by decide) rfl,
      plain (n := 0x019) _ (by decide) ?_, plain (n := 0x01C) _ (by decide) rfl, plain (n := 0x01D) _ (by decide) rfl,
      plain (n := 0x01E) _ (by decide) rfl, fun hw => plain _ hk ?_, fun hw => plain _ hk ?_,
      fun hu => s.sysr_reads d ⟨by decide, .inr hu⟩ rfl, fun hu hn hw => s.sysr_reads_window d hn hu hw⟩
    · exact BitVec.ofNat_toNat 64 s.me.sys.fflags
    · exact BitVec.ofNat_toNat 64 s.me.sys.spaceid
    · exact BitVec.ofNat_toNat 64 s.me.sys.evpend
    · exact BitVec.ofNat_toNat 64 s.me.sys.spstep
    · exact congrArg (BitVec.ofNat 64) s.here.banksHeld_eq
    · exact (s.sysRead_wstate _ _ k).trans (Strand.wstate_wait hw)
    · refine (s.sysRead_wstate _ _ k).trans ((Strand.wstate_code hw).trans ?_)
      show BitVec.ofNat 64 (s.here.strand k).state.code = _
      cases (s.here.strand k).state <;> rfl
  · have hs := (sysSuper_iff n.toNat).2 (hn.imp (congrArg BitVec.toNat) (Or.imp_left (congrArg BitVec.toNat)))
    exact s.sysr_sysw_of_onSys d a fun go => s.onSys_traps_priv go hs hu hf
  · exact s.sysr_sysw_of_onSys d a fun go => s.onSys_traps_protect go hn hu hw hf

end Sys2Proof.Machine
end

section
/-!
SUPPORT. SYSW and the rows that write a system register (R4, R285, R286, R289, R365): one lemma per register for the row, and SYSW as the
row behind the end of the instruction.
-/
namespace Sys2Proof.Machine

variable (s : State)

/-! ## The rows -/

theorem exec_registerWrite (c k : Nat) (num : BitVec 12) (v : Word) :
    exec (.registerWrite c k num v) s = execRegisterWrite c k num v s := rfl

/-- The row that writes v to register n changes the system registers of its strand by f, and nothing else, whatever the strand. -/
def RowWrites (n : Nat) (v : Word) (f : StrandSys → StrandSys) : Prop :=
  ∀ (s : State) (c k : Nat), Runs (.registerWrite c k (BitVec.ofNat 12 n) v) s (s.modStrand c k fun t => { t with sys := f t.sys })

theorem ofNat_mod_eq_setWidth (v : Word) (n : Nat) : BitVec.ofNat n (v.toNat % 2 ^ n) = v.setWidth n :=
  BitVec.eq_of_toNat_eq (by simp)

theorem rowWrites_fflags (v : Word) : RowWrites 0x000 v fun y => { y with fflags := BitVec.ofNat 5 (v.toNat % 2 ^ 5) } := by
  intro s c k
  rw [ofNat_mod_eq_setWidth]; rfl

theorem rowWrites_tvec (v : Word) : RowWrites 0x008 v fun y => { y with tvec := v } := fun _ _ _ => rfl

theorem rowWrites_epc (v : Word) : RowWrites 0x009 v fun y => { y with epc := v } := fun _ _ _ => rfl

/-- The reserved bits of ECAUSE stay 0 (Table 13.4). -/
theorem rowWrites_ecause (v : Word) : RowWrites 0x00A v fun y => { y with ecause := v &&& 0x187FF } := fun _ _ _ => rfl

theorem rowWrites_eval (v : Word) : RowWrites 0x00B v fun y => { y with eval := v } := fun _ _ _ => rfl

theorem rowWrites_evpend (v : Word) :
    RowWrites 0x010 v fun y => { y with evpend := y.evpend &&& ~~~(BitVec.ofNat 16 (v.toNat % 2 ^ 16)) } := by
  intro s c k
  rw [ofNat_mod_eq_setWidth]; rfl

theorem rowWrites_timer (v : Word) : RowWrites 0x012 v fun y => { y with timer := v } := fun _ _ _ => rfl

/-- The registers that REGISTER_WRITE changes; every other one is read-only for it (R4). -/
def rowNumbers : List Nat := [0x000, 0x008, 0x009, 0x00A, 0x00B, 0x010, 0x012, 0x018, 0x100]

theorem execRegisterWrite_other {n : Nat} (hn : n < 2 ^ 12) (h : n ∉ rowNumbers) (c k : Nat) (v : Word) :
    execRegisterWrite c k (BitVec.ofNat 12 n) v s = .next s := by
  have e : (BitVec.ofNat 12 n).toNat = n := by rw [BitVec.toNat_ofNat, Nat.mod_eq_of_lt hn]
  simp only [rowNumbers, List.mem_cons, List.not_mem_nil, or_false, not_or] at h
  simp [execRegisterWrite, e, h]

/-- A register that takes nothing keeps what its strand holds. -/
theorem rowWrites_readOnly {n : Nat} (hn : n < 2 ^ 12) (h : n ∉ rowNumbers) (v : Word) : RowWrites n v id := fun s c k =>
  (execRegisterWrite_other s hn h c k v).trans (congrArg _ (s.modStrand_id c k).symm)

/-! ## SYSW -/

/-- The registers whose write by SYSW is more than REGISTER_WRITE. -/
def sysActions : List Nat := [0x011, 0x01C, 0x01D, 0x101]

/-- SYSW on a register without behaviour of its own is the row behind the end of the instruction. -/
theorem State.execSysw_row {n : Nat} (a : Reg) (h : s.ownSys n) (hp : n ∉ sysActions) :
    execSysw (BitVec.ofNat 12 n) a s = execRegisterWrite s.myCore s.myStrand (BitVec.ofNat 12 n) (s.reg a) (s.finish 4) := by
  simp only [sysActions, List.mem_cons, List.not_mem_nil, or_false, not_or] at hp
  rw [execSysw, s.onSys_own _ h]
  simp [hp]

/-- A change of the moving strand behind the end of an instruction that writes no register. -/
theorem State.finish_modStrand_wrote (f : Strand → Strand) (h : ∀ t, f (t.finish 4) = (f t).finish 4) :
    Wrote (s.modMe f) ((s.finish 4).modStrand s.myCore s.myStrand f) 0 0 4 := by
  rw [s.finish_modStrand_comm 4 f h]; exact State.finish_wrote _ 4

/-- The same of a change of the moving core. -/
theorem State.finish_modCore_wrote (g : Core → Core) (h : ∀ x k f, g (Core.modStrand x k f) = (g x).modStrand k f) :
    Wrote (s.modCore s.myCore g) ((s.finish 4).modCore s.myCore g) 0 0 4 := by
  rw [s.finish_modCore_comm 4 g h]; exact State.finish_wrote _ 4

/-- What a row writes, SYSW writes to the moving strand. -/
theorem RowWrites.sysw {n : Nat} {a : Reg} {f : StrandSys → StrandSys} (hw : RowWrites n (s.reg a) f) (h : s.ownSys n)
    (hp : n ∉ sysActions) :
    RunsTo (.sysw (BitVec.ofNat 12 n) a) s (Wrote (s.modMe fun t => { t with sys := f t.sys }) · 0 0 4) := by
  refine ⟨_, ?_, s.finish_modStrand_wrote (fun t => { t with sys := f t.sys }) fun _ => rfl⟩
  rw [exec_sysw, s.execSysw_row a h hp]
  exact hw (s.finish 4) s.myCore s.myStrand

theorem State.sysw_rpfail (a : Reg) :
    RunsTo (.sysw 0x018 a) s (Wrote (s.modCore s.myCore fun y => { y with rpfail := s.reg a }) · 0 0 4) := by
  refine ⟨_, ?_, s.finish_modCore_wrote _ (Core.modStrand_rpfail (s.reg a))⟩
  exact (exec_sysw s _ a).trans (s.execSysw_row (n := 0x018) a ⟨by decide, .inl (by decide)⟩ (by decide))

theorem State.sysw_rsel (a : Reg) (hu : s.me.sys.super = true) :
    RunsTo (.sysw 0x100 a) s (Wrote (s.modCore s.myCore fun y => { y with rsel := s.reg a &&& 0x7FF }) · 0 0 4) := by
  refine ⟨_, ?_, s.finish_modCore_wrote _ (Core.modStrand_rsel (s.reg a &&& 0x7FF))⟩
  exact (exec_sysw s _ a).trans (s.execSysw_row (n := 0x100) a ⟨by decide, .inr hu⟩ (by decide))

/-! ## CORECTL with no action -/

theorem State.failTasks_none (c cause : Nat) (p : Task → Bool) (h : ∀ u, p u = false) : s.failTasks c cause p = s := by
  have hf : (s.core c).window.filter p = [] := List.filter_eq_nil_iff.2 fun u _ => by simp [h]
  rw [State.failTasks, hf]; rfl

theorem forMask_zero (f : Nat → State → State) : forMask 0#4 s f = s := by
  simp [forMask]

/-- A write of CORECTL whose fields are all 0 acts on nothing (R286, Table 13.7). -/
theorem State.corectl_zero (c : Nat) (v : Word) (h : v.toNat % 2 ^ 13 = 0) : s.corectl c v = .next s := by
  have field (hi lo : Nat) (hh : hi < 13) (hl : lo ≤ hi) : bitsOf v.toNat hi lo = 0 := by
    have hd : 2 ^ lo * 2 ^ (hi + 1 - lo) ∣ v.toNat := by
      rw [← Nat.pow_add]
      exact (Nat.pow_dvd_pow 2 (by omega)).trans (Nat.dvd_of_mod_eq_zero h)
    rw [bitsOf, ← Nat.mod_mul_right_div_self, Nat.mod_eq_zero_of_dvd hd, Nat.zero_div]
  have flush : execCorectlFlush c 0#4 s = .next s := by
    refine congrArg _ (s.failTasks_none c _ _ fun u => ?_)
    unfold Task.ofMask; split <;> simp
  have stop : execCorectlStop c 0#4 s = .next s := congrArg _ (forMask_zero s fun k s => s.watchdogStop c k)
  have reset : execCorectlReset c 0#4 s = .next s := by simp [execCorectlReset, forMask_zero]
  simp [State.corectl, field, flush, stop, reset, Out.thenState]

theorem State.sysw_corectl_zero (a : Reg) (hu : s.me.sys.super = true) (h : (s.reg a).toNat % 2 ^ 13 = 0) :
    RunsTo (.sysw 0x101 a) s (Wrote s · 0 0 4) := by
  refine ⟨s.finish 4, ?_, s.finish_wrote 4⟩
  rw [exec_sysw, execSysw]
  refine (s.onSys_own (n := 0x101) _ ⟨by decide, .inr hu⟩).trans ?_
  exact (s.finish 4).corectl_zero _ _ h

/-! ## The trace ring -/

theorem State.sysw_trctl (a : Reg) :
    RunsTo (.sysw 0x01C a) s (Wrote (s.modMe fun t => { t with
      sys := { t.sys with trctl := s.reg a &&& 0xFFF1FB, trhead := 0 }, tr := { t.tr with full := false } }) · 0 0 4) := by
  refine ⟨_, ?_, s.finish_modStrand_wrote _ fun _ => rfl⟩
  rw [exec_sysw, execSysw]
  exact s.onSys_own (n := 0x01C) _ ⟨by decide, .inl (by decide)⟩

theorem State.sysw_trbase (a : Reg) :
    RunsTo (.sysw 0x01D a) s (Wrote (s.modMe fun t => { t with
      sys := { t.sys with trbase := s.reg a, trhead := 0 }, tr := { t.tr with full := false } }) · 0 0 4) := by
  refine ⟨_, ?_, s.finish_modStrand_wrote _ fun _ => rfl⟩
  rw [exec_sysw, execSysw]
  exact s.onSys_own (n := 0x01D) _ ⟨by decide, .inl (by decide)⟩

/-! ## EVSET -/

theorem mem_maskBits (m n i : Nat) : i ∈ maskBits m n ↔ i < n ∧ m.testBit i = true := by
  simp [maskBits, Nat.testBit_eq_decide_div_mod_eq]

/-- Setting events changes EVPEND and the notes of the setters, and nothing else of the strand. -/
theorem Strand.setEvents_rest (bits : List Nat) (a : Arriver) (t : Strand) : t.setEvents bits a =
    { t with sys := { t.sys with evpend := (t.setEvents bits a).sys.evpend }, evSetter := (t.setEvents bits a).evSetter } := by
  induction bits generalizing t with
  | nil => rfl
  | cons b bits ih =>
    show (t.setEvent b a).setEvents bits a = _
    rw [ih]; rfl

theorem Strand.setEvents_evpend (bits : List Nat) (a : Arriver) (t : Strand) (i : Nat) (hb : ∀ b ∈ bits, b < 16) :
    (t.setEvents bits a).sys.evpend.getLsbD i = (t.sys.evpend.getLsbD i || decide (i ∈ bits)) := by
  induction bits generalizing t with
  | nil => simp [Strand.setEvents]
  | cons b bits ih =>
    have hb16 : b < 16 := hb b (by simp)
    have hbit : (BitVec.ofNat 16 (2 ^ b)).getLsbD i = decide (i = b) := by
      rw [BitVec.getLsbD_ofNat, Nat.testBit_two_pow, ← Bool.decide_and]
      exact decide_eq_decide.2 ⟨fun h => h.2.symm, fun h => ⟨h ▸ hb16, h.symm⟩⟩
    show ((t.setEvent b a).setEvents bits a).sys.evpend.getLsbD i = _
    rw [ih _ fun b' h => hb b' (by simp [h])]
    simp only [Strand.setEvent, BitVec.getLsbD_or, hbit, List.mem_cons, Bool.decide_or, Bool.or_assoc]

/-- The strand of core c that a value written to EVSET names (R289). -/
def evTarget (v : Word) : Nat := v.toNat / 2 ^ 16 % 4

/-- An EVSET of v has set the events of its bits [7:0] in the strand of core c that it names, and changed no other strand, and of that one
no register and not its place. -/
structure EventsSet (s t : State) (c : Nat) (v : Word) : Prop where
  events : ∀ i, (t.strand c (evTarget v)).sys.evpend.getLsbD i =
    ((s.strand c (evTarget v)).sys.evpend.getLsbD i || (decide (i < 8) && v.getLsbD i))
  others : ∀ c' k', ¬ (c' = c ∧ k' = evTarget v) → t.strand c' k' = s.strand c' k'
  mem : t.mem = s.mem
  cursor : t.at_ = s.at_
  regs : t.me.regs = s.me.regs
  pc : t.me.pc = s.me.pc

theorem State.evRelease_core (c k d : Nat) : (s.evRelease c k).core d = s.core d := by
  unfold State.evRelease; split <;> rfl

theorem State.evRelease_strand (c k c' k' : Nat) : (s.evRelease c k).strand c' k' = s.strand c' k' :=
  congrArg (Core.strand · k') (s.evRelease_core c k c')

theorem State.evset_eventsSet (c : Nat) (v : Word) (hc : c < 260) : ∃ t, execEvset c v s = .next t ∧ EventsSet s t c v := by
  have ht : bitsOf v.toNat 17 16 = evTarget v := rfl
  have hk : evTarget v < 4 := Nat.mod_lt _ (by decide)
  let bits := maskBits (v.toNat % 2 ^ 8) 8
  have hbits (i : Nat) : decide (i ∈ bits) = (decide (i < 8) && v.getLsbD i) := by
    rw [BitVec.getLsbD, ← Bool.decide_eq_true (b := v.toNat.testBit i), ← Bool.decide_and]
    refine decide_eq_decide.2 ((mem_maskBits _ _ _).trans (and_congr_right fun h => ?_))
    rw [Nat.testBit_mod_two_pow, decide_eq_true h, Bool.true_and]
  have at_ : (s.evRelease c (evTarget v)).at_ = s.at_ := by unfold State.evRelease; split <;> rfl
  have mem : (s.evRelease c (evTarget v)).mem = s.mem := by unfold State.evRelease; split <;> rfl
  have rest := fun t => Strand.setEvents_rest bits s.meArriver t
  refine ⟨_, rfl, ?_⟩
  rw [ht]
  constructor
  case events =>
    intro i
    rw [State.strand_modStrand_self _ _ hc hk, s.evRelease_strand, Strand.setEvents_evpend, hbits]
    exact fun b h => Nat.lt_of_lt_of_le ((mem_maskBits _ _ _).1 h).1 (by decide)
  case others =>
    intro c' k' h
    rw [State.strand_modStrand_ne _ _ h, s.evRelease_strand]
  case mem => rw [State.modStrand_mem, mem]
  case cursor => rw [State.modStrand_at_, at_]
  case regs =>
    rw [State.me, State.modStrand_keeps _ Strand.regs _ fun t => by rw [rest], s.evRelease_strand]
    simp [State.me, State.myCore, State.myStrand, at_]
  case pc =>
    rw [State.me, State.modStrand_keeps _ Strand.pc _ fun t => by rw [rest], s.evRelease_strand]
    simp [State.me, State.myCore, State.myStrand, at_]

/-- A release below GRP scope that goes on changes what the moving strand is ordered after, and nothing else. -/
theorem State.noteRelease_modMe (n : Nat) : ∃ l, s.noteRelease n = s.modMe fun t => { t with after := l } := by
  unfold State.noteRelease
  split
  · exact ⟨s.me.after, s.modMe_id.symm.trans (s.modMe_congr rfl)⟩
  · exact ⟨s.joinLate s.me.after (s.inScope s.myCore n (s.me.wrote ++ s.me.read)), s.modMe_congr rfl⟩

/-- SYSW of EVSET is a release at CORE scope (R289). -/
theorem State.execSysw_evset (a : Reg) :
    execSysw 0x011 a s = s.release 0 fun u => execEvset s.myCore (s.reg a) (u.finish 4) := by
  rw [execSysw]
  exact s.onSys_own (n := 0x011) _ ⟨by decide, .inl (by decide)⟩

/-- SYSW of EVSET whose release holds. -/
theorem State.sysw_evset (a : Reg) (h : s.me.relReady 0 = true) :
    ∃ u t, exec (.sysw 0x011 a) s = .next t ∧ EventsSet u t s.myCore (s.reg a) ∧
      (∀ j, (u.strand s.myCore j).sys = (s.strand s.myCore j).sys) ∧ u.mem = s.mem ∧ u.me.regs = s.me.regs ∧ u.me.pc = s.me.pc + 4 := by
  obtain ⟨l, hl⟩ := s.noteRelease_modMe 0
  have hu : (s.noteRelease 0).finish 4 = s.modMe fun t => ({ t with after := l } : Strand).finish 4 := by
    rw [hl]; exact s.modMe_modMe _ _
  have keep (t : Strand) : (({ t with after := l } : Strand).finish 4).sys = t.sys := rfl
  obtain ⟨t, ht, hset⟩ := ((s.noteRelease 0).finish 4).evset_eventsSet s.myCore (s.reg a) s.at_.core.isLt
  refine ⟨_, t, ?_, hset, fun j => ?_, ?_, ?_, ?_⟩
  · rw [exec_sysw, s.execSysw_evset, s.release_ready 0 _ rfl h, ht]
  · rw [hu, State.modMe, s.modStrand_keeps Strand.sys _ keep]
  · rw [hu]; simp
  · rw [hu, State.me_modMe]; rfl
  · rw [hu, State.me_modMe]; rfl

theorem State.sysw_evset_waits (a : Reg) (h : s.me.relReady 0 = false) : RunsTo (.sysw 0x011 a) s (Waits s · 3 0) := by
  refine ⟨_, ?_, s.waitFor_waits 3 0⟩
  rw [exec_sysw, s.execSysw_evset, s.release_waits 0 _ (by decide) h]

/-! ## The statement -/

/-- Settles O25: each register's row is a `RowWrites` lemma, from which SYSW follows by `RowWrites.sysw`; the registers with an action of
their own have a lemma each. -/
theorem systemRegisterWrites : Obligations.SystemRegisterWrites := by
  intro s a c k v
  have own {n : Nat} (h : n < 0x400 ∧ sysSuper n = false ∧ n ∉ sysActions) {f : StrandSys → StrandSys} (hw : RowWrites n (s.reg a) f) :
      RunsTo (.sysw (BitVec.ofNat 12 n) a) s (Wrote (s.modMe fun t => { t with sys := f t.sys }) · 0 0 4) :=
    hw.sysw s ⟨h.1, .inl h.2.1⟩ h.2.2
  refine ⟨own (by decide) (rowWrites_fflags _), own (by decide) (rowWrites_tvec _), own (by decide) (rowWrites_epc _),
    own (by decide) (rowWrites_ecause _), own (by decide) (rowWrites_eval _), own (by decide) (rowWrites_evpend _),
    own (by decide) (rowWrites_timer _), s.sysw_rpfail a, s.sysw_trctl a, s.sysw_trbase a, fun n hn => ?_, s.sysw_rsel a,
    s.sysw_corectl_zero a, fun h => ?_, s.sysw_evset_waits a, rowWrites_fflags v s c k, rowWrites_tvec v s c k, rowWrites_epc v s c k,
    rowWrites_ecause v s c k, rowWrites_eval v s c k, rowWrites_evpend v s c k, rowWrites_timer v s c k, rfl, rfl, fun hc => ?_⟩
  · have h : (n < 0x400 ∧ sysSuper n = false ∧ n ∉ sysActions) ∧ n < 2 ^ 12 ∧ n ∉ rowNumbers := by
      revert n; decide
    exact ⟨own h.1 (rowWrites_readOnly h.2.1 h.2.2 _), rowWrites_readOnly h.2.1 h.2.2 v s c k⟩
  · obtain ⟨u, t, ht, hset, hsys, hmem, hregs, hpc⟩ := s.sysw_evset a h
    refine ⟨t, ht, fun i => ?_, fun j hj => ?_, hset.mem.trans hmem, hset.regs.trans hregs, hset.pc.trans hpc⟩
    · exact (hset.events i).trans (by rw [hsys]; rfl)
    · rw [hset.others _ j fun e => hj e.2, hsys]
  · obtain ⟨t, ht, hset⟩ := s.evset_eventsSet c v hc
    exact ⟨t, ht, hset.events, hset.others⟩

end Sys2Proof.Machine
end

section
/-!
SUPPORT. The turn of a strand (R12, R31, R149, R153): the fetch of a word from this package, the issue of an instruction, the round-robin
order, and the step around them.
-/
namespace Sys2Proof.Machine

variable (s : State)

/-! ## The fetch of a word -/

/-- Nothing but the translation and the poison stands between the moving strand and the bytes that it fetches: no open fault of a fetch
holds it, no soft error lies latent, and its core holds no line of instruction bytes. -/
structure State.FetchesMemory (s : State) : Prop where
  free : s.fetchHeld s.myCore s.myStrand = false
  sound : s.softErrors = []
  uncached : s.here.icache = []

/-- An address at which the moving strand may fetch translates to a key of this package where nothing is poisoned. -/
def State.CodeAt (s : State) (va : Word) (key : Nat) : Prop :=
  (∃ mode, s.myTranslate accFetch va.toNat = .to (.here key) mode) ∧ s.poisoned key 4 = false

variable {s}

/-- The word in hand does not matter to a fetch. -/
theorem State.FetchesMemory.withIr (h : s.FetchesMemory) (w : Word) : ({ s with ir := w } : State).FetchesMemory :=
  ⟨h.free, h.sound, h.uncached⟩

theorem State.CodeAt.withIr {va : Word} {key : Nat} (h : s.CodeAt va key) (w : Word) : ({ s with ir := w } : State).CodeAt va key := h

theorem State.codeByte_uncached (k : Nat) : s.codeByte [] k = s.byte k := rfl

theorem State.fetchWord_here {va : Word} {key : Nat} (go : Nat → State → Out) (hf : s.FetchesMemory) (hc : s.CodeAt va key) :
    s.fetchWord va go = go (s.readNat key 4) s := by
  obtain ⟨⟨mode, ht⟩, hp⟩ := hc
  rw [State.myTranslate] at ht
  have bytes : s.fetchAt s.myCore s.me.sys.spaceid.toNat s.me.sys.super 0 va.toNat 4 s.here.icache = .bytes (s.bytes key 4) := by
    simp [State.fetchAt, ht, s.detect_none _ _ hf.sound, hp, hf.uncached, State.codeByte_uncached, State.bytes]
  have found : s.fetchDetect s.myCore s.me.sys.spaceid.toNat s.me.sys.super 0 va.toNat 4 = s := by
    simp [State.fetchDetect, hf.sound]
  unfold State.fetchWord
  simp only [hf.free, bytes, found]
  rfl

/-- The word or the two words at the program counter are decoded, and what they decode to is run with the first in hand. -/
theorem runStrand_here {key key1 : Nat} (hf : s.FetchesMemory) (hc : s.CodeAt s.me.pc key)
    (hl : isLongWord (s.readNat key 4) = true → s.CodeAt (s.me.pc + 4) key1) :
    runStrand s = runDecoded (s.readNat key 4) { s with ir := BitVec.ofNat 64 (s.readNat key 4) }
      (decodeControl (s.readNat key 4) (if isLongWord (s.readNat key 4) then s.readNat key1 4 else 0)) := by
  rw [runStrand, State.fetchWord_here _ hf hc]
  generalize s.readNat key 4 = w0 at hl ⊢
  cases h : isLongWord w0 with
  | false => simp only [Bool.false_eq_true, if_false]
  | true =>
    simp only [if_true]
    exact State.fetchWord_here _ (hf.withIr _) ((hl h).withIr _)

/-! ## Issue -/

theorem State.endRegWait_run (h : s.me.state = .run) : s.endRegWait = s := by
  have e : (s.me.state == .wait) = false := by rw [h]; rfl
  unfold State.endRegWait
  simp only [e]
  rfl

/-- An instruction with nothing to wait for, at no safe point, is executed by a strand in RUN. -/
theorem State.issue_runs {i : Instr} (go : State → Out) (hr : s.me.state = .run) (hb : s.me.arrived = true ∨ s.blockedOn i = none)
    (hp : s.safePointAt s.myCore s.myStrand = none) : s.issue i go = go (s.observe i) := by
  have h : (if s.me.arrived then none else s.blockedOn i) = none := by
    rcases hb with hb | hb <;> simp [hb]
  unfold State.issue
  rw [h]
  simp only [hp, s.endRegWait_run hr]

/-- An instruction waits for a pending register that it names. -/
theorem State.issue_waits {i : Instr} {r : Reg} (go : State → Out) (ha : s.me.arrived = false) (hb : s.blockedOn i = some r) :
    s.issue i go = .next (s.waitFor (s.me.regWait r).1 (s.me.regWait r).2) := by
  unfold State.issue
  rw [ha, hb]
  rfl

/-! ## The round-robin order -/

/-- How many strands come before strand j after the one that issued last. -/
def Core.turnsTo (x : Core) (j : Nat) : Nat := (j + 4 - 1 - x.lastStrand % 4) % 4

theorem Core.turnsTo_lt (x : Core) (j : Nat) : x.turnsTo j < 4 := Nat.mod_lt _ (by decide)

theorem Core.strand_of_turn (x : Core) {i j : Nat} (hi : i < 4) (hj : j < 4) : (x.lastStrand + 1 + i) % 4 = j ↔ i = x.turnsTo j := by
  unfold Core.turnsTo; omega

/-- A ready strand that comes earlier in the order is before a strand. -/
theorem State.not_firstInTurn {c j k : Nat} (hj : j < 4) (hk : k < 4) (hr : (s.strand c j).state = .run)
    (hf : (s.strand c j).free s.now = true) (hlt : (s.core c).turnsTo j < (s.core c).turnsTo k) : s.firstInTurn c k = false := by
  unfold State.firstInTurn
  rw [beq_eq_false_iff_ne]
  intro h
  rw [List.find?_map, Option.map_eq_some_iff] at h
  obtain ⟨i, hi, hik⟩ := h
  obtain ⟨-, hmem, before⟩ := List.find?_range_eq_some.1 hi
  have hk' : i = (s.core c).turnsTo k := (Core.strand_of_turn _ (List.mem_range.1 hmem) hk).1 hik
  have hj' : ((s.core c).lastStrand + 1 + (s.core c).turnsTo j) % 4 = j := (Core.strand_of_turn _ (Core.turnsTo_lt _ j) hj).2 rfl
  have unready := before _ (hk' ▸ hlt)
  have ready : (((s.core c).strand j).state == .run && ((s.core c).strand j).free s.now) = true :=
    Bool.and_eq_true_iff.2 ⟨beq_iff_eq.2 hr, hf⟩
  simp [hj', ready] at unready

/-! ## The turn -/

variable (s) in
/-- The strand whose turn it is. -/
def State.atStrand (c : Fin 260) (k : Fin 4) : State := { s with at_ := ⟨c, k, 0⟩ }

theorem step_strand {c : Fin 260} {k : Fin 4} (h : s.turn = some (.strand c k)) : step s = endOf (stepStrand (s.atStrand c k)) := by
  unfold step
  split
  case h_2 c' k' e =>
    obtain ⟨rfl, rfl⟩ : c' = c.val ∧ k' = k.val := by simpa using e.symm.trans h
    exact dif_pos ⟨c.isLt, k.isLt⟩
  all_goals
    rename_i e
    exact absurd (h.symm.trans e) (by simp)

/-- A turn that no strand can use lets time pass. -/
theorem stepStrand_passes (h : s.power.on = false ∨ s.me.movable s.now = false ∨ s.firstInTurn s.myCore s.myStrand = false) :
    stepStrand s = .next s := by
  unfold stepStrand
  rcases h with h | h | h <;> simp [h]

/-- A strand whose turn is used and that has no refusal to raise: its instruction is fetched and run. -/
structure State.Moves (s : State) : Prop where
  power : s.power.on = true
  running : s.me.state = .run
  free : s.me.free s.now = true
  first : s.firstInTurn s.myCore s.myStrand = true
  quiet : s.me.deferred = []

/-- What a strand has run, noted in the round-robin order. -/
def Out.had (c k : Nat) : Out → Out
  | .next u => .next (u.issuedBy c k)
  | o => o

theorem stepStrand_moves (h : s.Moves) : stepStrand s = (runStrand s).had s.myCore s.myStrand := by
  have hm : s.me.movable s.now = true := by simp [Strand.movable, h.running, h.free]
  have hd : s.raiseDeferred = none := by simp [State.raiseDeferred, h.quiet]
  unfold stepStrand
  simp only [h.power, hm, h.first, hd]
  unfold Out.had
  rfl

/-! ## The statement -/

/-- Settles O35: the turn of a strand that may move is its fetch from memory (`runStrand_here`), then an issue that runs or waits; the turn of
one that may not passes; and the round-robin order is `State.not_firstInTurn`. -/
theorem stepRunsStrand : Obligations.StepRunsStrand := by
  intro s c k key key1 mode mode1 i u t w0 w1 fetched code had place
  refine ⟨?_, ?_, ?_⟩
  · intro hturn hpow hsoft hrun hfree hfirst hdef hheld hic hcode hlong
    have hm : u.Moves := ⟨hpow, hrun, hfree, hfirst, hdef⟩
    have hf : u.FetchesMemory := ⟨hheld, hsoft, hic⟩
    have hstep : step s = endOf ((runDecoded w0 fetched (decodeControl w0 w1)).had c k) := by
      rw [step_strand hturn]
      refine congrArg endOf ((stepStrand_moves hm).trans ?_)
      refine congrArg (Out.had c k) (runStrand_here hf ⟨⟨mode, hcode.1⟩, hcode.2⟩ fun h => ?_)
      exact ⟨⟨mode1, (hlong h).1⟩, (hlong h).2⟩
    have hhad : ∀ o, Out.had c k o = had o := fun o => by cases o <;> rfl
    refine ⟨fun hi hsp => ⟨fun hb => ?_, fun r ha hb => ?_⟩, fun e he => ?_⟩
    · rw [hstep, hi, hhad]
      exact congrArg (fun o => endOf (had o)) (State.issue_runs (s := fetched) (exec i) hrun hb hsp)
    · rw [hstep, hi, hhad]
      exact congrArg (fun o => endOf (had o)) (State.issue_waits (s := fetched) (exec i) ha hb)
    · rw [hstep, he, hhad]; rfl
  · intro hturn h
    rw [step_strand hturn]
    exact congrArg endOf (stepStrand_passes (s := u) h)
  · intro j hr hf hlt
    exact State.not_firstInTurn j.isLt k.isLt hr hf hlt

end Sys2Proof.Machine
end

section
/-!
SUPPORT. A strand that starts (R28, R32, R284): what SPAWN leaves of the strand it starts, and of every other.
-/
namespace Sys2Proof.Machine

variable (s : State)

/-! ## The strand that moves, behind a change of another -/

theorem State.onlyMe_at_ {s t : State} (h : s.onlyMe t) : t.at_ = s.at_ := by rw [h.1]

theorem State.me_modStrand_ne {c k : Nat} (f : Strand → Strand) (h : ¬ (s.myCore = c ∧ s.myStrand = k)) : (s.modStrand c k f).me = s.me := by
  simp only [State.me, State.myCore, State.myStrand, State.modStrand_at_]
  exact s.strand_modStrand_ne f h

/-! ## An entry address -/

/-- Clearing the bits [1:0] of a multiple of 4 changes nothing. -/
theorem and_not_three_of_dvd {x : Word} (h : x.toNat % 4 = 0) : x &&& ~~~3#64 = x := by
  refine BitVec.eq_of_getLsbD_eq fun i hi => ?_
  have low (i : Nat) (hi : i < 2) : x.getLsbD i = false := by
    have bit := congrArg (Nat.testBit · i) (show x.toNat % 2 ^ 2 = 0 from h)
    rw [Nat.testBit_mod_two_pow, decide_eq_true hi, Bool.true_and] at bit
    exact bit.trans (Nat.zero_testBit i)
  have three (i : Nat) : (3#64).getLsbD i = decide (i < 2) := by
    rw [BitVec.getLsbD_ofNat]
    rcases i with - | - | i <;> simp [Nat.testBit_succ]
  rw [BitVec.getLsbD_and, BitVec.getLsbD_not, three]
  by_cases h2 : i < 2
  · simp [low i h2]
  · simp [h2, hi]

/-- The entry address of a SPAWN, whose bits [1:0] name the strand (R32). -/
theorem entry_aligned (x : Word) : (x - BitVec.ofNat 64 (x.toNat % 4)) &&& ~~~3#64 = x - BitVec.ofNat 64 (x.toNat % 4) := by
  refine and_not_three_of_dvd ?_
  have hx := x.isLt
  rw [BitVec.toNat_sub, BitVec.toNat_ofNat]
  omega

/-! ## A strand as it starts -/

/-- A strand as SPAWN leaves it: with s3 and s4 given by the strand that spawns it. -/
def Strand.spawned (t : Strand) (entry s2 : Word) (super : Bool) (space : BitVec 20) (launch : Option Nat) (s3 s4 : Word) : Strand :=
  ((t.start entry s2 super space launch).setReg 3 s3).setReg 4 s4

theorem Strand.reset_reg (r : Reg) : Strand.reset.reg r = 0 := by
  unfold Strand.reg Strand.reset
  split
  · rfl
  · exact Vector.getElem_replicate _

theorem Strand.reset_rgnAt (q : QReg) : Strand.reset.rgnAt q = 0 := Vector.getElem_replicate _

theorem Strand.reg_congr {t u : Strand} (h : t.regs = u.regs) (r : Reg) : t.reg r = u.reg r := by
  unfold Strand.reg; rw [h]

theorem Strand.spawned_reg (t : Strand) (entry s2 : Word) (super : Bool) (space : BitVec 20) (launch : Option Nat) (s3 s4 : Word)
    {r : Reg} (h : r ≠ 2) : (t.spawned entry s2 super space launch s3 s4).reg r = if r = 3 then s3 else if r = 4 then s4 else 0 := by
  have h2 : (t.start entry s2 super space launch).reg r = 0 := by
    rw [Strand.start, Strand.reg_setReg, if_neg fun e => h e.1]
    exact (Strand.reg_congr rfl r).trans (Strand.reset_reg r)
  rw [Strand.spawned, Strand.reg_setReg, Strand.reg_setReg, h2]
  by_cases h3 : r = 3
  · subst h3; rfl
  · by_cases h4 : r = 4
    · subst h4; rfl
    · rw [if_neg fun e => h4 e.1, if_neg fun e => h3 e.1, if_neg h3, if_neg h4]

/-- Everything of a spawned strand but its registers. -/
theorem Strand.spawned_rest (t : Strand) (entry s2 : Word) (super : Bool) (space : BitVec 20) (launch : Option Nat) (s3 s4 : Word) :
    ∃ regs toks, t.spawned entry s2 super space launch s3 s4 = { Strand.reset with
      stores := t.stores, streams := t.streams, barMem := t.barMem, wrote := t.wrote, read := t.read, after := t.after,
      tr := { Strand.reset.tr with stepReq := t.tr.stepReq }, state := .run, pc := entry &&& ~~~3#64, launch := launch,
      sys := { Strand.reset.sys with super := super, spaceid := space }, regs := regs, tokArriver := toks } := by
  have same := ((t.start entry s2 super space launch).setReg 3 s3).setReg_rest 4 s4
  rw [Strand.setReg_rest _ 3, Strand.start, Strand.setReg_rest _ 2] at same
  exact ⟨_, _, same⟩

/-! ## SPAWN -/

theorem State.dropFetch_only (c k : Nat) : ∃ rs, s.dropFetch c k = { s with reqs := rs } := by
  unfold State.dropFetch
  split
  exacts [⟨_, rfl⟩, ⟨s.reqs, rfl⟩]

theorem State.spawn_refused (d a b : Reg) (h : (s.strand s.myCore ((s.reg a).toNat % 4)).state ≠ .idle) :
    RunsTo (.spawn d a b) s (Wrote s · d (BitVec.allOnes 64) 4) := by
  refine ⟨s.result d minusOne 4, ?_, s.result_wrote d minusOne 4⟩
  show execSpawn d a b s = _
  simp [execSpawn, h]

/-- SPAWN of an idle strand k, in the terms of the strand that it leaves. -/
theorem State.spawn_starts (d a b : Reg) (hme : s.me.state = .run) (h : (s.strand s.myCore ((s.reg a).toNat % 4)).state = .idle) :
    RunsTo (.spawn d a b) s fun t =>
      (∃ s2, t.strand s.myCore ((s.reg a).toNat % 4) = (s.strand s.myCore ((s.reg a).toNat % 4)).spawned
        (s.reg a - BitVec.ofNat 64 ((s.reg a).toNat % 4)) s2 s.me.sys.super s.me.sys.spaceid s.me.launch (s.reg 3) (s.reg b)) ∧
      (∀ r, t.reg r = if r = d ∧ r ≠ 0 then 0 else s.reg r) ∧ t.me.pc = s.me.pc + 4 ∧ t.mem = s.mem ∧
      ∀ c' k', ¬ (c' = s.myCore ∧ k' = (s.reg a).toNat % 4) → ¬ (c' = s.myCore ∧ k' = s.myStrand) → t.strand c' k' = s.strand c' k' := by
  generalize hk : (s.reg a).toNat % 4 = k at h ⊢
  have hk4 : k < 4 := hk ▸ Nat.mod_lt _ (by decide)
  have hc : s.myCore < 260 := s.at_.core.isLt
  have hne : ¬ (s.myCore = s.myCore ∧ s.myStrand = k) := by
    rintro ⟨-, rfl⟩
    exact absurd (hme.symm.trans h) (by decide)
  obtain ⟨rs, hrs⟩ := s.dropFetch_only s.myCore k
  let v : State := { s with reqs := rs }
  let f (t : Strand) : Strand := t.spawned (s.reg a - BitVec.ofNat 64 k) (s.stackFor s.me.launch s.myCore k) s.me.sys.super
    s.me.sys.spaceid s.me.launch (s.reg 3) (s.reg b)
  let u := v.modStrand s.myCore k f
  have hat : u.at_ = s.at_ := v.modStrand_at_ _ _ f
  have hume : u.me = s.me := v.me_modStrand_ne f hne
  have w := u.result_wrote d 0 4
  have others (c' k' : Nat) (h : ¬ (c' = s.myCore ∧ k' = s.myStrand)) : (u.result d 0 4).strand c' k' = u.strand c' k' :=
    w.frame.2.2 c' k' (by simpa only [State.myCore, State.myStrand, hat] using h)
  refine ⟨u.result d 0 4, ?_, ⟨s.stackFor s.me.launch s.myCore k, ?_⟩, fun r => ?_, ?_, ?_, fun c' k' h1 h2 => ?_⟩
  · show execSpawn d a b s = _
    simp only [execSpawn, hk, h, hrs]
    rfl
  · rw [others _ _ fun e => hne ⟨rfl, e.2.symm⟩]
    exact v.strand_modStrand_self f hc hk4
  · rw [w.value r]
    exact congrArg (fun x => if r = d ∧ r ≠ 0 then 0 else Strand.reg x r) hume
  · rw [w.pc, hume]; rfl
  · exact (u.result_mem d 0 4).trans (v.modStrand_mem _ _ f)
  · rw [others _ _ h2]
    exact v.strand_modStrand_ne f h1

end Sys2Proof.Machine
end

section
/-!
SUPPORT. A strand that drains its tasks, and the instructions that end, count, yield or halt a strand (R12, R33, R50, R51, R287, R288).
-/
namespace Sys2Proof.Machine

variable (s : State)

/-! ## What the strand that moves leaves of its core -/

theorem State.banksHeld_of_onlyMe {s t : State} (h : s.onlyMe t) (c : Nat) : (t.core c).banksHeld = (s.core c).banksHeld := by
  rw [h.2.1 c]; rfl

theorem State.here_modMe_partno (f : Strand → Strand) : (s.modMe f).here.partno = s.here.partno := by
  have hat := State.onlyMe_at_ (s.modMe_onlyMe f)
  rw [State.here, State.myCore, hat, (s.modMe_onlyMe f).2.1]
  rfl

theorem State.preempting_modMe (f : Strand → Strand) : (s.modMe f).preempting = s.preempting := by
  unfold State.preempting State.part
  rw [s.here_modMe_partno, s.modMe_parts]

/-! ## Draining -/

theorem Core.posted_iff (x : Core) {k : Nat} (hk : k < 4) : x.posted k = true ↔ ∃ u ∈ x.window, u.owner = .strand k := by
  unfold Core.posted Core.heldBy
  rw [bne_iff_ne, Ne, List.length_eq_zero_iff, List.filter_eq_nil_iff, not_forall₂]
  simp only [not_not, exists_prop]
  refine exists_congr fun u => and_congr_right fun _ => ?_
  cases u.owner with
  | strand j => simp
  | remote who tag => simpa using Nat.ne_of_lt hk

/-- A strand with a path length. -/
def Strand.withPlen (n : Nat) (t : Strand) : Strand := { t with sys := { t.sys with plen := n } }

/-- The state in which a strand leaves a drain: the task that retired last gives its path length (R370). -/
def State.afterDrain (s : State) : State :=
  match s.me.lastDone with
  | some x => s.left x 11
  | none => s

theorem State.left_withPlen (a : Arriver) (e : Nat) : ∃ n, s.left a e = s.modMe (Strand.withPlen n) :=
  ⟨_, s.modMe_congr rfl⟩

theorem State.afterDrain_withPlen : ∃ n, s.afterDrain = s.modMe (Strand.withPlen n) := by
  unfold State.afterDrain
  split
  · exact s.left_withPlen _ _
  · exact ⟨s.me.sys.plen, s.modMe_id.symm.trans (s.modMe_congr rfl)⟩

theorem State.drained_posted (go : State → Out) (h : ∃ u ∈ s.here.window, u.owner = .strand s.myStrand) :
    s.drained go = .next (s.waitFor 8 0) := by
  have hp : s.here.posted s.myStrand = true := (s.here.posted_iff s.at_.strand.isLt).2 h
  rw [State.drained, hp]
  rfl

theorem State.drained_empty (go : State → Out) (h : ¬ ∃ u ∈ s.here.window, u.owner = .strand s.myStrand) (hw : s.noWaitRecord) :
    s.drained go = go s.afterDrain := by
  have hp : s.here.posted s.myStrand = false := Bool.eq_false_iff.2 fun e => h ((s.here.posted_iff s.at_.strand.isLt).1 e)
  unfold State.drained State.afterDrain
  rw [hp]
  cases s.me.lastDone with
  | none => rfl
  | some x => exact congrArg go (s.leave_left x 11 hw)

theorem exec_endStrand : exec .endStrand s = execEndStrand s := rfl

theorem exec_ckpt : exec .ckpt s = execCkpt s := rfl

theorem State.drains_wait (h : ∃ u ∈ s.here.window, u.owner = .strand s.myStrand) :
    RunsTo .endStrand s (Waits s · 8 0) ∧ RunsTo .ckpt s (Waits s · 8 0) := by
  refine ⟨⟨s.waitFor 8 0, ?_, s.waitFor_waits 8 0⟩, ⟨s.waitFor 8 0, ?_, s.waitFor_waits 8 0⟩⟩
  · rw [exec_endStrand, execEndStrand, s.drained_posted _ h]
  · rw [exec_ckpt, execCkpt, s.drained_posted _ h]

/-! ## END -/

/-- The strand that moves after its fatal stop. -/
theorem State.me_stopStrand (cause : Nat) (v resume : Word) : (s.stopStrand s.myCore s.myStrand cause v resume).me =
    { s.me with state := .stopped, reason := 0, obj := 0, stopCause := some (cause, v, resume), tr := { s.me.tr with debugStop := none } } := by
  have hc : s.at_.core.val < 260 := s.at_.core.isLt
  have hk : s.at_.strand.val < 4 := s.at_.strand.isLt
  let f (t : Strand) : Strand := { t with
    state := .stopped, reason := 0, obj := 0, stopCause := some (cause, v, resume), tr := { t.tr with debugStop := none } }
  let u := s.modCore s.myCore fun x => { x.modStrand s.myStrand f with frozen := true }
  have hu : u.me = f s.me := by
    simp only [u, State.me, State.strand, State.myCore, State.myStrand, State.modCore_at_, State.core_modCore_self _ _ _ hc]
    exact Core.strand_setStrand_self (s.core s.at_.core.val) _ _ hk
  exact hu

/-- A trap leaves the annotations, fatal or not (R483). -/
theorem State.trap_annotations (cause : Nat) (v : Word) :
    (s.trap cause v).me.annTok = s.me.annTok ∧ (s.trap cause v).me.annBar = s.me.annBar := by
  unfold State.trap State.trapAt
  split
  · rw [s.me_stopStrand]; exact ⟨rfl, rfl⟩
  · change (State.modMe s _).me.annTok = _ ∧ (State.modMe s _).me.annBar = _
    rw [State.me_modMe]; exact ⟨rfl, rfl⟩

theorem State.afterDrain_onlyMe : s.onlyMe s.afterDrain := by
  obtain ⟨n, hn⟩ := s.afterDrain_withPlen
  rw [hn]; exact s.modMe_onlyMe _

theorem State.banksHeld_afterDrain : s.afterDrain.here.banksHeld = s.here.banksHeld := by
  rw [State.here, State.myCore, State.onlyMe_at_ s.afterDrain_onlyMe]
  exact State.banksHeld_of_onlyMe s.afterDrain_onlyMe _

theorem State.endStrand_leaks (hp : ¬ ∃ u ∈ s.here.window, u.owner = .strand s.myStrand) (hw : s.noWaitRecord)
    (hb : s.here.banksHeld ≠ 0) : exec .endStrand s = .next (s.afterDrain.trap Cause.accLeak (BitVec.ofNat 64 s.here.banksHeld)) := by
  rw [exec_endStrand, execEndStrand, s.drained_empty _ hp hw, s.banksHeld_afterDrain, if_pos hb]

theorem State.afterDrain_fatal (cause : Nat) : s.afterDrain.me.fatal cause = s.me.fatal cause := by
  obtain ⟨n, hn⟩ := s.afterDrain_withPlen
  rw [hn, State.me_modMe]; rfl

theorem State.afterDrain_annotations : s.afterDrain.me.annTok = s.me.annTok ∧ s.afterDrain.me.annBar = s.me.annBar := by
  obtain ⟨n, hn⟩ := s.afterDrain_withPlen
  rw [hn, State.me_modMe]; exact ⟨rfl, rfl⟩

/-- END without a bank held: the strand is IDLE, outside its launch and without annotations (R33). -/
def Strand.ended (t : Strand) : Strand :=
  { t with state := .idle, reason := 0, obj := 0, waited := 0, launch := none, annTok := none, annBar := none }

theorem State.endStrand_ends (hp : ¬ ∃ u ∈ s.here.window, u.owner = .strand s.myStrand) (hw : s.noWaitRecord)
    (hb : s.here.banksHeld = 0) : exec .endStrand s = .next (s.afterDrain.modMe Strand.ended) := by
  rw [exec_endStrand, execEndStrand, s.drained_empty _ hp hw, s.banksHeld_afterDrain, if_neg (not_not_intro hb)]
  rfl

theorem State.endStrand_idle (hp : ¬ ∃ u ∈ s.here.window, u.owner = .strand s.myStrand) (hw : s.noWaitRecord)
    (hb : s.here.banksHeld = 0) : RunsTo .endStrand s fun t => s.onlyMe t ∧ t.me.state = .idle ∧ t.me.launch = none ∧
      t.me.annTok = none ∧ t.me.annBar = none := by
  obtain ⟨n, hn⟩ := s.afterDrain_withPlen
  have hm : s.afterDrain.modMe Strand.ended = s.modMe fun t => (t.withPlen n).ended := by rw [hn, State.modMe_modMe]
  refine ⟨s.modMe fun t => (t.withPlen n).ended, hm ▸ s.endStrand_ends hp hw hb, s.modMe_onlyMe _, ?_⟩
  rw [State.me_modMe]; exact ⟨rfl, rfl, rfl, rfl⟩

/-! ## Counting a safe point -/

/-- What SAFEPT or CKPT adds to the count of the moving strand: nothing when a debug stop at it has added it (R287). -/
def State.ownCounts (s : State) : Word := if s.me.tr.counted then 0 else 1

/-- The count of an instruction at its safe point changes SPCNT and budgets of queues, and nothing else (R287, R429). -/
theorem State.ownCount_modMe : ∃ qs, s.ownCount = ({ s with queues := qs } : State).modMe fun t =>
    { t with sys := { t.sys with spcnt := t.sys.spcnt + s.ownCounts } } := by
  unfold State.ownCount State.ownCounts
  cases s.me.tr.counted with
  | true =>
    refine ⟨s.queues, s.modMe_id.symm.trans (s.modMe_congr ?_)⟩
    simp
  | false =>
    unfold State.countSafePoint
    simp only [Bool.false_eq_true, if_false]
    split
    exacts [⟨_, rfl⟩, ⟨s.queues, rfl⟩]

theorem State.me_ownCount : s.ownCount.me = { s.me with sys := { s.me.sys with spcnt := s.me.sys.spcnt + s.ownCounts } } := by
  obtain ⟨qs, h⟩ := s.ownCount_modMe
  rw [h, State.me_modMe]; rfl

theorem State.ownCount_mem : s.ownCount.mem = s.mem := by
  obtain ⟨qs, h⟩ := s.ownCount_modMe
  rw [h, State.modMe_mem]

theorem State.ownCount_at_ : s.ownCount.at_ = s.at_ := by
  obtain ⟨qs, h⟩ := s.ownCount_modMe
  rw [h, State.modMe_at_]

theorem State.ownCount_sameStrands : s.sameStrands s.ownCount := by
  obtain ⟨qs, h⟩ := s.ownCount_modMe
  intro c k n
  rw [h]
  exact (State.modMe_onlyMe ({ s with queues := qs } : State) _).2.2 c k n

theorem State.ownCount_preempting : s.ownCount.preempting = s.preempting := by
  obtain ⟨qs, h⟩ := s.ownCount_modMe
  rw [h, State.preempting_modMe]; rfl

/-- A strand has counted its safe point and stands behind its instruction, with the system registers y but for the count. -/
structure Counted (s t : State) (y : StrandSys) : Prop where
  sys : t.me.sys = { y with spcnt := y.spcnt + s.ownCounts }
  regs : t.me.regs = s.me.regs
  mem : t.mem = s.mem
  pc : t.me.pc = s.me.pc + 4

/-- SAFEPT (R287). -/
theorem State.safept_counts :
    RunsTo .safept s fun t => Counted s t s.me.sys ∧ t.me.state = .run ∧ s.sameStrands t := by
  have hm : (s.ownCount.finish 4).me = s.ownCount.me.finish 4 := State.me_modMe _ _
  rw [s.me_ownCount] at hm
  refine ⟨s.ownCount.finish 4, rfl, ⟨?_, ?_, ?_, ?_⟩, ?_, fun c k h => ?_⟩
  · rw [hm]; rfl
  · rw [hm]; rfl
  · rw [State.finish_mem, s.ownCount_mem]
  · rw [hm]; rfl
  · rw [hm]; rfl
  · rw [← s.ownCount_sameStrands c k h]
    exact (s.ownCount.modMe_onlyMe _).2.2 c k (by simpa only [State.myCore, State.myStrand, s.ownCount_at_] using h)

/-! ## CKPT -/

/-- A strand behind a CKPT: it goes on, or it is PARKED while a pre-emption request is pending (R50, R51). -/
def Strand.checkpointed (parks : Bool) (t : Strand) : Strand :=
  let u := ({ t with annTok := none, annBar := none } : Strand).finish 4
  if parks then { u with state := .parked } else u

theorem State.ckpt_drains (hp : ¬ ∃ u ∈ s.here.window, u.owner = .strand s.myStrand) (hw : s.noWaitRecord) :
    exec .ckpt s = .next (s.afterDrain.ownCount.modMe (Strand.checkpointed s.preempting)) := by
  have hpre : (s.afterDrain.ownCount.modMe fun t => { t with annTok := none, annBar := none }).preempting = s.preempting := by
    obtain ⟨n, hn⟩ := s.afterDrain_withPlen
    rw [State.preempting_modMe, State.ownCount_preempting, hn, State.preempting_modMe]
  rw [exec_ckpt, execCkpt, s.drained_empty _ hp hw]
  simp only [hpre]
  cases s.preempting <;> exact congrArg Host.Outcome.next (State.modMe_modMe _ _ _)

/-- What a CKPT that has drained leaves. -/
theorem State.ckpt_counts (hp : ¬ ∃ u ∈ s.here.window, u.owner = .strand s.myStrand) (hw : s.noWaitRecord) :
    RunsTo .ckpt s fun t => Counted s t s.afterDrain.me.sys ∧ t.me.state = (if s.preempting then .parked else .run) ∧
      t.me.annTok = none ∧ t.me.annBar = none := by
  obtain ⟨n, hn⟩ := s.afterDrain_withPlen
  have hme : s.afterDrain.me = s.me.withPlen n := by rw [hn, State.me_modMe]
  have hcounts : s.afterDrain.ownCounts = s.ownCounts := by
    unfold State.ownCounts; rw [hme]; rfl
  have hm : (s.afterDrain.ownCount.modMe (Strand.checkpointed s.preempting)).me = Strand.checkpointed s.preempting
      { s.afterDrain.me with sys := { s.afterDrain.me.sys with spcnt := s.afterDrain.me.sys.spcnt + s.ownCounts } } := by
    rw [State.me_modMe, State.me_ownCount, hcounts]
  refine ⟨_, s.ckpt_drains hp hw, ⟨?_, ?_, ?_, ?_⟩, ?_⟩
  · rw [hm]; cases s.preempting <;> rfl
  · rw [hm, hme]; cases s.preempting <;> rfl
  · rw [State.modMe_mem, State.ownCount_mem, hn, State.modMe_mem]
  · rw [hm, hme]; cases s.preempting <;> rfl
  · rw [hm]; cases s.preempting <;> exact ⟨rfl, rfl, rfl⟩

/-! ## YIELD and HALT -/

/-- A bit of a sum of the powers of two below 2^4 that are taken. -/
theorem sum_of_powers_bit (p : Fin 4 → Bool) (j : Fin 4) :
    (BitVec.ofNat 4 ((List.finRange 4).foldl (fun n k => if p k then n + 2 ^ k.val else n) 0)).getLsbD j = p j := by
  revert p j; decide

theorem Core.running_bit (x : Core) {j : Nat} (hj : j < 4) : x.running.getLsbD j = decide ((x.strand j).state = .run) :=
  sum_of_powers_bit (fun k => (x.strand k).state == .run) ⟨j, hj⟩

/-- YIELD (R288). -/
theorem State.yield_awaits :
    RunsTo .yield s fun t => s.onlyMe t ∧ t.me = { s.me.finish 4 with yields := t.me.yields, yieldTill := s.now + 4 } ∧
      ∀ j : Nat, j < 4 → t.me.yields.getLsbD j = (decide (j ≠ s.myStrand) && decide ((s.strand s.myCore j).state = .run)) := by
  let f (t : Strand) : Strand :=
    { t.finish 4 with yields := s.here.running &&& ~~~BitVec.ofNat 4 (2 ^ s.myStrand), yieldTill := s.now + 4 }
  have hm : (s.modMe f).me = f s.me := s.me_modMe f
  refine ⟨s.modMe f, rfl, s.modMe_onlyMe f, ?_, fun j hj => ?_⟩
  · rw [hm]
  · rw [hm]
    show (s.here.running &&& ~~~BitVec.ofNat 4 (2 ^ s.myStrand)).getLsbD j = _
    have own : (BitVec.ofNat 4 (2 ^ s.myStrand)).getLsbD j = decide (s.myStrand = j) := by
      rw [BitVec.getLsbD_ofNat, Nat.testBit_two_pow, decide_eq_true hj, Bool.true_and]
    rw [BitVec.getLsbD_and, BitVec.getLsbD_not, own, s.here.running_bit hj, decide_eq_true hj, Bool.true_and, Bool.and_comm, ← decide_not]
    exact congrArg₂ _ (decide_eq_decide.2 ne_comm) rfl

/-- HALT in SUPER mode (R288). -/
theorem State.halt_stops (h : s.me.sys.super = true) : RunsTo .halt s fun t => s.onlyMe t ∧ t.me.state = .stopped ∧
    t.me.stopCause = none ∧ t.me.regs = s.me.regs ∧ t.me.sys = s.me.sys := by
  let f (t : Strand) : Strand := { t.finish 4 with state := .stopped, stopCause := none }
  have hm : (s.modMe f).me = f s.me := s.me_modMe f
  refine ⟨s.modMe f, ?_, s.modMe_onlyMe f, ?_⟩
  · show execHalt s = _
    simp only [execHalt, h, Bool.not_true, Bool.false_eq_true, if_false]
    rfl
  · rw [hm]; exact ⟨rfl, rfl, rfl, rfl⟩

end Sys2Proof.Machine
end

section
/-!
SUPPORT. Events (R289): what a strand sees as it leaves WAITEV, the events it takes, and the expiry of a timer.
-/
namespace Sys2Proof.Machine

variable (s : State)

/-! ## What a strand sees -/

/-- t is s but for the late writes and, of the strand that moves, its path length and the notes of what it has read and is ordered after. -/
structure SeenMore (s t : State) : Prop where
  cursor : t.at_ = s.at_
  mem : t.mem = s.mem
  others : s.sameStrands t
  me : t.me = { s.me with read := t.me.read, after := t.me.after, sys := { s.me.sys with plen := t.me.sys.plen } }

theorem SeenMore.refl : SeenMore s s := ⟨rfl, rfl, fun _ _ _ => rfl, rfl⟩

variable {s}

theorem SeenMore.trans {t u : State} (h : SeenMore s t) (g : SeenMore t u) : SeenMore s u where
  cursor := g.cursor.trans h.cursor
  mem := g.mem.trans h.mem
  others c k n := (g.others c k (by simpa only [State.myCore, State.myStrand, h.cursor] using n)).trans (h.others c k n)
  me := by rw [g.me, h.me]

/-- A change of the moving strand that touches only those notes. -/
theorem SeenMore.of_modMe {f : Strand → Strand}
    (h : f s.me = { s.me with read := (f s.me).read, after := (f s.me).after, sys := { s.me.sys with plen := (f s.me).sys.plen } }) :
    SeenMore s (s.modMe f) where
  cursor := s.modMe_at_ f
  mem := s.modMe_mem f
  others := (s.modMe_onlyMe f).2.2
  me := by rw [s.me_modMe f]; exact h

theorem SeenMore.of_late (l : List Late) : SeenMore s { s with late := l } := ⟨rfl, rfl, fun _ _ _ => rfl, rfl⟩

theorem State.left_seenMore (a : Arriver) (e : Nat) : SeenMore s (s.left a e) := .of_modMe rfl

theorem State.meet_seenMore (ids : List Nat) : SeenMore s (s.meet ids) := by
  unfold State.meet
  split
  exacts [.refl s, .of_modMe rfl]

theorem State.modLate_seenMore (f : Late → Late) : SeenMore s (s.modLate f) := by
  obtain ⟨l, h⟩ := s.modLate_only f
  rw [h]; exact .of_late l

theorem State.enterDies_seenMore (ds : List Nat) (want : Late → Bool) : SeenMore s (s.enterDies ds want) := by
  obtain ⟨l, h⟩ := s.enterDies_only ds want
  rw [h]; exact .of_late l

/-- An acquire below GRP scope (R114). -/
theorem State.acquire_seenMore {scope : Nat} (h : scope < 4) : SeenMore s (s.acquire scope) := by
  unfold State.acquire
  simp only [h, if_true]
  split
  · exact .refl s
  · refine ((SeenMore.of_modMe ?_).trans (State.enterDies_seenMore _ _)).trans (State.modLate_seenMore _)
    rfl

/-! ## WAITEV -/

/-- The events that a WAITEV of register a names. -/
def State.eventsNamed (s : State) (a : Reg) : BitVec 16 := BitVec.ofNat 16 (s.reg a).toNat

/-- Those of them that are pending (R289). -/
def State.eventsGot (s : State) (a : Reg) : BitVec 16 := s.me.sys.evpend &&& s.eventsNamed a

/-- A strand leaves the wait of a WAITEV with the setter of an event that it takes (R371). -/
def State.leaveEvents (s : State) (got : BitVec 16) : State :=
  match s.me.eventArriver s.meArriver (maskBits got.toNat 16) s.now with
  | some x => s.leave x 10
  | none => s

theorem State.leaveEvents_seenMore (got : BitVec 16) (h : s.noWaitRecord) : SeenMore s (s.leaveEvents got) := by
  unfold State.leaveEvents
  split
  · rw [s.leave_left _ _ h]; exact State.left_seenMore _ _
  · exact .refl s

/-- The acquire of a WAITEV that takes events of EVSET (R289). -/
def State.acquireEvents (s : State) (got : BitVec 16) : State :=
  if got.toNat % 256 = 0 then s else (s.meet (s.evReleased s.myCore s.myStrand)).acquire 0

theorem State.acquireEvents_seenMore (got : BitVec 16) : SeenMore s (s.acquireEvents got) := by
  unfold State.acquireEvents
  split
  · exact .refl s
  · exact (State.meet_seenMore _).trans (State.acquire_seenMore (Nat.zero_lt_succ 3))

theorem State.eventsNamed_bit (a : Reg) (i : Nat) : (s.eventsNamed a).getLsbD i = (decide (i < 16) && (s.reg a).getLsbD i) :=
  BitVec.getLsbD_ofNat 16 _ i

theorem State.eventsGot_bit (a : Reg) (i : Nat) :
    (s.eventsGot a).getLsbD i = (s.me.sys.evpend.getLsbD i && (decide (i < 16) && (s.reg a).getLsbD i)) := by
  rw [State.eventsGot, BitVec.getLsbD_and, s.eventsNamed_bit]

/-- Sixteen bits are 0 when none is set. -/
theorem eq_zero_iff_bits (x : BitVec 16) : x = 0 ↔ ∀ i, x.getLsbD i = false := by
  constructor
  · rintro rfl i
    exact BitVec.getLsbD_zero
  · exact fun h => BitVec.eq_of_getLsbD_eq fun i _ => (h i).trans BitVec.getLsbD_zero.symm

theorem getLsbD_and_not (x y : BitVec 16) (i : Nat) : (x &&& ~~~y).getLsbD i = (x.getLsbD i && !y.getLsbD i) := by
  rw [BitVec.getLsbD_and, BitVec.getLsbD_not]
  by_cases hi : i < 16
  · simp [hi]
  · simp [BitVec.getLsbD_of_ge x i (Nat.not_lt.1 hi)]

theorem getLsbD_widened (x : BitVec 16) (i : Nat) : (BitVec.ofNat 64 x.toNat).getLsbD i = x.getLsbD i := by
  rw [BitVec.getLsbD_ofNat]
  by_cases hi : i < 64
  · rw [decide_eq_true hi, Bool.true_and]; rfl
  · rw [decide_eq_false hi, Bool.false_and, BitVec.getLsbD_of_ge x i (by omega)]

theorem State.waitev_waits (d a : Reg) (hn : s.eventsNamed a ≠ 0) (hg : s.eventsGot a = 0) :
    RunsTo (.waitev d a) s (Waits s · 7 0) :=
  ⟨s.waitFor 7 0, if_pos ⟨hn, hg⟩, s.waitFor_waits 7 0⟩

/-- WAITEV as it returns (R289). -/
theorem State.waitev_takes (d a : Reg) (hw : s.noWaitRecord) (h : ¬ (s.eventsNamed a ≠ 0 ∧ s.eventsGot a = 0)) :
    RunsTo (.waitev d a) s fun t => t.me.sys.evpend = s.me.sys.evpend &&& ~~~(s.eventsGot a) ∧
      (∀ r, t.reg r = if r = d ∧ r ≠ 0 then BitVec.ofNat 64 (s.eventsGot a).toNat else s.reg r) ∧
      t.mem = s.mem ∧ s.sameStrands t ∧ t.me.pc = s.me.pc + 4 ∧ t.me.state = .run := by
  generalize hgot : s.eventsGot a = got at h ⊢
  let f (t : Strand) : Strand := { t with sys := { t.sys with evpend := t.sys.evpend &&& ~~~got } }
  let v := (s.leaveEvents got).acquireEvents got
  let u := v.modMe f
  have seen : SeenMore s v := (State.leaveEvents_seenMore got hw).trans (State.acquireEvents_seenMore got)
  have hu : u.me = f v.me := State.me_modMe _ f
  have w := u.result_wrote d (BitVec.ofNat 64 got.toNat) 4
  have hexec : exec (.waitev d a) s = .next (u.result d (BitVec.ofNat 64 got.toNat) 4) := by
    subst hgot
    exact if_neg h
  have hat : u.at_ = s.at_ := (State.modMe_at_ _ f).trans seen.cursor
  refine ⟨_, hexec, ?_, fun r => ?_, ?_, fun c k n => ?_, ?_, w.state⟩
  · have hsys : (u.result d (BitVec.ofNat 64 got.toNat) 4).me.sys = u.me.sys := by rw [w.strand]
    rw [hsys, hu, seen.me]
  · rw [w.value r]
    have hr : u.reg r = s.reg r := by
      refine Strand.reg_congr ?_ r
      rw [hu, seen.me]
    rw [hr]
  · rw [State.result_mem, State.modMe_mem, seen.mem]
  · rw [w.frame.2.2 c k (by simpa only [State.myCore, State.myStrand, hat] using n), ← seen.others c k n]
    exact (State.modMe_onlyMe _ f).2.2 c k (by simpa only [State.myCore, State.myStrand, seen.cursor] using n)
  · rw [w.pc, hu, seen.me]; rfl

/-! ## TIMER -/

/-- A TIMER that reaches 0 sets event 11 (R289). -/
theorem State.timerExpiry_sets {c k : Nat} (hc : c < 260) (hk : k < 4) (h : (s.strand c k).sys.timer = 1) :
    RunsTo (.timerExpiry c k) s fun t =>
      (t.strand c k).sys = { (s.strand c k).sys with timer := 0, evpend := (s.strand c k).sys.evpend ||| 0x800 } ∧
      (t.strand c k).regs = (s.strand c k).regs ∧ (t.strand c k).pc = (s.strand c k).pc ∧ t.mem = s.mem := by
  refine ⟨_, if_pos h, ?_⟩
  beta_reduce
  rw [s.strand_modStrand_self _ hc hk, State.modStrand_mem]
  exact ⟨rfl, rfl, rfl, rfl⟩

/-! ## The statement -/

/-- Settles O27: SPAWN by `State.spawn_starts`; END and CKPT by what a drain leaves (`State.afterDrain`); CKPT and SAFEPT by the one count of a
safe point (`Counted`); WAITEV by the bits of `State.eventsGot`, behind a change that only adds to what the strand has seen. -/
theorem strandsAndEvents : Obligations.StrandsAndEvents := by
  refine ⟨fun s d a b hme => ?_, fun s d a c k => ?_⟩
  · intro k c posted base banks count counts
    have hbanks : s.here.banksHeld = banks := s.here.banksHeld_eq
    refine ⟨s.spawn_refused d a b, fun h => ?_, s.drains_wait, fun hp hw => ⟨fun hb hf => ?_, fun hb => ?_, fun hb => ?_, fun hr => ?_,
      fun hr => ?_⟩, ?_, ?_, s.halt_stops⟩
    · obtain ⟨t, ht, ⟨s2, hu⟩, hregs, hpc, hmem, hothers⟩ := s.spawn_starts d a b hme h
      obtain ⟨regs, toks, hrest⟩ := (s.strand c k).spawned_rest (s.reg a - BitVec.ofNat 64 k) s2 s.me.sys.super s.me.sys.spaceid
        s.me.launch (s.reg 3) (s.reg b)
      have has {α : Type} (p : Strand → α) := congrArg p (hu.trans hrest)
      exact ⟨t, ht, has (·.state), (has (·.pc)).trans (entry_aligned _), has (·.launch), has (·.pend), has (·.sys.super),
        has (·.sys.spaceid), has (·.sys.tvec), has (·.sys.evpend), has (·.sys.fflags), has (·.sys.intrap), has (·.annTok), has (·.annBar),
        has (·.tr.stepOpen), fun q => (has (·.rgnAt q)).trans (Strand.reset_rgnAt q),
        fun r hr => (congrArg (·.reg r) hu).trans (Strand.spawned_reg _ _ _ _ _ _ _ _ hr), hregs, hpc, hmem, hothers⟩
    · rw [← hbanks] at hb ⊢
      exact ⟨_, s.endStrand_leaks hp hw hb, State.trap_trapped _ _ _ ((s.afterDrain_fatal 9).trans hf) (by decide)⟩
    · obtain ⟨htok, hbar⟩ := s.afterDrain.trap_annotations Cause.accLeak (BitVec.ofNat 64 s.here.banksHeld)
      exact ⟨_, s.endStrand_leaks hp hw (hbanks ▸ hb), htok.trans s.afterDrain_annotations.1, hbar.trans s.afterDrain_annotations.2⟩
    · exact s.endStrand_idle hp hw (hbanks.trans hb)
    · obtain ⟨t, ht, hcount, hstate, hann⟩ := s.ckpt_counts hp hw
      exact ⟨t, ht, ⟨hcount.sys, hcount.regs, hcount.mem, hcount.pc⟩, by rw [hstate, hr]; rfl, hann⟩
    · obtain ⟨t, ht, hcount, hstate, -⟩ := s.ckpt_counts hp hw
      exact ⟨t, ht, ⟨hcount.sys, hcount.regs, hcount.mem, hcount.pc⟩, by rw [hstate, hr]; rfl⟩
    · obtain ⟨t, ht, hcount, hrest⟩ := s.safept_counts
      exact ⟨t, ht, ⟨hcount.sys, hcount.regs, hcount.mem, hcount.pc⟩, hrest⟩
    · obtain ⟨t, ht, hframe, hm, hyields⟩ := s.yield_awaits
      have has {α : Type} (p : Strand → α) := congrArg p hm
      refine ⟨t, ht, hframe, ?_, has (·.regs), has (·.pend), has (·.hold), has (·.pc), has (·.state), has (·.yieldTill), hyields⟩
      rw [hm]; rfl
  · intro names some_
    have hgot (i : Nat) : (s.eventsGot a).getLsbD i = (s.me.sys.evpend.getLsbD i && names i) := s.eventsGot_bit a i
    have hnamed (i : Nat) : (s.eventsNamed a).getLsbD i = names i := s.eventsNamed_bit a i
    refine ⟨fun ⟨i, hi⟩ hs => ?_, fun hw h => ?_, s.timerExpiry_sets⟩
    · refine s.waitev_waits d a (fun e => ?_) ((eq_zero_iff_bits _).2 fun i => Bool.eq_false_iff.2 fun e => hs ⟨i, ?_⟩)
      · rw [← hnamed i, (eq_zero_iff_bits _).1 e i] at hi
        exact absurd hi Bool.false_ne_true
      · rw [hgot i, Bool.and_eq_true] at e
        exact e.symm
    · have hreturns : ¬ (s.eventsNamed a ≠ 0 ∧ s.eventsGot a = 0) := by
        rintro ⟨hk, hg⟩
        rcases h with h | ⟨i, hi, hpend⟩
        · exact hk ((eq_zero_iff_bits _).2 fun i => (hnamed i).trans (h i))
        · have := (eq_zero_iff_bits _).1 hg i
          rw [hgot i, hi, hpend] at this
          exact absurd this (by decide)
      obtain ⟨t, ht, hev, hregs, hrest⟩ := s.waitev_takes d a hw hreturns
      refine ⟨t, ht, fun i => ?_, ⟨_, fun i => ?_, hregs⟩, hrest⟩
      · rw [hev, getLsbD_and_not, hgot i]
        cases s.me.sys.evpend.getLsbD i <;> rfl
      · exact (getLsbD_widened _ i).trans (hgot i)

end Sys2Proof.Machine
end
section
/-!
SUPPORT. The machine right after package reset (R30, R434, R443).
-/
namespace Sys2Proof.Machine

theorem State.reset_core (c : Nat) : State.reset.core c = Core.reset := by
  unfold State.core
  split
  · exact Vector.getElem_replicate _
  · rfl

theorem Core.reset_strand (k : Nat) : Core.reset.strand k = Strand.reset := by
  unfold Core.strand
  split
  · exact Vector.getElem_replicate _
  · rfl

theorem Core.reset_grid (g : Nat) : Core.reset.grid g = Grid.reset := by
  unfold Core.grid
  split
  · exact Vector.getElem_replicate _
  · rfl

theorem Core.reset_zone (z : Nat) : Core.reset.zone z = Zone.reset := by
  unfold Core.zone
  split
  · exact Vector.getElem_replicate _
  · rfl

theorem State.reset_strand (c k : Nat) : State.reset.strand c k = Strand.reset :=
  (congrArg (·.strand k) (State.reset_core c)).trans (Core.reset_strand k)

/-- Settles O30: every core, strand, grid and zone is the one reset value (`State.reset_core`), of which the fields are read off. -/
theorem resetValues : Obligations.ResetValues := by
  unfold Obligations.ResetValues
  intro s
  have hstrand (c k : Nat) : s.strand c k = Strand.reset := State.reset_strand c k
  have hcore (c : Nat) : s.core c = Core.reset := State.reset_core c
  refine ⟨rfl, fun c k q => ?_, fun c k => ?_, fun c => ?_, fun c g => ?_, fun c z => ?_,
    rfl, rfl, rfl, rfl, rfl, rfl, rfl, rfl, rfl, rfl⟩
  · rw [hstrand, Strand.reset_rgnAt]; decide
  · rw [hstrand]; exact ⟨rfl, rfl, Strand.reset_rgnAt⟩
  · rw [hcore]; exact ⟨rfl, rfl, rfl, rfl, rfl, rfl, rfl⟩
  · rw [hcore, Core.reset_grid]; rfl
  · rw [hcore, Core.reset_zone]; rfl

end Sys2Proof.Machine
end

section
/-!
SUPPORT. Hierarchical barriers (R42 to R45, R197 to R199): the table of barriers, the arrival of a strand, its wait, and the items that a
barrier's network serves.
-/
namespace Sys2Proof.Machine

variable (s : State)

/-! ## The table of barriers -/

/-- A barrier is found under its own scope, instance and id. -/
theorem State.bar_key (n i k : Nat) : (s.bar n i k).scope = n ∧ (s.bar n i k).inst = i ∧ (s.bar n i k).id = k := by
  unfold State.bar
  split
  · rename_i b h; simpa using List.find?_some h
  · exact ⟨rfl, rfl, rfl⟩

theorem State.bar_congr {s t : State} (h : t.bars = s.bars) (n i k : Nat) : t.bar n i k = s.bar n i k := by
  unfold State.bar; rw [h]

theorem State.bar_setBar_self {b : Bar} {n i k : Nat} (hn : b.scope = n) (hi : b.inst = i) (hk : b.id = k) : (s.setBar b).bar n i k = b := by
  simp [State.bar, State.setBar, hn, hi, hk]

theorem State.bar_setBar_ne {b : Bar} {n i k : Nat} (h : ¬ (n = b.scope ∧ i = b.inst ∧ k = b.id)) :
    (s.setBar b).bar n i k = s.bar n i k := by
  have hkey (x : Bar) : decide ((decide ¬ (x.scope = b.scope ∧ x.inst = b.inst ∧ x.id = b.id)) = true ∧
      decide (x.scope = n ∧ x.inst = i ∧ x.id = k) = true) = decide (x.scope = n ∧ x.inst = i ∧ x.id = k) := by
    refine decide_eq_decide.2 ⟨fun hx => of_decide_eq_true hx.2, fun hx => ⟨?_, decide_eq_true hx⟩⟩
    obtain ⟨rfl, rfl, rfl⟩ := hx
    exact decide_eq_true h
  unfold State.bar State.setBar
  rw [List.find?_cons_of_neg (by simpa using fun a b c => h ⟨a.symm, b.symm, c.symm⟩), List.find?_filter]
  simp only [hkey]

/-! ## Arrivals -/

/-- A strand as an arriver depends on its place in the package, its path length and the time. -/
theorem State.meArriver_congr {s t : State} (hm : t.marten = s.marten) (ha : t.at_ = s.at_) (hn : t.now = s.now)
    (hp : t.me.sys.plen = s.me.sys.plen) : t.meArriver = s.meArriver := by
  have hi : t.identity t.myCore = s.identity s.myCore := by unfold State.identity State.myCore; rw [hm, ha]
  show (⟨t.identity t.myCore, 0, 0xFFFFFFF0 + t.at_.strand.val, t.me.sys.plen, t.now⟩ : Arriver) = _
  rw [hi, ha, hp, hn]
  rfl

theorem State.instOf_congr {s t : State} (hm : t.marten = s.marten) (c n : Nat) : t.instOf c n = s.instOf c n := by
  unfold State.instOf; rw [hm]

/-- The arrival that the moving strand sends to a barrier behind a release (R42, R43). -/
def State.arrivalAt (n k : Nat) : Arrival :=
  ⟨n, s.instOf s.myCore n, k, s.meArriver, none, (s.noteRelease n).me.after, some (s.myCore, s.myStrand)⟩

/-- t is s with the arrival of the moving strand at a barrier sent behind a release, and the phase of the barrier remembered; g is what becomes
of the strand besides. -/
structure Arrived (s t : State) (n k : Nat) (g : Strand → Strand) : Prop where
  arrivals : t.arrivals = s.arrivals ++ [s.arrivalAt n k]
  outbox : t.outbox = if 4 ≤ n then s.outbox ++ [.arrival { s.arrivalAt n k with src := none }] else s.outbox
  mem : t.mem = s.mem
  strands : s.sameStrands t
  bars : t.bars = s.bars
  cursor : t.at_ = s.at_
  marten : t.marten = s.marten
  me : t.me = g (({ s.me with after := (s.noteRelease n).me.after } : Strand).remember n k (s.bar n (s.instOf s.myCore n) k).phase)

theorem State.arrive_arrived (n k : Nat) (g : Strand → Strand) : Arrived s (((s.noteRelease n).arrive n k).modMe g) n k g := by
  obtain ⟨l, hl⟩ := s.noteRelease_modMe n
  generalize hf : (fun t : Strand => { t with after := l }) = f at hl
  have hme : (s.modMe f).me = { s.me with after := l } := by rw [State.me_modMe, ← hf]
  have hitem : (s.modMe f).barItem n k none = s.arrivalAt n k := by
    unfold State.barItem State.arrivalAt
    rw [State.meArriver_congr (s.modMe_marten f) (s.modMe_at_ f) (s.modMe_now f) (by rw [hme]), State.instOf_congr (s.modMe_marten f), hl]
    simp only [State.myCore, State.myStrand, State.modMe_at_]
  let r (t : Strand) : Strand := t.remember n k (s.bar n (s.instOf s.myCore n) k).phase
  let w : State := (s.modMe f).toBarrier (s.arrivalAt n k)
  have hw : ((s.noteRelease n).arrive n k).modMe g = w.modMe fun t => g (r t) := by
    have hph : ((s.modMe f).bar n ((s.modMe f).instOf (s.modMe f).myCore n) k).phase = (s.bar n (s.instOf s.myCore n) k).phase := by
      rw [State.bar_congr (s.modMe_bars f), State.instOf_congr (s.modMe_marten f), State.myCore, State.modMe_at_]
      rfl
    rw [hl]
    unfold State.arrive
    rw [hitem]
    simp only [hph]
    exact w.modMe_modMe r g
  rw [hw]
  constructor
  case arrivals => rw [State.modMe_arrivals]; exact congrArg (· ++ [_]) (s.modMe_arrivals f)
  case outbox =>
    rw [State.modMe_outbox]
    show (if 4 ≤ n then (s.modMe f).outbox ++ _ else (s.modMe f).outbox) = _
    rw [State.modMe_outbox]
    rfl
  case mem => rw [State.modMe_mem]; exact s.modMe_mem f
  case strands =>
    intro c j h
    have hat : w.at_ = s.at_ := s.modMe_at_ f
    rw [(w.modMe_onlyMe _).2.2 c j (by simpa only [State.myCore, State.myStrand, hat] using h)]
    exact (s.modMe_onlyMe f).2.2 c j h
  case bars => rw [State.modMe_bars]; exact s.modMe_bars f
  case cursor => rw [State.modMe_at_]; exact s.modMe_at_ f
  case marten => rw [State.modMe_marten]; exact s.modMe_marten f
  case me =>
    rw [State.me_modMe, hl, hme]
    exact congrArg (fun t => g (r t)) hme

@[simp] theorem Strand.barMemOf_remember (t : Strand) (n k : Nat) (ph : BitVec 32) :
    (t.remember n k ph).barMemOf n k = some ⟨n, k, ph, true⟩ := by simp [Strand.barMemOf, Strand.remember]

/-! ## The wait at a barrier (R43) -/

variable {s}

theorem State.barStatus_failed {n k c : Nat} (h : (s.bar n (s.instOf s.myCore n) k).failed = some c) : s.barStatus n k = some (negCode c) := by
  simp [State.barStatus, h]

theorem State.barStatus_unarrived {n k : Nat} (h : (s.bar n (s.instOf s.myCore n) k).failed = none) (hm : s.me.barMemOf n k = none) :
    s.barStatus n k = some 0 := by
  simp [State.barStatus, h, hm]

theorem State.barStatus_over {n k : Nat} {m : BarMem} (h : (s.bar n (s.instOf s.myCore n) k).failed = none)
    (hm : s.me.barMemOf n k = some m) (ha : s.arriving n k = false) (hp : (s.bar n (s.instOf s.myCore n) k).phase ≠ m.phase) :
    s.barStatus n k = some 0 := by
  simp [State.barStatus, h, hm, ha, hp]

theorem State.barStatus_waits {n k : Nat} {m : BarMem} (h : (s.bar n (s.instOf s.myCore n) k).failed = none)
    (hm : s.me.barMemOf n k = some m) (hp : s.arriving n k = true ∨ (s.bar n (s.instOf s.myCore n) k).phase = m.phase) :
    s.barStatus n k = none := by
  rcases hp with hp | hp <;> simp [State.barStatus, h, hm, hp]

/-- The strand leaves the wait with a status (R44, R114). -/
theorem State.barWaitThen_ends (d : Reg) {n k : Nat} {v : Word} (hw : s.noWaitRecord) (h : s.barStatus n k = some v) :
    let b := s.bar n (s.instOf s.myCore n) k
    s.barWaitThen d n k = .next ((((s.left b.last 7).meet b.seen).acquire n).result d v 4) := by
  intro b
  unfold State.barWaitThen
  rw [h]
  exact congrArg (fun u : State => Host.Outcome.next (((u.meet b.seen).acquire n).result d v 4)) (s.leave_left _ _ hw)

theorem State.barWaitThen_waits (d : Reg) {n k : Nat} (h : s.barStatus n k = none) :
    s.barWaitThen d n k = .next (s.waitFor 4 (n * 16 + k)) := by
  unfold State.barWaitThen; rw [h]

/-! ## The items that a network serves (R198, R199) -/

/-- t is s after an item of the moving strand for a barrier has been served: nothing but that barrier and what the strand remembers has changed. -/
structure ServedAt (s t : State) (n i k : Nat) : Prop where
  mem : t.mem = s.mem
  cursor : t.at_ = s.at_
  me : t.me = { s.me with barMem := t.me.barMem }
  others : ∀ n' i' k', ¬ (n' = n ∧ i' = i ∧ k' = k) → t.bar n' i' k' = s.bar n' i' k'

theorem ServedAt.refl (s : State) (n i k : Nat) : ServedAt s s n i k := ⟨rfl, rfl, rfl, fun _ _ _ _ => rfl⟩

theorem ServedAt.trans {t u : State} {n i k : Nat} (h : ServedAt s t n i k) (g : ServedAt t u n i k) : ServedAt s u n i k where
  mem := g.mem.trans h.mem
  cursor := g.cursor.trans h.cursor
  me := by rw [g.me, h.me]
  others n' i' k' e := (g.others n' i' k' e).trans (h.others n' i' k' e)

theorem State.setBar_served {b : Bar} {n i k : Nat} (hn : b.scope = n) (hi : b.inst = i) (hk : b.id = k) : ServedAt s (s.setBar b) n i k :=
  ⟨rfl, rfl, rfl, fun _ _ _ h => s.bar_setBar_ne (by rw [hn, hi, hk]; exact h)⟩

theorem State.serveConfig_served (a : Arrival) (e : Nat) : ServedAt s (s.serveConfig a e) a.scope a.inst a.id :=
  have ⟨hn, hi, hk⟩ := s.bar_key a.scope a.inst a.id
  State.setBar_served hn hi hk

/-- What a configuration leaves of its barrier (R45). -/
theorem State.serveConfig_bar (a : Arrival) (e : Nat) :
    (s.serveConfig a e).bar a.scope a.inst a.id = { s.bar a.scope a.inst a.id with expect := e, count := 0, failed := none, coming := [] } :=
  have ⟨hn, hi, hk⟩ := s.bar_key a.scope a.inst a.id
  s.bar_setBar_self hn hi hk

variable (s) in
/-- The strand that a served arrival names remembers the barrier's phase (R199). -/
def State.noteArrival (a : Arrival) : State :=
  match a.src with
  | some (c, k) => s.modStrand c k fun t => t.remember a.scope a.id (s.bar a.scope a.inst a.id).phase
  | none => s

theorem State.noteArrival_own {a : Arrival} (h : a.src = some (s.myCore, s.myStrand)) :
    s.noteArrival a = s.modMe fun t => t.remember a.scope a.id (s.bar a.scope a.inst a.id).phase := by
  unfold State.noteArrival; rw [h]; rfl

/-- At a barrier released by failure an arrival counts nothing (R199). -/
theorem State.serveArrival_failed (a : Arrival) (h : (s.bar a.scope a.inst a.id).failed ≠ none) : s.serveArrival a = s.noteArrival a :=
  if_pos (Option.isSome_iff_ne_none.2 h)

/-- An arrival counts at its barrier; the last one of a phase begins the next (R42). -/
theorem State.serveArrival_counts (a : Arrival) (h : (s.bar a.scope a.inst a.id).failed = none) :
    let b := s.bar a.scope a.inst a.id
    ∃ b' : Bar, s.serveArrival a = (s.noteArrival a).setBar b' ∧ b'.scope = a.scope ∧ b'.inst = a.inst ∧ b'.id = a.id ∧
      b'.expect = b.expect ∧ b'.failed = none ∧
      if b.count + 1 = b.expect then b'.count = 0 ∧ b'.phase = b.phase + 1 else b'.count = b.count + 1 ∧ b'.phase = b.phase := by
  intro b
  obtain ⟨hn, hi, hk⟩ := s.bar_key a.scope a.inst a.id
  have hgo : ¬ b.failed.isSome = true := by rw [h]; decide
  by_cases he : b.count + 1 = b.expect
  · refine ⟨_, (if_neg hgo).trans (if_pos he), hn, hi, hk, rfl, h, ?_⟩
    rw [if_pos he]
    exact ⟨rfl, rfl⟩
  · refine ⟨_, (if_neg hgo).trans (if_neg he), hn, hi, hk, rfl, h, ?_⟩
    rw [if_neg he]
    exact ⟨rfl, rfl⟩

/-- What an arrival at a barrier that has not failed leaves of the barrier (R42). -/
theorem State.serveArrival_bar (a : Arrival) (h : (s.bar a.scope a.inst a.id).failed = none) :
    let b := s.bar a.scope a.inst a.id
    let b' := (s.serveArrival a).bar a.scope a.inst a.id
    b'.expect = b.expect ∧ b'.failed = none ∧
      if b.count + 1 = b.expect then b'.count = 0 ∧ b'.phase = b.phase + 1 else b'.count = b.count + 1 ∧ b'.phase = b.phase := by
  intro b b'
  obtain ⟨x, hx, hn, hi, hk, hrest⟩ := s.serveArrival_counts a h
  have hb : b' = x := (congrArg (·.bar a.scope a.inst a.id) hx).trans (State.bar_setBar_self _ hn hi hk)
  rw [hb]
  exact hrest

theorem State.serveArrival_served (a : Arrival) (hsrc : a.src = some (s.myCore, s.myStrand)) :
    ServedAt s (s.serveArrival a) a.scope a.inst a.id := by
  have hnote : ServedAt s (s.noteArrival a) a.scope a.inst a.id := by
    rw [State.noteArrival_own hsrc]
    exact ⟨s.modMe_mem _, s.modMe_at_ _, by rw [State.me_modMe]; rfl, fun _ _ _ _ => State.bar_congr (s.modMe_bars _) _ _ _⟩
  by_cases h : (s.bar a.scope a.inst a.id).failed = none
  · obtain ⟨b, hb, hn, hi, hk, -⟩ := s.serveArrival_counts a h
    rw [hb]
    exact hnote.trans (State.setBar_served hn hi hk)
  · rw [s.serveArrival_failed a h]; exact hnote

/-- Serving items of the moving strand for one barrier, one after the other. -/
theorem State.foldl_serveItem_served {n i k : Nat} : ∀ (as : List Arrival) (s : State),
    (∀ a ∈ as, a.scope = n ∧ a.inst = i ∧ a.id = k ∧ a.src = some (s.myCore, s.myStrand)) → ServedAt s (as.foldl State.serveItem s) n i k
  | [], s, _ => .refl s n i k
  | a :: as, s, h => by
    obtain ⟨rfl, rfl, rfl, hsrc⟩ := h a (by simp)
    have h1 : ServedAt s (s.serveItem a) a.scope a.inst a.id := by
      unfold State.serveItem
      split
      · exact s.serveConfig_served a _
      · exact s.serveArrival_served a hsrc
    refine h1.trans (State.foldl_serveItem_served as _ fun b hb => ?_)
    simp only [State.myCore, State.myStrand, h1.cursor]
    exact h b (List.mem_cons_of_mem a hb)

/-- The items that a configuration follows are of its strand and for its barrier. -/
theorem Arrival.follows_iff (a b : Arrival) :
    a.follows b = true ↔ (b.scope = a.scope ∧ b.inst = a.inst ∧ b.id = a.id ∧ b.src = a.src) ∧ a.src.isSome = true := by
  simp only [Arrival.follows, Bool.and_eq_true, beq_iff_eq, and_assoc, @eq_comm _ a.scope, @eq_comm _ a.inst, @eq_comm _ a.id, @eq_comm _ a.src]

/-! ## BAR.CFG within the package (R45, R198, R199) -/

variable (s) in
/-- The state as a configuration of the moving strand finds it, behind what the strand has sent to the barrier. -/
def State.beforeConfig (x : Arrival) : State :=
  (s.arrivals.filter x.follows).foldl State.serveItem { s with arrivals := s.arrivals.filter fun y => !x.follows y }

theorem State.beforeConfig_served {x : Arrival} (hsrc : x.src = some (s.myCore, s.myStrand)) :
    ServedAt s (s.beforeConfig x) x.scope x.inst x.id := by
  have h0 : ServedAt s { s with arrivals := s.arrivals.filter fun y => !x.follows y } x.scope x.inst x.id := ⟨rfl, rfl, rfl, fun _ _ _ _ => rfl⟩
  refine h0.trans (State.foldl_serveItem_served _ _ fun a ha => ?_)
  obtain ⟨⟨h1, h2, h3, h4⟩, -⟩ := (Arrival.follows_iff x a).1 (List.mem_filter.1 ha).2
  exact ⟨h1, h2, h3, h4.trans hsrc⟩

theorem State.beforeConfig_first {x : Arrival} (h : ∀ y ∈ s.arrivals, x.follows y = false) : s.beforeConfig x = s := by
  have h1 : s.arrivals.filter x.follows = [] := List.filter_eq_nil_iff.2 fun y hy => by rw [h y hy]; decide
  have h2 : s.arrivals.filter (fun y => !x.follows y) = s.arrivals := List.filter_eq_self.2 fun y hy => by rw [h y hy]; rfl
  unfold State.beforeConfig
  rw [h1, h2]
  rfl

/-! ## The members of BAR at a barrier that the partition holds (R198) -/

/-- The check of the id passes. -/
theorem State.barHeld_goes {n k : Nat} (h : s.holdsBar n k = true) (o o' : Out) : (if !s.holdsBar n k then o else o') = o' := by
  rw [h]; rfl

section held
variable {scope : BitVec 3} {id : BitVec 4} (hh : s.holdsBar scope.toNat id.toNat = true) (d a : Reg)
include hh

/-- BAR.ARV behind its release (R42, R43). -/
theorem State.barArv_arrives (h1 : s.me.lostStream scope.toNat = none) (h2 : s.me.relReady scope.toNat = true) :
    exec (.barArv scope id) s = .next (((s.noteRelease scope.toNat).arrive scope.toNat id.toNat).finish 4) :=
  (s.barHeld_goes hh _ _).trans (s.release_ready _ _ h1 h2)

theorem State.barWait_waits : exec (.barWait d scope id) s = s.barWaitThen d scope.toNat id.toNat := s.barHeld_goes hh _ _

/-- BAR.SYNC makes its arrival behind its release, and then waits (R43). -/
theorem State.barSync_arrives (ha : s.me.arrived = false) (h1 : s.me.lostStream scope.toNat = none) (h2 : s.me.relReady scope.toNat = true) :
    exec (.barSync d scope id) s = (((s.noteRelease scope.toNat).arrive scope.toNat id.toNat).modMe fun t =>
      { t with arrived := true }).barWaitThen d scope.toNat id.toNat := by
  exact (s.barHeld_goes hh _ _).trans ((if_neg (by rw [ha]; decide)).trans (s.release_ready _ _ h1 h2))

/-- A BAR.SYNC that has made its arrival waits on. -/
theorem State.barSync_waits (ha : s.me.arrived = true) : exec (.barSync d scope id) s = s.barWaitThen d scope.toNat id.toNat := by
  refine (s.barHeld_goes hh _ _).trans ?_
  rw [ha]; rfl

theorem State.barCfg_refused (he : (s.reg a).toNat = 0 ∨ 67108863 < (s.reg a).toNat) :
    exec (.barCfg d a scope id) s = .next (s.result d minusOne 4) :=
  (s.barHeld_goes hh _ _).trans (if_pos he)

/-- BAR.CFG at GRP and SYS goes by the network (log 36). -/
theorem State.barCfg_sent (he : ¬ ((s.reg a).toNat = 0 ∨ 67108863 < (s.reg a).toNat)) (hn : 4 ≤ scope.toNat) :
    exec (.barCfg d a scope id) s = .next ((s.toBarrier (s.barItem scope.toNat id.toNat (some (s.reg a).toNat))).result d 0 4) :=
  (s.barHeld_goes hh _ _).trans ((if_neg he).trans (if_pos hn))

/-- BAR.CFG within the package is served at once. -/
theorem State.barCfg_served (he : ¬ ((s.reg a).toNat = 0 ∨ 67108863 < (s.reg a).toNat)) (hn : ¬ 4 ≤ scope.toNat) :
    let x := s.barItem scope.toNat id.toNat (some (s.reg a).toNat)
    exec (.barCfg d a scope id) s = .next (((s.beforeConfig x).serveConfig x (s.reg a).toNat).result d 0 4) :=
  (s.barHeld_goes hh _ _).trans ((if_neg he).trans (if_neg hn))

end held

/-! ## The statement -/

/-- Settles O14: the barrier's own id is checked first; BAR.ARV and BAR.SYNC send the one arrival of `State.arrive_arrived`; the wait has the four
cases of `State.barStatus`; and BAR.CFG serves its item behind those of its strand (`State.beforeConfig_served`). -/
theorem hierarchicalBarriers : Obligations.HierarchicalBarriers := by
  intro s d a scope id n k inst b item arr cfg away performed held over_ code arrived e
  refine ⟨fun hno hf => ?_, fun hh hp => ?_, fun hh hp ha hb => ?_, fun hh hw => ⟨fun c hc => ?_, fun hb hm => ?_, fun m hb hm hs hp => ?_,
    fun m hb hm hp => ?_⟩, fun hh => ⟨fun he => ?_, fun hn h0 h1 => ?_, fun hn h0 h1 => ?_⟩⟩
  · have ht (o : Out) (v : Word) : (if !s.holdsBar n k then Host.Outcome.next (s.trap Cause.protect v) else o) =
        .next (s.trap Cause.protect v) := by rw [hno]; rfl
    have htrap (v : Word) : ∃ v', Trapped s (s.trap Cause.protect v) 5 v' := ⟨v, s.trap_trapped 5 v hf (by decide)⟩
    exact ⟨⟨_, ht _ _, htrap _⟩, ⟨_, ht _ _, htrap _⟩, ⟨_, ht _ _, htrap _⟩, ⟨_, ht _ _, htrap _⟩⟩
  · have A := s.arrive_arrived n k fun t => t.finish 4
    have hregs : (((s.noteRelease n).arrive n k).finish 4).me.regs = s.me.regs := (congrArg Strand.regs A.me).trans rfl
    exact ⟨_, State.barArv_arrives hh hp.1 hp.2, ⟨A.arrivals, A.outbox, A.mem, hregs, A.strands⟩,
      (congrArg (·.barMemOf n k) A.me).trans (Strand.barMemOf_remember _ n k b.phase), congrArg Strand.pc A.me, congrArg Strand.state A.me⟩
  · let w := ((s.noteRelease n).arrive n k).modMe fun t => { t with arrived := true }
    have A : Arrived s w n k fun t => { t with arrived := true } := s.arrive_arrived n k _
    have hbar : w.bar n (w.instOf w.myCore n) k = b := by
      rw [State.bar_congr A.bars, State.instOf_congr A.marten, State.myCore, A.cursor]; rfl
    have hmem : w.me.barMemOf n k = some ⟨n, k, b.phase, true⟩ := by
      rw [A.me]; exact Strand.barMemOf_remember _ n k b.phase
    have hwait : w.barWaitThen d n k = .next (w.waitFor 4 (n * 16 + k)) :=
      State.barWaitThen_waits d (State.barStatus_waits (by rw [hbar]; exact hb) hmem (.inr (congrArg Bar.phase hbar)))
    have W := w.waitFor_waits 4 (n * 16 + k)
    refine ⟨_, (State.barSync_arrives hh d ha hp.1 hp.2).trans hwait, ⟨?_, ?_, ?_, ?_, fun c j h => ?_⟩, ?_, ?_⟩
    · rw [State.waitFor_arrivals]; exact A.arrivals
    · rw [State.waitFor_outbox]; exact A.outbox
    · rw [State.waitFor_mem]; exact A.mem
    · rw [W.strand, A.me]; rfl
    · rw [W.frame.2.2 c j (by simpa only [State.myCore, State.myStrand, A.cursor] using h)]; exact A.strands c j h
    · rw [W.strand]; exact hmem
    · rw [W.strand, A.me]; exact ⟨rfl, rfl, rfl, rfl, rfl⟩
  · have hend := State.barWaitThen_ends d hw (State.barStatus_failed hc)
    exact ⟨⟨_, (State.barWait_waits hh d).trans hend, State.result_wrote _ d _ 4⟩,
      fun ha => ⟨_, (State.barSync_waits hh d ha).trans hend, State.result_wrote _ d _ 4⟩⟩
  · exact ⟨_, (State.barWait_waits hh d).trans (State.barWaitThen_ends d hw (State.barStatus_unarrived hb hm)), State.result_wrote _ d _ 4⟩
  · have hend := State.barWaitThen_ends d hw (State.barStatus_over hb hm hs hp)
    exact ⟨⟨_, (State.barWait_waits hh d).trans hend, State.result_wrote _ d _ 4⟩,
      fun ha => ⟨_, (State.barSync_waits hh d ha).trans hend, State.result_wrote _ d _ 4⟩⟩
  · have hwait := State.barWaitThen_waits d (State.barStatus_waits hb hm hp)
    exact ⟨⟨_, (State.barWait_waits hh d).trans hwait, State.waitFor_waits _ _ _⟩,
      fun ha => ⟨_, (State.barSync_waits hh d ha).trans hwait, State.waitFor_waits _ _ _⟩⟩
  · exact ⟨_, State.barCfg_refused hh d a he, s.result_wrote d _ 4⟩
  · refine ⟨_, State.barCfg_sent hh d a (by omega) hn, ?_⟩
    have hsent : s.toBarrier cfg = away := by
      show ({ s with arrivals := _, outbox := if 4 ≤ n then _ else _ } : State) = _
      rw [if_pos hn]
    exact hsent ▸ State.result_wrote _ d 0 4
  · let u := s.beforeConfig cfg
    let v := u.serveConfig cfg e
    have hu : ServedAt s u n inst k := State.beforeConfig_served rfl
    have hv : ServedAt s v n inst k := hu.trans (State.serveConfig_served cfg e)
    have W := v.result_wrote d 0 4
    have hbar (i j l : Nat) : (v.result d 0 4).bar i j l = v.bar i j l := State.bar_congr (v.result_bars d 0 4) i j l
    have hmine : v.bar n inst k = { u.bar n inst k with expect := e, count := 0, failed := none, coming := [] } := State.serveConfig_bar cfg e
    have hx : exec (.barCfg d a scope id) s = .next (v.result d 0 4) := State.barCfg_served hh d a (by omega) (by omega)
    refine ⟨v.result d 0 4, hx, ?_, ?_, ?_, ?_, ?_, fun r => ?_, fun n' i' k' h => ?_, fun hnone => ⟨?_, ?_⟩⟩
    · rw [hbar, hmine]
    · rw [hbar, hmine]
    · rw [hbar, hmine]
    · rw [State.result_mem]; exact hv.mem
    · rw [W.pc, hv.me]; rfl
    · rw [W.value]
      exact (congrArg (fun x : Strand => if r = d ∧ r ≠ 0 then 0 else x.reg r) hv.me).trans rfl
    · rw [hbar]; exact hv.others n' i' k' h
    · have h : u = s := State.beforeConfig_first hnone
      refine ⟨v, W, ?_⟩
      have hv : v = s.serveConfig cfg e := congrArg (·.serveConfig cfg e) h
      rw [State.result_bars, hv]
      rfl
    · rw [hbar, hmine, show u = s from State.beforeConfig_first hnone]

end Sys2Proof.Machine
end

section
/-!
SUPPORT. What comes back to a strand (R94, R101, R124, R168): the entries of its scoreboard, the answers to its requests, and the
acknowledgement of its stores elsewhere.
-/
namespace Sys2Proof.Machine

variable {s : State}

/-! ## A change that leaves a strand as it is -/

theorem State.modStrand_congr {c k : Nat} {f g : Strand → Strand} (h : f (s.strand c k) = g (s.strand c k)) :
    s.modStrand c k f = s.modStrand c k g :=
  congrArg (fun t => s.setCore c ((s.core c).setStrand k t)) h

theorem State.modStrand_fixed {c k : Nat} {f : Strand → Strand} (h : f (s.strand c k) = s.strand c k) : s.modStrand c k f = s :=
  (State.modStrand_congr (g := fun t => t) h).trans (s.modStrand_id c k)

theorem State.raiseFlags_none (c k : Nat) : s.raiseFlags c k 0 = s := by
  have h : (s.strand c k).sys.fflags ||| 0 = (s.strand c k).sys.fflags := BitVec.or_zero
  exact State.modStrand_fixed (congrArg (fun f => { s.strand c k with sys := { (s.strand c k).sys with fflags := f } }) h)

/-- A buffer whose entries have all been sent, or have places here, keeps its order. -/
theorem State.sendFrom_settled (c k : Nat) : ∀ (bs kept : List Buffered) (s : State),
    (∀ b ∈ bs, b.sent = true ∨ ∃ j, b.dest = some (.here j)) → s.sendFrom c k bs kept = s.modStrand c k fun t => { t with stores := kept ++ bs }
  | [], kept, s, _ => by simp [State.sendFrom]
  | b :: bs, kept, s, h => by
    have ih : s.sendFrom c k bs (kept ++ [b]) = s.modStrand c k fun t => { t with stores := kept ++ b :: bs } := by
      rw [State.sendFrom_settled c k bs (kept ++ [b]) s fun x hx => h x (List.mem_cons_of_mem b hx)]
      simp
    unfold State.sendFrom
    split
    · rfl
    · rcases h b List.mem_cons_self with hb | ⟨j, hb⟩
      · rw [hb]
        split
        · exact ih
        · contradiction
        · contradiction
        · exact ih
      · rw [hb]; exact ih

/-- Then nothing more leaves the buffer. -/
theorem State.sendReady_settled (c k : Nat) (h : ∀ b ∈ (s.strand c k).stores, b.sent = true ∨ ∃ j, b.dest = some (.here j)) :
    s.sendReady c k = s :=
  (State.sendFrom_settled c k _ [] s h).trans (State.modStrand_fixed rfl)

/-! ## Entries of the scoreboard (R168) -/

theorem Strand.pendOf_reg {t : Strand} {d : Reg} {p : Pend} (h : t.pendOf d = some p) : p.reg = d := by
  simpa using List.find?_some h

theorem State.pendOf_toNat {c k : Nat} {d : Reg} {o : Option Pend} (h : (s.strand c k).pendOf d = o) :
    (s.strand c k).pendOf (BitVec.ofNat 5 d.toNat) = o := by
  rw [BitVec.ofNat_toNat, BitVec.setWidth_eq]; exact h

/-- A result's latency has passed. -/
theorem State.pendingResult_unmarks {c k : Nat} {d : Reg} {p : Pend} (hp : (s.strand c k).pendOf d = some p)
    (hk : p.kind = .latency ∨ p.kind = .divider) :
    exec (.pendingResultWritten c k d.toNat) s = .next (s.modStrand c k fun t => t.unmark p) := by
  show execPendingResultWritten c k d.toNat s = _
  unfold execPendingResultWritten
  rw [State.pendOf_toNat hp]
  exact if_pos (by rcases hk with h | h <;> rw [h] <;> rfl)

/-- A load whose value was taken as it issued leaves the scoreboard. -/
theorem State.loadReturn_unmarks {c k : Nat} {d : Reg} {p : Pend} {a : Acc} {e : Dest} (v : Reply) (hp : (s.strand c k).pendOf d = some p)
    (hk : p.kind = .load a e false) : exec (.loadReturn c k d.toNat v) s = .next (s.modStrand c k fun t => t.unmark p) := by
  show execLoadReturn c k d.toNat v s = _
  unfold execLoadReturn
  rw [if_neg (by omega), State.pendOf_toNat hp]
  simp only [hk]
  unfold State.returnHere
  split <;> rfl

/-! ## The answer to a strand's request (R94, R168) -/

/-- The answer reaches the request that the register waits for. -/
theorem State.loadReturn_answers {c k id : Nat} {d : Reg} {p : Pend} {r : Req} (hp : (s.strand c k).pendOf d = some p)
    (hk : p.kind = .request id) (hr : (s.reqs.find? fun r => r.id == id && (r.kind == .load || r.kind == .atomic)) = some r) :
    (∀ v, exec (.loadReturn c k d.toNat (.data v)) s = .next (s.reqDone r v)) ∧
      ∀ cause, exec (.loadReturn c k d.toNat (.failed cause)) s = .next (s.reqFails r cause) := by
  have hx (a : Reply) : exec (.loadReturn c k d.toNat a) s = execLoadReturn c k d.toNat a s := rfl
  refine ⟨fun v => ?_, fun cause => ?_⟩ <;>
  · rw [hx]
    unfold execLoadReturn
    rw [if_neg (by omega), State.pendOf_toNat hp]
    simp only [hk, hr]

variable (s) in
/-- The state with a request answered and held words of the die replaced. -/
def State.answeredReq (r : Req) (l : List RemoteWord) : State := { s with reqs := s.reqs.erase r, rline := l }

/-- A load elsewhere has been performed: its register has the value and waits no more. -/
theorem State.reqDone_load {r : Req} {d : Reg} {signed : Bool} (v : Word) (hu : r.user = .strand) (hk : r.kind = .load ∨ r.kind = .atomic)
    (ho : r.acc.op = .load d signed) (hs : (s.strand r.core r.strand).stores = []) (hc : r.core < 260) (hj : r.strand < 4) :
    ∃ l, s.reqDone r v = (s.answeredReq r l).modStrand r.core r.strand fun t =>
      (t.unmark ⟨d, .request r.id⟩).setReg d (extendLoad r.acc.size signed (r.overlay v).toNat) := by
  let f (t : Strand) : Strand := (t.unmark ⟨d, .request r.id⟩).setReg d (extendLoad r.acc.size signed (r.overlay v).toNat)
  have hdone : s.reqDone r v = ({ s with reqs := s.reqs.erase r } : State).strandDone r v := by
    unfold State.reqDone
    rcases hk with hk | hk <;> simp only [hu, hk]
  have hsettled (l : List RemoteWord) : ((((s.answeredReq r l).modStrand r.core r.strand f).raiseFlags r.core r.strand 0).sendReady r.core r.strand) =
      (s.answeredReq r l).modStrand r.core r.strand f := by
    have hst : (((s.answeredReq r l).modStrand r.core r.strand f).strand r.core r.strand).stores = [] := by
      rw [State.strand_modStrand_self _ f hc hj]
      exact (congrArg Strand.stores (Strand.setReg_rest _ d _)).trans hs
    rw [State.raiseFlags_none, State.sendReady_settled]
    rw [hst]
    exact fun b hb => absurd hb List.not_mem_nil
  rw [hdone]
  unfold State.strandDone Acc.answer Req.reg
  simp only [ho]
  split
  · exact ⟨_, hsettled _⟩
  · exact ⟨s.rline, hsettled _⟩

/-- A load elsewhere has failed: the strand takes the cause at its next boundary. -/
theorem State.reqFails_load {r : Req} {d : Reg} {signed : Bool} (cause : Nat) (hu : r.user = .strand) (hk : r.kind = .load ∨ r.kind = .atomic)
    (ho : r.acc.op = .load d signed) (hs : (s.strand r.core r.strand).stores = []) (hc : r.core < 260) (hj : r.strand < 4) :
    s.reqFails r cause = (s.answeredReq r s.rline).modStrand r.core r.strand fun t =>
      (t.unmark ⟨d, .request r.id⟩).defer cause r.acc.va := by
  let f (t : Strand) : Strand := (t.unmark ⟨d, .request r.id⟩).defer cause r.acc.va
  have hfails : s.reqFails r cause = (s.answeredReq r s.rline).strandFails r cause := by
    unfold State.reqFails
    rcases hk with hk | hk <;> simp only [hu, hk] <;> rfl
  have hst : (((s.answeredReq r s.rline).modStrand r.core r.strand f).strand r.core r.strand).stores = [] := by
    rw [State.strand_modStrand_self _ f hc hj]; exact hs
  rw [hfails]
  unfold State.strandFails Req.reg
  simp only [ho]
  refine State.sendReady_settled _ _ ?_
  rw [hst]
  exact fun b hb => absurd hb List.not_mem_nil

/-! ## The acknowledgement of a stream (R101, R124) -/

theorem Strand.stream_pkg (t : Strand) (pkg : Nat) : (t.stream pkg).pkg = pkg := by
  unfold Strand.stream
  split
  · rename_i x h; simpa using List.find?_some h
  · rfl

theorem Strand.stream_setStream (t : Strand) (x : Stream) : (t.setStream x).stream x.pkg = x := by
  simp [Strand.stream, Strand.setStream]

/-- The refusals among the stores that an acknowledgement covers: a trace write's tells nobody. -/
def Strand.refusedStores (t : Strand) (pkg : Nat) (a : BitVec 32) (ack : StreamAck) : List (Nat × Nat) :=
  (t.stores.filter fun b => b.inStream pkg a ack.upTo).filterMap fun b =>
    if b.acc.pc.toNat % 2 = 1 then none else (ack.refused.find? (·.1 == b.streamSeq)).map fun r => (r.2, b.acc.va)

/-- A strand after the acknowledgement of its stream x to a package, with its refusals deferred. -/
def Strand.takeAck (t : Strand) (x : Stream) (pkg : Nat) (ack : StreamAck) (bad : List (Nat × Nat)) : Strand :=
  bad.foldl (fun t r => t.defer r.1 r.2)
    { t.setStream { x with acked := ack.upTo } with stores := t.stores.filter fun b => !b.inStream pkg x.acked ack.upTo }

theorem Strand.foldl_defer : ∀ (bad : List (Nat × Nat)) (t : Strand),
    bad.foldl (fun t r => t.defer r.1 r.2) t = { t with deferred := t.deferred ++ bad.map fun r => (r.1, 2 ^ 15, BitVec.ofNat 64 r.2) }
  | [], t => by simp
  | r :: bad, t => by
    rw [List.foldl_cons, Strand.foldl_defer bad]
    simp [Strand.defer]

theorem Strand.refusedStores_none (t : Strand) (pkg : Nat) (a n : BitVec 32) : t.refusedStores pkg a ⟨n, []⟩ = [] := by
  unfold Strand.refusedStores
  refine List.filterMap_eq_nil_iff.2 fun b _ => ?_
  split <;> rfl

theorem Strand.mem_refusedStores {t : Strand} {pkg cause : Nat} {a : BitVec 32} {ack : StreamAck} {b : Buffered} (hb : b ∈ t.stores)
    (hin : b.inStream pkg a ack.upTo = true) (hpc : b.acc.pc.toNat % 2 = 0)
    (hf : ack.refused.find? (·.1 == b.streamSeq) = some (b.streamSeq, cause)) : (cause, b.acc.va) ∈ t.refusedStores pkg a ack := by
  refine List.mem_filterMap.2 ⟨b, List.mem_filter.2 ⟨hb, hin⟩, ?_⟩
  rw [if_neg (by omega), hf]
  rfl

/-- What the strands that write into one ring change together, the rest keep. -/
theorem State.modRing_keeps {α : Type} (p : Strand → α) (f : Strand → Strand) (h : ∀ t, p (f t) = p t) (c k c' k' : Nat) :
    p ((s.modRing c k f).strand c' k') = p (s.strand c' k') := by
  unfold State.modRing
  generalize (List.range 4).filter (fun j => (s.core c).sameRing k j) = js
  induction js generalizing s with
  | nil => rfl
  | cons j js ih => exact ih.trans (s.modStrand_keeps p f h c j c' k')

theorem State.modRing_mem (c k : Nat) (f : Strand → Strand) : (s.modRing c k f).mem = s.mem := by
  unfold State.modRing
  generalize (List.range 4).filter (fun j => (s.core c).sameRing k j) = js
  induction js generalizing s with
  | nil => rfl
  | cons j js ih => exact ih.trans (s.modStrand_mem c j f)

/-- The heads of trace rings move in the system registers and the recorder alone. -/
theorem State.headsDone_keeps {α : Type} (p : Strand → α) (h : ∀ (t : Strand) y z, p { t with sys := y, tr := z } = p t) (c k n c' k' : Nat) :
    p ((s.headsDone c k n).strand c' k') = p (s.strand c' k') := by
  unfold State.headsDone
  split
  · rfl
  · exact State.modRing_keeps p _ (fun t => h t _ _) c k c' k'

theorem State.headsDone_mem (c k n : Nat) : (s.headsDone c k n).mem = s.mem := by
  unfold State.headsDone
  split
  · rfl
  · exact State.modRing_mem c k _

/-- The acknowledgement is taken, and nothing waited behind the stores that it covers. -/
theorem State.remoteStoreAck_takes {c k pkg : Nat} {ack : StreamAck} (hc : c < 260) (hk : k < 4) (hp : pkg ≠ s.marten.values.pkg)
    (hl : ((s.strand c k).stream pkg).lost = false) (hw : seqWithin ((s.strand c k).stream pkg).acked ((s.strand c k).stream pkg).sent ack.upTo = true)
    (hs : ∀ b ∈ (s.strand c k).stores, b.sent = true ∨ ∃ j, b.dest = some (.here j)) :
    let x := (s.strand c k).stream pkg
    ∃ n, exec (.remoteStoreAck c k pkg ack) s =
      .next ((s.modStrand c k fun t => t.takeAck x pkg ack ((s.strand c k).refusedStores pkg x.acked ack)).headsDone c k n) := by
  intro x
  refine ⟨_, (if_neg ?_).trans (congrArg Host.Outcome.next (State.sendReady_settled c k ?_))⟩
  · rw [hl, hw]; simpa using hp
  · rw [State.headsDone_keeps Strand.stores fun _ _ _ => rfl, State.strand_modStrand_self _ _ hc hk, Strand.foldl_defer]
    exact fun b hb => hs b (List.mem_filter.1 hb).1

/-! ## Arrivals that reach their network (R42, R199) -/

theorem State.noteArrival_mem (a : Arrival) : (s.noteArrival a).mem = s.mem := by
  unfold State.noteArrival
  split
  · exact s.modStrand_mem _ _ _
  · rfl

theorem State.noteArrival_arrivals (a : Arrival) : (s.noteArrival a).arrivals = s.arrivals := by
  unfold State.noteArrival
  split
  · exact s.modStrand_arrivals _ _ _
  · rfl

theorem State.noteArrival_outside {a : Arrival} (h : a.src = none) : s.noteArrival a = s := by
  unfold State.noteArrival; rw [h]

theorem State.serveItem_arrival {a : Arrival} (h : a.expect = none) : s.serveItem a = s.serveArrival a := by
  unfold State.serveItem; rw [h]

theorem State.serveItem_config {a : Arrival} {n : Nat} (h : a.expect = some n) : s.serveItem a = s.serveConfig a n := by
  unfold State.serveItem; rw [h]

/-- The first item of its strand for its barrier leaves the list and is served. -/
theorem State.barrierArrival_serves {idx : Nat} {a : Arrival} (h : s.arrivals[idx]? = some a) (hf : ∀ x ∈ s.arrivals.take idx, x.follows a = false) :
    exec (.barrierArrival (.sent idx)) s = .next (({ s with arrivals := s.arrivals.eraseIdx idx } : State).serveItem a) := by
  show execBarrierArrival (.sent idx) s = _
  unfold execBarrierArrival
  simp only [h]
  refine if_neg fun hany => ?_
  obtain ⟨x, hx, hxa⟩ := List.any_eq_true.1 hany
  rw [hf x hx] at hxa
  cases hxa

/-! ## The statement -/

/-- Settles O54, a clause per way back: the entry leaves the scoreboard (`State.pendingResult_unmarks`, `State.loadReturn_unmarks`), a request is
answered (`State.reqDone_load`, `State.reqFails_load`), a stream is acknowledged (`State.remoteStoreAck_takes`), an arrival counts at its barrier
(`State.serveArrival_bar`). -/
theorem returns : Obligations.Returns := by
  intro s c k idx pkg id d acked refused y
  refine ⟨fun hc hk => ⟨fun p hp hkind => ?_, fun p a e v hp hkind => ?_, fun p r signed hp hkind hd ho hrc hrk hu hst hr => ⟨fun v => ?_, fun cause => ?_⟩,
    fun hpkg hl hw hs => ?_⟩, fun a ha hf => ⟨fun he hb => ?_, fun n he => ?_⟩, fun scope n who pl hm hb => ?_⟩
  · exact ⟨_, State.pendingResult_unmarks hp hkind, s.strand_modStrand_self _ hc hk, s.modStrand_mem c k _,
      fun c' k' h => s.strand_modStrand_ne _ h⟩
  · exact ⟨_, State.loadReturn_unmarks v hp hkind, s.strand_modStrand_self _ hc hk, s.modStrand_mem c k _⟩
  · subst hrc hrk
    obtain ⟨rfl, hkr⟩ : r.id = id ∧ (r.kind = .load ∨ r.kind = .atomic) := by simpa using List.find?_some hr
    have hpe : (⟨d, .request r.id⟩ : Pend) = p := by rw [← hkind, ← Strand.pendOf_reg hp]
    obtain ⟨l, hx⟩ := State.reqDone_load v hu hkr ho hst hc hk
    have hstrand := (s.answeredReq r l).strand_modStrand_self (fun t =>
      (t.unmark ⟨d, .request r.id⟩).setReg d (extendLoad r.acc.size signed (r.overlay v).toNat)) hc hk
    rw [hpe] at hx hstrand
    refine ⟨_, ((State.loadReturn_answers hp hkind hr).1 v).trans (congrArg _ hx), ?_, ?_, ?_, fun z => ?_⟩
    · exact State.modStrand_reqs _ _ _ _
    · exact State.modStrand_mem _ _ _ _
    · rw [hstrand]; exact congrArg Strand.pend (Strand.setReg_rest _ d _)
    · rw [hstrand, Strand.reg_setReg]
      by_cases hz : z = d
      · subst hz; rw [if_pos ⟨rfl, hd⟩, if_pos rfl]
      · rw [if_neg fun h => hz h.1, if_neg hz]; rfl
  · subst hrc hrk
    obtain ⟨rfl, hkr⟩ : r.id = id ∧ (r.kind = .load ∨ r.kind = .atomic) := by simpa using List.find?_some hr
    have hpe : (⟨d, .request r.id⟩ : Pend) = p := by rw [← hkind, ← Strand.pendOf_reg hp]
    have hx := State.reqFails_load cause hu hkr ho hst hc hk
    rw [hpe] at hx
    exact ⟨_, ((State.loadReturn_answers hp hkind hr).2 cause).trans (congrArg _ hx), State.modStrand_reqs _ _ _ _,
      State.modStrand_mem _ _ _ _, State.strand_modStrand_self _ _ hc hk⟩
  · let x := y.stream pkg
    let ack : StreamAck := ⟨acked, refused⟩
    let bad := y.refusedStores pkg x.acked ack
    obtain ⟨n, hx⟩ := State.remoteStoreAck_takes (ack := ack) hc hk hpkg hl hw hs
    have hkeeps {α : Type} (p : Strand → α) (h : ∀ (t : Strand) u v, p { t with sys := u, tr := v } = p t) :
        p (((s.modStrand c k fun t => t.takeAck x pkg ack bad).headsDone c k n).strand c k) = p (y.takeAck x pkg ack bad) :=
      (State.headsDone_keeps p h c k n c k).trans (congrArg p (s.strand_modStrand_self _ hc hk))
    have htake : y.takeAck x pkg ack bad = _ := Strand.foldl_defer bad _
    rw [htake] at hkeeps
    refine ⟨_, hx, ?_, ?_, ?_, ?_, fun he => ?_, fun b hb cause hin hpc hf => ?_⟩
    · refine (hkeeps (·.stream pkg) fun _ _ _ => rfl).trans ?_
      exact (congrArg _ (y.stream_pkg pkg).symm).trans (Strand.stream_setStream y { x with acked := acked })
    · exact hkeeps Strand.regs fun _ _ _ => rfl
    · rw [State.headsDone_mem]; exact s.modStrand_mem c k _
    · exact hkeeps Strand.stores fun _ _ _ => rfl
    · refine (hkeeps Strand.deferred fun _ _ _ => rfl).trans ?_
      subst he
      show y.deferred ++ List.map _ bad = y.deferred
      rw [show bad = [] from y.refusedStores_none pkg x.acked acked]
      exact List.append_nil _
    · rw [hkeeps Strand.deferred fun _ _ _ => rfl]
      exact List.mem_append_right _ (List.mem_map.2 ⟨_, Strand.mem_refusedStores (ack := ack) hb hin hpc hf, rfl⟩)
  · let s' : State := { s with arrivals := s.arrivals.eraseIdx idx }
    obtain ⟨b', hb', -⟩ := s'.serveArrival_counts a hb
    have hx : exec (.barrierArrival (.sent idx)) s = .next (s'.serveArrival a) :=
      (State.barrierArrival_serves ha hf).trans (congrArg _ (State.serveItem_arrival he))
    refine ⟨_, hx, ?_, ?_, s'.serveArrival_bar a hb⟩
    · rw [hb']; exact s'.noteArrival_arrivals a
    · rw [hb']; exact s'.noteArrival_mem a
  · let s' : State := { s with arrivals := s.arrivals.eraseIdx idx }
    have hx : exec (.barrierArrival (.sent idx)) s = .next (s'.serveConfig a n) :=
      (State.barrierArrival_serves ha hf).trans (congrArg _ (State.serveItem_config he))
    have hbar : (s'.serveConfig a n).bar a.scope a.inst a.id = _ := State.serveConfig_bar a n
    refine ⟨_, hx, rfl, rfl, ?_, ?_, ?_, ?_⟩
    · rw [hbar]
    · rw [hbar]
    · rw [hbar]; rfl
    · rw [hbar]
  · let a : Arrival := ⟨scope, s.instOf 0 scope, n, ⟨who, 0, 0xFFFFFFF0, pl, s.now⟩, none, s.outsideLate who, none⟩
    obtain ⟨b', hb', -⟩ := s.serveArrival_counts a hb
    rw [State.noteArrival_outside (a := a) rfl] at hb'
    obtain ⟨hexpect, -, hcount⟩ := s.serveArrival_bar a hb
    have hx : exec (.barrierArrival (.outside scope n who pl)) s = .next (s.serveArrival a) := if_neg (by rw [hm]; decide)
    exact ⟨_, hx, (congrArg State.cores hb').trans rfl, (congrArg State.mem hb').trans rfl, hexpect, hcount⟩

end Sys2Proof.Machine
end

section
/-!
SUPPORT. No instruction stops the machine (R34, R282, R283): an outcome that goes on, through each operation that takes what follows as an
argument.
-/
namespace Sys2Proof.Machine

/-- An outcome that is a next state. -/
def Goes (o : Out) : Prop := ∃ t, o = .next t

theorem Goes.next (t : State) : Goes (.next t) := ⟨t, rfl⟩

theorem Goes.ite {p : Prop} [Decidable p] {a b : Out} (ha : Goes a) (hb : Goes b) : Goes (if p then a else b) := by
  split
  · exact ha
  · exact hb

variable (s : State)

/-! ## Strands: releases, barriers, descriptors, posting -/

section follow
variable {go : State → Out} (h : ∀ t, Goes (go t))
include h

theorem State.release_goes (scope : Nat) : Goes (s.release scope go) := by
  unfold State.release
  split
  · exact .next _
  · exact .ite (h _) (.next _)

theorem State.whenUnnamed_goes (ns : List Nat) : Goes (s.whenUnnamed ns go) := .ite (.next _) (h _)

theorem State.drained_goes : Goes (s.drained go) := .ite (.next _) (h _)

theorem Out.thenState_goes (o : Out) : Goes (o.thenState s go) := by
  cases o with
  | next t => exact h t
  | fault f => exact h s
  | refused r => exact h s

theorem State.issue_goes (i : Instr) : Goes (s.issue i go) := by
  unfold State.issue
  split
  · exact .next _
  · split
    · exact .ite (h _) (.ite (.next _) (h _))
    · exact h _

end follow

theorem State.atomic_goes (code : Nat) (d a b : Reg) (ar : Bool) (scope : BitVec 3) (wide : Bool) : Goes (s.atomic code d a b ar scope wide) :=
  .ite (.ite (.next _) (.next _)) (.ite (s.release_goes (fun _ => .next _) _) (.next _))

theorem State.fenceWhen_goes (ready : Bool) (go : State → State) : Goes (s.fenceWhen ready go) := .ite (.next _) (.next _)

theorem State.barWaitThen_goes (d : Reg) (scope id : Nat) : Goes (s.barWaitThen d scope id) := by
  unfold State.barWaitThen
  split <;> exact .next _

theorem State.onTb_goes {go : Nat → State → Out} (h : ∀ k t, Goes (go k t)) (a : Reg) (writes reads : Bool) : Goes (s.onTb a writes reads go) := by
  unfold State.onTb
  dsimp only
  split
  · exact .next _
  · exact .ite (.next _) (.ite (.next _) (h _ _))

theorem State.strandUpdate_goes (k : Nat) (kind : TbKind) (n : Nat) (d : Reg) : Goes (s.strandUpdate k kind n d) := .ite (.next _) (.next _)

theorem State.post_goes (h : TaskHead) (cmd : Cmd) (early : Option Nat) : Goes (s.post h cmd early) :=
  .ite (.next _) (.ite (.next _) (.ite (.next _) (.next _)))

theorem State.readWords_goes {go : Nat → State → Out} (h : ∀ w t, Goes (go w t)) (va n : Nat) : Goes (s.readWords va n go) := by
  unfold State.readWords
  split
  · exact .next _
  · exact .ite (.next _) (.next _)
  · exact h _ _
  · exact .ite (.next _) (h _ _)
  · exact h _ _

theorem State.readDescriptor_goes {go : Nat → State → Out} (h : ∀ w t, Goes (go w t)) (a : Word) (n : Nat) : Goes (s.readDescriptor a n go) :=
  .ite (.next _) (s.readWords_goes h _ _)

theorem State.readMap_goes (map : Nat) (g : Grid) {go : List (List Nat × Nat) → State → Out} (h : ∀ ps t, Goes (go ps t)) :
    ∀ (cs : List (List Nat)) (acc : List (List Nat × Nat)) (s : State), Goes (s.readMap map g cs acc go)
  | [], acc, s => h acc s
  | c :: cs, acc, s => s.readWords_goes (fun v t => State.readMap_goes map g h cs (acc ++ [(c, v)]) t) _ _

theorem State.awaitGrid_goes (d : Reg) (no : Nat) (g : Grid) : Goes (s.awaitGrid d no g) := State.whenUnnamed_goes _ (fun _ => .next _) _

theorem State.onSys_goes {go : Nat → Nat → Nat → Bool → State → Out} (h : ∀ c k n r t, Goes (go c k n r t)) (num : BitVec 12) :
    Goes (s.onSys num go) :=
  .ite (.next _) (.ite (h _ _ _ _ _) (.ite (.next _) (h _ _ _ _ _)))

theorem execRegisterWrite_goes (core strand : Nat) (num : BitVec 12) (value : Word) : Goes (execRegisterWrite core strand num value s) := by
  unfold execRegisterWrite
  dsimp only
  repeat' split
  all_goals exact .next _

theorem State.corectl_goes (core : Nat) (value : Word) : Goes (s.corectl core value) := by
  have hreset (m : BitVec 4) (t : State) : Goes (execCorectlReset core m t) := .next _
  unfold State.corectl
  exact Out.thenState_goes _ (fun _ => Out.thenState_goes _ (fun _ => Out.thenState_goes _ (fun _ => hreset _ _) _) _) _

theorem State.onSparse_goes {go : Leaf → State → Out} (h : ∀ l t, Goes (go l t)) (d a : Reg) : Goes (s.onSparse d a go) := by
  refine .ite (.next _) (.ite (.next _) ?_)
  split
  · exact .next _
  · exact .next _
  · exact .ite (.next _) (.ite (.next _) (.ite (.next _) (.ite (.next _) (h _ _))))

/-! ## Landing zones, hosts and packets -/

theorem State.landChunk_goes (k : CprChunk) (c z i : Nat) : Goes (s.landChunk k c z i) := .ite (.next _) (.ite (.next _) (.next _))

theorem State.landArrival_goes (m : CprArrival) (c z i : Nat) : Goes (s.landArrival m c z i) := .ite (.next _) (.next _)

theorem State.hostMessage_goes {go : Conn → State → Out} (h : ∀ c t, Goes (go c t)) (n op : Nat) (hdr : BitVec 256) (payload : List Byte) :
    Goes (s.hostMessage n op hdr payload go) := by
  unfold State.hostMessage
  split
  · exact .next _
  · exact .ite (.next _) (h _ _)

theorem State.hostAccess_goes (n : Nat) (c : Conn) (hdr : BitVec 256) (payload : List Byte) (acc len : Nat) (go : List PagePart → State) :
    Goes (s.hostAccess n c hdr payload acc len go) := by
  unfold State.hostAccess
  split <;> exact .next _

theorem State.onPacket_goes {go : Packet → State → Out} (h : ∀ p t, Goes (go p t)) (idx kind : Nat) : Goes (s.onPacket idx kind go) := by
  unfold State.onPacket
  split
  · exact .next _
  · exact .ite (.next _) (h _ _)

theorem State.invalidate_goes (svc kind : Nat) (stale : Nat → TlbEntry → Bool) (busy : Nat → Nat → Nat → Bool) :
    Goes (s.invalidate svc kind stale busy) :=
  .ite (.next _) (.ite (.next _) (.ite (.next _) (.next _)))

/-! ## Vector members -/

theorem State.pushMask_goes (p : BitVec 1024) (f : Flags) : Goes (s.pushMask p f) := .ite (.next _) (.next _)

theorem State.pushLanes_goes (m : Bool) (bs : List (Bool × Flags)) : Goes (s.pushLanes m bs) := by
  unfold State.pushLanes
  split
  · exact .next _
  · exact s.pushMask_goes _ _

theorem State.onTop_goes {go : BitVec 1024 → State → Out} (h : ∀ p t, Goes (go p t)) : Goes (s.onTop go) := by
  unfold State.onTop
  split
  · exact h _ _
  · exact .next _

theorem State.onTwo_goes (go : BitVec 1024 → BitVec 1024 → BitVec 1024) : Goes (s.onTwo go) := by
  unfold State.onTwo
  split <;> exact .next _

theorem State.writeLanes_goes (vd : VReg) (n g : Nat) (m : Bool) (new : List (Nat × Flags)) : Goes (s.writeLanes vd n g m new) := by
  unfold State.writeLanes
  split <;> exact .next _

theorem State.reduce_goes (vd : VReg) (m : Bool) (go : (Nat → Bool) → Nat × Flags) : Goes (s.reduce vd m go) := by
  unfold State.reduce
  split <;> exact .next _

theorem State.laneAccess_goes {go : List Nat → State → Out} (h : ∀ ks t, Goes (go ks t)) (store : Bool) (layout n align : Nat)
    (lanes : List (Bool × Nat)) : Goes (s.laneAccess store layout n align lanes go) := by
  unfold State.laneAccess
  split
  · exact .next _
  · dsimp only
    split
    · exact .next _
    · split
      · exact .next _
      · exact h _ _

theorem State.vecLoad_goes (vd : VReg) (ty layout : Nat) (m : Bool) (addrs : List Nat) : Goes (s.vecLoad vd ty layout m addrs) := by
  unfold State.vecLoad
  split
  · exact .next _
  · exact s.laneAccess_goes (fun _ t => t.writeLanes_goes _ _ _ _ _) _ _ _ _ _

theorem State.vecStore_goes (vd : VReg) (ty layout : Nat) (m : Bool) (addrs : List Nat) : Goes (s.vecStore vd ty layout m addrs) := by
  unfold State.vecStore
  split
  · exact .next _
  · exact s.laneAccess_goes (fun _ _ => .next _) _ _ _ _ _

/-! ## The instructions and the rows of events -/

/-- Every instruction and every row of events goes on: through the operation that it shares with others, or at the end of each of its own
branches. -/
theorem exec_goes (i : Instr) : Goes (exec i s) := by
  cases i
  -- atomics, fences and barriers
  case atomAdd | atomAnd | atomOr | atomXor | atomXchg | atomCas | atomMin | atomMax | atomMinn | atomMaxn | atomFadd | atomFmin | atomFmax |
    atomIncw | atomAddb =>
    exact s.atomic_goes _ _ _ _ _ _ _
  case fenceAcq | fenceX =>
    dsimp only [exec, execFenceAcq, execFenceX]
    exact s.fenceWhen_goes _ _
  case fenceRel | fenceAr | fenceSc =>
    dsimp only [exec, execFenceRel, execFenceAr, execFenceSc]
    exact s.release_goes (fun _ => .next _) _
  case barArv =>
    dsimp only [exec, execBarArv]
    exact .ite (.next _) (s.release_goes (fun _ => .next _) _)
  case barWait =>
    dsimp only [exec, execBarWait]
    exact .ite (.next _) (s.barWaitThen_goes _ _ _)
  case barSync =>
    dsimp only [exec, execBarSync]
    exact .ite (.next _) (.ite (s.barWaitThen_goes _ _ _) (s.release_goes (fun _ => State.barWaitThen_goes _ _ _ _) _))
  case tbInit | tbTest | tbInval =>
    dsimp only [exec, execTbInit, execTbTest, execTbInval]
    exact s.onTb_goes (fun _ _ => .ite (.next _) (.next _)) _ _ _
  case tbName =>
    dsimp only [exec, execTbName]
    exact s.onTb_goes (fun _ _ => .ite (.next _) (.ite (.next _) (.next _))) _ _ _
  case tbExpect =>
    dsimp only [exec, execTbExpect]
    exact s.onTb_goes (fun _ t => t.strandUpdate_goes _ _ _ _) _ _ _
  case tbArv =>
    dsimp only [exec, execTbArv]
    exact s.onTb_goes (fun _ t => .ite (.next _) (t.release_goes (fun u => u.strandUpdate_goes _ _ _ _) _)) _ _ _
  case tbWait =>
    dsimp only [exec, execTbWait]
    refine s.onTb_goes (fun k t => ?_) _ _ _
    split <;> exact .next _
  -- descriptors and task forms
  case mm | mmd | mmz | xp | row | vrun | cp | cpW | cpG | cpS | cpF | cpR | taskRpost | taskRstat =>
    dsimp only [exec, execMm, execMmd, execMmz, execXp, execRow, execVrun, execCp, execCpW, execCpG, execCpS, execCpF, execCpR, execTaskRpost,
      execTaskRstat]
    exact s.post_goes _ _ _
  case bufDef =>
    dsimp only [exec, execBufDef]
    exact s.readDescriptor_goes (fun _ _ => .ite (.next _) (State.whenUnnamed_goes _ (fun _ => .ite (.next _) (.next _)) _)) _ _
  case bufUndef =>
    dsimp only [exec, execBufUndef]
    exact .ite (.next _) (s.whenUnnamed_goes (fun _ => .next _) _)
  case gridUndef =>
    dsimp only [exec, execGridUndef]
    exact .ite (.next _) (.ite (.next _) (s.whenUnnamed_goes (fun _ => .next _) _))
  case gridDef =>
    dsimp only [exec, execGridDef]
    split
    · exact s.awaitGrid_goes _ _ _
    · exact s.readDescriptor_goes (fun _ t => .ite (.next _) (.ite (.next _) (State.readMap_goes _ _ (fun _ u =>
        .ite (.next _) (u.awaitGrid_goes _ _ _)) _ _ t))) _ _
  case lzDef =>
    dsimp only [exec, execLzDef]
    exact .ite (.next _) (.ite (.next _) (s.readDescriptor_goes (fun _ _ => .ite (.next _) (.ite (.next _) (.ite (.next _)
      (.ite (.next _) (.next _))))) _ _))
  case lzRel =>
    dsimp only [exec, execLzRel]
    exact .ite (.next _) (.ite (.next _) (s.release_goes (fun _ => .next _) _))
  -- the system, sparse pages and the ends of strands
  case sysr =>
    dsimp only [exec, execSysr]
    exact s.onSys_goes (fun _ _ _ _ _ => .next _) _
  case sysw =>
    dsimp only [exec, execSysw]
    exact s.onSys_goes (fun c k n r t => .ite (t.release_goes (fun _ => .next _) _) (.ite (.next _) (.ite (.next _)
      (.ite (State.corectl_goes _ _ _) (execRegisterWrite_goes _ _ _ _ _))))) _
  case ckpt | endStrand =>
    dsimp only [exec, execCkpt, execEndStrand]
    exact s.drained_goes (fun _ => .ite (.next _) (.next _))
  case memDecommit =>
    dsimp only [exec, execMemDecommit]
    exact s.onSparse_goes (fun _ _ => .ite (.next _) (.next _)) _ _
  case memCommit =>
    dsimp only [exec, execMemCommit]
    refine s.onSparse_goes (fun l t => .ite (.next _) ?_) _ _
    repeat' split
    all_goals exact .next _
  -- landing zones, host messages, packets and invalidation
  case cprChunkArrival =>
    dsimp only [exec, execCprChunkArrival]
    refine .ite (.next _) ?_
    repeat' split
    · exact .next _
    · exact .next _
    · exact State.landChunk_goes _ _ _ _ _
  case cprArrival =>
    dsimp only [exec, execCprArrival]
    refine .ite (.next _) ?_
    repeat' split
    · exact .next _
    · exact .next _
    · exact State.landArrival_goes _ _ _ _ _
  case eqtWrite | eqtRead | eqtFadd =>
    dsimp only [exec, execEqtWrite, execEqtRead, execEqtFadd]
    exact s.hostMessage_goes (fun _ t => t.hostAccess_goes _ _ _ _ _ _ _) _ _ _ _
  case eqtNotify =>
    dsimp only [exec, execEqtNotify]
    refine s.hostMessage_goes (fun c t => ?_) _ _ _ _
    split
    · exact .ite (.next _) (.next _)
    · exact .next _
  case packetNop =>
    dsimp only [exec, execPacketNop]
    exact s.onPacket_goes (fun _ _ => .next _) _ _
  case packetEvent | packetCopy | packetLaunch =>
    dsimp only [exec, execPacketEvent, execPacketCopy, execPacketLaunch]
    refine s.onPacket_goes (fun p t => ?_) _ _
    repeat' split
    all_goals exact .next _
  case invalidateSpace | invalidatePartition | invalidateAll =>
    dsimp only [exec, execInvalidateSpace, execInvalidatePartition, execInvalidateAll]
    exact s.invalidate_goes _ _ _ _
  -- vector members
  case mand | mor | mandn =>
    dsimp only [exec, execMand, execMor, execMandn]
    exact s.onTwo_goes _
  case minv | mpop | mcnt | mfirst | vcmprs | vexpnd | viota | vsel | vbz | vbnz =>
    dsimp only [exec, execMinv, execMpop, execMcnt, execMfirst, execVcmprs, execVexpnd, execViota, execVsel, execVbz, execVbnz]
    exact s.onTop_goes fun _ _ => .next _
  case mst =>
    dsimp only [exec, execMst]
    exact s.onTop_goes fun _ t => t.laneAccess_goes (fun _ _ => .next _) _ _ _ _ _
  case mld =>
    dsimp only [exec, execMld]
    exact .ite (.next _) (s.laneAccess_goes (fun _ t => t.pushMask_goes _ _) _ _ _ _ _)
  case mpush | vcmp =>
    exact s.pushLanes_goes _ _
  case vld | vlds | vgath | vldb =>
    dsimp only [exec, execVld, execVlds, execVgath, execVldb]
    exact s.vecLoad_goes _ _ _ _ _
  case vst | vsts | vscat =>
    dsimp only [exec, execVst, execVsts, execVscat]
    exact s.vecStore_goes _ _ _ _ _
  case vrsum | vrmax | vrmin | vrxor | vrfsum | vrfmax =>
    exact s.reduce_goes _ _ _
  case vadd | vsub | vmul | vmulh | vmad | vmin | vmax | vabs | vneg | vand | vor | vxor | vnot | vsll | vsllImm | vsrl | vsrlImm | vsra | vsraImm |
    vadds | vsubs | vavg | vclz | vpopc | vclmul | vclmulh | vmulw | vaddw | vdot4 | vfadd | vfsub | vfmul | vfma | vfms | vfnma | vfmin | vfmax |
    vfminp | vfmaxp | vfabs | vfneg | vfcpys | vfdiv | vfsqrt | vexp2 | vlog2 | vrcp | vrsqrt | vsinpi | vcospi | vfrnd | vfclass | vfscale | vcvt |
    vcvtw | vcvtn | vbcast | vsplat | vshuf | vrot | vslide | vmov =>
    exact s.writeLanes_goes _ _ _ _ _
  -- the others end each of their branches with a next state
  case barCfg | tkWait | lzResv | lzUndef | gridBc | gridStep | gridStat | trap | spawn | waitev | accAlloc | accFree | illegalWord | eret | halt |
    vend | registerWrite | timerExpiry =>
    dsimp only [exec, execBarCfg, execTkWait, execLzResv, execLzUndef, execGridBc, execGridStep, execGridStat, execTrap, execSpawn, execWaitev,
      execAccAlloc, execAccFree, execIllegalWord, execEret, execHalt, execVend, execRegisterWrite, execTimerExpiry]
    repeat' split
    all_goals exact .next _
  case taskReady | taskIssue | taskAging | taskComplete | producerFailed | stampStaleLimit | launchStart | launchComplete | loadReturn |
    remoteStoreAck | barrierArrival | copyChunkDone | copyArrivalReply | accessPerformedAtHome | pendingResultWritten | postAnswerArrival =>
    dsimp only [exec, execTaskReady, execTaskIssue, execTaskAging, execTaskComplete, execProducerFailed, execStampStaleLimit, execLaunchStart,
      execLaunchComplete, execLoadReturn, execRemoteStoreAck, execBarrierArrival, execCopyChunkDone, execCopyArrivalReply, execAccessPerformedAtHome,
      execPendingResultWritten, execPostAnswerArrival]
    repeat' split
    all_goals exact .next _
  case resolvableFault | heldFaultRecord | dispRetry | dispRefuse | migrationStart | migrationComplete | remotePostArrival | remotePostRetry |
    intakeAdmit | remoteReport | lzResvRequest | lzResvAnswer | cprFailureReport | slotLeaseExpiry | gridMarkerRetire | declaredStepArrival |
    haloShipmentCredit | haloShipmentRead | haloShipmentLand | haloFillLand | gridFailureNotice =>
    dsimp only [exec, execResolvableFault, execHeldFaultRecord, execDispRetry, execDispRefuse, execMigrationStart, execMigrationComplete,
      execRemotePostArrival, execRemotePostRetry, execIntakeAdmit, execRemoteReport, execLzResvRequest, execLzResvAnswer, execCprFailureReport,
      execSlotLeaseExpiry, execGridMarkerRetire, execDeclaredStepArrival, execHaloShipmentCredit, execHaloShipmentRead, execHaloShipmentLand,
      execHaloFillLand, execGridFailureNotice]
    repeat' split
    all_goals exact .next _
  case breakpointStop | debugResume | traceSample | preemptRequest | preemptLimit | partitionSave | partitionResume | partitionStopRequest |
    partitionCreate | partitionRelease | fatalStop | imageLoad =>
    dsimp only [exec, execBreakpointStop, execDebugResume, execTraceSample, execPreemptRequest, execPreemptLimit, execPartitionSave,
      execPartitionResume, execPartitionStopRequest, execPartitionCreate, execPartitionRelease, execFatalStop, execImageLoad]
    repeat' split
    all_goals exact .next _
  case frameReceive | eqtAck | eqtNack | eqtRetransmit | eqtAckTimer | rdmaResponse | notifyLineWrite | queueOpen | queuePacketRead |
    packetComplete | queueWatchdogExpiry | eventPortSend | flitCrcError | linkWidthChange | linkRetrain | linkTrainingDone | linkFailureNews |
    linkDisable | linkDisableDrained | linkEnable | requestResend | noRouteTimeout | linkRecordUpdate | rttMeasure | linkRecordRequest |
    memoryScrub | scratchpadScrub | powerTrip | capSet | thermalShutdown | telemetryRequest | attestationRequest =>
    dsimp only [exec, execFrameReceive, execEqtAck, execEqtNack, execEqtRetransmit, execEqtAckTimer, execRdmaResponse, execNotifyLineWrite,
      execQueueOpen, execQueuePacketRead, execPacketComplete, execQueueWatchdogExpiry, execEventPortSend, execFlitCrcError, execLinkWidthChange,
      execLinkRetrain, execLinkTrainingDone, execLinkFailureNews, execLinkDisable, execLinkDisableDrained, execLinkEnable, execRequestResend,
      execNoRouteTimeout, execLinkRecordUpdate, execRttMeasure, execLinkRecordRequest, execMemoryScrub, execScratchpadScrub, execPowerTrip,
      execCapSet, execThermalShutdown, execTelemetryRequest, execAttestationRequest]
    repeat' split
    all_goals exact .next _
  all_goals exact .next _

/-! ## Steps -/

theorem runDecoded_goes (w : Nat) (d : Decoded) : Goes (runDecoded w s d) := by
  cases d with
  | instr i => exact s.issue_goes (fun t => exec_goes t i) i
  | illegal e => exact exec_goes s (.illegalWord false (BitVec.ofNat 64 w))

theorem State.fetchWord_goes {go : Nat → State → Out} (h : ∀ w t, Goes (go w t)) (va : Word) : Goes (s.fetchWord va go) := by
  refine .ite (.next _) ?_
  split
  · exact h _ _
  · exact .next _
  · exact .next _
  · exact .next _

theorem runStrand_goes : Goes (runStrand s) :=
  s.fetchWord_goes (fun _ _ => .ite (State.fetchWord_goes _ (fun _ u => runDecoded_goes u _ _) _) (runDecoded_goes _ _ _)) _

theorem stepStrand_goes : Goes (stepStrand s) := by
  obtain ⟨t, ht⟩ := runStrand_goes s
  refine .ite (.next _) ?_
  rw [ht]
  split
  · exact .next _
  · exact .next _

theorem runVector_goes (w : Nat) : Goes (runVector w s) := by
  unfold runVector
  split
  · exact exec_goes s _
  · exact exec_goes s _

theorem State.fetchVector_goes {go : Nat → State → Out} (h : ∀ w t, Goes (go w t)) (t : Task) : Goes (s.fetchVector t go) := by
  unfold State.fetchVector
  dsimp only
  split
  · exact h _ _
  · exact .next _
  · exact .next _
  · exact .next _

theorem stepCtx_goes : Goes (stepCtx s) := by
  unfold stepCtx
  split
  · exact .next _
  · exact .ite (State.fetchVector_goes _ (fun w t => runVector_goes t w) _) (.next _)

theorem endOf_goes {o : Out} (h : Goes o) : Goes (endOf o) := by
  obtain ⟨t, rfl⟩ := h
  exact .next _

/-- A step goes on, whatever has the turn. -/
theorem step_goes : Goes (step s) := by
  unfold step
  split
  · exact .next _
  · split
    · exact endOf_goes (stepStrand_goes _)
    · exact .next _
  · split
    · exact endOf_goes (stepCtx_goes _)
    · exact .next _
  · exact .ite (endOf_goes (exec_goes s _)) (.next _)

/-- Settles O37: `exec_goes` for the instructions and rows of events, `step_goes` for the steps. -/
theorem nothingStops : Obligations.NothingStops := ⟨fun i s => exec_goes s i, step_goes⟩

end Sys2Proof.Machine
end

section
/-!
SUPPORT. The window of a core (R34, R36, R40): what writes in this package leave as it is, how a task retires, and what its end leaves of the
others.
-/
namespace Sys2Proof.Machine

/-! ## Writes in this package -/

/-- t is s but for memory, the writes that are late to some view, poison, soft errors, the open faults' latches and the notes of transaction
barriers. -/
def State.onlyMem (s t : State) : Prop :=
  t = { s with mem := t.mem, late := t.late, nextLate := t.nextLate, poison := t.poison, softErrors := t.softErrors, power := t.power,
               notified := t.notified, faults := t.faults, barTimes := t.barTimes, barSeen := t.barSeen }

theorem State.onlyMem.refl (s : State) : s.onlyMem s := rfl

theorem State.onlyMem.trans {s t u : State} (h : s.onlyMem t) (g : t.onlyMem u) : s.onlyMem u := by
  unfold State.onlyMem at *
  rw [g, h]

theorem State.onlyMem.core {s t : State} (h : s.onlyMem t) (c : Nat) : t.core c = s.core c := by
  rw [show t = _ from h]; rfl

theorem State.onlyMem.strand {s t : State} (h : s.onlyMem t) (c k : Nat) : t.strand c k = s.strand c k := by
  rw [show t = _ from h]; rfl

theorem State.onlyMem.outbox {s t : State} (h : s.onlyMem t) : t.outbox = s.outbox := by
  rw [show t = _ from h]

theorem State.onlyMem.foldl {α : Type} (f : State → α → State) (hf : ∀ (s : State) a, s.onlyMem (f s a)) :
    ∀ (as : List α) (s : State), s.onlyMem (as.foldl f s)
  | [], s => .refl s
  | a :: as, s => (hf s a).trans (State.onlyMem.foldl f hf as (f s a))

section mem
variable (s : State)

theorem State.modLate_onlyMem (f : Late → Late) : s.onlyMem (s.modLate f) := by
  obtain ⟨l, h⟩ := s.modLate_only f; rw [h]; rfl

theorem State.enterDies_onlyMem (ds : List Nat) (want : Late → Bool) : s.onlyMem (s.enterDies ds want) := by
  obtain ⟨l, h⟩ := s.enterDies_only ds want; rw [h]; rfl

theorem State.settleOver_onlyMem (k n : Nat) : s.onlyMem (s.settleOver k n) := by
  obtain ⟨l, h⟩ := s.settleOver_only k n; rw [h]; rfl

theorem State.noteLate_onlyMem (by_ : Writer) (die : Nat) (clock ks : List Nat) : s.onlyMem (s.noteLate by_ die clock ks) := by
  obtain ⟨l, n, h⟩ := s.noteLate_only by_ die clock ks; rw [h]; rfl

theorem State.latchDisp_onlyMem : s.onlyMem s.latchDisp := by
  unfold State.latchDisp; split <;> rfl

theorem State.putMem_onlyMem (k n : Nat) (m : List Host.Cell) : s.onlyMem (s.putMem k n m) :=
  State.onlyMem.trans (t := { s with mem := m, poison := clearPoison s.poison k n, notified := s.notified ++ s.notifyLines k n }) rfl
    (State.latchDisp_onlyMem _)

theorem State.writeBytes_onlyMem (k : Nat) (bs : List Byte) : s.onlyMem (s.writeBytes k bs) :=
  (s.settleOver_onlyMem k bs.length).trans (State.putMem_onlyMem _ _ _ _)

theorem State.lateBytes_onlyMem (by_ : Writer) (die : Nat) (clock : List Nat) (k : Nat) (bs : List Byte) :
    s.onlyMem (s.lateBytes by_ die clock k bs) :=
  (s.noteLate_onlyMem _ _ _ _).trans (State.putMem_onlyMem _ _ _ _)

theorem State.writeNat_onlyMem (k n v : Nat) : s.onlyMem (s.writeNat k n v) := s.writeBytes_onlyMem k _

theorem State.unitWrite_onlyMem (k : Nat) (bs : List Byte) : s.onlyMem (s.unitWrite k bs) :=
  (s.settleOver_onlyMem k bs.length).trans (State.putMem_onlyMem _ _ _ _)

theorem State.tbFail_onlyMem (k c : Nat) : s.onlyMem (s.tbFail k c) :=
  (s.writeNat_onlyMem k 32 _).trans rfl

theorem State.detect_onlyMem (k n : Nat) : s.onlyMem (s.detect k n) := by
  unfold State.detect; dsimp only; split <;> rfl

theorem State.scan_onlyMem (ks : List Nat) (n : Nat) : s.onlyMem (s.scan ks n) := by
  unfold State.scan
  split
  · rfl
  · exact State.onlyMem.foldl _ (fun u k => u.detect_onlyMem k n) ks s

theorem State.writeElem_onlyMem (e : Nat) (p : Nat × Nat) (v : Nat) : s.onlyMem (s.writeElem e p v) := by
  unfold State.writeElem
  split
  · exact s.writeNat_onlyMem _ _ _
  · exact s.writeNat_onlyMem _ _ _

theorem State.coverClear_onlyMem (ks : List Nat) (n : Nat) : s.onlyMem (s.coverClear ks n) := by
  unfold State.coverClear; split <;> rfl

theorem State.taskMeets_onlyMem (c k : Nat) (ph : BitVec 8) : s.onlyMem (s.taskMeets c k ph) := by
  unfold State.taskMeets
  split
  · rfl
  · exact (s.enterDies_onlyMem _ _).trans (State.modLate_onlyMem _ _)

end mem

/-! ## A core's window as tasks come and go -/

/-- What the retirement of another task leaves of a task. -/
structure Task.Kept (w w' : Task) : Prop where
  seq : w'.seq = w.seq
  state : w'.state = w.state
  cmd : w'.cmd = w.cmd

theorem Task.Kept.refl (w : Task) : w.Kept w := ⟨rfl, rfl, rfl⟩

theorem Task.Kept.trans {u v w : Task} (h : u.Kept v) (g : v.Kept w) : u.Kept w :=
  ⟨g.seq.trans h.seq, g.state.trans h.state, g.cmd.trans h.cmd⟩

theorem Task.producerRetired_kept (u : Task) (q : BitVec 32) (a : Arriver) (failed : Bool) : u.Kept (u.producerRetired q a failed) := by
  unfold Task.producerRetired
  dsimp only
  repeat' split
  all_goals exact ⟨rfl, rfl, rfl⟩

/-- y is x but for its buffers, contexts, window, grants, grid markers, and the notes of what ended last. -/
def Core.onlyWindow (x y : Core) : Prop :=
  y = { x with bufs := y.bufs, nextGen := y.nextGen, ctxs := y.ctxs, window := y.window, lastRetired := y.lastRetired,
               engineDone := y.engineDone, grids := y.grids, granted := y.granted, lastGrant := y.lastGrant }

theorem Core.onlyWindow.refl (x : Core) : x.onlyWindow x := rfl

theorem Core.onlyWindow.trans {x y z : Core} (h : x.onlyWindow y) (g : y.onlyWindow z) : x.onlyWindow z := by
  unfold Core.onlyWindow at *
  rw [g, h]

theorem Core.onlyWindow.strands {x y : Core} (h : x.onlyWindow y) : y.strands = x.strands := by rw [show y = _ from h]

theorem Core.onlyWindow.nextSeq {x y : Core} (h : x.onlyWindow y) : y.nextSeq = x.nextSeq := by rw [show y = _ from h]

theorem Core.onlyWindow.reports {x y : Core} (h : x.onlyWindow y) : y.reports = x.reports := by rw [show y = _ from h]

section core
variable (x : Core)

/-- An operand's release changes buffers alone. -/
theorem Core.releaseOperand_bufs (q : BitVec 32) (o : Operand) (a : Arriver) (failed : Bool) :
    ∃ b, x.releaseOperand q o a failed = { x with bufs := b } := by
  unfold Core.releaseOperand
  split
  · exact ⟨x.bufs, rfl⟩
  · exact ⟨_, rfl⟩

theorem Core.foldl_releaseOperand_bufs (q : BitVec 32) (a : Arriver) (failed : Bool) :
    ∀ (os : List Operand) (x : Core), ∃ b, os.foldl (fun x o => x.releaseOperand q o a failed) x = { x with bufs := b }
  | [], x => ⟨x.bufs, rfl⟩
  | o :: os, x => by
    obtain ⟨b, h⟩ := x.releaseOperand_bufs q o a failed
    obtain ⟨b', h'⟩ := Core.foldl_releaseOperand_bufs q a failed os { x with bufs := b }
    exact ⟨b', by rw [List.foldl_cons, h, h']⟩

/-- The stamp tests of R72 change what posted tasks have been told, and nothing else. -/
theorem Core.retest_window : ∃ g : Task → Task, (∀ w : Task, w.Kept (g w)) ∧ x.retest = { x with window := x.window.map g } := by
  refine ⟨_, fun w => ?_, rfl⟩
  dsimp only
  repeat' split
  all_goals exact ⟨rfl, rfl, rfl⟩

/-- The next grant changes the grants alone. -/
theorem Core.grantNext_granted (a : Arriver) : ∃ g l, x.grantNext a = { x with granted := g, lastGrant := l } := by
  unfold Core.grantNext
  dsimp only
  split
  · exact ⟨_, x.lastGrant, rfl⟩
  · split
    · exact ⟨_, _, rfl⟩
    · exact ⟨_, x.lastGrant, rfl⟩

/-- A task's renamed writes change buffers alone as they issue. -/
theorem Core.issueWrites_bufs (t : Task) : ∃ b, x.issueWrites t = { x with bufs := b } := by
  unfold Core.issueWrites
  generalize t.locals = os
  induction os generalizing x with
  | nil => exact ⟨x.bufs, rfl⟩
  | cons o os ih =>
    rw [List.foldl_cons]
    split
    · exact ih x
    · split
      · obtain ⟨b, h⟩ := ih (x.setBuf (rgnBuf o.rgn) _)
        exact ⟨b, h⟩
      · exact ih x

end core

/-! ## Retirement (R34, R40, R41) -/

section retire
variable (s : State) (c : Nat) (t : Task) (failed : Option Nat)

/-- A core after a task has left its window, with a as its last arriver. -/
def Core.leaves (x : Core) (a : Arriver) (t : Task) (bad : Bool) : Core :=
  let done := match t.inst with
    | some n => (t.cmd.cls, n, a) :: x.engineDone.filter (fun e => ¬ (e.1 = t.cmd.cls ∧ e.2.1 = n))
    | none => x.engineDone
  let rest := (x.window.filter (·.seq != t.seq)).map fun u => u.producerRetired t.seq a bad
  let grids := x.grids.map fun g => { g with markers := g.markers.map fun m => m.retired t.seq t.pl bad }
  { x with window := rest, lastRetired := a, engineDone := done, grids := grids }

/-- The core of a retiring task after its retirement. -/
def State.retireCore : Core :=
  let a := s.taskArriver c t
  ((t.locals.foldl (fun x o => x.releaseOperand t.seq o a failed.isSome) ((s.core c).endCtx t.seq).2).leaves a t failed.isSome).retest.grantNext a

/-- A strand takes the flags of its retiring VRUN. -/
def Strand.orFlags (f : Flags) (y : Strand) : Strand := { y with sys := { y.sys with fflags := y.sys.fflags ||| f } }

/-- The state of a retirement before its token or report. -/
def State.retired : State :=
  (s.setCore c (s.retireCore c t failed)).modStrand c t.ring (Strand.orFlags ((s.core c).endCtx t.seq).1)

theorem State.retire_eq : s.retire c t failed =
    match t.owner with
    | .strand k => ((s.retired c t failed).writeToken c k t failed (s.taskArriver c t)).modStrand c k fun y =>
        { y with lastDone := some (s.taskArriver c t) }
    | .remote who tag => (s.retired c t failed).sendReport who tag failed := rfl

/-- The retiring task has left, and the others stand as they stood. -/
theorem State.retireCore_window : ∃ g : Task → Task, (∀ w : Task, w.Kept (g w)) ∧
    (s.retireCore c t failed).window = ((s.core c).window.filter (·.seq != t.seq)).map g ∧ (s.core c).onlyWindow (s.retireCore c t failed) := by
  let a := s.taskArriver c t
  obtain ⟨b, hb⟩ := Core.foldl_releaseOperand_bufs t.seq a failed.isSome t.locals ((s.core c).endCtx t.seq).2
  let z := Core.leaves { ((s.core c).endCtx t.seq).2 with bufs := b } a t failed.isSome
  obtain ⟨g, hg, hr⟩ := z.retest_window
  obtain ⟨gr, l, hgr⟩ := z.retest.grantNext_granted a
  have hx : s.retireCore c t failed = { z with window := z.window.map g, granted := gr, lastGrant := l } := by
    unfold State.retireCore
    dsimp only
    rw [hb, hgr, hr]
  refine ⟨fun u => g (u.producerRetired t.seq a failed.isSome), fun w => (w.producerRetired_kept _ _ _).trans (hg _), ?_, ?_⟩
  · rw [hx]
    exact List.map_map
  · rw [hx]; rfl

end retire

/-! ## What changes with a retirement -/

/-- t is s but for the strands of core c, among the cores. -/
def State.onlyStrandsOf (s t : State) (c : Nat) : Prop :=
  (∀ d, d ≠ c → t.core d = s.core d) ∧ t.core c = { s.core c with strands := (t.core c).strands }

theorem State.onlyStrandsOf.refl (s : State) (c : Nat) : s.onlyStrandsOf s c := ⟨fun _ _ => rfl, rfl⟩

theorem State.onlyStrandsOf.trans {s t u : State} {c : Nat} (h : s.onlyStrandsOf t c) (g : t.onlyStrandsOf u c) : s.onlyStrandsOf u c :=
  ⟨fun d e => (g.1 d e).trans (h.1 d e), by rw [g.2, h.2]⟩

theorem State.onlyStrandsOf.of_cores {s t : State} (h : t.cores = s.cores) (c : Nat) : s.onlyStrandsOf t c := by
  have hc (d : Nat) : t.core d = s.core d := by unfold State.core; rw [h]
  exact ⟨fun d _ => hc d, by rw [hc]⟩

theorem State.setCore_only (s : State) (c : Nat) (x : Core) : ∃ cs, s.setCore c x = { s with cores := cs } := by
  unfold State.setCore
  split
  · exact ⟨_, rfl⟩
  · exact ⟨s.cores, rfl⟩

theorem State.modStrand_only (s : State) (c k : Nat) (f : Strand → Strand) : ∃ cs, s.modStrand c k f = { s with cores := cs } := s.setCore_only c _

theorem State.modStrand_onlyStrandsOf (s : State) (c k : Nat) (f : Strand → Strand) : s.onlyStrandsOf (s.modStrand c k f) c := by
  refine ⟨fun d h => s.core_setCore_ne c d _ h, ?_⟩
  by_cases hc : c < 260
  · have hself : (s.modStrand c k f).core c = (s.core c).modStrand k f := s.core_setCore_self c _ hc
    rw [hself]
    unfold Core.modStrand Core.setStrand
    split <;> rfl
  · rw [show s.modStrand c k f = s from s.setCore_off _ _ hc]

/-- A retiring task's token is written: its register waits no more and holds the status, with event 8. -/
def Strand.takeToken (y : Strand) (t : Task) (failed : Option Nat) (a : Arriver) : Strand :=
  let y : Strand := { y with pend := y.pend.filter fun p => !(p.reg == t.tok && p.kind == PendKind.token t.seq) }
  let y := y.setReg t.tok (statusWord failed)
  { (y.setEvent 8 a) with tokArriver := (t.tok, a) :: y.tokArriver.filter (·.1 != t.tok) }

section retire
variable (s : State) (c : Nat) (t : Task) (failed : Option Nat)

theorem State.writeToken_token (k : Nat) (a : Arriver) (h : t.tok ≠ 0) :
    s.writeToken c k t failed a = s.modStrand c k fun y => y.takeToken t failed a := if_pos h

/-- Without a token a failure goes to the launch, and no core changes. -/
theorem State.writeToken_none (k : Nat) (a : Arriver) (h : t.tok = 0) : ∃ l, s.writeToken c k t failed a = { s with launches := l } := by
  unfold State.writeToken
  rw [if_neg (by rw [h]; decide)]
  split
  · exact ⟨s.launches, rfl⟩
  · exact ⟨_, rfl⟩

theorem State.writeToken_onlyStrandsOf (k : Nat) (a : Arriver) : s.onlyStrandsOf (s.writeToken c k t failed a) c := by
  by_cases h : t.tok = 0
  · obtain ⟨l, hl⟩ := s.writeToken_none c t failed k a h
    rw [hl]; exact .of_cores rfl c
  · rw [s.writeToken_token c t failed k a h]; exact s.modStrand_onlyStrandsOf c k _

theorem State.sendReport_outbox (who : Nat) (tag : BitVec 16) : ∃ o, s.sendReport who tag failed = { s with outbox := o } := by
  unfold State.sendReport
  dsimp only
  split
  · exact ⟨_, rfl⟩
  · split
    · exact ⟨_, rfl⟩
    · exact ⟨s.outbox, rfl⟩

/-- Behind the change of its core, a retirement changes strands of that core, and no other core. -/
theorem State.retire_onlyStrandsOf : (s.setCore c (s.retireCore c t failed)).onlyStrandsOf (s.retire c t failed) c := by
  rw [s.retire_eq]
  refine .trans (t := s.retired c t failed) (State.modStrand_onlyStrandsOf _ _ _ _) ?_
  split
  · exact (State.writeToken_onlyStrandsOf _ _ _ _ _ _).trans (State.modStrand_onlyStrandsOf _ _ _ _)
  · obtain ⟨o, ho⟩ := (s.retired c t failed).sendReport_outbox failed ‹_› ‹_›
    rw [ho]; exact .of_cores rfl c

theorem State.retire_core_ne {d : Nat} (h : d ≠ c) : (s.retire c t failed).core d = s.core d :=
  ((s.retire_onlyStrandsOf c t failed).1 d h).trans (s.core_setCore_ne c d _ h)

theorem State.retire_core (hc : c < 260) :
    (s.retire c t failed).core c = { s.retireCore c t failed with strands := ((s.retire c t failed).core c).strands } := by
  have h := (s.retire_onlyStrandsOf c t failed).2
  rwa [s.core_setCore_self c _ hc] at h

/-- A retirement changes cores, launches and messages, and nothing else. -/
theorem State.retire_only : ∃ cs l o, s.retire c t failed = { s with cores := cs, launches := l, outbox := o } := by
  have hr : ∃ cs, s.retired c t failed = { s with cores := cs } := by
    obtain ⟨x, hx⟩ := s.setCore_only c (s.retireCore c t failed)
    unfold State.retired
    rw [hx]
    exact State.modStrand_only _ _ _ _
  obtain ⟨cs, hr⟩ := hr
  rw [s.retire_eq, hr]
  split
  · rename_i k _
    have hw : ∃ cs' l, ({ s with cores := cs } : State).writeToken c k t failed (s.taskArriver c t) = { s with cores := cs', launches := l } := by
      by_cases h : t.tok = 0
      · obtain ⟨l, hl⟩ := State.writeToken_none { s with cores := cs } c t failed k (s.taskArriver c t) h
        exact ⟨cs, l, hl⟩
      · rw [State.writeToken_token _ _ _ _ _ _ h]
        obtain ⟨cs', hcs⟩ := State.modStrand_only { s with cores := cs } c k fun y => y.takeToken t failed (s.taskArriver c t)
        exact ⟨cs', s.launches, hcs⟩
    obtain ⟨cs', l, hw⟩ := hw
    rw [hw]
    obtain ⟨cs'', hcs⟩ := State.modStrand_only { s with cores := cs', launches := l } c k fun y => { y with lastDone := some (s.taskArriver c t) }
    exact ⟨cs'', l, s.outbox, hcs⟩
  · obtain ⟨o, ho⟩ := State.sendReport_outbox { s with cores := cs } failed ‹_› ‹_›
    exact ⟨cs, s.launches, o, ho⟩

/-- The strands before the token of a retiring task: the poster has taken the flags of the task's run. -/
theorem State.retired_strand (hc : c < 260) {k : Nat} (hk : k < 4) (ho : t.owner = .strand k) :
    (s.retired c t failed).strand c k = (s.strand c k).orFlags ((s.core c).endCtx t.seq).1 := by
  have hring : t.ring = k := by unfold Task.ring; rw [ho]
  obtain ⟨-, -, -, hx⟩ := s.retireCore_window c t failed
  unfold State.retired
  rw [hring, State.strand_modStrand_self _ _ hc hk]
  unfold State.strand
  rw [s.core_setCore_self c _ hc]
  unfold Core.strand
  simp only [hx.strands]

/-- The poster of a retired task: the flags of its run, its token and the note of the task. -/
theorem State.retire_strand (hc : c < 260) {k : Nat} (hk : k < 4) (ho : t.owner = .strand k) :
    let a := s.taskArriver c t
    let y := (s.strand c k).orFlags ((s.core c).endCtx t.seq).1
    (s.retire c t failed).strand c k = { if t.tok = 0 then y else y.takeToken t failed a with lastDone := some a } := by
  intro a y
  have hy : (s.retired c t failed).strand c k = y := s.retired_strand c t failed hc hk ho
  rw [s.retire_eq, ho]
  dsimp only
  rw [State.strand_modStrand_self _ _ hc hk]
  by_cases h : t.tok = 0
  · obtain ⟨l, hl⟩ := (s.retired c t failed).writeToken_none c t failed k a h
    rw [hl, if_pos h, ← hy]
    rfl
  · rw [State.writeToken_token _ _ _ _ _ _ h, State.strand_modStrand_self _ _ hc hk, hy, if_neg h]

/-- No other strand changes with a task that a strand posted. -/
theorem State.retire_strand_ne {k : Nat} (ho : t.owner = .strand k) {d j : Nat} (h : ¬ (d = c ∧ j = k)) :
    (s.retire c t failed).strand d j = s.strand d j := by
  have hring : t.ring = k := by unfold Task.ring; rw [ho]
  have hcore : (s.setCore c (s.retireCore c t failed)).strand d j = s.strand d j := by
    unfold State.strand
    by_cases hd : d = c
    · subst hd
      by_cases hc : d < 260
      · obtain ⟨-, -, -, hx⟩ := s.retireCore_window d t failed
        rw [s.core_setCore_self d _ hc]
        unfold Core.strand
        simp only [hx.strands]
      · rw [s.setCore_off _ _ hc]
    · rw [s.core_setCore_ne c d _ hd]
  have hretired : (s.retired c t failed).strand d j = s.strand d j := by
    unfold State.retired
    rw [hring, State.strand_modStrand_ne _ _ h, hcore]
  rw [s.retire_eq, ho]
  dsimp only
  rw [State.strand_modStrand_ne _ _ h, ← hretired]
  by_cases ht : t.tok = 0
  · obtain ⟨l, hl⟩ := (s.retired c t failed).writeToken_none c t failed k (s.taskArriver c t) ht
    rw [hl]
    rfl
  · rw [State.writeToken_token _ _ _ _ _ _ ht, State.strand_modStrand_ne _ _ h]

end retire

@[simp] theorem Strand.reg_takeToken (y : Strand) (t : Task) (failed : Option Nat) (a : Arriver) (r : Reg) :
    (y.takeToken t failed a).reg r = if r = t.tok ∧ r ≠ 0 then statusWord failed else y.reg r :=
  Strand.reg_setReg { y with pend := y.pend.filter fun p => !(p.reg == t.tok && p.kind == PendKind.token t.seq) } _ _ _

/-- What a task leaves in its token: 0, or its failure code negated. -/
def statusInt (failed : Option Nat) : Int := match failed with | none => 0 | some e => -(e : Int)

theorem statusWord_eq (failed : Option Nat) : statusWord failed = BitVec.ofInt 64 (statusInt failed) := by
  cases failed with
  | none => rfl
  | some e => rfl

theorem State.sendReport_tag (s : State) (failed : Option Nat) (who : Nat) {tag : BitVec 16} (h : tag ≠ 0) :
    s.sendReport who tag failed = { s with outbox := s.outbox ++ [.report who (some tag) (statusInt failed)] } := if_pos h

/-- A retirement ends its task as `Ended` says. -/
theorem State.retire_ended (s : State) {c : Nat} (hc : c < 260) (u : Task) (failed : Option Nat) :
    Ended s (s.retire c u failed) c u (statusInt failed) := by
  obtain ⟨g, hg, hw, -⟩ := s.retireCore_window c u failed
  have hwin : ((s.retire c u failed).core c).window = ((s.core c).window.filter (·.seq != u.seq)).map g := by
    rw [s.retire_core c u failed hc]; exact hw
  refine ⟨fun w hmem => ?_, fun w hmem hne => ?_, fun k ho hk ht r => ?_, fun who tag ho ht => ?_, fun d h => s.retire_core_ne c u failed h⟩
  · rw [hwin] at hmem
    obtain ⟨v, hv, rfl⟩ := List.mem_map.1 hmem
    rw [(hg v).seq]
    simpa using (List.mem_filter.1 hv).2
  · rw [hwin]
    exact ⟨g w, List.mem_map.2 ⟨w, List.mem_filter.2 ⟨hmem, by simpa using hne⟩, rfl⟩, (hg w).seq, (hg w).state, (hg w).cmd⟩
  · rw [s.retire_strand c u failed hc hk ho]
    dsimp only
    rw [if_neg ht]
    have hrest : ((s.strand c k).orFlags ((s.core c).endCtx u.seq).1).reg r = (s.strand c k).reg r := rfl
    refine (Strand.reg_takeToken _ u failed (s.taskArriver c u) r).trans ?_
    by_cases hr : r = u.tok
    · rw [if_pos ⟨hr, hr ▸ ht⟩, if_pos hr, statusWord_eq]
    · rw [if_neg fun x => hr x.1, if_neg hr, hrest]
  · have hsent : s.retire c u failed = (s.retired c u failed).sendReport who tag failed := by rw [s.retire_eq, ho]
    rw [hsent, State.sendReport_tag _ _ _ ht]
    exact List.mem_append_right _ List.mem_cons_self

/-! ## Failure -/

theorem State.failCopySide_cores (s : State) (t : Task) (cause : Nat) : (s.failCopySide t cause).cores = s.cores := by
  have hfail (k : Nat) : (s.tbFail k cause).cores = s.cores := by rw [show s.tbFail k cause = _ from s.tbFail_onlyMem k cause]
  unfold State.failCopySide
  split
  · split <;> rfl
  · split
    · split
      · exact hfail _
      · rfl
    · rfl

/-- Two states with the same cores have the same ends of tasks. -/
theorem Ended.of_cores {s s' t : State} {c : Nat} {u : Task} {v : Int} (h : s'.cores = s.cores) (e : Ended s' t c u v) : Ended s t c u v := by
  have hc (d : Nat) : s'.core d = s.core d := by unfold State.core; rw [h]
  have hs (k : Nat) : s'.strand c k = s.strand c k := by unfold State.strand; rw [hc]
  refine ⟨e.window, ?_, ?_, e.report, fun d hd => (e.cores d hd).trans (hc d)⟩
  · rw [← hc]; exact e.others
  · intro k; rw [← hs]; exact e.token k

/-- A failure ends its task with the code negated. -/
theorem State.failTask_ended (s : State) {c : Nat} (hc : c < 260) (u : Task) (cause : Nat) :
    Ended s (s.failTask c u cause) c u (-(cause : Int)) :=
  ((s.failCopySide u cause).retire_ended hc u (some cause)).of_cores (s.failCopySide_cores u cause)

end Sys2Proof.Machine
end

section
/-!
SUPPORT. Posting (R34 to R36, R57, R61, R217, R218, R483): when a task form may take an entry, what it does then, and how it fails.
-/
namespace Sys2Proof.Machine

/-! ## Bindings change buffers alone (R65, R67, R68) -/

/-- y is x but for its buffers and the number of its next generation. -/
def Core.onlyBufs (x y : Core) : Prop := y = { x with bufs := y.bufs, nextGen := y.nextGen }

theorem Core.onlyBufs.refl (x : Core) : x.onlyBufs x := rfl

theorem Core.onlyBufs.trans {x y z : Core} (h : x.onlyBufs y) (g : y.onlyBufs z) : x.onlyBufs z := by
  unfold Core.onlyBufs at *
  rw [g, h]

theorem Core.onlyBufs.foldl {α β : Type} (f : Core × β → α → Core × β) (hf : ∀ (y : Core × β) a, y.1.onlyBufs (f y a).1) :
    ∀ (as : List α) (y : Core × β), y.1.onlyBufs (as.foldl f y).1
  | [], y => .refl y.1
  | a :: as, y => (hf y a).trans (Core.onlyBufs.foldl f hf as (f y a))

theorem Core.bindTile_onlyBufs (x : Core) (q : BitVec 32) (n i : Nat) (r : BitVec 192) : x.onlyBufs (x.bindTile q n i r).1 := by
  unfold Core.bindTile
  split
  · rfl
  · dsimp only
    split
    · rfl
    · split
      · rfl
      · split <;> rfl

theorem Core.bindOperand_onlyBufs (x : Core) (q : BitVec 32) (o : Operand) : x.onlyBufs (x.bindOperand q o).1 := by
  unfold Core.bindOperand
  split
  · rfl
  · split
    · rfl
    · exact Core.onlyBufs.foldl (β := Operand × List (BitVec 32)) _ (fun y i => y.1.bindTile_onlyBufs q _ i o.rgn) _ (x, o, [])

/-- A bound task differs in its operands' bindings and its dependences. -/
theorem Core.bindTask_binds (x : Core) (t : Task) :
    x.onlyBufs (x.bindTask t).1 ∧ (x.bindTask t).2 = { t with ops := (x.bindTask t).2.ops, deps := (x.bindTask t).2.deps } :=
  ⟨Core.onlyBufs.foldl (β := List Operand × List (BitVec 32)) _ (fun y o => y.1.bindOperand_onlyBufs t.seq o) _ (x, [], x.overlapDeps t), rfl⟩

/-! ## Taking an entry (R36) -/

section entry
variable {s : State}

theorem State.claimLimit_me : claimLimit s.myStrand = 64 := if_pos s.at_.strand.isLt

theorem State.mayTake_of_entryOpen (h : s.entryOpen) : s.here.mayTake s.myStrand = true := by
  obtain ⟨hg, hw, hb, he⟩ := h
  have hfree : s.here.entryFree = true := by
    unfold Core.entryFree
    rw [hg]
    simpa using hw
  have hothers : ((List.range 5).all fun j => j == s.myStrand || !s.here.eligible j) = true := by
    rw [List.all_eq_true]
    intro j hj
    by_cases hjk : j = s.myStrand
    · simp [hjk]
    · simp [he j (List.mem_range.1 hj) hjk]
  unfold Core.mayTake
  rw [hfree, hothers, State.claimLimit_me, decide_eq_true hb]
  simp

theorem State.mayTake_full (h : 128 ≤ s.here.window.length) (k : Nat) : s.here.mayTake k = false := by
  have hfree : s.here.entryFree = false := by
    unfold Core.entryFree
    exact decide_eq_false (by omega)
  unfold Core.mayTake
  rw [hfree, decide_eq_false (show ¬ s.here.window.length < 128 by omega)]
  simp

theorem State.mayTake_held (hg : s.here.granted = []) (h : 64 ≤ s.here.heldBy s.myStrand) : s.here.mayTake s.myStrand = false := by
  unfold Core.mayTake Core.grantOf
  rw [hg, State.claimLimit_me, decide_eq_false (show ¬ s.here.heldBy s.myStrand < 64 by omega)]
  simp

end entry

/-! ## The three ends of a task form -/

/-- The strand's annotation does not wait for a token that no task in the window will write (R483). -/
def Strand.noteReady (y : Strand) : Prop := ∀ r : Reg, y.annTok = some r → y.pending r = true → y.tokenOf r ≠ none

/-- No other strand defines a buffer that an operand names (R57). -/
def State.noneDefines (s : State) (h : TaskHead) : Prop :=
  ∀ o ∈ s.me.operands h, ∀ x ∈ s.here.defining, x.1 = rgnBuf o.rgn → x.2 = s.myStrand

section post
variable {s : State} {h : TaskHead} {m : Cmd} (e : Option Nat)

theorem State.noted_none (hn : s.me.noteReady) :
    (s.me.annTok.bind fun r => if s.me.pending r && (s.me.tokenOf r).isNone then some r else none) = none := by
  cases ha : s.me.annTok with
  | none => rfl
  | some r =>
    refine if_neg fun hp => ?_
    rw [Bool.and_eq_true, Option.isNone_iff_eq_none] at hp
    exact hn r ha hp.1 hp.2

theorem State.defines_iff : (m.inCore && (s.me.operands h).any fun o => s.here.defining.any fun d => d.1 == rgnBuf o.rgn && d.2 != s.myStrand) = true ↔
    m.inCore = true ∧ ∃ o ∈ s.me.operands h, ∃ x ∈ s.here.defining, x.1 = rgnBuf o.rgn ∧ x.2 ≠ s.myStrand := by
  simp

/-- The task of a form, with the annotations of its strand (R218, R483). -/
def State.formTask (s : State) (h : TaskHead) (m : Cmd) : Task :=
  { s.taskOf h m with launch := s.me.launch, tokWait := s.me.tokenNote.1, barWait := s.barNote.1, report := s.here.reportFor m,
                      step := s.me.tr.stepOpen, safePoint := s.me.tr.safePoint }

/-- A strand that posts a task numbered q: its token waits, and its annotations are taken. -/
def Strand.posts (y : Strand) (tok : Reg) (q : BitVec 32) : Strand := { (y.mark tok (.token q)) with annTok := none, annBar := none }

/-- The state in which a form's task enters the window. -/
def State.noteTask (s : State) (h : TaskHead) : State := s.modMe fun y => y.posts h.tok s.here.nextSeq

/-- The cause with which the annotations fail a task, behind one of the form itself. -/
def State.earlyFail (s : State) : Option Nat :=
  match e, s.me.tokenNote.2, s.barNote.2 with
  | some e, _, _ => some e
  | none, some e, _ => some e
  | _, _, e => e

/-- A task form waits while another strand defines a buffer it names (R57). -/
theorem State.post_defining (hn : s.me.noteReady) (hm : m.inCore = true)
    (hd : ∃ o ∈ s.me.operands h, ∃ x ∈ s.here.defining, x.1 = rgnBuf o.rgn ∧ x.2 ≠ s.myStrand) :
    s.post h m e = .next (s.waitFor 15 1) := by
  unfold State.post
  dsimp only
  rw [State.noted_none hn, if_neg (by decide), if_pos (State.defines_iff.2 ⟨hm, hd⟩)]

section thawed
variable (hn : s.me.noteReady) (hd : m.inCore = true → s.noneDefines h)
include hn hd

/-- A task form waits while the window has no entry for it (R36). -/
theorem State.post_waits (hx : s.here.mayTake s.myStrand = false) : s.post h m e = .next (s.waitFor 2 0) := by
  have hnd : ¬ _ := fun hx => (State.defines_iff (m := m) (h := h)).1 hx |>.elim fun hm hex =>
    hex.elim fun o ho => ho.2.elim fun x hx => hx.2.2 (hd hm o ho.1 x hx.1 hx.2.1)
  unfold State.post
  dsimp only
  rw [State.noted_none hn, if_neg (by decide), if_neg hnd, if_pos (by rw [hx]; rfl)]

/-- A task form that may take an entry enters its task. -/
theorem State.post_enters (hx : s.here.mayTake s.myStrand = true) (hrun : s.me.state = .run) :
    s.post h m e = .next (((s.noteTask h).enter s.myCore (s.formTask h m) (s.earlyFail e)).finish 8) := by
  have hc : (s.noteTask h).myCore = s.myCore := congrArg (·.core.val) (s.modMe_at_ _)
  have hnd : ¬ _ := fun hx => (State.defines_iff (m := m) (h := h)).1 hx |>.elim fun hm hex =>
    hex.elim fun o ho => ho.2.elim fun x hx => hx.2.2 (hd hm o ho.1 x hx.1 hx.2.1)
  unfold State.post
  dsimp only
  rw [State.noted_none hn, if_neg (by decide), if_neg hnd, if_neg (by rw [hx]; decide), if_neg (by simp [hrun])]
  unfold State.formTask State.earlyFail
  rcases s.me.tokenNote with ⟨tw, e1⟩
  rcases s.barNote with ⟨bw, e2⟩
  rw [← hc]
  rfl

end thawed
end post

/-! ## Entering the window (R35, R61) -/

/-- A task with its operands' region registers cleared, as one stands that fails at posting. -/
def Task.cleared (t : Task) : Task := { t with ops := t.ops.map fun o => { o with rgn := 0 } }

section enter
variable (s : State) (c : Nat) (t : Task)

/-- A core that has numbered another task, with the claimants' grants g. -/
def Core.numbered (x : Core) (g : List (Nat × Arriver)) : Core := { x with nextSeq := x.nextSeq + 1, granted := g }

/-- The core of an entering task, with its claimant's grant taken. -/
def State.enterCore : Core :=
  (s.core c).numbered ((s.core c).granted.filter (·.1 != match t.owner with | .strand k => k | .remote _ _ => 4))

/-- The cause with which a task fails as it is posted (R61, R62, R483). -/
def Core.postFails (x : Core) (t : Task) (e : Option Nat) : Option Nat :=
  if !x.operandsOk t then some Cause.regionInvalid
  else match e with
    | some e => some e
    | none => x.bindProblem t

/-- A task that fails as it is posted enters the window cleared, and retires. -/
theorem State.enter_fails {e : Option Nat} {f : Nat} (h : (s.enterCore c t).postFails t e = some f) :
    s.enter c t e = State.retire (s.setCore c { s.enterCore c t with window := (s.core c).window ++ [t.cleared] }) c t.cleared (some f) := by
  show (match (s.enterCore c t).postFails t e with | some f => _ | none => _) = _
  rw [h]
  rfl

/-- Another one is bound, and stands in POSTED. -/
theorem State.enter_binds {e : Option Nat} (h : (s.enterCore c t).postFails t e = none) :
    s.enter c t e =
      let y := ((s.enterCore c t).bindTask t).1
      let u := ((s.enterCore c t).bindTask t).2
      s.setCore c { y with window := y.window ++ [{ u with stamped := y.stampTests u }] } := by
  show (match (s.enterCore c t).postFails t e with | some f => _ | none => _) = _
  rw [h]
  rfl

/-- A task whose operands break R61 fails with REGION_INVALID as it is posted. -/
theorem State.enter_refused (e : Option Nat) (h : (s.core c).operandsOk t = false) :
    ∃ g, s.enter c t e = State.retire (s.setCore c { (s.core c).numbered g with window := (s.core c).window ++ [t.cleared] }) c t.cleared
      (some Cause.regionInvalid) := by
  have hx : (s.enterCore c t).operandsOk t = false := h
  exact ⟨_, s.enter_fails c t (if_pos (by rw [hx]; rfl))⟩

/-- A task whose operands and bindings pass stands last in the window, bound. -/
theorem State.enter_bound (h : (s.core c).operandsOk t = true) (hb : (s.core c).bindProblem t = none) :
    ∃ g b n ops deps st, s.enter c t none = s.setCore c { (s.core c).numbered g with
      bufs := b, nextGen := n, window := (s.core c).window ++ [{ t with ops := ops, deps := deps, stamped := st }] } := by
  have hx : (s.enterCore c t).operandsOk t = true := h
  have hp : (s.enterCore c t).postFails t none = none := (if_neg (by rw [hx]; decide)).trans hb
  obtain ⟨hcore, htask⟩ := (s.enterCore c t).bindTask_binds t
  generalize hz : (s.enterCore c t).bindTask t = z at hcore htask
  refine ⟨(s.enterCore c t).granted, z.1.bufs, z.1.nextGen, z.2.ops, z.2.deps, z.1.stampTests z.2,
    (s.enter_binds c t hp).trans (congrArg (s.setCore c) ?_)⟩
  dsimp only
  rw [hz]
  generalize z.1.stampTests z.2 = st
  rw [htask, show z.1 = _ from hcore]
  rfl

end enter

/-! ## The end of a posting -/

theorem Strand.posts_eq (y : Strand) (tok : Reg) (q : BitVec 32) :
    y.posts tok q = { y with pend := (y.posts tok q).pend, annTok := none, annBar := none } := by
  unfold Strand.posts Strand.mark
  split <;> rfl

theorem Strand.posts_pend (y : Strand) (tok : Reg) (q : BitVec 32) :
    (y.posts tok q).pend = if tok = 0 then y.pend else y.pend ++ [⟨tok, .token q⟩] := by
  unfold Strand.posts Strand.mark
  by_cases h : tok = 0
  · rw [if_pos ⟨h, rfl, fun x => PendKind.noConfusion x⟩, if_pos h]
  · rw [if_neg fun x => h x.1, if_neg h]

/-- Behind the token of a retired task, its poster is as it was in all that the token does not touch. -/
theorem Strand.takeToken_rest (y : Strand) (u : Task) (failed : Option Nat) (a : Arriver) :
    let z := y.takeToken u failed a
    z = { y with pend := y.pend.filter fun p => !(p.reg == u.tok && p.kind == PendKind.token u.seq), regs := z.regs, sys := z.sys,
                 evSetter := z.evSetter, tokArriver := z.tokArriver } := by
  dsimp only
  unfold Strand.takeToken
  dsimp only
  rw [Strand.setReg_rest]
  rfl

/-- The marks of a strand are the same once the token of its new task has been written at once. -/
theorem Strand.posts_unmarked (y : Strand) (tok : Reg) (q : BitVec 32) (ht : tok ≠ 0) (hp : y.pending tok = false) :
    (y.posts tok q).pend.filter (fun p => !(p.reg == tok && p.kind == PendKind.token q)) = y.pend := by
  have hfree : ∀ p ∈ y.pend, p.reg ≠ tok := by
    unfold Strand.pending at hp
    rw [Bool.and_eq_false_iff, List.any_eq_false] at hp
    rcases hp with hp | hp
    · exact absurd (by simpa using hp) ht
    · exact fun p h => by simpa using hp p h
  rw [Strand.posts_pend, if_neg ht, List.filter_append, List.filter_eq_self.2 fun p h => by simp [hfree p h]]
  simp

/-- A poster whose task has failed as it was posted: its token holds the status, and its registers wait no more than before. -/
theorem Strand.posts_fails (y : Strand) (u : Task) (fl : Flags) (failed : Option Nat) (a : Arriver) (hp : y.pending u.tok = false) :
    ∃ x : Strand, (if u.tok = 0 then (y.posts u.tok u.seq).orFlags fl else ((y.posts u.tok u.seq).orFlags fl).takeToken u failed a) = x ∧
      x = { y with annTok := none, annBar := none, regs := x.regs, sys := x.sys, evSetter := x.evSetter, tokArriver := x.tokArriver } ∧
      ∀ r, x.reg r = if r = u.tok ∧ r ≠ 0 then statusWord failed else y.reg r := by
  refine ⟨_, rfl, ?_, fun r => ?_⟩
  · by_cases h : u.tok = 0
    · rw [if_pos h]
      have hpend : (y.posts u.tok u.seq).pend = y.pend := by rw [Strand.posts_pend, if_pos h]
      rw [Strand.posts_eq, hpend]
      rfl
    · rw [if_neg h, Strand.takeToken_rest]
      have hpend : ((y.posts u.tok u.seq).orFlags fl).pend.filter (fun p => !(p.reg == u.tok && p.kind == PendKind.token u.seq)) = y.pend :=
        y.posts_unmarked u.tok u.seq h hp
      rw [hpend, Strand.posts_eq]
      rfl
  · have hreg : ((y.posts u.tok u.seq).orFlags fl).reg r = y.reg r := by rw [Strand.posts_eq]; rfl
    by_cases h : u.tok = 0
    · rw [if_pos h, if_neg fun x => x.2 (x.1.trans h), hreg]
    · rw [if_neg h, Strand.reg_takeToken, hreg]

section form
variable {s : State} {h : TaskHead} {m : Cmd}

theorem State.noteTask_core : ∃ ss, (s.noteTask h).core s.myCore = { s.here with strands := ss } :=
  ⟨_, (s.modMe_onlyMe _).2.1 s.myCore⟩

theorem State.noteTask_me : (s.noteTask h).strand s.myCore s.myStrand = s.me.posts h.tok s.here.nextSeq := by
  have hm := s.me_modMe fun y => y.posts h.tok s.here.nextSeq
  have hat : (s.noteTask h).at_ = s.at_ := s.modMe_at_ _
  unfold State.me State.myCore State.myStrand at hm
  unfold State.noteTask at *
  rwa [hat] at hm

/-- A posting that ends in u, a state of the same cursor. -/
theorem State.finish_after {u : State} (hat : u.at_ = s.at_) (n : Nat) :
    (u.finish n).me = (u.strand s.myCore s.myStrand).finish n ∧ (∃ ss, (u.finish n).here = { u.core s.myCore with strands := ss }) ∧
      (u.finish n).mem = u.mem ∧ ∀ c j, ¬ (c = s.myCore ∧ j = s.myStrand) → (u.finish n).strand c j = u.strand c j := by
  have hc : u.myCore = s.myCore := congrArg (·.core.val) hat
  have hk : u.myStrand = s.myStrand := congrArg (·.strand.val) hat
  have hat' : (u.finish n).myCore = s.myCore := (congrArg (·.core.val) (u.modMe_at_ _)).trans hc
  obtain ⟨-, hcore, hrest⟩ := u.modMe_onlyMe fun t => t.finish n
  refine ⟨?_, ⟨((u.finish n).core s.myCore).strands, ?_⟩, u.modMe_mem _, fun c j h => hrest c j (by rw [hc, hk]; exact h)⟩
  · rw [← hc, ← hk]; exact u.me_modMe _
  · rw [State.here, hat']; exact hcore s.myCore

/-- A core numbered in the state of a posting leaves every strand. -/
theorem State.noteTask_strand_ne {z : Core} (hz : z.strands = ((s.noteTask h).core s.myCore).strands) {c j : Nat}
    (e : ¬ (c = s.myCore ∧ j = s.myStrand)) : ((s.noteTask h).setCore s.myCore z).strand c j = s.strand c j := by
  rw [← (s.modMe_onlyMe fun y => y.posts h.tok s.here.nextSeq).2.2 c j e]
  show _ = (s.noteTask h).strand c j
  unfold State.strand
  by_cases hc : c = s.myCore
  · subst hc
    rw [State.core_setCore_self _ _ z (show s.myCore < 260 from s.at_.core.isLt)]
    unfold Core.strand
    simp only [hz]
  · rw [State.core_setCore_ne _ _ _ _ hc]

/-- The end of a posting whose task stands in the window. -/
theorem State.post_posted {tw : Option (BitVec 32 × Reg)} {bw : Option (Nat × BitVec 8 × Option Nat)} (hopen : s.entryOpen)
    (hrun : s.me.state = .run) (hn : s.me.noteReady) (ht : s.me.tokenNote = (tw, none)) (hb : s.barNote = (bw, none))
    (hd : m.inCore = true → s.noneDefines h) (hok : s.here.operandsOk (s.taskOf h m) = true) (hbind : s.here.bindProblem (s.taskOf h m) = none) :
    ∃ t, s.post h m none = .next t ∧ Posted s t h m tw bw := by
  let w := s.noteTask h
  let u := s.formTask h m
  obtain ⟨ss, hw⟩ := State.noteTask_core (s := s) (h := h)
  have hearly : s.earlyFail none = none := by unfold State.earlyFail; rw [ht, hb]
  obtain ⟨g, b, n, ops, deps, st, he⟩ := w.enter_bound s.myCore u (by rw [hw]; exact hok) (by rw [hw]; exact hbind)
  rw [hw] at he
  let u' : Task := { u with ops := ops, deps := deps, stamped := st }
  let z : Core := { Core.numbered { s.here with strands := ss } g with bufs := b, nextGen := n, window := s.here.window ++ [u'] }
  have hpost : s.post h m none = .next ((w.setCore s.myCore z).finish 8) := by
    rw [State.post_enters none hn hd (State.mayTake_of_entryOpen hopen) hrun, hearly, he]
  have hcore : s.myCore < 260 := s.at_.core.isLt
  obtain ⟨cs, hset⟩ := w.setCore_only s.myCore z
  have hat : (w.setCore s.myCore z).at_ = s.at_ := by rw [hset]; exact s.modMe_at_ _
  obtain ⟨hme, ⟨ss', hhere⟩, hmem, hrest⟩ := State.finish_after hat 8
  have hz : (w.setCore s.myCore z).core s.myCore = z := w.core_setCore_self _ z hcore
  have hstrand : (w.setCore s.myCore z).strand s.myCore s.myStrand = s.me.posts h.tok s.here.nextSeq := by
    rw [← State.noteTask_me (s := s) (h := h)]
    unfold State.strand
    rw [hz, hw]
    rfl
  rw [hz] at hhere
  rw [hstrand, Strand.posts_eq] at hme
  refine ⟨_, hpost, ⟨u', ?_, rfl, rfl, rfl, rfl, rfl, rfl, rfl, ?_, ?_, rfl⟩, ?_, fun htok => ?_, ?_, ?_, ?_, ?_, fun c j e => ?_, ?_, ?_⟩
  · rw [hhere]
  · exact congrArg Prod.fst ht
  · exact congrArg Prod.fst hb
  · rw [hhere]; rfl
  · rw [hme]
    show _ ∈ (s.me.posts h.tok s.here.nextSeq).pend
    rw [Strand.posts_pend, if_neg htok]
    exact List.mem_append_right _ List.mem_cons_self
  · rw [hme]; exact ⟨rfl, rfl⟩
  · rw [hme]; rfl
  · rw [hme]; rfl
  · rw [hmem, hset]; exact s.modMe_mem _
  · exact (hrest c j e).trans (State.noteTask_strand_ne (by rw [hw]; rfl) e)
  · rw [hme]; rfl
  · rw [hme]; rfl

/-- The end of a posting whose operands break R61. -/
theorem State.post_refused (hopen : s.entryOpen) (hrun : s.me.state = .run) (hn : s.me.noteReady) (hd : m.inCore = true → s.noneDefines h)
    (hok : s.here.operandsOk (s.taskOf h m) = false) (htok : s.me.pending h.tok = false) (hnew : ∀ u ∈ s.here.window, u.seq ≠ s.here.nextSeq)
    (e : Option Nat) : ∃ t, s.post h m e = .next t ∧ Refused s t h 13 := by
  let w := s.noteTask h
  let u := (s.formTask h m).cleared
  obtain ⟨ss, hw⟩ := State.noteTask_core (s := s) (h := h)
  obtain ⟨g, he⟩ := w.enter_refused s.myCore (s.formTask h m) (s.earlyFail e) (by rw [hw]; exact hok)
  rw [hw] at he
  let z : Core := { Core.numbered { s.here with strands := ss } g with window := s.here.window ++ [u] }
  let v := State.retire (w.setCore s.myCore z) s.myCore u (some Cause.regionInvalid)
  have hpost : s.post h m e = .next (v.finish 8) := by
    rw [State.post_enters e hn hd (State.mayTake_of_entryOpen hopen) hrun, he]
  have hcore : s.myCore < 260 := s.at_.core.isLt
  have hk : s.myStrand < 4 := s.at_.strand.isLt
  obtain ⟨cs, hset⟩ := w.setCore_only s.myCore z
  obtain ⟨cs', l, o, hretire⟩ := State.retire_only (w.setCore s.myCore z) s.myCore u (some Cause.regionInvalid)
  have hat : v.at_ = s.at_ := by
    rw [show v = _ from hretire, hset]; exact s.modMe_at_ _
  obtain ⟨hme, ⟨ss', hhere⟩, hmem, hrest⟩ := State.finish_after hat 8
  have hz : (w.setCore s.myCore z).core s.myCore = z := w.core_setCore_self _ z hcore
  have hstrand : (w.setCore s.myCore z).strand s.myCore s.myStrand = s.me.posts h.tok s.here.nextSeq := by
    rw [← State.noteTask_me (s := s) (h := h)]
    unfold State.strand
    rw [hz, hw]
    rfl
  obtain ⟨f, hf, hwin, honly⟩ := State.retireCore_window (w.setCore s.myCore z) s.myCore u (some Cause.regionInvalid)
  have hv : v.core s.myCore = _ := State.retire_core (w.setCore s.myCore z) s.myCore u (some Cause.regionInvalid) hcore
  let a := State.taskArriver (w.setCore s.myCore z) s.myCore u
  obtain ⟨x, hx, hpost_x, hreg⟩ := s.me.posts_fails u ((State.core (w.setCore s.myCore z) s.myCore).endCtx u.seq).1 (some Cause.regionInvalid) a htok
  have hmine : v.strand s.myCore s.myStrand = { x with lastDone := some a } := by
    refine (State.retire_strand (w.setCore s.myCore z) s.myCore u (some Cause.regionInvalid) hcore hk rfl).trans ?_
    rw [hstrand]
    exact congrArg (fun y : Strand => { y with lastDone := some a }) hx
  rw [hmine] at hme
  rw [hv] at hhere
  refine ⟨_, hpost, ?_, ?_, fun r => ?_, fun r => ?_, ?_, ?_, fun c j e => ?_, ?_, ?_⟩
  · rw [hhere]
    show (State.retireCore (w.setCore s.myCore z) s.myCore u (some Cause.regionInvalid)).window.map (·.seq) = _
    have hgone : u.seq = s.here.nextSeq := rfl
    have hkeep : z.window.filter (·.seq != u.seq) = s.here.window := by
      show (s.here.window ++ [u]).filter _ = _
      rw [List.filter_append, List.filter_eq_self.2 fun w hw => by simpa [hgone] using hnew w hw]
      simp
    rw [hwin, hz, hkeep, List.map_map]
    exact List.map_congr_left fun w _ => (hf w).seq
  · rw [hhere]
    exact honly.nextSeq.trans (by rw [hz]; rfl)
  · rw [State.reg, hme]
    exact hreg r
  · rw [hme, hpost_x]
    rfl
  · rw [hme, hpost_x]; rfl
  · rw [hmem, show v = _ from hretire, hset]; exact s.modMe_mem _
  · exact (hrest c j e).trans ((State.retire_strand_ne _ _ _ _ rfl e).trans (State.noteTask_strand_ne (by rw [hw]; rfl) e))
  · rw [hme, hpost_x]; rfl
  · rw [hme]; rfl

/-- An undefined buffer, or a mode not allowed in a read position, breaks R61. -/
theorem Core.operandsOk_undefined {x : Core} {t : Task} (hm : t.cmd.inCore = true) {o : Operand} (ho : o ∈ t.ops)
    (h : x.buf (rgnBuf o.rgn) = none ∨ (o.pos < 4 ∧ rgnMode o.rgn ≠ 1)) : x.operandsOk t = false := by
  have hbad : operandOk x t.cmd o = false := by
    unfold operandOk
    split
    · rfl
    · rename_i b hb
      rcases h with h | ⟨hp, hmode⟩
      · rw [hb] at h; cases h
      · rw [if_pos hp, show (rgnMode o.rgn == 1) = false by simpa using hmode]; rfl
  have hall : t.ops.all (operandOk x t.cmd) = false := List.all_eq_false.2 ⟨o, ho, by rw [hbad]; decide⟩
  unfold Core.operandsOk
  rw [hm, hall]
  rfl

/-- What the annotations of the first part of the statement come to. -/
theorem State.tokenNote_of {tw : Option (BitVec 32 × Reg)}
    (h : (s.me.annTok = none ∧ tw = none) ∨
      (∃ (r : Reg) (q : BitVec 32), s.me.annTok = some r ∧ s.me.tokenOf r = some q ∧ tw = some (q, r)) ∨
      ∃ r : Reg, s.me.annTok = some r ∧ s.me.tokenOf r = none ∧ s.me.pending r = false ∧ 0 ≤ (s.me.reg r).toInt ∧ tw = none) :
    s.me.noteReady ∧ s.me.tokenNote = (tw, none) := by
  unfold Strand.noteReady Strand.tokenNote
  rcases h with ⟨ha, rfl⟩ | ⟨r, q, ha, hq, rfl⟩ | ⟨r, ha, hq, hp, hv, rfl⟩
  · rw [ha]; exact ⟨fun r hr => (by cases hr), rfl⟩
  · rw [ha]
    refine ⟨fun r' hr => ?_, by simp only [hq]⟩
    obtain rfl := Option.some.inj hr
    rw [hq]; exact fun _ => Option.some_ne_none q
  · rw [ha]
    refine ⟨fun r' hr hp' => ?_, ?_⟩
    · obtain rfl := Option.some.inj hr
      rw [hp] at hp'; cases hp'
    · simp only [hq, if_neg (show ¬ (s.me.reg r).toInt < 0 by omega)]

theorem State.barNote_of {bw : Option (Nat × BitVec 8 × Option Nat)}
    (h : (s.me.annBar = none ∧ bw = none) ∨
      ∃ (va : Word) (ph : BitVec 8) (key : Nat), s.me.annBar = some (va, ph) ∧ s.tbPlace va.toNat false = .inl key ∧ bw = some (key, ph, none)) :
    s.barNote = (bw, none) := by
  unfold State.barNote
  rcases h with ⟨ha, rfl⟩ | ⟨va, ph, key, ha, hk, rfl⟩
  · rw [ha]
  · rw [ha]; simp only [hk]

end form

/-! ## The statement -/

/-- Settles O20: every form is `State.post` of its command, which waits, enters its task or fails it (`State.post_defining`, `State.post_waits`,
`State.post_posted`, `State.post_refused`). -/
theorem taskForms : Obligations.TaskForms := by
  constructor
  · intro s h fa fb df rf a b c tw bw bar posts hopen hrun htok hbar
    obtain ⟨hn, ht⟩ := State.tokenNote_of htok
    have hb := State.barNote_of hbar
    have post {i : Instr} {m : Cmd} (hi : exec i s = s.post h m none) : posts i m := fun hd hok hbind => by
      rw [RunsTo, hi]
      exact State.post_posted hopen hrun hn ht hb hd hok hbind
    refine ⟨post rfl, post rfl, post rfl, post rfl, post rfl, post rfl, post rfl, post rfl, post rfl, post rfl, post rfl, post rfl, post rfl,
      fun ⟨r, hr, htag⟩ => post ?_⟩
    exact congrArg (s.post h _) (if_pos (List.any_eq_true.2 ⟨r, hr, by simpa using htag⟩))
  · intro s h fa fb a b forms undefining hnote
    have all (P : Instr → Prop) (hP : ∀ i m, m.inCore = true → exec i s = s.post h m none → P i) : forms P :=
      ⟨hP _ (.mm _ _) rfl rfl, hP _ .mmz rfl rfl, hP _ .xp rfl rfl, hP _ (.vrun _ _) rfl rfl, hP _ (.cp _ _) rfl rfl, hP _ (.cpR _ _) rfl rfl⟩
    refine ⟨fun hd => ?_, fun hd hfull => ?_, fun hd hg hheld => ?_, fun hd hopen hrun htok hnew hbad => ?_⟩
    · exact all (fun i => RunsTo i s (Waits s · 15 1)) fun i m hm hi => ⟨_, hi.trans (State.post_defining none hnote hm hd), s.waitFor_waits 15 1⟩
    · exact all (fun i => RunsTo i s (Waits s · 2 0)) fun i m hm hi =>
        ⟨_, hi.trans (State.post_waits none hnote (fun _ => hd) (State.mayTake_full hfull _)), s.waitFor_waits 2 0⟩
    · exact all (fun i => RunsTo i s (Waits s · 2 0)) fun i m hm hi =>
        ⟨_, hi.trans (State.post_waits none hnote (fun _ => hd) (State.mayTake_held hg hheld)), s.waitFor_waits 2 0⟩
    · obtain ⟨o, ho, hbad⟩ := hbad
      refine all (fun i => RunsTo i s (Refused s · h 13)) fun i m hm hi => ?_
      rw [RunsTo, hi]
      exact State.post_refused hopen hrun hnote (fun _ => hd) (Core.operandsOk_undefined hm ho hbad) htok hnew none

end Sys2Proof.Machine
end

section
/-!
SUPPORT. What the engines compute and write: the exact sums of an integer MM (R143, R144), and elements as half bytes of memory (R129).
-/
namespace Sys2Proof.Machine

/-! ## Integer sums modulo 2^32 (R144) -/

theorem wrapBits_emod (v : Int) (n : Nat) : ((wrapBits v n : Nat) : Int) = v % (2 ^ n : Nat) :=
  Int.toNat_of_nonneg (Int.emod_nonneg _ (by positivity))

theorem sextInt_emod (x n : Nat) : sextInt x n % (2 ^ n : Nat) = (x : Int) % (2 ^ n : Nat) := by
  unfold sextInt
  dsimp only
  split
  · rw [Int.natCast_mod, Int.emod_emod]
  · rw [Int.sub_emod_right, Int.natCast_mod, Int.emod_emod]

/-- Wrapping between two additions leaves their sum as it is. -/
theorem wrapBits_sextInt_add (v w : Int) (n : Nat) : wrapBits (sextInt (wrapBits v n) n + w) n = wrapBits (v + w) n := by
  have h : sextInt (wrapBits v n) n % (2 ^ n : Nat) = v % (2 ^ n : Nat) := by rw [sextInt_emod, wrapBits_emod, Int.emod_emod]
  rw [wrapBits.eq_def (sextInt _ _ + w), wrapBits.eq_def (v + w), Int.add_emod, h, ← Int.add_emod]

/-- A product of two elements of an integer MM. -/
def mmProduct (fa fb : Nat) (p : Nat × Nat) : Int := sextInt p.1 (tyBits fa) * sextInt p.2 (tyBits fb)

theorem mmGroups_int_bits {fa : Nat} (fb : Nat) (h : tyInt fa = true) :
    ∀ (ls : List (List (Nat × Nat))) (acc g : Nat) (e : Elem), ls ≠ [] →
      (mmGroups fa fb acc g e ls).bits = wrapBits (sextInt acc 32 + (ls.flatten.map (mmProduct fa fb)).sum) 32
  | [], _, _, _, hne => absurd rfl hne
  | xs :: rest, acc, g, e, _ => by
    have hsum : xs.foldl (fun (v : Int) p => v + sextInt p.1 (tyBits fa) * sextInt p.2 (tyBits fb)) 0 = (xs.map (mmProduct fa fb)).sum := by
      rw [List.sum_eq_foldl, List.foldl_map]
      rfl
    rw [mmGroups, if_pos h, hsum]
    cases rest with
    | nil => rw [mmGroups]; simp
    | cons ys rest =>
      rw [mmGroups_int_bits fb h (ys :: rest) _ _ _ (List.cons_ne_nil _ _), wrapBits_sextInt_add, List.flatten_cons (l := xs),
        List.map_append, List.sum_append, Int.add_assoc]

theorem pieces_flatten {α : Type} (n : Nat) : ∀ (fuel : Nat) (l : List α), l.length ≤ n * fuel → (pieces n fuel l).flatten = l
  | 0, l, h => by rw [List.eq_nil_of_length_eq_zero (Nat.le_zero.1 h)]; rfl
  | fuel + 1, l, h => by
    unfold pieces
    split
    · rename_i he
      rw [List.isEmpty_iff.1 he]; rfl
    · rw [List.flatten_cons, pieces_flatten n fuel _ (by rw [List.length_drop, Nat.mul_succ] at *; omega), List.take_append_drop]

theorem pairGroup_pos (fa fb : Nat) : 0 < pairGroup fa fb := by
  have h (f : Nat) : 0 < groupSize f := by unfold groupSize; split <;> decide
  exact Nat.lt_min.2 ⟨h fa, h fb⟩

/-- An element of an integer MM is the accumulator's value and the exact products of its row and column, modulo 2^32. -/
theorem State.mmElem_int (s : State) (c : Nat) (u : Task) {fa : Nat} (fb i j : Nat) (h : tyInt fa = true) (hk : 0 < rgnX (u.op 0).rgn 0) :
    (s.mmElem c u fa fb i j).bits = wrapBits (sextInt (s.opRead c (u.op 4) j i) 32 + ((List.range (rgnX (u.op 0).rgn 0)).map fun k =>
      sextInt (s.opRead c (u.op 0) k i) (tyBits fa) * sextInt (s.opRead c (u.op 1) j k) (tyBits fb)).sum) 32 := by
  unfold State.mmElem
  dsimp only
  generalize rgnX (u.op 0).rgn 0 = k at *
  have hlen : ((List.range k).map fun n => (s.opRead c (u.op 0) n i, s.opRead c (u.op 1) j n)).length ≤
      pairGroup fa fb * (k / pairGroup fa fb + 1) := by
    rw [List.length_map, List.length_range]
    exact (Nat.lt_mul_div_succ k (pairGroup_pos fa fb)).le
  have hflat := pieces_flatten (pairGroup fa fb) (k / pairGroup fa fb + 1) _ hlen
  rw [mmGroups_int_bits fb h _ _ _ _ ?_, hflat, List.map_map]
  · rfl
  · intro hnil
    rw [hnil] at hflat
    have := congrArg List.length hflat
    simp at this
    omega

/-! ## Elements as half bytes -/

/-- A half byte of a byte of a value. -/
theorem half_byteOf (v i b : Nat) (hb : b < 2) : (BitVec.ofNat 8 (v / 2 ^ (8 * i))).toNat / 16 ^ b % 16 = v / 16 ^ (2 * i + b) % 16 := by
  have e : v / 16 ^ (2 * i + b) = v / 2 ^ (8 * i) / 16 ^ b := by
    rw [Nat.pow_add, Nat.div_div_eq_div_mul, Nat.pow_mul, Nat.pow_mul]
  rw [e, BitVec.toNat_ofNat]
  generalize v / 2 ^ (8 * i) = y
  obtain rfl | rfl : b = 0 ∨ b = 1 := by omega
  · simp
  · simp; omega

section halves
variable (s : State)

/-- The half bytes of a value that is written. -/
theorem State.half_writeNat (k n v j : Nat) (hm : s.memOk) (hp : s.touchesPort k n = false) :
    (s.writeNat k n v).half j = if 2 * k ≤ j ∧ j < 2 * k + 2 * n then v / 16 ^ (j - 2 * k) % 16 else s.half j := by
  unfold State.half
  rw [s.writeNat_bytes k n v (j / 2) hm hp]
  by_cases h : k ≤ j / 2 ∧ j / 2 < k + n
  · rw [if_pos h, if_pos (by omega), half_byteOf _ _ _ (Nat.mod_lt _ (by decide)), show 2 * (j / 2 - k) + j % 2 = j - 2 * k by omega]
  · rw [if_neg h, if_neg (by omega)]

/-- Where an element of a size may lie: at a half byte if it is one, and else at a byte. -/
def elemAligned (e4 : Nat) (p : Nat × Nat) : Prop := e4 = 1 ∧ p.2 < 2 ∨ e4 ∈ [2, 4, 8] ∧ p.2 = 0

/-- An element that is written has its half bytes, and every other half byte is as it was. -/
theorem State.half_writeElem {e4 : Nat} {p : Nat × Nat} (v j : Nat) (ha : elemAligned e4 p) (hm : s.memOk)
    (hp : s.touchesPort p.1 (elemBytes e4) = false) :
    (s.writeElem e4 p v).half j =
      if 2 * p.1 + p.2 ≤ j ∧ j < 2 * p.1 + p.2 + e4 then v / 16 ^ (j - (2 * p.1 + p.2)) % 16 else s.half j := by
  rcases ha with ⟨rfl, hlt⟩ | ⟨he, h0⟩
  · have hold : s.half j = (s.byte (j / 2)).toNat / 16 ^ (j % 2) % 16 := rfl
    have hb : (s.byte p.1).toNat < 256 := (s.byte p.1).isLt
    unfold State.writeElem
    rw [if_pos rfl, s.half_writeNat p.1 1 _ j hm hp]
    by_cases hj : j = 2 * p.1 ∨ j = 2 * p.1 + 1
    · rw [if_pos (by omega)]
      obtain ⟨k, b⟩ := p
      obtain rfl | rfl : b = 0 ∨ b = 1 := by dsimp only at hlt; omega
      · rcases hj with rfl | rfl
        · simp
        · simp [State.half, Nat.mul_add_div]
          omega
      · rcases hj with rfl | rfl
        · simp [State.half]
        · simp
          omega
    · rw [if_neg (by omega), if_neg (by omega)]
  · have h1 : e4 ≠ 1 := by rintro rfl; simp at he
    have h2 : 2 * (e4 / 2) = e4 ∧ elemBytes e4 = e4 / 2 := by
      simp only [List.mem_cons, List.not_mem_nil, or_false] at he
      rcases he with rfl | rfl | rfl <;> decide
    unfold State.writeElem
    rw [if_neg h1, s.half_writeNat _ _ _ _ hm (h2.2 ▸ hp), h0, h2.1]
    rfl

/-- Elements written one after the other. -/
def State.writeElems (e4 : Nat) (ws : List ((Nat × Nat) × Nat)) : State := ws.foldl (fun s w => s.writeElem e4 w.1 w.2) s

theorem State.writeElems_onlyMem (e4 : Nat) (ws : List ((Nat × Nat) × Nat)) : s.onlyMem (s.writeElems e4 ws) := by
  have h (s : State) (w : (Nat × Nat) × Nat) : s.onlyMem (s.writeElem e4 w.1 w.2) := s.writeElem_onlyMem e4 w.1 w.2
  exact State.onlyMem.foldl _ h ws s

end halves

theorem State.onlyMem.touchesPort {s t : State} (h : s.onlyMem t) (k n : Nat) : t.touchesPort k n = s.touchesPort k n := by
  have hm : t.marten = s.marten := by rw [show t = _ from h]
  unfold State.touchesPort State.hasRecords
  rw [hm]

/-- Where elements of a size may be written one after the other. -/
def State.takesElems (s : State) (e4 : Nat) (ws : List ((Nat × Nat) × Nat)) : Prop :=
  s.memOk ∧ ∀ w ∈ ws, elemAligned e4 w.1 ∧ s.touchesPort w.1.1 (elemBytes e4) = false

theorem State.takesElems.tail {s : State} {e4 : Nat} {w : (Nat × Nat) × Nat} {ws : List ((Nat × Nat) × Nat)} (h : s.takesElems e4 (w :: ws)) :
    (s.writeElem e4 w.1 w.2).takesElems e4 ws := by
  refine ⟨State.memOk_writeElem e4 w.1 w.2 h.1, fun v hv => ?_⟩
  obtain ⟨ha, hp⟩ := h.2 v (List.mem_cons_of_mem _ hv)
  exact ⟨ha, ((s.writeElem_onlyMem e4 w.1 w.2).touchesPort _ _).trans hp⟩

/-- Half bytes on which no written element lies are as they were. -/
theorem State.half_writeElems_other {e4 : Nat} (j : Nat) (ws : List ((Nat × Nat) × Nat)) (s : State) (hw : s.takesElems e4 ws)
    (hj : ∀ w ∈ ws, j < 2 * w.1.1 + w.1.2 ∨ 2 * w.1.1 + w.1.2 + e4 ≤ j) : (s.writeElems e4 ws).half j = s.half j := by
  induction ws generalizing s with
  | nil => rfl
  | cons w ws ih =>
    refine (ih _ hw.tail fun v hv => hj v (List.mem_cons_of_mem _ hv)).trans ?_
    obtain ⟨ha, hp⟩ := hw.2 w List.mem_cons_self
    have hout := hj w List.mem_cons_self
    rw [s.half_writeElem w.2 j ha hw.1 hp, if_neg (by omega)]

/-- Elements that lie apart all stand in memory after their writes. -/
theorem State.half_writeElems_mem {e4 : Nat} (ws : List ((Nat × Nat) × Nat)) (s : State) (hw : s.takesElems e4 ws)
    (hapart : ws.Pairwise fun w v => 2 * w.1.1 + w.1.2 + e4 ≤ 2 * v.1.1 + v.1.2 ∨ 2 * v.1.1 + v.1.2 + e4 ≤ 2 * w.1.1 + w.1.2)
    {v : (Nat × Nat) × Nat} (hv : v ∈ ws) {h : Nat} (hh : h < e4) :
    (s.writeElems e4 ws).half (2 * v.1.1 + v.1.2 + h) = v.2 / 16 ^ h % 16 := by
  induction ws generalizing s with
  | nil => exact absurd hv List.not_mem_nil
  | cons w ws ih =>
    obtain ⟨hfirst, hrest⟩ := List.pairwise_cons.1 hapart
    rcases List.mem_cons.1 hv with rfl | hv
    · obtain ⟨ha, hp⟩ := hw.2 v List.mem_cons_self
      refine (State.half_writeElems_other _ ws _ hw.tail fun x hx => ?_).trans ?_
      · have := hfirst x hx
        omega
      · rw [s.half_writeElem v.2 _ ha hw.1 hp, if_pos (by omega), Nat.add_sub_cancel_left]
    · exact ih _ hw.tail hrest hv

end Sys2Proof.Machine
end

section
/-!
SUPPORT. From the entry of a task to READY (R34, R36, R39, R40, R66, R73): grants, waits, records of waits, aging and failures in POSTED.
-/
namespace Sys2Proof.Machine

/-! ## Grants (R36) -/

/-- A free entry goes to the next claimant in turn. -/
theorem Core.grantNext_turn (x : Core) (a : Arriver) {n : Nat} (hn : n < 5) (hg : x.granted = []) (hw : x.window.length < 128)
    (he : x.eligible ((x.lastGrant + 1 + n) % 5) = true) (hm : ∀ m < n, x.eligible ((x.lastGrant + 1 + m) % 5) = false) :
    x.grantNext a = { x with granted := [((x.lastGrant + 1 + n) % 5, a)], lastGrant := (x.lastGrant + 1 + n) % 5 } := by
  have hkept : x.granted.filter (fun g => x.claims g.1) = x.granted := by rw [hg]; rfl
  have hfree : x.entryFree = true := by
    unfold Core.entryFree
    rw [hg]
    simpa using hw
  have hfirst : (List.range 5).find? (x.eligible ∘ fun k => (x.lastGrant + 1 + k) % 5) = some n :=
    List.find?_range_eq_some.2 ⟨he, List.mem_range.2 hn, fun m h => by simp [hm m h]⟩
  have hturn : ((List.range 5).map fun k => (x.lastGrant + 1 + k) % 5).find? x.eligible = some ((x.lastGrant + 1 + n) % 5) := by
    rw [List.find?_map, hfirst]
    rfl
  unfold Core.grantNext
  dsimp only
  rw [hkept, hfree, hturn, hg]
  rfl

/-! ## Tasks of a window -/

theorem Core.task_some {x : Core} {q : BitVec 32} {u : Task} (h : x.task q = some u) : u ∈ x.window ∧ u.seq = q :=
  ⟨List.mem_of_find?_eq_some h, by simpa using List.find?_some h⟩

theorem State.core_lt_of_mem_window {s : State} {c : Nat} {u : Task} (h : u ∈ (s.core c).window) : c < 260 := by
  by_contra hc
  unfold State.core at h
  rw [dif_neg hc] at h
  exact absurd h List.not_mem_nil

theorem State.core_lt_of_task {s : State} {c : Nat} {q : BitVec 32} {u : Task} (h : (s.core c).task q = some u) : c < 260 :=
  State.core_lt_of_mem_window (Core.task_some h).1

section modTask
variable (s : State) {c : Nat} (q : BitVec 32) (f : Task → Task)

theorem State.core_modTask_self (hc : c < 260) : (s.modTask c q f).core c = (s.core c).modTask q f := s.core_setCore_self c _ hc

theorem State.core_modTask_ne {d : Nat} (h : d ≠ c) : (s.modTask c q f).core d = s.core d := s.core_setCore_ne c d _ h

theorem State.mem_window_modTask {u : Task} (h : u ∈ (s.core c).window) (hq : u.seq = q) : f u ∈ ((s.modTask c q f).core c).window := by
  rw [s.core_modTask_self q f (State.core_lt_of_mem_window h)]
  exact List.mem_map.2 ⟨u, h, if_pos hq⟩

end modTask

/-! ## The record of a wait -/

/-- Among the cores, t is s but for strands and the records that a core holds back. -/
structure State.onlyTraced (s t : State) : Prop where
  core : ∀ d, t.core d = { s.core d with strands := (t.core d).strands, traceHeld := (t.core d).traceHeld, traceLost := (t.core d).traceLost }

theorem State.onlyTraced.refl (s : State) : s.onlyTraced s := ⟨fun _ => rfl⟩

theorem State.onlyTraced.trans {s t u : State} (h : s.onlyTraced t) (g : t.onlyTraced u) : s.onlyTraced u :=
  ⟨fun d => by rw [g.core d, h.core d]⟩

theorem State.onlyTraced.of_core {s t : State} (h : ∀ d, t.core d = s.core d) : s.onlyTraced t := ⟨fun d => by rw [h d]⟩

theorem State.onlyTraced.of_cores {s t : State} (h : t.cores = s.cores) : s.onlyTraced t :=
  .of_core fun d => by unfold State.core; rw [h]

theorem State.onlyTraced.window {s t : State} (h : s.onlyTraced t) (c : Nat) : (t.core c).window = (s.core c).window := by rw [h.core c]

theorem State.onlyTraced.foldl {α : Type} (f : State → α → State) (hf : ∀ (s : State) a, s.onlyTraced (f s a)) :
    ∀ (as : List α) (s : State), s.onlyTraced (as.foldl f s)
  | [], s => .refl s
  | a :: as, s => (hf s a).trans (State.onlyTraced.foldl f hf as (f s a))

section record
variable (s : State) (c k : Nat)

theorem State.modStrand_onlyTraced (f : Strand → Strand) : s.onlyTraced (s.modStrand c k f) := by
  obtain ⟨hother, hself⟩ := s.modStrand_onlyStrandsOf c k f
  refine ⟨fun d => ?_⟩
  by_cases h : d = c
  · rw [h, hself]
  · rw [hother d h]

theorem State.modRing_onlyTraced (f : Strand → Strand) : s.onlyTraced (s.modRing c k f) := by
  have h (s : State) (j : Nat) : s.onlyTraced (s.modStrand c j f) := s.modStrand_onlyTraced c j f
  exact State.onlyTraced.foldl _ h _ s

theorem State.awaitReq_cores (kind : ReqKind) (d : Dest) (a : Acc) (cached : Bool) (user : ReqUser) (own : List (Nat × Byte)) :
    (s.awaitReq c k kind d a cached user own).1.cores = s.cores := rfl

theorem State.sendReq_onlyTraced (kind : ReqKind) (d : Dest) (a : Acc) (cached : Bool) (own : List (Nat × Byte)) :
    s.onlyTraced (s.sendReq c k kind d a cached own) := .of_cores (s.awaitReq_cores c k kind d a cached .strand own)

theorem State.sendAtomic_onlyTraced (a : Acc) (r : Reg) (d : Dest) : s.onlyTraced (s.sendAtomic c k a r d) := by
  have hline : s.onlyTraced (s.dropRemoteLine (dieOf c) (destKey d) a.size) := .of_cores rfl
  unfold State.sendAtomic
  exact hline.trans ((State.sendReq_onlyTraced _ c k _ _ _ _ _).trans (State.modStrand_onlyTraced _ c k _))

theorem State.sendStore_onlyTraced (b : Buffered) : s.onlyTraced (s.sendStore c k b).1 := by
  unfold State.sendStore
  split
  · exact (s.modStrand_onlyTraced c k _).trans (.of_cores rfl)
  · exact s.sendReq_onlyTraced c k _ _ _ _ _
  · exact .refl s

theorem State.sendFrom_onlyTraced (bs kept : List Buffered) : s.onlyTraced (s.sendFrom c k bs kept) := by
  induction bs generalizing s kept with
  | nil => exact s.modStrand_onlyTraced c k _
  | cons b bs ih =>
    rw [State.sendFrom]
    split
    · exact s.modStrand_onlyTraced c k _
    · split
      · exact ih s _
      · split
        · exact s.modStrand_onlyTraced c k _
        · exact (s.sendAtomic_onlyTraced c k _ _ _).trans (ih _ _)
      · split
        · exact s.modStrand_onlyTraced c k _
        · exact (s.sendStore_onlyTraced c k b).trans (ih _ _)
      · exact ih s _

theorem State.recordHere_onlyTraced (key : Nat) (r : BitVec 256) : s.onlyTraced (s.recordHere c k key r) := by
  have word (clock : List Nat) (s : State) (w : Nat × Nat) : s.onlyTraced (s.traceWord c (key + 8 * w.1) clock w.2) :=
    .of_core (s.lateBytes_onlyMem (.scl c) (dieOf c) clock (key + 8 * w.1) (leBytes 8 w.2)).core
  unfold State.recordHere
  dsimp only
  refine .trans ?_ (State.modRing_onlyTraced _ c k _)
  generalize recordWords _ r = ws
  generalize s.nextLate = n
  induction ws generalizing s with
  | nil => exact .refl s
  | cons w ws ih => exact (word _ s w).trans (ih _)

theorem State.recordAway_onlyTraced (va : Nat) (d : Dest) (r : BitVec 256) : s.onlyTraced (s.recordAway c k va d r) := by
  unfold State.recordAway
  dsimp only
  exact (s.modStrand_onlyTraced c k _).trans ((State.modRing_onlyTraced _ c k _).trans (State.sendFrom_onlyTraced _ c k _ _))

theorem State.putRecord_onlyTraced (d : Dest) (r : BitVec 256) : s.onlyTraced (s.putRecord c k d r) := by
  unfold State.putRecord
  split
  · exact s.recordHere_onlyTraced c k _ r
  · exact s.recordAway_onlyTraced c k _ _ r

theorem State.intoSlot_onlyTraced (d : Dest) (r : BitVec 256) : s.onlyTraced (s.intoSlot c k d r) := by
  unfold State.intoSlot
  dsimp only
  split
  · exact (s.putRecord_onlyTraced c k d _).trans (State.modRing_onlyTraced _ c k _)
  · exact s.putRecord_onlyTraced c k d r

theorem State.modCore_onlyTraced (f : Core → Core)
    (h : ∀ x, f x = { x with strands := (f x).strands, traceHeld := (f x).traceHeld, traceLost := (f x).traceLost }) :
    s.onlyTraced (s.modCore c f) := by
  refine ⟨fun d => ?_⟩
  by_cases hc : c < 260
  · by_cases hd : d = c
    · subst hd
      rw [show (s.modCore d f).core d = f (s.core d) from s.core_setCore_self d _ hc]
      exact h _
    · rw [show (s.modCore c f).core d = s.core d from s.core_setCore_ne c d _ hd]
  · rw [show s.modCore c f = s from s.setCore_off _ _ hc]

theorem State.writeRecord_onlyTraced (r : BitVec 256) : s.onlyTraced (s.writeRecord c k r) := by
  unfold State.writeRecord
  dsimp only
  split
  · exact .refl s
  · split
    · split
      · exact s.intoSlot_onlyTraced c k _ r
      · generalize hu : State.intoSlot _ c k _ _ = u
        have hgap : s.onlyTraced u := hu ▸ (s.modStrand_onlyTraced c k _).trans (State.intoSlot_onlyTraced _ c k _ _)
        split
        · exact hgap
        · split
          · exact hgap.trans (u.intoSlot_onlyTraced c k _ r)
          · exact hgap.trans (u.modStrand_onlyTraced c k _)
    · refine s.modCore_onlyTraced c _ fun x => ?_
      split <;> rfl
    · exact s.modStrand_onlyTraced c k _

theorem State.taskWait_onlyTraced (t : Task) (a : Arriver) (edge : Nat) : s.onlyTraced (s.taskWait c t a edge) := by
  unfold State.taskWait
  dsimp only
  split
  · exact s.writeRecord_onlyTraced c _ _
  · exact .refl s

end record

/-! ## Waits in POSTED (R66, R72, R483) -/

/-- Writes of a core's window and of memory do not change which shipments hold a task (R329). -/
theorem State.gridHeld_congr {s s' : State} (hships : s'.ships = s.ships) (hcore : ∀ d, ∃ w, s'.core d = { s.core d with window := w }) (c : Nat)
    {t t' : Task} (hseq : t'.seq = t.seq) (hlocals : t'.locals = t.locals) : s'.gridHeld c t' = s.gridHeld c t := by
  have hsource (h : Shipment) : s'.writesSource t' h = s.writesSource t h := by
    obtain ⟨w, hw⟩ := hcore h.core
    unfold State.writesSource
    rw [hw, hlocals]
    rfl
  obtain ⟨w, hw⟩ := hcore c
  unfold State.gridHeld
  rw [hw, hships, hseq]
  simp only [funext hsource]
  rfl

/-- A task that stands ready where it stood posted, for the same work. -/
def Task.readyFrom (t w : Task) : Prop :=
  w.seq = t.seq ∧ w.cmd = t.cmd ∧ w.ops = t.ops ∧ w.cls = t.cls ∧ w.state = .ready

section ready
variable (s : State) {c : Nat}

theorem State.makeReady_window {t : Task} (ht : t ∈ (s.core c).window) : ∃ w ∈ ((s.makeReady c t).core c).window, t.readyFrom w := by
  unfold State.makeReady
  dsimp only
  generalize List.foldl laterOf t.arriver ((s.core c).stampSetters t) = b
  generalize (if b.2 = 1 ∨ b.2 = 8 then t.pl else plAfter t.pl t.waited s.now b.1 b.2) = pl
  have hmem : t ∈ ((s.taskWait c { t with pl := pl } b.1 b.2).core c).window := by
    rw [(s.taskWait_onlyTraced c { t with pl := pl } b.1 b.2).window]
    exact ht
  exact ⟨_, State.mem_window_modTask _ t.seq _ hmem rfl, rfl, rfl, rfl, rfl, rfl⟩

/-- The end of TASK_READY for a task whose stamps, barrier and report let it pass, and which no shipment holds. -/
theorem State.readies_if {t : Task} (ht : t ∈ (s.core c).window) (hp : t.state = .posted) (hg : s.gridHeld c t = false) :
    ∃ z, (if some 0 == some 0 && some 0 == some 0 && true && t.deps.isEmpty && t.tokWait.isNone && !s.gridHeld c t then .next (s.makeReady c t)
      else .next s : Out) = .next z ∧
      ∃ w ∈ (z.core c).window, w.seq = t.seq ∧ w.cmd = t.cmd ∧ w.ops = t.ops ∧ w.cls = t.cls ∧
        w.state = if t.deps = [] ∧ t.tokWait = none then .ready else .posted := by
  by_cases h : t.deps = [] ∧ t.tokWait = none
  · obtain ⟨w, hw, hseq, hcmd, hops, hcls, hst⟩ := s.makeReady_window ht
    exact ⟨_, if_pos (by rw [h.1, h.2, hg]; rfl), w, hw, hseq, hcmd, hops, hcls, by rw [if_pos h, hst]⟩
  · refine ⟨_, if_neg fun hx => h ?_, t, ht, rfl, rfl, rfl, rfl, by rw [if_neg h, hp]⟩
    simp only [Bool.and_eq_true, List.isEmpty_iff, Option.isNone_iff_eq_none] at hx
    obtain ⟨⟨⟨-, hdeps⟩, htok⟩, -⟩ := hx
    exact ⟨hdeps, htok⟩

variable {q : BitVec 32} {u : Task} (hu : (s.core c).task q = some u) (hp : u.state = .posted)
include hu hp

/-- A stamp that is ahead, a failed region and a failed or dead barrier fail the task with their code. -/
theorem taskReady_fails (hd : u.doomed = false) {e : Nat} (h : u.stamped = some (e + 1) ∨ u.stamped = some 0 ∧ s.barrierWait u = some (e + 1)) :
    RunsTo (.taskReady c q) s (Ended s · c u (-(e + 1 : Int))) := by
  refine ⟨s.failTask c u (e + 1), ?_, s.failTask_ended (State.core_lt_of_task hu) u (e + 1)⟩
  show execTaskReady c q s = _
  unfold execTaskReady
  rw [hu]
  dsimp only
  rw [if_neg (by simp [hp, hd])]
  rcases h with h | ⟨h, hb⟩
  · rw [h]
  · rw [h, hb]

/-- A TASK.RSTAT whose report has been freed fails. -/
theorem taskReady_estale (hd : u.doomed = false) (hs : u.stamped = some 0) (hb : s.barrierWait u = some 0) (hr : (s.core c).reportIn u = none) :
    RunsTo (.taskReady c q) s (Ended s · c u (-(Cause.estale : Int))) := by
  refine ⟨s.failTask c u Cause.estale, ?_, s.failTask_ended (State.core_lt_of_task hu) u Cause.estale⟩
  show execTaskReady c q s = _
  unfold execTaskReady
  rw [hu]
  dsimp only
  rw [if_neg (by simp [hp, hd]), hs, hb, hr]

/-- With stamps, barrier, report and shipments met, a task waits for its older tasks and its token alone. -/
theorem taskReady_readies (hd : u.doomed = false) (hs : u.stamped = some 0) (hb : s.barrierWait u = some 0)
    (hr : (s.core c).reportIn u = some true) (hg : s.gridHeld c u = false) :
    RunsTo (.taskReady c q) s fun t => ∃ w ∈ (t.core c).window, w.seq = q ∧ w.cmd = u.cmd ∧ w.ops = u.ops ∧ w.cls = u.cls ∧
      w.state = if u.deps = [] ∧ u.tokWait = none then .ready else .posted := by
  obtain ⟨hmem, rfl⟩ := Core.task_some hu
  suffices hexec : ∃ z, execTaskReady c u.seq s = .next z ∧ ∃ w ∈ (z.core c).window, w.seq = u.seq ∧ w.cmd = u.cmd ∧ w.ops = u.ops ∧
      w.cls = u.cls ∧ w.state = if u.deps = [] ∧ u.tokWait = none then .ready else .posted from hexec
  unfold execTaskReady
  rw [hu]
  dsimp only
  rw [if_neg (by simp [hp, hd]), hs, hb, hr]
  dsimp only
  cases hw : u.barWait with
  | none =>
    exact s.readies_if hmem hp hg
  | some b =>
    obtain ⟨k, ph, v⟩ := b
    let u' : Task := { u with stamped := some 0, barWait := none, arriver := laterOf u.arriver (s.tbArriver k, 4) }
    let s' := (s.taskMeets c k ph).modTask c u.seq fun _ => u'
    have hmeets := s.taskMeets_onlyMem c k ph
    have hmem' : u' ∈ (s'.core c).window :=
      State.mem_window_modTask (s.taskMeets c k ph) u.seq (fun _ => u') (by rw [hmeets.core]; exact hmem) rfl
    have hcore (d : Nat) : ∃ w, s'.core d = { s.core d with window := w } := by
      by_cases h : d = c
      · subst h
        exact ⟨_, (State.core_modTask_self _ _ _ (State.core_lt_of_task hu)).trans (by rw [hmeets.core]; rfl)⟩
      · exact ⟨(s.core d).window, (State.core_modTask_ne _ _ _ h).trans (hmeets.core d)⟩
    have hships : s'.ships = s.ships := by
      obtain ⟨cs, hcs⟩ := (s.taskMeets c k ph).setCore_only c ((s.taskMeets c k ph).core c |>.modTask u.seq fun _ => u')
      rw [show s' = _ from hcs, show s.taskMeets c k ph = _ from hmeets]
    exact s'.readies_if hmem' hp ((State.gridHeld_congr hships hcore c rfl rfl).trans hg)

/-- A posted task whose producer or awaited region has failed fails. -/
theorem producerFailed_fails (h : u.doomed = true ∨ u.stamped = some Cause.producerFailed) :
    RunsTo (.producerFailed c q) s (Ended s · c u (-(Cause.producerFailed : Int))) := by
  refine ⟨s.failTask c u Cause.producerFailed, ?_, s.failTask_ended (State.core_lt_of_task hu) u Cause.producerFailed⟩
  show execProducerFailed c q s = _
  unfold execProducerFailed
  rw [hu]
  dsimp only
  rw [if_pos]
  rcases h with h | h <;> simp [hp, h]

omit hp in
/-- A ready task rises one class after 2,048 cycles. -/
theorem taskAging_rises (hr : u.state = .ready) (ha : 2048 ≤ u.age) (hc : u.cls ≠ 0) : RunsTo (.taskAging c q) s fun t =>
    (∃ w ∈ (t.core c).window, w = { u with cls := u.cls - 1, age := u.age - 2048 }) ∧ ∀ d, d ≠ c → t.core d = s.core d := by
  obtain ⟨hmem, hseq⟩ := Core.task_some hu
  refine ⟨_, ?_, ⟨_, s.mem_window_modTask q (fun t => { t with cls := t.cls - 1, age := t.age - 2048 }) hmem hseq, rfl⟩,
    fun d h => s.core_modTask_ne q _ h⟩
  show execTaskAging c q s = _
  unfold execTaskAging
  rw [hu]
  dsimp only
  rw [if_pos (by simp [hr, ha, hc])]

omit hp in
/-- A task that waits for stamps alone fails at its stale limit. -/
theorem stampStaleLimit_fails {m : Nat} (ho : s.onlyStamps c u = true) (hl : (s.core c).staleLimit u (s.gridHeld c u) = some m)
    (hm : m ≤ u.staleCount) : RunsTo (.stampStaleLimit c q) s (Ended s · c u (-(Cause.stampStale : Int))) := by
  refine ⟨s.failTask c u Cause.stampStale, ?_, s.failTask_ended (State.core_lt_of_task hu) u Cause.stampStale⟩
  show execStampStaleLimit c q s = _
  unfold execStampStaleLimit
  rw [hu]
  dsimp only
  rw [hl]
  dsimp only
  rw [if_pos (by simp [ho, hm])]

end ready

end Sys2Proof.Machine
end

section
/-!
SUPPORT. Issue and completion of tasks (R34, R38, R221 to R231, R244).
-/
namespace Sys2Proof.Machine

/-- The end of a task after a change that leaves the other tasks and the strands of its core, and the other cores. -/
theorem Ended.of_change {s s' t : State} {c : Nat} {u u' : Task} {v : Int}
    (hwindow : ∀ w ∈ (s.core c).window, w.seq ≠ u.seq → w ∈ (s'.core c).window) (hstrands : (s'.core c).strands = (s.core c).strands)
    (hcores : ∀ d, d ≠ c → s'.core d = s.core d) (hu : u'.seq = u.seq ∧ u'.owner = u.owner ∧ u'.tok = u.tok) (e : Ended s' t c u' v) :
    Ended s t c u v := by
  obtain ⟨hseq, howner, htok⟩ := hu
  have hstrand (k : Nat) : s'.strand c k = s.strand c k := by unfold State.strand Core.strand; rw [hstrands]
  refine ⟨fun w hw => hseq ▸ e.window w hw, fun w hw hne => e.others w (hwindow w hw hne) (hseq ▸ hne), fun k ho hk ht r => ?_,
    fun who tag ho ht => e.report who tag (howner.trans ho) ht, fun d hd => (e.cores d hd).trans (hcores d hd)⟩
  rw [← hstrand, ← htok]
  exact e.token k (howner.trans ho) hk (htok.symm ▸ ht) r

/-- The commands of the region-addressed engines. -/
theorem Cmd.engine_cases {m : Cmd} (hvec : m.cls ≠ .vec) (hcpy : m.cls ≠ .cpy) :
    (∃ fa fb, m = .mm fa fb) ∨ (∃ f clr, m = .mmd f clr) ∨ m = .mmz ∨ m = .xp ∨ ∃ f p, m = .row f p := by
  cases m <;> simp [Cmd.cls] at *

/-! ## Issue (R38) -/

theorem Core.freeUnit_lt {x : Core} {cls : EngineClass} {n : Nat} (h : x.freeUnit cls = some n) : n < instances cls :=
  List.mem_range.1 (List.mem_of_find?_eq_some h)

/-- The task that an instance takes is a ready one of its class. -/
theorem Core.chosen_mem {x : Core} {cls : EngineClass} {u : Task} (h : x.chosen cls = some u) : u ∈ x.window ∧ u.cmd.cls = cls := by
  have best : ∀ (ts : List Task) (b : Option Task), ts.foldl (fun best t =>
      match best with
      | none => some t
      | some b => if t.cls < b.cls ∨ (t.cls = b.cls ∧ older t.seq b.seq) then some t else best) b = some u → b = some u ∨ u ∈ ts := by
    intro ts
    induction ts with
    | nil => exact fun b hb => .inl hb
    | cons t ts ih =>
      intro b hb
      rcases ih _ hb with hhead | htail
      · cases b with
        | none => exact .inr (Option.some.inj hhead ▸ List.mem_cons_self)
        | some b =>
          dsimp only at hhead
          split at hhead
          · exact .inr (Option.some.inj hhead ▸ List.mem_cons_self)
          · exact .inl hhead
      · exact .inr (List.mem_cons_of_mem _ htail)
  unfold Core.chosen at h
  rcases best _ _ h with hnone | hmem
  · exact absurd hnone (by simp)
  · obtain ⟨hwin, hsel⟩ := List.mem_filter.1 hmem
    simp only [Bool.and_eq_true, beq_iff_eq] at hsel
    exact ⟨hwin, hsel.2⟩

/-- A task as an instance takes it. -/
def Task.takenBy (u : Task) (n : Nat) : Task := { u with state := .issued, inst := some n, waited := 0 }

/-- A core after an instance has taken a task. -/
def Core.takes (x : Core) (u : Task) (n : Nat) : Core := (x.modTask u.seq fun _ => u.takenBy n).issueWrites (u.takenBy n)

/-- A core that takes a task changes its window and its buffers. -/
theorem Core.takes_only (x : Core) (u : Task) (n : Nat) :
    ∃ b, x.takes u n = { x with window := x.window.map fun t => if t.seq = u.seq then u.takenBy n else t, bufs := b } := by
  obtain ⟨b, hb⟩ := (x.modTask u.seq fun _ => u.takenBy n).issueWrites_bufs (u.takenBy n)
  exact ⟨b, hb⟩

/-- The address registers of a starting VRUN: ARG, and the addresses of its operands. -/
theorem Core.startCtx_areg (x : Core) (c : Nat) (u : Task) (ent arg : Word) (r : AReg) : (x.startCtx c u ent arg).areg r =
    if r = 1 then arg else if 2 ≤ r.toNat ∧ r.toNat < 8 then x.operandVa c u (r.toNat - 2) else 0 := by
  have hone : r.toNat = 1 ↔ r = 1 := by bv_omega
  by_cases h : r = 0
  · subst h; rfl
  · unfold Ctx.areg Core.startCtx
    rw [if_neg h]
    simp only [Vector.getElem_ofFn, hone]

section issue
variable (s : State) {c n : Nat} {cls : EngineClass} {u : Task}

theorem State.engineEdge_fresh (h : u.waited = 0) : s.engineEdge c u n = (s, u) := by
  unfold State.engineEdge
  split
  · exact if_neg fun hx => hx.1 h
  · rfl

theorem State.setCore_setCore (c : Nat) (x y : Core) : (s.setCore c x).setCore c y = s.setCore c y := by
  unfold State.setCore
  split
  · simp
  · rfl

theorem State.setCore_modTask_modCore (hc : c < 260) (q : BitVec 32) (f : Task → Task) (g : Core → Core) :
    (s.modTask c q f).modCore c g = s.setCore c (g ((s.core c).modTask q f)) := by
  have hself : (s.modTask c q f).core c = (s.core c).modTask q f := s.core_modTask_self q f hc
  unfold State.modCore
  rw [hself]
  exact s.setCore_setCore c _ _

variable (hn : (s.core c).freeUnit cls = some n) (hch : (s.core c).chosen cls = some u) (hw : u.waited = 0)
include hn hch

theorem exec_taskIssue : exec (.taskIssue c cls n) s = .next (s.issueTask c u n) := by
  show execTaskIssue c cls n s = _
  unfold execTaskIssue
  dsimp only
  rw [if_neg (by rw [hn]; exact fun h => h rfl), hch]

omit hn in
theorem State.core_takes : (s.setCore c ((s.core c).takes u n)).core c = (s.core c).takes u n :=
  s.core_setCore_self c _ (State.core_lt_of_mem_window (Core.chosen_mem hch).1)

omit hn in
theorem State.takes_eq : (s.modTask c u.seq fun _ => u.takenBy n).modCore c (fun x => x.issueWrites (u.takenBy n)) =
    s.setCore c ((s.core c).takes u n) :=
  s.setCore_modTask_modCore (State.core_lt_of_mem_window (Core.chosen_mem hch).1) _ _ _

include hw

omit hn in
/-- A failed check at issue fails the task as it was taken. -/
theorem State.issueTask_fails {e : Nat} (h : ((s.core c).takes u n).issueCheck c (u.takenBy n) = some e) :
    s.issueTask c u n = (s.setCore c ((s.core c).takes u n)).failTask c (u.takenBy n) e := by
  have heq := s.takes_eq (n := n) hch
  have hcore := s.core_takes (n := n) hch
  unfold Task.takenBy at *
  unfold State.issueTask
  rw [s.engineEdge_fresh hw]
  dsimp only at *
  rw [heq, hcore, h]

/-- A failed check at issue ends the task. -/
theorem taskIssue_fails {e : Nat} (h : ((s.core c).takes u n).issueCheck c (u.takenBy n) = some e) :
    RunsTo (.taskIssue c cls n) s (Ended s · c u (-(e : Int))) := by
  have hcore := s.core_takes (n := n) hch
  obtain ⟨b, hb⟩ := (s.core c).takes_only u n
  have hend := State.failTask_ended (s.setCore c ((s.core c).takes u n)) (State.core_lt_of_mem_window (Core.chosen_mem hch).1) (u.takenBy n) e
  rw [← s.issueTask_fails hch hw h] at hend
  refine ⟨s.issueTask c u n, exec_taskIssue s hn hch, Ended.of_change (u' := u.takenBy n) (fun w hmem hne => ?_) ?_
    (fun d hd => s.core_setCore_ne c d _ hd) ⟨rfl, rfl, rfl⟩ hend⟩
  · rw [hcore, hb]
    exact List.mem_map.2 ⟨w, hmem, if_neg hne⟩
  · rw [hcore, hb]

section passes
variable (hok : ((s.core c).takes u n).issueCheck c (u.takenBy n) = none)
include hok

/-- A task of an engine that passes its checks has issued, and nothing else changes. -/
theorem taskIssue_compute (hcpy : cls ≠ .cpy) (hvec : cls ≠ .vec) : Runs (.taskIssue c cls n) s (s.setCore c ((s.core c).takes u n)) := by
  have heq := s.takes_eq (n := n) hch
  have hcore := s.core_takes (n := n) hch
  obtain ⟨-, hcls⟩ := Core.chosen_mem hch
  refine (exec_taskIssue s hn hch).trans (congrArg _ ?_)
  unfold Task.takenBy at *
  unfold State.issueTask
  rw [s.engineEdge_fresh hw]
  dsimp only at *
  rw [heq, hcore, hok]
  dsimp only
  rcases Cmd.engine_cases (hcls ▸ hvec) (hcls ▸ hcpy) with ⟨fa, fb, hm⟩ | ⟨f, clr, hm⟩ | hm | hm | ⟨f, p, hm⟩ <;> rw [hm]

/-- A TASK.RSTAT whose turn comes has issued, and nothing else changes. -/
theorem taskIssue_rstat {g : BitVec 16} (hm : u.cmd = .rstat g) : Runs (.taskIssue c cls n) s (s.setCore c ((s.core c).takes u n)) := by
  have heq := s.takes_eq (n := n) hch
  have hcore := s.core_takes (n := n) hch
  refine (exec_taskIssue s hn hch).trans (congrArg _ ?_)
  unfold Task.takenBy at *
  unfold State.issueTask
  rw [s.engineEdge_fresh hw]
  dsimp only at *
  rw [heq, hcore, hok, hm]

/-- A VRUN that passes its checks stands in its instance's context. -/
theorem taskIssue_vrun {ent arg : Word} (hm : u.cmd = .vrun ent arg) : RunsTo (.taskIssue c cls n) s fun t => ∃ h : n < 16,
    let z := (t.core c).ctxs[n]
    z.task = some u.seq ∧ z.pc = ent ∧ z.masks = [] ∧ z.flags = 0 ∧ (∀ r, z.vreg r = 0) ∧
    (∀ r : AReg, z.areg r = if r = 1 then arg
      else if 2 ≤ r.toNat ∧ r.toNat < 8 then ((s.core c).takes u n).operandVa c (u.takenBy n) (r.toNat - 2) else 0) ∧
    (∃ w ∈ (t.core c).window, w = u.takenBy n) ∧ t.mem = s.mem ∧ ∀ r ∈ t.reqs, r.kind = .fetch → r.core = c → r.strand ≠ 4 + n := by
  have heq := s.takes_eq (n := n) hch
  have hcore := s.core_takes (n := n) hch
  obtain ⟨hmem, hcls⟩ := Core.chosen_mem hch
  have hlt : n < 16 := by
    have := Core.freeUnit_lt hn
    rwa [← hcls, hm] at this
  let y := (s.core c).takes u n
  let y' : Core := { y with ctxs := y.ctxs.set n (y.startCtx c (u.takenBy n) ent arg) }
  let t : State := { s.setCore c y' with reqs := s.reqs.filter fun r => !(r.kind == .fetch && r.core == c && r.strand == 4 + n) }
  have ht : s.issueTask c u n = t := by
    unfold Task.takenBy at *
    unfold State.issueTask
    rw [s.engineEdge_fresh hw]
    dsimp only at *
    rw [heq, hcore, hok, hm]
    dsimp only
    rw [dif_pos hlt, State.setCore_setCore, State.setCore_reqs]
    rfl
  have hself : t.core c = y' := s.core_setCore_self c y' (State.core_lt_of_mem_window hmem)
  refine ⟨t, (exec_taskIssue s hn hch).trans (congrArg _ ht), hlt, ?_⟩
  have hz : (t.core c).ctxs[n] = y.startCtx c (u.takenBy n) ent arg := by
    simp only [hself, y', Vector.getElem_set_self]
  rw [hz]
  refine ⟨rfl, rfl, rfl, rfl, fun r => Vector.getElem_replicate _, y.startCtx_areg c (u.takenBy n) ent arg, ⟨u.takenBy n, ?_, rfl⟩, s.setCore_mem c y', fun r hr hk hcr hs => ?_⟩
  · obtain ⟨b, hb⟩ := (s.core c).takes_only u n
    rw [hself, show y'.window = ((s.core c).takes u n).window from rfl, hb]
    exact List.mem_map.2 ⟨u, hmem, if_pos rfl⟩
  · simpa [hk, hcr, hs] using (List.mem_filter.1 hr).2

end passes

end issue

end Sys2Proof.Machine
end

section
/-!
SUPPORT. Completion of tasks (R34, R40, R221, R244): the results of an engine in memory, and the reports that a TASK.RSTAT takes.
-/
namespace Sys2Proof.Machine

theorem State.onlyMem.cores {s t : State} (h : s.onlyMem t) : t.cores = s.cores := by rw [show t = _ from h]

/-- Retirement leaves memory. -/
theorem State.half_retire (s : State) (c : Nat) (u : Task) (failed : Option Nat) (j : Nat) : (s.retire c u failed).half j = s.half j := by
  obtain ⟨cs, l, o, h⟩ := s.retire_only c u failed
  rw [h]
  rfl

theorem State.half_coverClear (s : State) (ks : List Nat) (n j : Nat) : (s.coverClear ks n).half j = s.half j := by
  unfold State.coverClear
  split <;> rfl

/-! ## An engine's results -/

/-- The writes of a task's results that have a place, in their order. -/
def State.resultWrites (s : State) (c : Nat) (u : Task) : List ((Nat × Nat) × Nat) :=
  (s.results c u).filterMap fun r => ((s.core c).place c (u.op 4) r.1.1 r.1.2).map fun p => (p, r.2.bits)

/-- The size of a task's result elements, in half bytes. -/
def State.resultSize (s : State) (c : Nat) (u : Task) : Nat := ((s.core c).opBuf (u.op 4)).esize4

section results
variable (s : State) (c : Nat) (u : Task)

theorem State.mem_resultWrites {w : (Nat × Nat) × Nat} :
    w ∈ s.resultWrites c u ↔ ∃ r ∈ s.results c u, (s.core c).place c (u.op 4) r.1.1 r.1.2 = some w.1 ∧ r.2.bits = w.2 := by
  unfold State.resultWrites
  simp only [List.mem_filterMap, Option.map_eq_some_iff]
  constructor
  · rintro ⟨r, hr, p, hp, rfl⟩
    exact ⟨r, hr, hp, rfl⟩
  · rintro ⟨r, hr, hp, hbits⟩
    exact ⟨r, hr, w.1, hp, by rw [hbits]⟩

/-- Writing the results is writing those that have a place. -/
theorem State.foldl_results (e4 : Nat) : (s.results c u).foldl (fun t r => match (s.core c).place c (u.op 4) r.1.1 r.1.2 with
      | some p => t.writeElem e4 p r.2.bits
      | none => t) s = s.writeElems e4 (s.resultWrites c u) := by
  unfold State.writeElems State.resultWrites
  rw [List.foldl_filterMap]
  congr 1
  funext t r
  cases (s.core c).place c (u.op 4) r.1.1 r.1.2 <;> rfl

/-- An element lies at a half byte of its size. -/
theorem Core.place_aligned {x : Core} {o : Operand} {j i : Nat} {p : Nat × Nat} (he : (x.opBuf o).esize4 ∈ [1, 2, 4, 8])
    (h : x.place c o j i = some p) : elemAligned (x.opBuf o).esize4 p := by
  have hnib : ∃ n, p.2 = n * (x.opBuf o).esize4 % 2 := by
    unfold Core.place Buf.elemKey Buf.linear at h
    dsimp only at h
    split at h
    · exact ⟨_, (congrArg Prod.snd (Option.some.inj h)).symm⟩
    · split at h
      · exact ⟨_, (congrArg Prod.snd (Option.some.inj h)).symm⟩
      · exact absurd h nofun
  obtain ⟨n, hn⟩ := hnib
  generalize (x.opBuf o).esize4 = e at *
  simp only [List.mem_cons, List.not_mem_nil, or_false] at he
  rcases he with rfl | rfl | rfl | rfl
  · exact .inl ⟨rfl, by omega⟩
  · exact .inr ⟨by decide, by omega⟩
  · exact .inr ⟨by decide, by omega⟩
  · exact .inr ⟨by decide, by omega⟩

variable (hm : s.memOk) (he : s.resultSize c u ∈ [1, 2, 4, 8]) (hfree : PlacesFree s c u)
include hm he hfree

theorem State.takesElems_results : s.takesElems (s.resultSize c u) (s.resultWrites c u) := by
  refine ⟨hm, fun w hw => ?_⟩
  obtain ⟨r, hr, hp, -⟩ := (s.mem_resultWrites c u).1 hw
  exact ⟨Core.place_aligned c he hp, hfree.noPort r hr w.1 hp⟩

/-- The results stand in their places. -/
theorem State.half_results_mem {r : (Nat × Nat) × Elem} (hr : r ∈ s.results c u) {p : Nat × Nat}
    (hp : (s.core c).place c (u.op 4) r.1.1 r.1.2 = some p) {h : Nat} (hh : h < s.resultSize c u) :
    (s.writeElems (s.resultSize c u) (s.resultWrites c u)).half (2 * p.1 + p.2 + h) = r.2.bits / 16 ^ h % 16 := by
  refine State.half_writeElems_mem _ s (s.takesElems_results c u hm he hfree) ?_ ((s.mem_resultWrites c u (w := (p, r.2.bits))).2 ⟨r, hr, hp, rfl⟩) hh
  refine List.pairwise_filterMap.2 (hfree.apart.imp fun hapart w hw v hv => ?_)
  obtain ⟨p, hp, rfl⟩ := Option.map_eq_some_iff.1 hw
  obtain ⟨p', hp', rfl⟩ := Option.map_eq_some_iff.1 hv
  exact hapart p p' hp hp'

/-- Every half byte outside the places of the results is as it was. -/
theorem State.half_results_other {j : Nat} (hj : ∀ r ∈ s.results c u, ∀ p : Nat × Nat, (s.core c).place c (u.op 4) r.1.1 r.1.2 = some p →
    j < 2 * p.1 + p.2 ∨ 2 * p.1 + p.2 + s.resultSize c u ≤ j) :
    (s.writeElems (s.resultSize c u) (s.resultWrites c u)).half j = s.half j := by
  refine State.half_writeElems_other j _ s (s.takesElems_results c u hm he hfree) fun w hw => ?_
  obtain ⟨r, hr, hp, -⟩ := (s.mem_resultWrites c u).1 hw
  exact hj r hr w.1 hp

end results

/-! ## Completion -/

section complete
variable (s : State) {c : Nat} {u : Task} (hu : (s.core c).task u.seq = some u)

theorem State.foldl_scan_clean (ks : Operand → List Nat) (n : Operand → Nat) (h : s.softErrors = []) (os : List Operand) :
    os.foldl (fun s o => s.scan (ks o) (n o)) s = s := by
  induction os with
  | nil => rfl
  | cons o os ih =>
    have hscan : s.scan (ks o) (n o) = s := if_pos (by rw [h]; rfl)
    rw [List.foldl_cons, hscan]
    exact ih

/-- A computation whose operands are empty retires at once. -/
theorem State.finishCompute_empty (h : u.ops.any (s.core c).opEmpty = true) : s.finishCompute c u = s.retire c u none := by
  unfold State.finishCompute
  dsimp only
  rw [if_pos h]

section full
variable (h : u.ops.any (s.core c).opEmpty = false) (hsoft : s.softErrors = [])
include h hsoft

/-- A computation that read poison fails. -/
theorem State.finishCompute_poison (hp : u.readOps.any (s.opPoisoned c) = true) : s.finishCompute c u = s.failTask c u Cause.poison := by
  unfold State.finishCompute
  dsimp only
  rw [if_neg (by rw [h]; decide), s.foldl_scan_clean _ _ hsoft, if_pos hp]

/-- A computation writes its results and retires. -/
theorem State.finishCompute_results (hp : u.readOps.any (s.opPoisoned c) = false) (htr : trClass (s.strand c u.ring).sys.trctl 7 = false)
    (hfree : PlacesFree s c u) : ∃ ks, s.finishCompute c u =
      ((s.writeElems (s.resultSize c u) (s.resultWrites c u)).coverClear ks (elemBytes (s.resultSize c u))).retire c u none := by
  have hfrozen : ((s.core c).placesOf c (u.op 4)).any (fun k => s.frozenAt (.here k)) = false :=
    List.any_eq_false.2 fun k hk => by rw [hfree.thawed k hk]; decide
  have htag : ((s.core c).placesOf c (u.op 4)).any (fun k => s.tagAt (.here k) (elemBytes ((s.core c).opBuf (u.op 4)).esize4)) = false :=
    List.any_eq_false.2 fun k hk => by rw [hfree.untagged k hk]; decide
  have hrec : s.numRecord c u (s.results c u) = s := if_pos (by rw [htr]; rfl)
  refine ⟨wholeBytes (s.resultSize c u) ((s.results c u).filterMap fun r => (s.core c).place c (u.op 4) r.1.1 r.1.2), ?_⟩
  unfold State.finishCompute
  dsimp only
  rw [if_neg (by rw [h]; decide), s.foldl_scan_clean _ _ hsoft, if_neg (by rw [hp]; decide), hfrozen, htag, if_neg (by decide), if_neg (by decide),
    hrec]
  exact congrArg (fun z : State => (z.coverClear _ _).retire c u none) (s.foldl_results c u (s.resultSize c u))

end full

variable (hi : u.state = .issued)
include hu hi

/-- TASK_COMPLETE of a task of a region-addressed engine. -/
theorem exec_taskComplete_engine (hvec : u.cmd.cls ≠ .vec) (hcpy : u.cmd.cls ≠ .cpy) :
    exec (.taskComplete c u.seq) s = .next (s.finishCompute c u) := by
  show execTaskComplete c u.seq s = _
  unfold execTaskComplete
  rw [hu]
  dsimp only
  rw [if_neg (by rw [hi]; decide)]
  rcases Cmd.engine_cases hvec hcpy with ⟨fa, fb, hm⟩ | ⟨f, clr, hm⟩ | hm | hm | ⟨f, p, hm⟩ <;> rw [hm]

theorem taskComplete_empty (hvec : u.cmd.cls ≠ .vec) (hcpy : u.cmd.cls ≠ .cpy) (h : u.ops.any (s.core c).opEmpty = true) :
    RunsTo (.taskComplete c u.seq) s (Ended s · c u 0) :=
  ⟨_, exec_taskComplete_engine s hu hi hvec hcpy, s.finishCompute_empty h ▸ s.retire_ended (State.core_lt_of_task hu) u none⟩

theorem taskComplete_poison (hvec : u.cmd.cls ≠ .vec) (hcpy : u.cmd.cls ≠ .cpy) (h : u.ops.any (s.core c).opEmpty = false)
    (hsoft : s.softErrors = []) (hp : u.readOps.any (s.opPoisoned c) = true) :
    RunsTo (.taskComplete c u.seq) s (Ended s · c u (-(Cause.poison : Int))) :=
  ⟨_, exec_taskComplete_engine s hu hi hvec hcpy, s.finishCompute_poison h hsoft hp ▸ s.failTask_ended (State.core_lt_of_task hu) u Cause.poison⟩

/-- A completed task has every result in its place, and no other half byte has changed. -/
theorem taskComplete_results (hvec : u.cmd.cls ≠ .vec) (hcpy : u.cmd.cls ≠ .cpy) (h : u.ops.any (s.core c).opEmpty = false)
    (hsoft : s.softErrors = []) (hm : s.memOk) (htr : trClass (s.strand c u.ring).sys.trctl 7 = false)
    (he : s.resultSize c u ∈ [1, 2, 4, 8]) (hfree : PlacesFree s c u) (hp : u.readOps.any (s.opPoisoned c) = false) :
    RunsTo (.taskComplete c u.seq) s fun t => Ended s t c u 0 ∧
      (∀ r ∈ s.results c u, ∀ p : Nat × Nat, (s.core c).place c (u.op 4) r.1.1 r.1.2 = some p →
        ∀ h, h < s.resultSize c u → t.half (2 * p.1 + p.2 + h) = r.2.bits / 16 ^ h % 16) ∧
      (∀ j, (∀ r ∈ s.results c u, ∀ p : Nat × Nat, (s.core c).place c (u.op 4) r.1.1 r.1.2 = some p →
        j < 2 * p.1 + p.2 ∨ 2 * p.1 + p.2 + s.resultSize c u ≤ j) → t.half j = s.half j) := by
  obtain ⟨ks, hres⟩ := s.finishCompute_results h hsoft hp htr hfree
  refine ⟨_, exec_taskComplete_engine s hu hi hvec hcpy, ?_⟩
  rw [hres]
  have hcores := ((s.writeElems_onlyMem (s.resultSize c u) (s.resultWrites c u)).trans
    (State.coverClear_onlyMem _ ks (elemBytes (s.resultSize c u)))).cores
  refine ⟨.of_cores hcores (State.retire_ended _ (State.core_lt_of_task hu) u none), fun r hr p hp h hh => ?_, fun j hj => ?_⟩
  · rw [State.half_retire, State.half_coverClear]
    exact s.half_results_mem c u hm he hfree hr hp hh
  · rw [State.half_retire, State.half_coverClear]
    exact s.half_results_other c u hm he hfree hj

section report
variable {g : BitVec 16} (hg : u.cmd = .rstat g)
include hg

theorem exec_taskComplete_rstat : exec (.taskComplete c u.seq) s = .next (s.takeReport c u g) := by
  show execTaskComplete c u.seq s = _
  unfold execTaskComplete
  rw [hu]
  dsimp only
  rw [if_neg (by rw [hi]; decide), hg]

theorem taskComplete_estale (h : (s.core c).reportOf u g = none) :
    RunsTo (.taskComplete c u.seq) s (Ended s · c u (-(Cause.estale : Int))) := by
  refine ⟨_, exec_taskComplete_rstat s hu hi hg, ?_⟩
  unfold State.takeReport
  rw [h]
  exact s.failTask_ended (State.core_lt_of_task hu) u Cause.estale

omit hu hi hg in
/-- A retirement leaves the reports of its core. -/
theorem State.retire_reports (hc : c < 260) (u : Task) (failed : Option Nat) :
    ((s.retire c u failed).core c).reports = (s.core c).reports := by
  obtain ⟨-, -, -, hx⟩ := s.retireCore_window c u failed
  rw [s.retire_core c u failed hc]
  exact hx.reports

/-- A TASK.RSTAT ends with the status of its report, and frees the report's entry. -/
theorem taskComplete_report {r : Report} {v : Int} (h : (s.core c).reportOf u g = some r) (hr : r.status = some v) (hv : v ≤ 0) :
    RunsTo (.taskComplete c u.seq) s fun t => Ended s t c u v ∧ ∀ r ∈ (t.core c).reports, r.tag ≠ g := by
  have hc := State.core_lt_of_task hu
  let s' := s.modCore c fun x => x.freeReport g
  have hself : s'.core c = (s.core c).freeReport g := s.core_setCore_self c _ hc
  have hfreed : ∀ r ∈ (s'.core c).reports, r.tag ≠ g := fun r hr => by
    rw [hself] at hr
    simpa using (List.mem_filter.1 hr).2
  have hend {t : State} (e : Ended s' t c u v) : Ended s t c u v :=
    .of_change (s' := s') (u' := u) (fun w hw _ => by rw [hself]; exact hw) (by rw [hself]; rfl) (fun d hd => s.core_setCore_ne c d _ hd) ⟨rfl, rfl, rfl⟩ e
  have htake : s.takeReport c u g = if v < 0 then s'.failTask c u v.natAbs else s'.retire c u none := by
    obtain ⟨tag, by_, st⟩ := r
    unfold State.takeReport
    rw [h, show st = some v from hr]
  refine ⟨_, exec_taskComplete_rstat s hu hi hg, ?_⟩
  rw [htake]
  split
  · have hcores : (s'.failCopySide u v.natAbs).cores = s'.cores := s'.failCopySide_cores u v.natAbs
    have hfail := s'.failTask_ended hc u v.natAbs
    rw [show -(v.natAbs : Int) = v by omega] at hfail
    refine ⟨hend hfail, ?_⟩
    have hreports : ((s'.failTask c u v.natAbs).core c).reports = (s'.core c).reports := by
      refine ((s'.failCopySide u v.natAbs).retire_reports hc u (some v.natAbs)).trans ?_
      unfold State.core
      rw [hcores]
    rw [hreports]
    exact hfreed
  · have hret := s'.retire_ended hc u none
    rw [show statusInt none = v from show (0 : Int) = v by omega] at hret
    refine ⟨hend hret, ?_⟩
    rw [s'.retire_reports hc u none]
    exact hfreed

end report

end complete

end Sys2Proof.Machine
end

section
/-!
CERTIFICATE. The life of a task from its entry to its completion (R34 to R40, R66, R73, R143, R221 to R231, R244).
-/
namespace Sys2Proof.Machine

theorem windowGrant_turn (s : State) (c : Nat) {n : Nat} (hn : n < 5) (hg : (s.core c).granted = []) (hw : (s.core c).window.length < 128)
    (he : (s.core c).eligible (((s.core c).lastGrant + 1 + n) % 5) = true)
    (hm : ∀ m < n, (s.core c).eligible (((s.core c).lastGrant + 1 + m) % 5) = false) :
    Runs (.windowGrant c) s (s.setCore c { s.core c with
      granted := [(((s.core c).lastGrant + 1 + n) % 5, (s.core c).lastRetired)], lastGrant := ((s.core c).lastGrant + 1 + n) % 5 }) := by
  show execWindowGrant c s = _
  unfold execWindowGrant State.modCore
  dsimp only
  rw [(s.core c).grantNext_turn _ hn hg hw he hm]

/-- Settles O47, by the cases of a task's life: what grants an entry, what ends or readies it in POSTED, what an instance does with it at
issue, and how it completes. -/
theorem tasksAndEngines : Obligations.TasksAndEngines := by
  unfold Obligations.TasksAndEngines
  refine ⟨fun s c q => ?_, fun s c n cls u => ?_⟩
  · refine ⟨fun n hn hg hw he hm => windowGrant_turn s c hn hg hw he hm, fun u hu => ⟨fun hp hd => ⟨fun e he => taskReady_fails s hu hp hd he,
      fun hs hb hr => taskReady_estale s hu hp hd hs hb hr, fun hs hb hr hg => taskReady_readies s hu hp hd hs hb hr hg⟩,
      fun hr ha hc => taskAging_rises s hu hr ha hc, fun hp h => producerFailed_fails s hu hp h, fun m ho hl hm => stampStaleLimit_fails s hu ho hl hm⟩⟩
  · refine ⟨fun hn hch hw => ⟨fun e he => taskIssue_fails s hn hch hw he, fun hok => ⟨fun hcpy hvec => taskIssue_compute s hn hch hw hok hcpy hvec,
      fun g hg => taskIssue_rstat s hn hch hw hok hg, fun ent arg hm => taskIssue_vrun s hn hch hw hok hm⟩⟩, fun hu hi => ⟨?_, ?_, ?_, ?_⟩, ?_⟩
    · exact fun hvec hcpy h => taskComplete_empty s hu hi hvec hcpy h
    · exact fun hvec hcpy h hsoft hm htr he hfree => ⟨fun hp => taskComplete_poison s hu hi hvec hcpy h hsoft hp,
        fun hp => taskComplete_results s hu hi hvec hcpy h hsoft hm htr he hfree hp⟩
    · exact fun g r v hg h hr hv => taskComplete_report s hu hi hg h hr hv
    · exact fun g hg h => taskComplete_estale s hu hi hg h
    · exact fun fa fb i j _ hint hk => s.mmElem_int c u fb i j hint hk

end Sys2Proof.Machine
end

section
/-!
SUPPORT. What the steps of a partition stop (R427, Table 25.10) leave as it is: the partition records, and the canonical form of memory.
-/
namespace Sys2Proof.Machine

/-- From s to t the partition records stay, and so does the canonical form of memory. -/
structure State.Steady (s t : State) : Prop where
  parts : t.parts = s.parts
  memOk : s.memOk → t.memOk

theorem State.Steady.refl (s : State) : s.Steady s := ⟨rfl, id⟩

theorem State.Steady.trans {s t u : State} (h : s.Steady t) (g : t.Steady u) : s.Steady u :=
  ⟨g.parts.trans h.parts, fun m => g.memOk (h.memOk m)⟩

/-- A change of neither. -/
theorem State.Steady.of_eq {s t : State} (hp : t.parts = s.parts) (hm : t.mem = s.mem) : s.Steady t := ⟨hp, State.memOk_of_mem hm⟩

theorem State.Steady.outbox {s t : State} (h : s.Steady t) (o : List OutMsg) : s.Steady { t with outbox := o } := ⟨h.parts, fun m => h.memOk m⟩

theorem State.Steady.foldl {α : Type} (f : State → α → State) (hf : ∀ (s : State) a, s.Steady (f s a)) (as : List α) (s : State) :
    s.Steady (as.foldl f s) := by
  induction as generalizing s with
  | nil => exact .refl s
  | cons a as ih => exact (hf s a).trans (ih _)

theorem State.onlyMem.parts {s t : State} (h : s.onlyMem t) : t.parts = s.parts := by rw [show t = _ from h]

theorem State.onlyMem.steady {s t : State} (h : s.onlyMem t) (hm : s.memOk → t.memOk) : s.Steady t := ⟨h.parts, hm⟩

section ops
variable (s : State)

/-! ## Memory -/

theorem State.modCore_steady (c : Nat) (f : Core → Core) : s.Steady (s.modCore c f) := .of_eq (s.modCore_parts c f) (s.setCore_mem c _)

theorem State.modStrand_steady (c k : Nat) (f : Strand → Strand) : s.Steady (s.modStrand c k f) := s.modCore_steady c _

theorem State.modLate_steady (f : Late → Late) : s.Steady (s.modLate f) := by
  obtain ⟨l, h⟩ := s.modLate_only f
  rw [h]
  exact .of_eq rfl rfl

theorem State.settleFor_steady (by_ : Writer) (die k n : Nat) : s.Steady (s.settleFor by_ die k n) := by
  obtain ⟨l, h⟩ := s.settleFor_only by_ die k n
  rw [h]
  exact .of_eq rfl rfl

theorem State.unitNat_steady (k n v : Nat) : s.Steady (s.unitNat k n v) :=
  (s.unitWrite_onlyMem k (leBytes n v)).steady (State.memOk_unitWrite k _)

theorem State.lateBytes_steady (by_ : Writer) (die : Nat) (clock : List Nat) (k : Nat) (bs : List Byte) : s.Steady (s.lateBytes by_ die clock k bs) :=
  (s.lateBytes_onlyMem by_ die clock k bs).steady (State.memOk_lateBytes by_ die clock k bs)

theorem State.tbFail_steady (k c : Nat) : s.Steady (s.tbFail k c) :=
  (s.tbFail_onlyMem k c).steady fun h => State.memOk_putTb k (tbFailBits (s.tb k) c) h

theorem State.detect_steady (k n : Nat) : s.Steady (s.detect k n) := by
  unfold State.detect
  dsimp only
  split
  · exact .refl s
  · exact .of_eq rfl rfl

theorem State.zeroRange_steady (k n : Nat) : s.Steady (s.zeroRange k n) := by
  refine ⟨?_, State.memOk_zeroRange k n⟩
  obtain ⟨l, h⟩ := s.settleOver_only k n
  unfold State.zeroRange
  rw [h]

theorem State.setQueues_steady (no st : Nat) : s.Steady (s.setQueues no st) := by
  have hput (s : State) (q : Queue) : s.Steady (s.putQueueEntry q.no { q.entry with state := st }) := s.unitNat_steady _ _ _
  unfold State.setQueues
  refine .trans ?_ (.foldl _ hput _ _)
  exact .of_eq rfl rfl

/-! ## Stores that are performed -/

theorem State.raiseFlags_steady (c k : Nat) (f : Flags) : s.Steady (s.raiseFlags c k f) := s.modStrand_steady c k _

theorem State.strandWrites_steady (c k key : Nat) (clock : List Nat) (bs : List Byte) : s.Steady (s.strandWrites c k key clock bs) := by
  unfold State.strandWrites
  dsimp only
  split
  · exact s.lateBytes_steady _ _ _ _ _
  · exact (s.lateBytes_steady _ _ _ _ _).trans (State.modStrand_steady _ c k _)

theorem State.noteRead_steady (c k key n : Nat) : s.Steady (s.noteRead c k key n) := by
  unfold State.noteRead
  split
  · exact .refl s
  · exact s.modStrand_steady c k _

theorem State.dropLine_steady (c key : Nat) : s.Steady (s.dropLine c key) := (s.modCore_steady c _).trans (State.modLate_steady _ _)

theorem State.atomicAt_steady (c k key size code : Nat) (x e : Word) (clock : List Nat) : s.Steady (s.atomicAt c k key size code x e clock).2 := by
  have hread : s.Steady (((s.dropLine c key).settleFor (.scl c) (dieOf c) key size).noteRead c k key size) :=
    (s.dropLine_steady c key).trans ((State.settleFor_steady _ _ _ _ _).trans (State.noteRead_steady _ c k key size))
  unfold State.atomicAt
  dsimp only
  split
  · exact hread.trans ((State.strandWrites_steady _ c k key clock _).trans (State.raiseFlags_steady _ c k _))
  · exact hread.trans (State.raiseFlags_steady _ c k _)

theorem State.performBuffered_steady (c k idx : Nat) (b : Buffered) (key : Nat) : s.Steady (s.performBuffered c k idx b key) := by
  have hseen : s.Steady ((s.dropStore c k idx).detect key b.acc.size) := (s.modStrand_steady c k _).trans (State.detect_steady _ _ _)
  unfold State.performBuffered
  dsimp only
  split
  · exact hseen.trans (State.modStrand_steady _ c k _)
  · split
    · exact hseen
    · exact hseen.trans (State.strandWrites_steady _ c k key _ _)
    · split
      · exact hseen.trans (State.modStrand_steady _ c k _)
      · exact hseen.trans ((State.atomicAt_steady _ c k key _ _ _ _ _).trans (State.modStrand_steady _ c k _))

theorem State.settle_steady (c k : Nat) : s.Steady (s.settle c k) := by
  unfold State.settle
  refine .foldl _ (fun s _ => ?_) _ s
  split
  · exact s.performBuffered_steady c k _ _ _
  · exact .refl s

/-! ## Tasks, posts and slots that fail -/

theorem State.failTask_steady (c : Nat) (t : Task) (cause : Nat) : s.Steady (s.failTask c t cause) := by
  have hside : s.Steady (s.failCopySide t cause) := by
    unfold State.failCopySide
    split
    · split
      · exact .of_eq rfl rfl
      · exact .refl s
    · split
      · split
        · exact s.tbFail_steady _ _
        · exact .refl s
      · exact .refl s
  obtain ⟨cs, l, o, h⟩ := (s.failCopySide t cause).retire_only c t (some cause)
  refine hside.trans ?_
  unfold State.failTask
  rw [h]
  exact .of_eq rfl rfl

theorem State.failTasks_steady (c cause : Nat) (p : Task → Bool) : s.Steady (s.failTasks c cause p) := by
  unfold State.failTasks
  refine .foldl _ (fun s t => ?_) _ s
  split
  · exact s.failTask_steady c _ cause
  · exact .refl s

theorem State.stopPosts_steady (x : Core) : s.Steady (s.stopPosts x) := by
  have hreport (s : State) (r : RemotePost) : s.Steady (s.sendReport r.who r.tag (some Cause.partStopped)) := by
    obtain ⟨o, h⟩ := s.sendReport_outbox (some Cause.partStopped) r.who r.tag
    rw [h]
    exact .of_eq rfl rfl
  unfold State.stopPosts
  exact .foldl _ hreport _ s

theorem State.failSlot_steady (c z i cause : Nat) : s.Steady (s.failSlot c z i cause) := by
  have hslot (s : State) (f : Slot → Slot) : s.Steady (s.modSlot c z i f) := by
    unfold State.modSlot State.modZone
    exact s.modCore_steady c _
  unfold State.failSlot
  dsimp only
  split
  · exact .refl s
  · exact (s.tbFail_steady _ _).trans (hslot _ _)

theorem State.replyCopy_steady (who : Nat) (q : BitVec 32) (code : Nat) : s.Steady (s.replyCopy who q code) := by
  unfold State.replyCopy
  split
  · exact s.modCore_steady _ _
  · exact .of_eq rfl rfl

theorem State.stopSlot_steady (c z i : Nat) (resv : Word) : s.Steady (s.stopSlot c z i resv) := by
  unfold State.stopSlot
  dsimp only
  refine (s.failSlot_steady c z i Cause.partStopped).trans ?_
  split
  · exact .foldl _ (fun s t => s.replyCopy_steady _ _ _) _ _
  · exact .of_eq rfl rfl

/-! ## Packets, launches and faults that end -/

theorem State.sendWrites_steady (c : Nat) (user : ReqUser) (own : List (Nat × Byte)) (cells : List (Dest × List Byte)) :
    s.Steady (s.sendWrites c user own cells) := by
  have hline (s : State) (y : Dest × List Byte) : s.Steady (s.dropRemoteLine (dieOf c) (destKey y.1) y.2.length) := .of_eq rfl rfl
  have hask (s : State) (d : Dest) : s.Steady (s.awaitReq c 0 .copyWrite d (unitAcc 0 8) false user own).1 := .of_eq rfl rfl
  unfold State.sendWrites
  refine .foldl _ (fun s u => ?_) _ s
  dsimp only
  split
  · exact .refl s
  · rename_i x _ _
    exact .outbox ((hask s x.1).trans (.foldl _ hline _ _)) _

theorem State.recordPacket_steady (q : Queue) (i : Nat) (k : Packet) (v : Int) : s.Steady (s.recordPacket q i k v) := by
  have hgone : s.Steady { s with packets := s.packets.eraseIdx i } := .of_eq rfl rfl
  unfold State.recordPacket
  dsimp only
  split
  · split
    · exact hgone.trans (State.unitNat_steady _ _ _ _)
    · exact hgone.trans (State.lateBytes_steady _ _ _ _ _ _)
    · have hmod (f : Packet → Packet) : s.Steady (s.modPacket i f) := .of_eq rfl rfl
      unfold State.putCompletion
      split
      · exact (hmod _).trans (State.lateBytes_steady _ _ _ _ _ _)
      · exact (hmod _).trans (State.sendWrites_steady _ _ _ _ _)
  · split
    · exact hgone.trans ((State.unitNat_steady _ _ _ _).trans ((State.unitNat_steady _ _ _ _).trans (State.unitNat_steady _ _ _ _)))
    · exact hgone

theorem State.stopLaunches_steady (no : Nat) : s.Steady (s.stopLaunches no) := by
  unfold State.stopLaunches
  refine .foldl _ (fun s l => ?_) _ s
  dsimp only
  split
  · exact .of_eq rfl rfl
  · exact .of_eq rfl rfl

theorem State.stopPackets_steady (no : Nat) : s.Steady (s.stopPackets no) := by
  unfold State.stopPackets
  dsimp only
  refine .trans (.foldl _ (fun s k => ?_) _ s) (State.stopLaunches_steady _ no)
  split
  · exact s.recordPacket_steady _ _ _ _
  · exact .refl s

theorem State.writeReport_steady (p : Partition) (items : List Nat) : s.Steady (s.writeReport p items) := by
  unfold State.writeReport
  exact .trans (.foldl _ (fun s e => s.unitNat_steady _ _ _) _ s) (State.unitNat_steady _ _ _ _)

theorem State.respond_steady (n addr cause : Nat) (payload : List Byte) : s.Steady (s.respond n addr cause payload) := by
  have hsend (h : BitVec 256) : s.Steady (s.sendEqt n h payload) := by
    unfold State.sendEqt
    split
    · exact .refl s
    · dsimp only
      split
      · exact .of_eq rfl rfl
      · exact .of_eq rfl rfl
  have hack (s : State) : s.Steady (s.sendAck n) := by
    unfold State.sendAck
    split
    · exact .refl s
    · exact .of_eq rfl rfl
  have hmod (s : State) (f : Conn → Conn) : s.Steady (s.modConn n f) := .of_eq rfl rfl
  have hdel (s : State) : s.Steady (s.delivered n) := by
    unfold State.delivered
    split
    · exact .refl s
    · dsimp only
      split
      · exact (hmod s _).trans (hack _)
      · exact hmod s _
  exact (hsend _).trans (hdel _)

theorem State.refuseIn_steady (r : RemoteReq) : s.Steady (s.refuseIn r) := by
  have hpast (strand : Nat) (q : BitVec 32) (flush : Bool) : s.Steady (s.streamPast r strand q flush) := by
    unfold State.streamPast
    dsimp only
    split
    · exact .of_eq rfl rfl
    · exact .of_eq rfl rfl
  unfold State.refuseIn State.answer
  dsimp only
  refine .outbox ?_ _
  split
  · split
    · exact hpast _ _ _
    · exact .refl s
  · exact .refl s

theorem State.stopFault_steady (f : OpenFault) : s.Steady (s.stopFault f) := by
  unfold State.stopFault
  dsimp only
  refine .trans (t := { s with faults := s.faults.erase f }) (.of_eq rfl rfl) ?_
  split
  · split
    · split
      · exact State.respond_steady _ _ _ _ _
      · exact .refl _
    · exact .refl _
  · exact State.refuseIn_steady _ _
  · exact .refl _

/-! ## Reset -/

theorem State.resetCore_steady (c : Nat) : s.Steady (s.resetCore c) := by
  have hkill (s : State) (k : Nat) : s.Steady (s.tbKill k) := .of_eq rfl rfl
  have hzero : s.Steady (s.zeroPads c) := by
    unfold State.zeroPads
    dsimp only
    exact .trans (.foldl _ hkill _ s) ((State.zeroRange_steady _ _ _).trans ((State.zeroRange_steady _ _ _).trans (State.modCore_steady _ c _)))
  unfold State.resetCore
  dsimp only
  exact hzero.trans ((State.modCore_steady _ c _).trans (.of_eq rfl rfl))

theorem State.configureBars_steady (p : Partition) : s.Steady (s.configureBars p) := by
  have hone (s : State) (scope inst id e : Nat) : s.Steady (s.setBar ⟨scope, inst, id, e, 0, 0, none, ⟨0, 0, 0, 0, 0⟩, [], []⟩) := .of_eq rfl rfl
  unfold State.configureBars
  dsimp only
  refine .trans (.foldl _ (fun s c => .foldl _ (fun s id => hone s _ _ _ _) _ s) _ s) (.foldl _ (fun s scope => ?_) _ _)
  exact .foldl _ (fun s inst => .foldl _ (fun s id => hone s _ _ _ _) _ s) _ s

theorem State.openIntakes_steady (p : Partition) : s.Steady (s.openIntakes p) := by
  unfold State.openIntakes
  exact .foldl _ (fun s i => s.modCore_steady _ _) _ s

end ops

end Sys2Proof.Machine
end

section
/-!
SUPPORT. A partition after its stop (R427, R428, Table 25.10): its cores reset and empty, its queues STALLED, its record without a request.
-/
namespace Sys2Proof.Machine

/-! ## Folds over the state -/

/-- What no step changes a fold does not change. -/
theorem foldl_keeps {α β : Type} (v : State → β) (f : State → α → State) (h : ∀ s a, v (f s a) = v s) (as : List α) (s : State) :
    v (as.foldl f s) = v s := by
  induction as generalizing s with
  | nil => rfl
  | cons a as ih => exact (ih _).trans (h s a)

theorem foldl_holds {α : Type} (P : State → Prop) (f : State → α → State) (h : ∀ s a, P s → P (f s a)) (as : List α) {s : State} (hs : P s) :
    P (as.foldl f s) := by
  induction as generalizing s with
  | nil => exact hs
  | cons a as ih => exact ih (h s a hs)

/-- What each step brings about for its own item, and keeps for the others, holds of every item after a fold. -/
theorem foldl_brings {α : Type} (P : α → State → Prop) (f : State → α → State) (hself : ∀ s a, P a (f s a)) (hkeep : ∀ s a b, P a s → P a (f s b))
    {as : List α} {a : α} (ha : a ∈ as) (s : State) : P a (as.foldl f s) := by
  induction as generalizing s with
  | nil => exact absurd ha List.not_mem_nil
  | cons b bs ih =>
    rcases List.mem_cons.1 ha with rfl | ha
    · exact foldl_holds (P a) f (fun s c hs => hkeep s a c hs) bs (hself s a)
    · exact ih ha _

/-! ## A core after its reset -/

/-- A core of a partition with an empty window and strands IDLE. -/
structure Core.EmptyIn (x : Core) (no : Nat) : Prop where
  window : x.window = []
  partno : x.partno = no
  idle : ∀ k, k < 4 → (x.strand k).state = .idle

section reset
variable (s : State) {no : Nat}

theorem State.wakeStrand_state (key : Nat) (t : Strand) : (s.wakeStrand key t).state = t.state := by
  unfold State.wakeStrand
  split
  · split <;> rfl
  · rfl

/-- Killing an object wakes what waits for it, and an empty core stays empty. -/
theorem State.tbKill_emptyIn (key d : Nat) (h : (s.core d).EmptyIn no) : ((s.tbKill key).core d).EmptyIn no := by
  by_cases hd : d < 260
  · have hcore : (s.tbKill key).core d = { s.core d with
        strands := (s.core d).strands.map fun t => s.wakeStrand key t, window := (s.core d).window.map fun t => s.wakeTask key t } := by
      unfold State.tbKill State.tbWake State.core
      simp only [dif_pos hd, Vector.getElem_map]
    rw [hcore]
    refine ⟨by rw [h.window]; rfl, h.partno, fun k hk => ?_⟩
    have hidle := h.idle k hk
    unfold Core.strand at hidle ⊢
    rw [dif_pos hk] at hidle ⊢
    rw [Vector.getElem_map, State.wakeStrand_state, hidle]
  · have hcore : (s.tbKill key).core d = s.core d := by
      unfold State.core
      rw [dif_neg hd, dif_neg hd]
    rw [hcore]
    exact h

theorem State.zeroRange_cores (k n : Nat) : (s.zeroRange k n).cores = s.cores := by
  obtain ⟨l, h⟩ := s.settleOver_only k n
  unfold State.zeroRange
  rw [h]

theorem State.core_of_cores {s t : State} (h : t.cores = s.cores) (d : Nat) : t.core d = s.core d := by unfold State.core; rw [h]

theorem State.zeroPads_emptyIn {c d : Nat} (hd : d ≠ c) (h : (s.core d).EmptyIn no) : ((s.zeroPads c).core d).EmptyIn no := by
  unfold State.zeroPads
  dsimp only
  rw [show ∀ (z : State) (f : Core → Core), (z.modCore c f).core d = z.core d from fun z f => z.core_setCore_ne c d _ hd,
    State.core_of_cores ((State.zeroRange_cores _ _ _).trans (State.zeroRange_cores _ _ _))]
  exact foldl_holds (fun z => (z.core d).EmptyIn no) State.tbKill (fun z k hz => z.tbKill_emptyIn k d hz) _ h

theorem Core.afterReset_idle (x : Core) {k : Nat} (hk : k < 4) : (x.afterReset.strand k).state = .idle := by
  unfold Core.strand Core.afterReset
  rw [dif_pos hk, Vector.getElem_map]
  rfl

/-- A core is reset and stays in its partition. -/
def State.resetIn (no : Nat) (c : Nat) : State := (s.resetCore c).modCore c fun x => { x with partno := no }

theorem State.resetIn_self {c : Nat} (hc : c < 260) : ((s.resetIn no c).core c).EmptyIn no := by
  have hreset : (s.resetCore c).core c = ((s.zeroPads c).core c).afterReset := (s.zeroPads c).core_setCore_self c _ hc
  have hself : (s.resetIn no c).core c = { ((s.zeroPads c).core c).afterReset with partno := no } :=
    ((s.resetCore c).core_setCore_self c _ hc).trans (by rw [hreset])
  rw [hself]
  exact ⟨rfl, rfl, fun k hk => ((s.zeroPads c).core c).afterReset_idle hk⟩

theorem State.resetIn_keeps {c d : Nat} (hd : d ≠ c) (h : (s.core d).EmptyIn no) : ((s.resetIn no c).core d).EmptyIn no := by
  have hcore : (s.resetIn no c).core d = (s.zeroPads c).core d :=
    ((s.resetCore c).core_setCore_ne c d _ hd).trans ((s.zeroPads c).core_setCore_ne c d _ hd)
  rw [hcore]
  exact s.zeroPads_emptyIn hd h

/-- After the reset of a list of cores each of them is empty. -/
theorem State.foldl_resetIn {cs : List Nat} {c : Nat} (hc : c ∈ cs) (hlt : c < 260) :
    ((cs.foldl (fun s c => s.resetIn no c) s).core c).EmptyIn no := by
  have hbrings := foldl_brings (fun c z => c < 260 → (z.core c).EmptyIn no) (fun s c => s.resetIn no c) (fun s c hc => s.resetIn_self hc)
    (fun s a b h ha => if hab : a = b then hab ▸ s.resetIn_self ha else s.resetIn_keeps hab (h ha)) hc s
  exact hbrings hlt

theorem State.resetIn_steady (c : Nat) : s.Steady (s.resetIn no c) := (s.resetCore_steady c).trans (State.modCore_steady _ c _)

/-! ## Barriers, intakes and queues -/

theorem State.configureBars_cores (p : Partition) : (s.configureBars p).cores = s.cores := by
  have hone (s : State) (b : Bar) : (s.setBar b).cores = s.cores := rfl
  unfold State.configureBars
  dsimp only
  refine (foldl_keeps State.cores _ (fun s scope => ?_) _ _).trans (foldl_keeps State.cores _ (fun s c => ?_) _ s)
  · exact foldl_keeps State.cores _ (fun s inst => foldl_keeps State.cores _ (fun s id => hone s _) _ s) _ s
  · exact foldl_keeps State.cores _ (fun s id => hone s _) _ s

theorem State.openIntakes_emptyIn (p : Partition) {d : Nat} (h : (s.core d).EmptyIn no) : ((s.openIntakes p).core d).EmptyIn no := by
  have hintake (x : Core) (n : Nat) (f : Intake → Intake) (hx : x.EmptyIn no) : (x.modIntake n f).EmptyIn no := by
    unfold Core.modIntake
    split
    · exact ⟨hx.window, hx.partno, hx.idle⟩
    · exact hx
  unfold State.openIntakes
  refine foldl_holds (fun z => (z.core d).EmptyIn no) _ (fun z i hz => ?_) _ h
  by_cases hd : d = i.1
  · by_cases hlt : i.1 < 260
    · rw [hd, show ∀ f : Core → Core, (z.modCore i.1 f).core i.1 = f (z.core i.1) from fun f => z.core_setCore_self i.1 _ hlt]
      exact hintake _ _ _ (hd ▸ hz)
    · rw [show ∀ f : Core → Core, z.modCore i.1 f = z from fun f => z.setCore_off _ _ hlt]
      exact hz
  · rw [show ∀ f : Core → Core, (z.modCore i.1 f).core d = z.core d from fun f => z.core_setCore_ne i.1 d _ hd]
    exact hz

theorem State.unitNat_cores (k n v : Nat) : (s.unitNat k n v).cores = s.cores := by rw [show s.unitNat k n v = _ from s.unitWrite_onlyMem k (leBytes n v)]

theorem State.unitNat_queues (k n v : Nat) : (s.unitNat k n v).queues = s.queues := by rw [show s.unitNat k n v = _ from s.unitWrite_onlyMem k (leBytes n v)]

theorem State.setQueues_cores (no st : Nat) : (s.setQueues no st).cores = s.cores := by
  have hput (s : State) (q : Queue) : (s.putQueueEntry q.no { q.entry with state := st }).cores = s.cores := s.unitNat_cores _ _ _
  unfold State.setQueues
  exact foldl_keeps State.cores _ hput _ _

/-- The queues of a partition stand in the state that they are set to. -/
theorem State.setQueues_state (no st : Nat) : ∀ q ∈ (s.setQueues no st).queues, q.entry.partno = no → q.entry.state = st := by
  have hput (s : State) (q : Queue) : (s.putQueueEntry q.no { q.entry with state := st }).queues = s.queues := s.unitNat_queues _ _ _
  unfold State.setQueues
  rw [foldl_keeps State.queues _ hput]
  intro q hq hno
  obtain ⟨r, -, rfl⟩ := List.mem_map.1 hq
  split at hno
  · rw [if_pos ‹_›]
  · exact absurd hno ‹_›

end reset

/-! ## The record of a partition -/

theorem State.part_no {s : State} {no : Nat} {p : Partition} (h : s.part no = some p) : p.no = no := by simpa using List.find?_some h

theorem State.part_modPart (s : State) {no : Nat} {p : Partition} (f : Partition → Partition) (hf : ∀ q, (f q).no = q.no) (h : s.part no = some p) :
    (s.modPart no f).part no = some (f p) := by
  have hsame : ((fun q : Partition => q.no == no) ∘ fun q => if q.no = no then f q else q) = fun q => q.no == no := by
    funext q
    simp only [Function.comp]
    split
    · rw [hf]
    · rfl
  have hpno := State.part_no h
  unfold State.part State.modPart at *
  rw [List.find?_map, hsame, h]
  exact congrArg some (if_pos hpno)

/-- What a stop of partition p leaves: cores empty and IDLE, queues STALLED, and the record ACTIVE without a request. -/
structure Partition.StoppedIn (p : Partition) (t : State) : Prop where
  cores : ∀ c ∈ p.cores, c < 260 → (t.core c).EmptyIn p.no
  queues : ∀ q ∈ t.queues, q.entry.partno = p.no → q.entry.state = 2
  record : ∃ p' : Partition, t.part p.no = some p' ∧ p'.st = .active ∧ p'.cores = p.cores ∧ p'.preempt = none

/-- The stop of a partition up to its drained and reported cores (steps 1 to 6 of Table 25.10). -/
def State.reported (s : State) (p : Partition) : State :=
  let items := s.stopItems p
  let s := s.setQueues p.no 3
  let s := p.cores.foldl (fun s c => (List.range 4).foldl (fun s k =>
    (s.settle c k).modStrand c k fun t => { t with state := .stopped, reason := 0, obj := 0 }) s) s
  let s := p.cores.foldl (fun s c => s.failTasks c Cause.partStopped fun _ => true) s
  let s := p.cores.foldl (fun s c => s.stopPosts (s.core c)) s
  let s := p.cores.foldl (fun s c => (s.openSlots c).foldl (fun s o => s.stopSlot c o.1 o.2.1 o.2.2) s) s
  let s := (s.stopPackets p.no).writeReport p items
  (s.faults.filter (·.partno == p.no)).foldl State.stopFault s

section stop
variable (s : State) (p : Partition)

/-- The stop of a partition but for its record: its cores are reset, its barriers and intakes configured anew, its queues STALLED (step 7 of Table
25.10). -/
def State.stalled : State :=
  (((p.cores.foldl (fun s c => s.resetIn p.no c) (s.reported p)).configureBars p).openIntakes p).setQueues p.no 2

theorem State.stopPartition_eq : s.stopPartition p =
    (s.stalled p).modPart p.no fun p => { p with preempt := none, preemptHeld := false, haltReq := [] } := rfl

theorem State.reported_steady : s.Steady (s.reported p) := by
  have hhalt (s : State) (c k : Nat) : s.Steady ((s.settle c k).modStrand c k fun t => { t with state := .stopped, reason := 0, obj := 0 }) :=
    (s.settle_steady c k).trans (State.modStrand_steady _ c k _)
  unfold State.reported
  dsimp only
  refine .trans ?_ (.foldl _ (fun s f => s.stopFault_steady f) _ _)
  refine .trans ?_ (State.writeReport_steady _ p _)
  refine .trans ?_ (State.stopPackets_steady _ p.no)
  refine .trans ?_ (.foldl _ (fun s c => .foldl _ (fun s o => s.stopSlot_steady c _ _ _) _ s) _ _)
  refine .trans ?_ (.foldl _ (fun s c => s.stopPosts_steady _) _ _)
  refine .trans ?_ (.foldl _ (fun s c => s.failTasks_steady c _ _) _ _)
  refine .trans (s.setQueues_steady p.no 3) (.foldl _ (fun s c => .foldl _ (fun s k => hhalt s c k) _ s) _ _)

theorem State.stalled_steady : s.Steady (s.stalled p) := by
  have hreset := (s.reported_steady p).trans (.foldl _ (fun s c => s.resetIn_steady (no := p.no) c) p.cores _)
  exact (hreset.trans ((State.configureBars_steady _ p).trans (State.openIntakes_steady _ p))).trans (State.setQueues_steady _ p.no 2)

theorem State.stopPartition_memOk (h : s.memOk) : (s.stopPartition p).memOk := (s.stalled_steady p).memOk h

theorem State.stalled_emptyIn {c : Nat} (hc : c ∈ p.cores) (hlt : c < 260) : ((s.stalled p).core c).EmptyIn p.no := by
  have hreset := (s.reported p).foldl_resetIn (no := p.no) hc hlt
  rw [← State.core_of_cores (State.configureBars_cores _ p)] at hreset
  have hopen := State.openIntakes_emptyIn _ p hreset
  rwa [← State.core_of_cores (State.setQueues_cores _ p.no 2)] at hopen

theorem State.stopPartition_stopped {no : Nat} (h : s.part no = some p) (hst : p.st = .active) : p.StoppedIn (s.stopPartition p) := by
  obtain rfl := State.part_no h
  rw [s.stopPartition_eq]
  refine ⟨fun c hc hlt => s.stalled_emptyIn p hc hlt, State.setQueues_state _ p.no 2, ?_⟩
  refine ⟨_, State.part_modPart _ _ (fun _ => rfl) ?_, hst, rfl, rfl⟩
  unfold State.part
  rw [(s.stalled_steady p).parts]
  exact h

end stop

end Sys2Proof.Machine
end

section
/-!
SUPPORT. The fatal stop of a launch (R420, R421, Table 25.3): strands stop, and launches keep their names, homes and packages.
-/
namespace Sys2Proof.Machine

/-- y has the identity of launch x, its home, and the packages that hold strands of it. -/
structure Launch.Same (x y : Launch) : Prop where
  id : y.id = x.id
  home : y.home = x.home
  away : y.away = x.away

/-- From s to t strands keep their launches and at most stop, and launches stay the same. -/
structure State.WindsDown (s t : State) : Prop where
  launch : ∀ d k, (t.strand d k).launch = (s.strand d k).launch
  state : ∀ d k, (t.strand d k).state = (s.strand d k).state ∨ (t.strand d k).state = .stopped
  launches : ∃ g : Launch → Launch, (∀ x : Launch, x.Same (g x)) ∧ t.launches = s.launches.map g

theorem State.WindsDown.trans {s t u : State} (h : s.WindsDown t) (g : t.WindsDown u) : s.WindsDown u := by
  obtain ⟨a, ha, hta⟩ := h.launches
  obtain ⟨b, hb, htb⟩ := g.launches
  refine ⟨fun d k => (g.launch d k).trans (h.launch d k), fun d k => ?_, fun x => b (a x), fun x => ?_, by rw [htb, hta, List.map_map]; rfl⟩
  · rcases g.state d k with e | e
    · rw [e]; exact h.state d k
    · exact .inr e
  · exact ⟨(hb _).id.trans (ha x).id, (hb _).home.trans (ha x).home, (hb _).away.trans (ha x).away⟩

/-- A change of neither strands nor launches. -/
theorem State.WindsDown.of_strands {s t : State} (hs : ∀ d, (t.core d).strands = (s.core d).strands) (hl : t.launches = s.launches) :
    s.WindsDown t := by
  have hstrand (d k : Nat) : t.strand d k = s.strand d k := by unfold State.strand Core.strand; rw [hs]
  exact ⟨fun d k => by rw [hstrand], fun d k => .inl (by rw [hstrand]), id, fun x => ⟨rfl, rfl, rfl⟩, by rw [hl, List.map_id]⟩

theorem State.WindsDown.of_cores {s t : State} (hc : t.cores = s.cores) (hl : t.launches = s.launches) : s.WindsDown t :=
  .of_strands (fun d => by rw [State.core_of_cores hc]) hl

theorem State.WindsDown.refl (s : State) : s.WindsDown s := .of_cores rfl rfl

/-- A change of some launches that keeps what they are. -/
theorem State.WindsDown.of_launches (s : State) (g : Launch → Launch) (hg : ∀ x : Launch, x.Same (g x)) :
    s.WindsDown { s with launches := s.launches.map g } := ⟨fun _ _ => rfl, fun _ _ => .inl rfl, g, hg, rfl⟩

theorem State.WindsDown.foldl {α : Type} (f : State → α → State) (hf : ∀ (s : State) a, s.WindsDown (f s a)) (as : List α) (s : State) :
    s.WindsDown (as.foldl f s) := by
  induction as generalizing s with
  | nil => exact .refl s
  | cons a as ih => exact (hf s a).trans (ih _)

theorem State.onlyMem.windsDown {s t : State} (h : s.onlyMem t) : s.WindsDown t := .of_cores h.cores (by rw [show t = _ from h])

section ops
variable (s : State)

theorem State.strand_modStrand_cases (c k d j : Nat) (f : Strand → Strand) :
    (s.modStrand c k f).strand d j = s.strand d j ∨ (s.modStrand c k f).strand d j = f (s.strand d j) := by
  by_cases h : d = c ∧ j = k
  · obtain ⟨rfl, rfl⟩ := h
    by_cases hc : d < 260
    · by_cases hk : j < 4
      · exact .inr (s.strand_modStrand_self f hc hk)
      · have hoff : (s.core d).modStrand j f = s.core d := dif_neg hk
        refine .inl (congrArg (fun x : Core => x.strand j) ((s.core_setCore_self d _ hc).trans hoff))
    · exact .inl (congrArg (fun z : State => z.strand d j) (s.setCore_off _ _ hc))
  · exact .inl (s.strand_modStrand_ne f h)

/-- A change of a strand that keeps its launch, and its state unless it stops. -/
theorem State.modStrand_windsDown (c k : Nat) (f : Strand → Strand) (hl : ∀ y, (f y).launch = y.launch)
    (hs : ∀ y, (f y).state = y.state ∨ (f y).state = .stopped) : s.WindsDown (s.modStrand c k f) := by
  refine ⟨fun d j => ?_, fun d j => ?_, id, fun x => ⟨rfl, rfl, rfl⟩, by rw [List.map_id]; exact s.setCore_launches c _⟩
  · rcases s.strand_modStrand_cases c k d j f with h | h <;> rw [h]
    exact hl _
  · rcases s.strand_modStrand_cases c k d j f with h | h <;> rw [h]
    · exact .inl rfl
    · exact hs _

/-- A change of a core that keeps its strands. -/
theorem State.setCore_windsDown (c : Nat) (x : Core) (h : x.strands = (s.core c).strands) : s.WindsDown (s.setCore c x) := by
  refine .of_strands (fun d => ?_) (s.setCore_launches c x)
  by_cases hd : d = c
  · subst hd
    by_cases hc : d < 260
    · rw [s.core_setCore_self d x hc, h]
    · rw [s.setCore_off _ _ hc]
  · rw [s.core_setCore_ne c d x hd]

/-! ## Retirement and failure of tasks -/

theorem Strand.takeToken_state (y : Strand) (t : Task) (failed : Option Nat) (a : Arriver) :
    (y.takeToken t failed a).launch = y.launch ∧ (y.takeToken t failed a).state = y.state := by
  unfold Strand.takeToken Strand.setReg
  dsimp only
  split <;> exact ⟨rfl, rfl⟩

theorem State.writeToken_windsDown (c k : Nat) (t : Task) (failed : Option Nat) (a : Arriver) : s.WindsDown (s.writeToken c k t failed a) := by
  by_cases h : t.tok = 0
  · unfold State.writeToken
    rw [if_neg (fun hx => hx h)]
    split
    · exact .refl s
    · exact .of_launches s _ fun x => by split <;> exact ⟨rfl, rfl, rfl⟩
  · rw [s.writeToken_token c t failed k a h]
    exact s.modStrand_windsDown c k _ (fun y => (y.takeToken_state t failed a).1) fun y => .inl (y.takeToken_state t failed a).2

theorem State.retire_windsDown (c : Nat) (t : Task) (failed : Option Nat) : s.WindsDown (s.retire c t failed) := by
  obtain ⟨-, -, -, hx⟩ := s.retireCore_window c t failed
  have hretired : s.WindsDown (s.retired c t failed) :=
    (s.setCore_windsDown c _ hx.strands).trans (State.modStrand_windsDown _ c t.ring _ (fun _ => rfl) fun _ => .inl rfl)
  rw [s.retire_eq]
  refine hretired.trans ?_
  split
  · exact (State.writeToken_windsDown _ _ _ _ _ _).trans (State.modStrand_windsDown _ _ _ _ (fun _ => rfl) fun _ => .inl rfl)
  · obtain ⟨o, ho⟩ := (s.retired c t failed).sendReport_outbox failed ‹_› ‹_›
    rw [ho]
    exact .of_cores rfl rfl

theorem State.failTask_windsDown (c : Nat) (t : Task) (cause : Nat) : s.WindsDown (s.failTask c t cause) := by
  have hside : s.WindsDown (s.failCopySide t cause) := by
    refine .of_cores (s.failCopySide_cores t cause) ?_
    unfold State.failCopySide
    split
    · split <;> rfl
    · split
      · split
        · rw [show State.tbFail s _ cause = _ from s.tbFail_onlyMem _ cause]
        · rfl
      · rfl
  exact hside.trans (State.retire_windsDown _ c t _)

theorem State.failTasks_windsDown (c cause : Nat) (p : Task → Bool) : s.WindsDown (s.failTasks c cause p) := by
  unfold State.failTasks
  refine .foldl _ (fun s t => ?_) _ s
  split
  · exact s.failTask_windsDown c _ cause
  · exact .refl s

/-! ## The edges of stopped strands (step 4 of Table 25.3) -/

theorem State.failSlot_windsDown (c z i cause : Nat) : s.WindsDown (s.failSlot c z i cause) := by
  have hslot (s : State) (f : Slot → Slot) : s.WindsDown (s.modSlot c z i f) := by
    unfold State.modSlot State.modZone State.modCore
    refine s.setCore_windsDown c _ ?_
    unfold Core.modZone
    split <;> rfl
  unfold State.failSlot
  dsimp only
  split
  · exact .refl s
  · exact (s.tbFail_onlyMem _ _).windsDown.trans (hslot _ _)

theorem State.failNamedSlots_windsDown (c : Nat) (ids : List Nat) : s.WindsDown (s.failNamedSlots c ids) := by
  unfold State.failNamedSlots
  refine .foldl _ (fun s z => ?_) _ s
  dsimp only
  refine .foldl _ (fun s i => ?_) _ s
  split
  · exact s.failSlot_windsDown c z i _
  · exact .refl s

theorem State.failNamedBars_windsDown (c : Nat) (ids : List Nat) : s.WindsDown (s.failNamedBars c ids) := by
  unfold State.failNamedBars
  refine .foldl _ (fun s l => ?_) _ s
  dsimp only
  split
  · exact (s.tbFail_onlyMem _ _).windsDown
  · exact .refl s

theorem Core.failRegions_strands (x : Core) (g : Grid) : (x.failRegions g).strands = x.strands := by
  unfold Core.failRegions
  generalize g.fields = fs
  induction fs generalizing x with
  | nil => rfl
  | cons f fs ih =>
    rw [List.foldl_cons, ih]
    split <;> rfl

theorem State.failGrid_windsDown (c no code : Nat) : s.WindsDown (s.failGrid c no code) := by
  have hretest (x : Core) (f : Grid → Grid) : ((x.modGrid no f).retest).strands = x.strands := by
    unfold Core.retest Core.modGrid
    split <;> rfl
  have hcore : s.WindsDown (s.modCore c fun x =>
      ((x.failRegions ((s.core c).grid no)).modGrid no fun g => { g with st := .failed, code := code }).retest) :=
    s.setCore_windsDown c _ ((hretest _ _).trans (Core.failRegions_strands _ _))
  unfold State.failGrid
  dsimp only
  split
  · exact .refl s
  · refine hcore.trans ?_
    unfold State.noticeShips
    exact .of_cores rfl rfl

theorem State.failEdges_windsDown (p : Partition) (cs : List Nat) : s.WindsDown (s.failEdges p cs) := by
  have hbars : s.WindsDown (s.releaseBars p cs) := .of_cores rfl rfl
  unfold State.failEdges
  dsimp only
  refine (hbars.trans (.foldl _ (fun s c => ?_) _ _)).trans (.foldl _ (fun s c => .foldl _ (fun s g => s.failGrid_windsDown c g _) _ s) _ _)
  exact (s.failNamedSlots_windsDown c _).trans (State.failNamedBars_windsDown _ c _)

/-! ## The strands of the launch -/

theorem State.stopStrand_windsDown (c k cause : Nat) (val resume : Word) : s.WindsDown (s.stopStrand c k cause val resume) := by
  have hcore : s.WindsDown (s.modCore c fun x => { x.modStrand k (fun t =>
      { t with state := .stopped, reason := 0, obj := 0, stopCause := some (cause, val, resume), tr := { t.tr with debugStop := none } }) with
      frozen := true }) := by
    have hstop := s.modStrand_windsDown c k (fun t => { t with state := .stopped, reason := 0, obj := 0, stopCause := some (cause, val, resume),
                                                               tr := { t.tr with debugStop := none } }) (fun _ => rfl) fun _ => .inr rfl
    refine hstop.trans (.of_strands (fun d => ?_) (by rw [State.modCore_launches, State.modStrand_launches]))
    by_cases hd : d = c
    · subst hd
      by_cases hc : d < 260
      · rw [show ∀ f : Core → Core, (s.modCore d f).core d = f (s.core d) from fun f => s.core_setCore_self d _ hc,
          show ∀ f : Strand → Strand, (s.modStrand d k f).core d = (s.core d).modStrand k f from fun f => s.core_setCore_self d _ hc]
      · rw [show ∀ f : Core → Core, s.modCore d f = s from fun f => s.setCore_off _ _ hc,
          show ∀ f : Strand → Strand, s.modStrand d k f = s from fun f => s.setCore_off _ _ hc]
    · rw [show ∀ f : Core → Core, (s.modCore c f).core d = s.core d from fun f => s.core_setCore_ne c d _ hd,
        show ∀ f : Strand → Strand, (s.modStrand c k f).core d = s.core d from fun f => s.core_setCore_ne c d _ hd]
  unfold State.stopStrand
  dsimp only
  exact hcore.trans (.of_launches _ _ fun x => by split <;> exact ⟨rfl, rfl, rfl⟩)

theorem State.watchdogStop_windsDown (c k : Nat) : s.WindsDown (s.watchdogStop c k) := by
  unfold State.watchdogStop
  dsimp only
  split
  · exact .refl s
  · exact s.stopStrand_windsDown c k _ _ _

/-- A strand that stands STOPPED or IDLE. -/
def Strand.halted (y : Strand) : Prop := y.state = .stopped ∨ y.state = .idle

theorem State.WindsDown.halted {s t : State} (h : s.WindsDown t) {d k : Nat} (hd : (s.strand d k).halted) : (t.strand d k).halted := by
  rcases h.state d k with e | e
  · unfold Strand.halted
    rw [e]
    exact hd
  · exact .inl e

theorem State.watchdogStop_halted {c k : Nat} (hc : c < 260) (hk : k < 4) : ((s.watchdogStop c k).strand c k).halted := by
  unfold State.watchdogStop
  dsimp only
  split
  · rename_i h
    simp only [Bool.or_eq_true, beq_iff_eq] at h
    exact h.symm
  · refine .inl ?_
    unfold State.stopStrand State.strand
    dsimp only
    refine (congrArg (fun x : Core => (x.strand k).state) (s.core_setCore_self c _ hc)).trans ?_
    exact congrArg Strand.state (Core.strand_setStrand_self (s.core c) k _ hk)

/-- Strand k of core c, if it is of a launch, is halted. -/
def State.haltedIn (s : State) (id c k : Nat) : Prop := (s.strand c k).launch = some id → (s.strand c k).halted

theorem State.WindsDown.haltedIn {s t : State} (h : s.WindsDown t) {id c k : Nat} (hs : s.haltedIn id c k) : t.haltedIn id c k :=
  fun hl => h.halted (hs (h.launch c k ▸ hl))

/-- The strands of a core that are of a launch stop (step 2 of Table 25.3). -/
def State.haltCore (id c : Nat) : State :=
  (List.range 4).foldl (fun s k => if (s.strand c k).launch = some id then s.watchdogStop c k else s) s

theorem State.haltCore_windsDown (id c : Nat) : s.WindsDown (s.haltCore id c) := by
  unfold State.haltCore
  refine .foldl _ (fun s k => ?_) _ s
  split
  · exact s.watchdogStop_windsDown c k
  · exact .refl s

theorem State.haltCore_halted (id : Nat) {c k : Nat} (hc : c < 260) (hk : k < 4) : (s.haltCore id c).haltedIn id c k := by
  have hstep (s : State) (k : Nat) : s.WindsDown (if (s.strand c k).launch = some id then s.watchdogStop c k else s) := by
    split
    · exact s.watchdogStop_windsDown c k
    · exact .refl s
  refine foldl_brings (fun k z => k < 4 → z.haltedIn id c k) _ (fun s k hk hl => ?_) (fun s k j h hk => (hstep s j).haltedIn (h hk))
    (List.mem_range.2 hk) s hk
  by_cases h : (s.strand c k).launch = some id
  · rw [if_pos h]
    exact s.watchdogStop_halted hc hk
  · rw [if_neg h] at hl
    exact absurd hl h

variable (l : Launch)

/-- The cores here that hold strands of a launch. -/
def State.coresOfLaunch (id : Nat) : List Nat := (List.range 256).filter fun c => (s.core c).strands.toList.any fun u => u.launch == some id

theorem State.mem_coresOfLaunch {id d i : Nat} (hd : d < 256) (hi : i < 4) (h : (s.strand d i).launch = some id) : d ∈ s.coresOfLaunch id := by
  refine List.mem_filter.2 ⟨List.mem_range.2 hd, List.any_eq_true.2 ⟨s.strand d i, ?_, by rw [h]; exact beq_self_eq_true _⟩⟩
  unfold State.strand Core.strand
  rw [dif_pos hi]
  exact Vector.mem_toList_iff.2 (Vector.getElem_mem hi)

theorem State.stopHere_eq : s.stopHere l =
    let mine := s.coresOfLaunch l.id
    let s := mine.foldl (fun s c => s.haltCore l.id c) s
    let s := mine.foldl (fun s c => s.failPosted l.id c) s
    match s.part l.partno with
    | some p => s.failEdges p (mine.filter fun c => (s.core c).holdsStopped l.id)
    | none => s := rfl

/-- After the strands of a launch have stopped, its tasks and edges fail. -/
theorem State.stopHere_afterHalt : ((s.coresOfLaunch l.id).foldl (fun s c => s.haltCore l.id c) s).WindsDown (s.stopHere l) := by
  rw [s.stopHere_eq]
  dsimp only
  have hposted (s : State) (c : Nat) : s.WindsDown (s.failPosted l.id c) := s.failTasks_windsDown c _ _
  refine .trans (.foldl _ hposted (s.coresOfLaunch l.id) _) ?_
  split
  · exact State.failEdges_windsDown _ _ _
  · exact .refl _

theorem State.stopHere_windsDown : s.WindsDown (s.stopHere l) :=
  .trans (.foldl _ (fun s c => s.haltCore_windsDown l.id c) _ s) (s.stopHere_afterHalt l)

/-- Every strand of a stopped launch in this package is STOPPED or IDLE. -/
theorem State.stopHere_halted {d i : Nat} (hd : d < 256) (hi : i < 4) (h : (s.strand d i).launch = some l.id) :
    ((s.stopHere l).strand d i).halted := by
  have hhalt := foldl_brings (fun c z => c < 256 → ∀ k, k < 4 → z.haltedIn l.id c k) (fun s c => s.haltCore l.id c)
    (fun s c hc k hk => s.haltCore_halted l.id (by omega) hk) (fun s a b hs ha k hk => (s.haltCore_windsDown l.id b).haltedIn (hs ha k hk))
    (s.mem_coresOfLaunch hd hi h) s hd i hi
  exact (s.stopHere_afterHalt l).haltedIn hhalt (((s.stopHere_windsDown l).launch d i).trans h)

/-! ## The end of the launch (step 5) -/

theorem State.endStopped_cores (id : Nat) : (s.endStopped id).cores = s.cores := by
  unfold State.endStopped
  split
  · rfl
  · split
    · rfl
    · dsimp only
      split <;> rfl

end ops

end Sys2Proof.Machine
end

section
/-!
CERTIFICATE. Pre-emption, the partition stop and the fatal stop (R51, R52, R364, R420, R427, R454).
-/
namespace Sys2Proof.Machine

/-! ## The end of a stopped launch (R29, R409, R420) -/

/-- A launch is found by its identity after its strands have stopped, the same. -/
theorem State.WindsDown.find {s t : State} (h : s.WindsDown t) {l : Launch} (hl : s.launches.find? (fun m : Launch => m.id == l.id) = some l) :
    ∃ l', t.launches.find? (fun m : Launch => m.id == l.id) = some l' ∧ l.Same l' := by
  obtain ⟨g, hg, ht⟩ := h.launches
  have hid : ((fun m : Launch => m.id == l.id) ∘ g) = fun m => m.id == l.id := funext fun m => by simp only [Function.comp, (hg m).id]
  exact ⟨g l, by rw [ht, List.find?_map, hid, hl]; rfl, hg l⟩

section ended
variable (s : State) {l l' : Launch} (hfind : s.launches.find? (fun m : Launch => m.id == l.id) = some l') (hsame : l.Same l')
include hfind hsame

/-- A launch of another package ends here, and its package is told. -/
theorem State.endStopped_guest {h : Nat × Nat} (hh : l.home = some h) : s.endStopped l.id = s.endGuest l' := by
  unfold State.endStopped
  rw [hfind]
  exact if_pos (by rw [hsame.home, hh]; rfl)

/-- A launch with no strands elsewhere ends. -/
theorem State.endStopped_alone (hh : l.home = none) (hfar : l.away.filter (·.2 != .ended) = []) :
    s.endStopped l.id = s.endLaunch l' l'.status := by
  unfold State.endStopped
  rw [hfind]
  dsimp only
  rw [if_neg (by rw [hsame.home, hh]; decide), hsame.away, hfar]
  rfl

/-- The other packages of a launch are told to stop it. -/
theorem State.endStopped_far (hh : l.home = none) (hfar : l.away.filter (·.2 != .ended) ≠ []) : s.endStopped l.id =
    ({ s with outbox := s.outbox ++ (l.away.filter (·.2 != .ended)).map fun (a : Nat × AwayState) => OutMsg.launchStop a.1 l.id } : State).modLaunch
      l.id fun x => { x with stopping := false, cores := x.cores.filter fun i => (s.coreOfIdentity i).isNone } := by
  unfold State.endStopped
  rw [hfind]
  dsimp only
  rw [if_neg (by rw [hsame.home, hh]; decide), hsame.away, if_neg (by rwa [List.isEmpty_iff])]

end ended

/-- FATAL_STOP of a launch, here and at the packages that hold other strands of it. -/
theorem fatalStop_stops (s : State) (source : FatalSource) (n : Nat) (l : Launch) (hl : s.stoppedLaunch source n = some l)
    (hfind : s.launches.find? (fun m : Launch => m.id == l.id) = some l) : RunsTo (.fatalStop source n) s fun t =>
      let far := l.away.filter fun a : Nat × AwayState => a.2 != .ended
      (∀ d i, d < 256 → i < 4 → (s.strand d i).launch = some l.id → (t.strand d i).state = .stopped ∨ (t.strand d i).state = .idle) ∧
      (l.home = none → far ≠ [] → (∀ a ∈ far, OutMsg.launchStop a.1 l.id ∈ t.outbox) ∧ ∀ m ∈ t.launches, m.id = l.id → m.stopping = false) ∧
      (l.home.isSome = true ∨ far = [] → ∀ m ∈ t.launches, m.id ≠ l.id) ∧
      ∀ pkg id : Nat, l.home = some (pkg, id) → ∃ e : Option (Nat × Bool), OutMsg.launchEnded pkg id e ∈ t.outbox := by
  obtain ⟨l', hfind', hsame⟩ := (s.stopHere_windsDown l).find hfind
  have hexec : exec (.fatalStop source n) s = .next ((s.stopHere l).endStopped l.id) := by
    show execFatalStop source n s = _
    unfold execFatalStop
    rw [hl]
  have hgone (z : State) (hz : z.launches = (s.stopHere l).launches.filter (·.id != l'.id)) : ∀ m ∈ z.launches, m.id ≠ l.id := fun m hm => by
    rw [hz] at hm
    simpa [hsame.id] using (List.mem_filter.1 hm).2
  refine ⟨_, hexec, ?_⟩
  let far := l.away.filter fun a : Nat × AwayState => a.2 != .ended
  refine ⟨fun d i hd hi h => ?_, fun hh hfar => ?_, fun h => ?_, fun pkg id hh => ?_⟩
  · have hstrand : ((s.stopHere l).endStopped l.id).strand d i = (s.stopHere l).strand d i :=
      congrArg (fun x : Core => x.strand i) (State.core_of_cores (State.endStopped_cores _ _) d)
    rw [hstrand]
    exact s.stopHere_halted l hd hi h
  · rw [State.endStopped_far _ hfind' hsame hh hfar]
    refine ⟨fun a ha => List.mem_append_right _ (List.mem_map.2 ⟨a, ha, rfl⟩), fun m hm hid => ?_⟩
    obtain ⟨x, -, rfl⟩ := List.mem_map.1 hm
    dsimp only at hid ⊢
    split at hid
    · rw [if_pos ‹_›]
    · exact absurd hid ‹_›
  · cases hh : l.home with
    | some home =>
      rw [State.endStopped_guest _ hfind' hsame hh]
      exact hgone _ rfl
    | none =>
      rw [hh] at h
      have hfar : far = [] := h.resolve_left (by decide)
      rw [State.endStopped_alone _ hfind' hsame hh hfar]
      exact hgone _ rfl
  · rw [State.endStopped_guest _ hfind' hsame hh]
    refine ⟨l'.failure.map fun f => (f.cause, f.fatal), List.mem_append_right _ ?_⟩
    rw [hsame.home, hh]
    exact List.mem_cons_self

/-! ## Pre-emption and the partition stop -/

section stop
variable (s : State) {no : Nat} {p : Partition} (hp : s.part no = some p) (hst : p.st = .active)
include hp hst

/-- PREEMPT_REQUEST to an ACTIVE partition without one. -/
theorem exec_preemptRequest (hnone : p.preempt = none) : exec (.preemptRequest no) s = .next
    (if s.debugHolds no then s.modPart no fun p => { p with preemptHeld := true } else s.modPart no fun p => { p with preempt := some s.now }) := by
  show execPreemptRequest no s = _
  unfold execPreemptRequest
  rw [hp]
  dsimp only
  rw [if_neg (by rw [hst, hnone]; decide)]
  split <;> rfl

theorem preemptLimit_stops {since : Nat} (hpre : p.preempt = some since) (hd : s.debugHolds no = false) (hlim : p.plimit ≤ s.now - since) :
    exec (.preemptLimit no) s = .next (s.stopPartition p) := by
  show execPreemptLimit no s = _
  unfold execPreemptLimit
  rw [hp]
  dsimp only
  rw [hpre]
  dsimp only
  rw [if_pos (by simp [hst, hd, hlim])]

theorem partitionStop_stops : exec (.partitionStop no) s = .next (s.stopPartition p) := by
  show execPartitionStop no s = _
  unfold execPartitionStop State.stopNo
  rw [hp]
  dsimp only
  rw [if_pos (by rw [hst]; rfl)]

/-- The stop word of a service core that names a busy partition stops it and is cleared. -/
theorem partitionStopRequest_stops {svc : Nat} (hsvc : svc < 4) (hring : svc < s.marten.values.faultRings.length)
    (hreq : bitsOf (s.readNat (s.marten.values.faultRings.getD svc 0 + 16512) 8) 63 18 = 0 ∧
      bitsOf (s.readNat (s.marten.values.faultRings.getD svc 0 + 16512) 8) 17 16 = 1 ∧
      bitsOf (s.readNat (s.marten.values.faultRings.getD svc 0 + 16512) 8) 15 0 = no)
    (hbusy : s.partBusy p = true) :
    exec (.partitionStopRequest svc) s = .next ((s.stopPartition p).unitNat (s.marten.values.faultRings.getD svc 0 + 16512) 8 0) := by
  obtain ⟨hhi, hkind, hno⟩ := hreq
  have hne : s.readNat (s.marten.values.faultRings.getD svc 0 + 16512) 8 ≠ 0 := fun h => by rw [h] at hkind; exact absurd hkind (by decide)
  show execPartitionStopRequest svc s = _
  unfold execPartitionStopRequest
  dsimp only
  rw [if_neg (by simp only [not_or, Nat.not_le]; exact ⟨hsvc, hring, hne⟩), if_neg (by rw [hhi, hkind]; decide), hno, hp]
  dsimp only
  rw [if_pos (by rw [hst, hbusy]; rfl)]

end stop

/-- A word that is written as zero reads as zero. -/
theorem State.readNat_unitNat_zero (s : State) (k n : Nat) (hm : s.memOk) : (s.unitNat k n 0).readNat k n = 0 := by
  have hbyte (i : Nat) (hi : i < n) : (s.unitNat k n 0).byte (k + i) = 0 := by
    unfold State.unitNat
    rw [s.byte_unitWrite k (k + i) _ hm, leBytes_length, if_pos (by omega), Nat.add_sub_cancel_left, leBytes_getD n 0 i hi]
    simp
  have hbytes : (s.unitNat k n 0).bytes k n = List.replicate n 0 := by
    refine List.eq_replicate_iff.2 ⟨by simp [State.bytes], fun b hb => ?_⟩
    unfold State.bytes at hb
    obtain ⟨i, hi, rfl⟩ := List.mem_map.1 hb
    exact hbyte i (List.mem_range.1 hi)
  have hzero : ∀ m, leNat (List.replicate m (0 : Byte)) = 0 := fun m => by
    induction m with
    | zero => rfl
    | succ m ih => rw [List.replicate_succ, leNat, ih]; rfl
  unfold State.readNat
  rw [hbytes, hzero]

/-- A unit's own write leaves a partition stopped. -/
theorem Partition.StoppedIn.unitNat {p : Partition} {t : State} (h : p.StoppedIn t) (k n v : Nat) : p.StoppedIn (t.unitNat k n v) := by
  have hparts := (t.unitNat_steady k n v).parts
  refine ⟨fun c hc hlt => ?_, by rw [t.unitNat_queues]; exact h.queues, ?_⟩
  · rw [State.core_of_cores (t.unitNat_cores k n v)]
    exact h.cores c hc hlt
  · unfold State.part
    rw [hparts]
    exact h.record

/-- Settles O59, by the frame of the steps of a stop and the halt of a launch's strands. -/
theorem partitionStops : Obligations.PartitionStops := by
  unfold Obligations.PartitionStops
  intro s no p hp hst stopped
  have hstopped (t : State) (h : p.StoppedIn t) : stopped t := by
    obtain rfl := State.part_no hp
    refine ⟨fun c hc hlt => ?_, h.queues, h.record⟩
    obtain ⟨hwindow, hpartno, hidle⟩ := h.cores c hc hlt
    exact ⟨hwindow, hpartno, hidle⟩
  have hstop : p.StoppedIn (s.stopPartition p) := s.stopPartition_stopped p hp hst
  refine ⟨fun hnone hd => ?_, fun hnone hd => ?_, fun since hpre hd hlim => ?_, ?_, fun svc hsvc hring hhi hkind hno hbusy hm _ => ?_,
    fun source n l hl hfind => fatalStop_stops s source n l hl hfind⟩
  · refine ⟨s.modPart no fun p => { p with preempt := some s.now }, ?_, s.part_modPart _ (fun _ => rfl) hp, rfl, rfl⟩
    rw [exec_preemptRequest s hp hst hnone, hd]
    rfl
  · refine ⟨s.modPart no fun p => { p with preemptHeld := true }, ?_, s.part_modPart _ (fun _ => rfl) hp, rfl, rfl⟩
    rw [exec_preemptRequest s hp hst hnone, hd]
    rfl
  · exact ⟨_, preemptLimit_stops s hp hst hpre hd hlim, hstopped _ hstop⟩
  · exact ⟨_, partitionStop_stops s hp hst, hstopped _ hstop⟩
  · exact ⟨_, partitionStopRequest_stops s hp hst hsvc hring ⟨hhi, hkind, hno⟩ hbusy, hstopped _ (hstop.unitNat _ _ _),
      State.readNat_unitNat_zero _ _ _ (s.stopPartition_memOk p hm)⟩

end Sys2Proof.Machine
end

section
/-!
SUPPORT. TASK.RPOST at its issue (R38, R77, R242, R243): the descriptor that it reads in this package, and the post that it sends.
-/
namespace Sys2Proof.Machine

/-! ## Reads of the CPY path behind a change of a core -/

/-- What a change of a core leaves of that core is as it was in every core. -/
theorem State.core_setCore_keeps {α : Type} (s : State) (v : Core → α) {c : Nat} {x : Core} (h : v x = v (s.core c)) (d : Nat) :
    v ((s.setCore c x).core d) = v (s.core d) := by
  by_cases hd : d = c
  · subst hd
    by_cases hc : d < 260
    · rw [s.core_setCore_self d x hc, h]
    · rw [s.setCore_off _ _ hc]
  · rw [s.core_setCore_ne c d x hd]

/-- A change of a core that leaves its strands and its partition leaves every translation of the CPY path. -/
theorem State.copyTranslate_setCore (s : State) (c : Nat) (x : Core) (hstrands : x.strands = (s.core c).strands)
    (hpartno : x.partno = (s.core c).partno) (d : Nat) (t : Task) (acc va : Nat) :
    (s.setCore c x).copyTranslate d t acc va = s.copyTranslate d t acc va := by
  have hstrand (k : Nat) : (s.setCore c x).strand d k = s.strand d k := by
    unfold State.strand Core.strand
    rw [s.core_setCore_keeps Core.strands hstrands]
  have hpart := s.core_setCore_keeps Core.partno hpartno
  have hsame (w : Nat) : (s.setCore c x).samePart d w = s.samePart d w := by
    unfold State.samePart
    rw [hpart, hpart]
  obtain ⟨cs, hcs⟩ := s.setCore_only c x
  unfold State.copyTranslate
  rw [hstrand]
  unfold State.translate
  simp only [hsame]
  rw [hcs]
  rfl

theorem State.seenNat_setCore (s : State) (c : Nat) (x : Core) (r : Reader) (k n : Nat) : (s.setCore c x).seenNat r k n = s.seenNat r k n := by
  obtain ⟨cs, hcs⟩ := s.setCore_only c x
  rw [hcs]
  rfl

theorem State.poisoned_setCore (s : State) (c : Nat) (x : Core) (k n : Nat) : (s.setCore c x).poisoned k n = s.poisoned k n := by
  obtain ⟨cs, hcs⟩ := s.setCore_only c x
  rw [hcs]
  rfl

theorem State.awaits_setCore (s : State) (c : Nat) (x : Core) (d : Nat) (r : ReqUser) : (s.setCore c x).awaits d r = s.awaits d r := by
  obtain ⟨cs, hcs⟩ := s.setCore_only c x
  rw [hcs]
  rfl

/-- A record of n bytes that a task reads lies at a place of this package, without errors and poison, and nothing of the task is under way. -/
structure State.RecordAt (s : State) (c : Nat) (t : Task) (va n k : Nat) : Prop where
  place : ∃ mode, s.copyTranslate c t accRead va = .to (.here k) mode
  awaits : s.awaits c (.task t.seq) = false
  sound : s.softErrors = []
  clean : ∀ i, i < n → s.poisoned (k + i) 1 = false

theorem State.RecordAt.setCore {s : State} {c : Nat} {t : Task} {va n k : Nat} (h : s.RecordAt c t va n k) (x : Core)
    (hstrands : x.strands = (s.core c).strands) (hpartno : x.partno = (s.core c).partno) : (s.setCore c x).RecordAt c t va n k := by
  obtain ⟨⟨mode, hplace⟩, hawaits, hsound, hclean⟩ := h
  exact ⟨⟨mode, (s.copyTranslate_setCore c x hstrands hpartno c t accRead va).trans hplace⟩, (s.awaits_setCore c x c _).trans hawaits,
    (s.setCore_softErrors c x).trans hsound, fun i hi => (s.poisoned_setCore c x _ 1).trans (hclean i hi)⟩

theorem State.copyRead_here {s : State} {c : Nat} {t : Task} {va n k : Nat} (h : s.RecordAt c t va n k) :
    ∃ bs, s.copyRead c t va n = .bytes bs ∧ bs.any (·.2) = false ∧ leNat (bs.map (·.1)) = s.seenNat (.engine c) k n := by
  obtain ⟨⟨mode, hplace⟩, -, -, hclean⟩ := h
  refine ⟨(List.range n).map fun i => (s.seenByte (.engine c) (k + i), s.poisoned (k + i) 1), ?_, ?_, ?_⟩
  · unfold State.copyRead
    rw [hplace]
  · rw [List.any_map]
    exact List.any_eq_false.2 fun i hi => by simp [hclean i (List.mem_range.1 hi)]
  · rw [List.map_map]
    rfl

/-- Such a record is read at once. -/
theorem State.copyRecord_here {s : State} {c : Nat} {t : Task} {va n k : Nat} (h : s.RecordAt c t va n k) (go : Nat → State → State) :
    s.copyRecord c t va n go = go (s.seenNat (.engine c) k n) (s.modTask c t.seq fun u => { u with stage := 0 }) := by
  have h' : (s.modTask c t.seq fun u => { u with stage := 0 }).RecordAt c t va n k := h.setCore _ rfl rfl
  obtain ⟨bs, hread, hclean, hvalue⟩ := State.copyRead_here h'
  obtain ⟨⟨mode, hplace⟩, hawaits, hsound, -⟩ := h
  have hdetect : s.copyDetect c t va n = s := if_pos (by rw [hsound]; rfl)
  have haway : s.readAway c t va = none := by
    unfold State.readAway
    rw [hplace]
  unfold State.copyRecord
  dsimp only
  rw [hdetect, haway, hawaits]
  dsimp only
  rw [if_neg (by decide), hread]
  dsimp only
  rw [hclean, if_neg (by decide), hvalue]
  exact congrArg (go · _) (s.seenNat_setCore c _ (.engine c) k n)

/-! ## The post that a task sends (R243) -/

/-- The tag of a post: 0 without one. -/
def postTag (tag : Option Word) : BitVec 16 := match tag with | some v => v.setWidth 16 | none => 0

/-- The values that a descriptor carries for register fields. -/
def postVals (d : Nat) : List Word := [BitVec.ofNat 64 (d / 2 ^ 64), BitVec.ofNat 64 (d / 2 ^ 128), BitVec.ofNat 64 (d / 2 ^ 192)]

/-- The post that a task of core c sends of a descriptor d. -/
def State.postOf (s : State) (c : Nat) (t : Task) (h : Word) (tag : Option Word) (d : Nat) : RemotePost :=
  { handle := h, who := s.identity c, partno := (s.core c).partno, tag := postTag tag, seq := t.seq,
    c0 := BitVec.ofNat 32 d, c1 := BitVec.ofNat 32 (d / 2 ^ 32), vals := postVals d,
    reads := (t.ops.filter (·.pos < 4)).map (·.rgn), writes := (t.ops.filter (4 ≤ ·.pos)).map (·.rgn),
    pl := s.crossPl t.pl (handlePkg h) }

/-- A core whose task t has an entry of the report table for the tag of its post, if that has one. -/
def Core.reserve (x : Core) (t : Task) (tag : Option Word) : Core :=
  if tag.isSome && !x.hasReserved t (postTag tag) then { x with reports := x.reports ++ [⟨postTag tag, t.seq, none⟩] } else x

theorem Core.reserve_rest (x : Core) (t : Task) (tag : Option Word) : x.reserve t tag = { x with reports := (x.reserve t tag).reports } := by
  unfold Core.reserve
  split <;> rfl

/-- A post has left for its intake, with its core as x. -/
def State.sends (s : State) (c : Nat) (t : Task) (x : Core) (p : RemotePost) : State :=
  let s := (s.setCore c x).modTask c t.seq fun t => { t with sent := true }
  { s with outbox := s.outbox ++ [.post p t.seq] }

theorem bitVec_ofNat_bitsOf (x hi lo n : Nat) (hn : hi + 1 - lo = n) : BitVec.ofNat n (bitsOf x hi lo) = BitVec.ofNat n (x / 2 ^ lo) :=
  BitVec.eq_of_toNat_eq (by simp [bitsOf, hn])

/-- The tag of a post, if it has one, is not 0, is in no entry of its core's report table, and finds room there. -/
def Core.tagFresh (x : Core) (tag : Option Word) : Prop :=
  tag.isSome = true → postTag tag ≠ 0 ∧ (∀ r ∈ x.reports, r.tag ≠ postTag tag) ∧ x.reports.length < 64

section sends
variable (s : State) (c : Nat) (t : Task) (tag : Option Word) (hfresh : (s.core c).tagFresh tag)
include hfresh

/-- A fresh tag takes an entry of the report table (R244). -/
theorem State.reserve_fresh : (s.core c).reserve t tag =
    { s.core c with reports := (s.core c).reports ++ if tag.isSome then [⟨postTag tag, t.seq, none⟩] else [] } := by
  unfold Core.reserve
  by_cases ht : tag.isSome = true
  · obtain ⟨-, hnew, -⟩ := hfresh ht
    have hnone : (s.core c).hasReserved t (postTag tag) = false := List.any_eq_false.2 fun r hr => by simp [hnew r hr]
    rw [hnone, ht]
    rfl
  · rw [if_neg (by simp [ht]), if_neg ht, List.append_nil]

/-- A post with a fresh tag, or with none, reserves its entry and is sent. -/
theorem State.sendPost_sends (h : Word) (rcnt wcnt d : Nat) (hpkg : handlePkg h / 32 < s.marten.values.ngroups)
    (hcmd : (postCmd (bitsOf d 31 0) (bitsOf d 63 32) (postVals d) rcnt wcnt).isSome = true) :
    s.sendPost c t h tag rcnt wcnt d = s.sends c t ((s.core c).reserve t tag) (s.postOf c t h tag d) := by
  have hlegal : ¬ (postCmd (bitsOf d 31 0) (bitsOf d 63 32) (postVals d) rcnt wcnt).isNone = true := by
    rw [Option.isNone_iff_eq_none]
    exact fun hn => by rw [hn] at hcmd; cases hcmd
  have hstale : ¬ (tag.isSome = true ∧ (!(s.core c).hasReserved t (postTag tag)) = true ∧
      (postTag tag = 0 ∨ ((s.core c).reports.any fun r => r.tag == postTag tag) = true)) := by
    rintro ⟨ht, -, hzero | hany⟩
    · exact (hfresh ht).1 hzero
    · obtain ⟨r, hr, hrt⟩ := List.any_eq_true.1 hany
      exact (hfresh ht).2.1 r hr (by simpa using hrt)
  have hroom : ¬ (tag.isSome = true ∧ (!(s.core c).hasReserved t (postTag tag)) = true ∧ 64 ≤ (s.core c).reports.length) := by
    rintro ⟨ht, -, hfull⟩
    exact absurd (hfresh ht).2.2 (by omega)
  refine (if_neg hlegal).trans ((if_neg hstale).trans ((if_neg hroom).trans ((if_neg (Nat.not_le.2 hpkg)).trans ?_)))
  show s.sends c t ((s.core c).reserve t tag) { s.postOf c t h tag d with
    partno := ((s.core c).reserve t tag).partno, c0 := BitVec.ofNat 32 (bitsOf d 31 0), c1 := BitVec.ofNat 32 (bitsOf d 63 32) } = _
  have hc0 := bitVec_ofNat_bitsOf d 31 0 32 rfl
  rw [Nat.pow_zero, Nat.div_one] at hc0
  have hpartno : ((s.core c).reserve t tag).partno = (s.core c).partno := by rw [Core.reserve_rest]
  rw [hpartno, hc0, bitVec_ofNat_bitsOf d 63 32 32 rfl]
  rfl

end sends

section sent
variable (s : State) {c : Nat} (t : Task) (x : Core) (p : RemotePost) (hc : c < 260)
include hc

theorem State.core_sends : (s.sends c t x p).core c = x.modTask t.seq fun t => { t with sent := true } := by
  show ((s.setCore c x).modTask c t.seq _).core c = _
  rw [State.core_modTask_self _ _ _ hc, s.core_setCore_self c x hc]

omit hc in
theorem State.outbox_sends : (s.sends c t x p).outbox = s.outbox ++ [.post p t.seq] := by
  show ((s.setCore c x).modTask c t.seq _).outbox ++ _ = _
  simp only [State.modTask, State.modCore_outbox, State.setCore_outbox]

end sent

/-! ## The issue of a post (R38, R77, R243) -/

/-- The task that an instance takes stands in READY. -/
theorem Core.chosen_ready {x : Core} {cls : EngineClass} {u : Task} (h : x.chosen cls = some u) : u.state = .ready := by
  let y : Core := { x with window := x.window.filter (·.state == .ready) }
  have hsame : y.chosen cls = x.chosen cls := by
    unfold Core.chosen
    simp only [y, List.filter_filter]
    congr 2
    funext t
    cases t.state == .ready <;> simp
  simpa using (List.mem_filter.1 (Core.chosen_mem (hsame.trans h)).1).2

section issue
variable (s : State) {c n : Nat} {u : Task} {h desc : Word} {tag : Option Word} {rcnt wcnt : Nat}
  (hn : (s.core c).freeUnit .cpy = some n) (hch : (s.core c).chosen .cpy = some u) (hm : u.cmd = .rpost h desc tag rcnt wcnt)
include hch hm

/-- A post whose turn comes reads its descriptor. -/
theorem State.issueTask_rpost (hw : u.waited = 0) :
    s.issueTask c u n = (s.setCore c ((s.core c).takes u n)).issuePost c (u.takenBy n) := by
  have heq := s.takes_eq (n := n) hch
  have hcore := s.core_takes (n := n) hch
  have hcheck : ((s.core c).takes u n).issueCheck c (u.takenBy n) = none := by
    unfold Core.issueCheck Task.takenBy
    dsimp only
    rw [hm]
  unfold Task.takenBy at *
  unfold State.issueTask
  rw [s.engineEdge_fresh hw]
  dsimp only at *
  rw [heq, hcore, hcheck, hm]

include hn in
/-- A post that has gone back to READY is sent again as a free instance takes it. -/
theorem exec_remotePostRetry (hu : (s.core c).task u.seq = some u) : exec (.remotePostRetry c u.seq) s = .next (s.issueTask c u n) := by
  have hnone : (some u).filter Task.awaitsPost = none := by
    rw [Option.filter_some, if_neg]
    unfold Task.awaitsPost
    rw [hm, Core.chosen_ready hch]
    exact Bool.false_ne_true
  show execRemotePostRetry c u.seq s = _
  unfold execRemotePostRetry
  dsimp only
  rw [hu, hnone, hn, hch]
  dsimp only
  rw [hm]
  exact if_pos rfl

omit hch in
/-- A post whose descriptor lies in this package is sent with what stands there. -/
theorem State.issuePost_reads {k : Nat} (hdesc : desc.toNat % 32 = 0) (hat : s.RecordAt c u desc.toNat 32 k) : s.issuePost c u =
    (s.modTask c u.seq fun u => { u with stage := 0 }).sendPost c u h tag rcnt wcnt (s.seenNat (.engine c) k 32) := by
  unfold State.issuePost
  rw [hm]
  dsimp only
  rw [if_neg (by rw [hdesc]; decide), State.copyRecord_here hat]

include hn in
/-- A post that is sent again leaves with the task of its descriptor, and its own task awaits the answer. -/
theorem remotePostRetry_sends {k : Nat} (hu : (s.core c).task u.seq = some u) (hw : u.waited = 0) (hdesc : desc.toNat % 32 = 0)
    (hat : s.RecordAt c u desc.toNat 32 k) (hpkg : handlePkg h / 32 < s.marten.values.ngroups) (hfresh : (s.core c).tagFresh tag)
    (hcmd : (postCmd (bitsOf (s.seenNat (.engine c) k 32) 31 0) (bitsOf (s.seenNat (.engine c) k 32) 63 32)
      (postVals (s.seenNat (.engine c) k 32)) rcnt wcnt).isSome = true) :
    RunsTo (.remotePostRetry c u.seq) s fun t =>
      t.outbox = s.outbox ++ [.post (s.postOf c u h tag (s.seenNat (.engine c) k 32)) u.seq] ∧
      ({ u.takenBy n with stage := 0, sent := true } : Task) ∈ (t.core c).window ∧
      (t.core c).reports = (s.core c).reports ++ if tag.isSome then [⟨postTag tag, u.seq, none⟩] else [] := by
  obtain ⟨hmem, -⟩ := Core.chosen_mem hch
  have hc := State.core_lt_of_mem_window hmem
  obtain ⟨b, hb⟩ := (s.core c).takes_only u n
  let v := u.takenBy n
  let d := s.seenNat (.engine c) k 32
  let s1 := s.setCore c ((s.core c).takes u n)
  let s2 := s1.modTask c u.seq fun u => { u with stage := 0 }
  have hcore1 : s1.core c = (s.core c).takes u n := s.core_takes hch
  have hcore2 : s2.core c = ((s.core c).takes u n).modTask u.seq fun u => { u with stage := 0 } :=
    (s1.core_modTask_self _ _ hc).trans (by rw [hcore1])
  have hstaged : ({ v with stage := 0 } : Task) ∈ (s2.core c).window := by
    refine s1.mem_window_modTask u.seq (fun u => { u with stage := 0 }) (u := v) ?_ rfl
    rw [hcore1, hb]
    exact List.mem_map.2 ⟨u, hmem, if_pos rfl⟩
  have hreports : (s2.core c).reports = (s.core c).reports := by rw [hcore2, hb]; rfl
  have hpartno : (s2.core c).partno = (s.core c).partno := by rw [hcore2, hb]; rfl
  have hfresh2 : (s2.core c).tagFresh tag := by
    unfold Core.tagFresh
    rw [hreports]
    exact hfresh
  obtain ⟨cs, hs2⟩ : ∃ cs, s2 = { s with cores := cs } := by
    obtain ⟨cs1, h1⟩ := s.setCore_only c ((s.core c).takes u n)
    obtain ⟨cs2, h2⟩ := s1.setCore_only c ((s1.core c).modTask u.seq fun u => { u with stage := 0 })
    exact ⟨cs2, h2.trans (by rw [show s1 = _ from h1])⟩
  have hpost : s2.postOf c v h tag d = s.postOf c u h tag d := by
    unfold State.postOf
    rw [hpartno, hs2]
    rfl
  have htaken : s.RecordAt c v desc.toNat 32 k := ⟨hat.place, hat.awaits, hat.sound, hat.clean⟩
  have hat1 : s1.RecordAt c v desc.toNat 32 k := htaken.setCore _ (by rw [hb]) (by rw [hb])
  have hsent : s.issueTask c u n = s2.sends c v ((s2.core c).reserve v tag) (s.postOf c u h tag d) := by
    rw [s.issueTask_rpost hch hm hw, s1.issuePost_reads (u := v) hm hdesc hat1, s.seenNat_setCore, ← hpost]
    exact s2.sendPost_sends c v tag hfresh2 h rcnt wcnt d (by rw [hs2]; exact hpkg) hcmd
  refine ⟨_, exec_remotePostRetry s hn hch hm hu, ?_, ?_, ?_⟩
  · rw [hsent, State.outbox_sends, hs2]
    rfl
  · rw [hsent, State.core_sends _ _ _ _ hc, Core.reserve_rest]
    exact List.mem_map.2 ⟨{ v with stage := 0 }, hstaged, if_pos rfl⟩
  · rw [hsent, State.core_sends _ _ _ _ hc, s2.reserve_fresh c v tag hfresh2]
    show (s2.core c).reports ++ _ = _
    rw [hreports]
    rfl

end issue

end Sys2Proof.Machine
end

section
/-!
SUPPORT. Intakes (R75 to R78, R289): what an intake answers to a post, and what an admission leaves.
-/
namespace Sys2Proof.Machine

/-! ## Messages that arrive -/

/-- The state with a message taken out of those that the package has sent. -/
def State.without (s : State) (m : OutMsg) : State := { s with outbox := s.outbox.erase m }

theorem State.takeOut_mem {s : State} {m : OutMsg} (h : m ∈ s.outbox) : s.takeOut m = some (s.without m) := if_pos (by simpa using h)

/-! ## An intake of a core -/

/-- Intake n of a core; CLOSED where there is none. -/
def Core.intake (x : Core) (n : Nat) : Intake := x.intakes.toList.getD n ⟨.closed, 0, []⟩

theorem Core.intake_eq (x : Core) {n : Nat} (hn : n < 4) : x.intake n = x.intakes[n] := by
  unfold Core.intake
  simp [hn]

theorem Core.modIntake_rest (x : Core) (n : Nat) (f : Intake → Intake) : ∃ i, x.modIntake n f = { x with intakes := i } := by
  unfold Core.modIntake
  split
  · exact ⟨_, rfl⟩
  · exact ⟨x.intakes, rfl⟩

theorem Core.intake_modIntake (x : Core) {n : Nat} (f : Intake → Intake) (hn : n < 4) : (x.modIntake n f).intake n = f (x.intake n) := by
  rw [Core.intake_eq _ hn, Core.intake_eq _ hn]
  unfold Core.modIntake
  simp [hn]

theorem handleCore_lt (h : Word) : handleCore h < 260 := Nat.lt_trans (Nat.mod_lt _ (by decide)) (show 2 ^ 8 < 260 by decide)

theorem handleIntake_lt (h : Word) : handleIntake h < 4 := Nat.mod_lt _ (by decide)

/-! ## The answer to a post (R77) -/

section arrival
variable (s : State) (p : RemotePost)

/-- The intake that a post names. -/
def State.named : Intake := (s.core (handleCore p.handle)).intake (handleIntake p.handle)

/-- A post names an open intake of its own partition, by the generation of its handle. -/
structure State.NamesOpen : Prop where
  handle : p.handle.toNat / 2 ^ 33 = 0
  opened : (s.named p).st = .open
  gen : (s.named p).gen = bitsOf p.handle.toNat 32 25
  owned : (s.core (handleCore p.handle)).partno ≠ 0
  partno : p.partno = (s.core (handleCore p.handle)).partno

variable (hsaved : s.savedCore p = none)
include hsaved

theorem State.intakeCore_here : s.intakeCore p = s.core (handleCore p.handle) := by
  unfold State.intakeCore
  rw [hsaved]
  rfl

theorem State.intakeAnswer_eq : s.intakeAnswer p =
    if p.handle.toNat / 2 ^ 33 ≠ 0 ∨ (s.named p).st = .closed ∨ (s.named p).gen ≠ bitsOf p.handle.toNat 32 25 ∨
        (s.core (handleCore p.handle)).partno = 0 ∨ p.partno ≠ (s.core (handleCore p.handle)).partno then -(Cause.estale : Int)
    else if (if (s.named p).st = .open then 32 else 4096) ≤ (s.named p).entries.length then 1 else 0 := by
  unfold State.intakeAnswer
  dsimp only
  rw [s.intakeCore_here p hsaved]
  rfl

/-- An open intake answers 0 while it has room, and 1 when it has none. -/
theorem State.intakeAnswer_open (h : s.NamesOpen p) : s.intakeAnswer p = if 32 ≤ (s.named p).entries.length then 1 else 0 := by
  obtain ⟨hhandle, hopen, hgen, howned, hpartno⟩ := h
  rw [s.intakeAnswer_eq p hsaved, if_neg, if_pos hopen]
  simp only [not_or, not_not, ne_eq]
  exact ⟨hhandle, by rw [hopen]; decide, hgen, howned, hpartno⟩

/-- A post that names no open intake, nor one that is swapped out, is refused. -/
theorem State.intakeAnswer_estale (hswap : (s.named p).st ≠ .swapped) (h : ¬ s.NamesOpen p) : s.intakeAnswer p = -(Cause.estale : Int) := by
  rw [s.intakeAnswer_eq p hsaved]
  refine if_pos (by_contra fun hall => ?_)
  simp only [not_or, not_not] at hall
  obtain ⟨hhandle, hclosed, hgen, howned, hpartno⟩ := hall
  refine h ⟨hhandle, ?_, hgen, howned, hpartno⟩
  rcases hst : (s.named p).st with _ | _ | _
  · exact absurd hst hclosed
  · rfl
  · exact absurd hst hswap

theorem State.takePost_here : s.takePost p = s.modCore (handleCore p.handle) fun x =>
    x.modIntake (handleIntake p.handle) fun i => { i with entries := i.entries ++ [p] } := if_neg (by rw [hsaved]; decide)

/-- An accepted post stands last in its intake. -/
theorem State.takePost_named : ((s.takePost p).named p).entries = (s.named p).entries ++ [p] := by
  unfold State.named
  rw [s.takePost_here p hsaved, s.core_modCore_self _ _ (handleCore_lt p.handle), Core.intake_modIntake _ _ (handleIntake_lt p.handle)]

theorem State.takePost_rest : ∃ cs, s.takePost p = { s with cores := cs } := by
  rw [s.takePost_here p hsaved]
  exact s.setCore_only _ _

end arrival

/-- The intake that a post names holds entries es, and the post has been answered. -/
structure PostAnswered (s t : State) (p : RemotePost) (es : List RemotePost) (code : Int) : Prop where
  entries : (t.named p).entries = es
  mem : t.mem = s.mem
  outbox : t.outbox = s.outbox.erase (.post p p.seq) ++ [.postAnswer p.who p.seq code]

section arrives
variable (s : State) (p : RemotePost) (hwho : p.who / 256 = s.marten.values.pkg) (hpkg : handlePkg p.handle = s.marten.values.pkg)
  (hout : OutMsg.post p p.seq ∈ s.outbox)
include hwho hpkg hout

theorem exec_remotePostArrival : exec (.remotePostArrival p) s =
    let t := if s.intakeAnswer p = 0 then (s.without (.post p p.seq)).takePost p else s.without (.post p p.seq)
    .next { t with outbox := t.outbox ++ [.postAnswer p.who p.seq (s.intakeAnswer p)] } := by
  show execRemotePostArrival p s = _
  unfold execRemotePostArrival
  dsimp only
  rw [if_pos (by simpa using hwho), State.takeOut_mem hout]
  dsimp only
  rw [if_neg (by rw [hpkg]; exact fun h => h rfl)]
  rfl

/-- A post that is not accepted is answered, and its intake stays as it is. -/
theorem remotePostArrival_refuses {code : Int} (h : s.intakeAnswer p = code) (hcode : code ≠ 0) :
    RunsTo (.remotePostArrival p) s (PostAnswered s · p (s.named p).entries code) := by
  refine ⟨_, exec_remotePostArrival s p hwho hpkg hout, ?_⟩
  rw [h, if_neg hcode]
  exact ⟨rfl, rfl, rfl⟩

/-- An accepted post is answered 0, and stands in its intake. -/
theorem remotePostArrival_accepts (hsaved : s.savedCore p = none) (h : s.intakeAnswer p = 0) :
    RunsTo (.remotePostArrival p) s (PostAnswered s · p ((s.named p).entries ++ [p]) 0) := by
  let s' := s.without (.post p p.seq)
  have hsaved' : s'.savedCore p = none := hsaved
  obtain ⟨cs, hcs⟩ := s'.takePost_rest p hsaved'
  refine ⟨_, exec_remotePostArrival s p hwho hpkg hout, ?_⟩
  rw [h, if_pos rfl]
  refine ⟨s'.takePost_named p hsaved', ?_, ?_⟩
  · show (s'.takePost p).mem = _
    rw [hcs]
    rfl
  · show (s'.takePost p).outbox ++ _ = _
    rw [hcs]
    rfl

end arrives

/-! ## Admission (R78, R289) -/

theorem Core.nextIntake_some {x : Core} {n : Nat} {p : RemotePost} (h : x.nextIntake = some (n, p)) :
    n < 4 ∧ x.admissible (x.intake n) = true := by
  obtain ⟨m, hm, hsome⟩ := List.exists_of_findSome?_eq_some h
  obtain ⟨k, -, rfl⟩ := List.mem_map.1 hm
  dsimp only at hsome
  split at hsome
  · obtain ⟨q, -, hq⟩ := Option.map_eq_some_iff.1 hsome
    obtain rfl := congrArg Prod.fst hq
    exact ⟨Nat.mod_lt _ (by decide), ‹_›⟩
  · cases hsome

theorem State.core_lt_of_nextIntake {s : State} {c n : Nat} {p : RemotePost} (h : (s.core c).nextIntake = some (n, p)) : c < 260 := by
  by_contra hc
  obtain ⟨hn, hadm⟩ := Core.nextIntake_some h
  have hclosed : ((s.core c).intake n).st = .closed := by
    rw [Core.intake_eq _ hn]
    unfold State.core
    rw [dif_neg hc]
    exact congrArg Intake.st (Vector.getElem_replicate _)
  unfold Core.admissible at hadm
  rw [hclosed] at hadm
  cases hadm

/-- An admission sets event 9 of a strand that is not IDLE. -/
theorem Core.admissionEvent_evpend (x : Core) (a : Arriver) {k : Nat} (hk : k < 4) (h : (x.strand k).state ≠ .idle) :
    ((x.admissionEvent a).strand k).sys.evpend.getLsbD 9 = true := by
  have hstrand : (x.admissionEvent a).strand k = (x.strand k).setEvents [9] a := by
    unfold Core.strand Core.admissionEvent at *
    rw [dif_pos hk] at h ⊢
    rw [dif_pos hk, Vector.getElem_map, if_neg h]
    rfl
  rw [hstrand, Strand.setEvents_evpend _ _ _ _ (by decide)]
  simp

/-- The arriver of the task that a post makes. -/
def State.postArriver (s : State) (p : RemotePost) : Arriver := ⟨p.who, 4, p.seq.toNat, p.pl, s.now⟩

/-- The task that a post makes of its command. -/
def State.postTask (s : State) (c : Nat) (p : RemotePost) (m : Cmd) : Task :=
  newTask (s.core c).nextSeq (.remote p.who p.tag) 0 (bitsOf p.c0.toNat 17 16) m (postOperands p) (s.postArriver p) 8

/-- The core whose intake n has given its first post. -/
def Core.admits (x : Core) (n : Nat) : Core := { x.modIntake n fun i => { i with entries := i.entries.drop 1 } with lastIntake := n, lastGrant := 4 }

theorem Core.admits_rest (x : Core) (n : Nat) : ∃ i, x.admits n = { x with intakes := i, lastIntake := n, lastGrant := 4 } := by
  obtain ⟨i, hi⟩ := x.modIntake_rest n fun i => { i with entries := i.entries.drop 1 }
  exact ⟨i, by unfold Core.admits; rw [hi]⟩

section admission
variable (s : State) {c n : Nat} {p : RemotePost} {m : Cmd} (hnext : (s.core c).nextIntake = some (n, p)) (htake : (s.core c).mayTake 4 = true)
  (hcmd : postCmd p.c0.toNat p.c1.toNat p.vals p.reads.length p.writes.length = some m)
include hnext htake hcmd

/-- INTAKE_ADMIT enters the task of the post. -/
theorem exec_intakeAdmit : exec (.intakeAdmit c) s =
    .next ((s.setCore c (((s.core c).admits n).admissionEvent (s.postArriver p))).enter c (s.postTask c p m) none) := by
  have hseq : ((s.core c).admits n).nextSeq = (s.core c).nextSeq := by
    obtain ⟨i, hi⟩ := (s.core c).admits_rest n
    rw [hi]
  show execIntakeAdmit c s = _
  unfold execIntakeAdmit
  dsimp only
  rw [hnext]
  dsimp only
  rw [htake, if_neg (by decide), hcmd]
  unfold State.postTask
  rw [← hseq]
  rfl

/-- The task of an admitted post stands last in the window. -/
theorem intakeAdmit_enters (hok : (s.core c).operandsOk (s.postTask c p m) = true) (hbind : (s.core c).bindProblem (s.postTask c p m) = none) :
    RunsTo (.intakeAdmit c) s fun t =>
      (∃ ops deps st, (t.core c).window = (s.core c).window ++ [{ s.postTask c p m with ops := ops, deps := deps, stamped := st }]) ∧
      (t.core c).nextSeq = (s.core c).nextSeq + 1 ∧ ((t.core c).intake n).entries = ((s.core c).intake n).entries.tail ∧
      ∀ k, k < 4 → ((s.core c).strand k).state ≠ .idle → (t.strand c k).sys.evpend.getLsbD 9 = true := by
  have hc := State.core_lt_of_nextIntake hnext
  obtain ⟨hn, -⟩ := Core.nextIntake_some hnext
  let y := ((s.core c).admits n).admissionEvent (s.postArriver p)
  let s' := s.setCore c y
  have hcore : s'.core c = y := s.core_setCore_self c y hc
  obtain ⟨i, hi⟩ := (s.core c).admits_rest n
  have hrest : y = { s.core c with strands := y.strands, intakes := i, lastIntake := n, lastGrant := 4 } :=
    (show y = { (s.core c).admits n with strands := y.strands } from rfl).trans (by rw [hi])
  obtain ⟨g, b, e, ops, deps, st, henter⟩ :=
    s'.enter_bound c (s.postTask c p m) (by rw [hcore, hrest]; exact hok) (by rw [hcore, hrest]; exact hbind)
  have ht : (s'.enter c (s.postTask c p m) none).core c = _ := (congrArg (State.core · c) henter).trans (s'.core_setCore_self c _ hc)
  rw [hcore] at ht
  refine ⟨_, exec_intakeAdmit s hnext htake hcmd, ⟨ops, deps, st, ?_⟩, ?_, ?_, fun k hk h => ?_⟩
  · rw [ht, hrest]
  · rw [ht, hrest]; rfl
  · rw [ht]
    show (((s.core c).modIntake n _).intake n).entries = _
    rw [Core.intake_modIntake _ _ hn, List.drop_one]
  · unfold State.strand
    rw [ht]
    refine Core.admissionEvent_evpend ((s.core c).admits n) (s.postArriver p) hk ?_
    rw [hi]
    exact h

end admission

end Sys2Proof.Machine
end

section
/-!
CERTIFICATE. Remote posting (R74 to R78, R242 to R245, R289): posts, intakes, answers and reports.
-/
namespace Sys2Proof.Machine

/-! ## The answer reaches the posting task (R77, R243, R244) -/

/-- The entry of the report table that a post holds is freed. -/
def State.freeTag (s : State) (c : Nat) (u : Task) : State := match u.tagHeld with | some g => s.modCore c fun x => x.freeReport g | none => s

section freeTag
variable (s : State) {c : Nat} (u : Task) (hc : c < 260)
include hc

theorem State.core_freeTag : ∃ rs, (s.freeTag c u).core c = { s.core c with reports := rs } := by
  unfold State.freeTag
  split
  · exact ⟨_, s.core_modCore_self c _ hc⟩
  · exact ⟨(s.core c).reports, rfl⟩

theorem State.freeTag_reports {g : BitVec 16} (hg : u.tagHeld = some g) : ∀ r ∈ ((s.freeTag c u).core c).reports, r.tag ≠ g := by
  intro r hr
  unfold State.freeTag at hr
  rw [hg] at hr
  dsimp only at hr
  rw [s.core_modCore_self c _ hc] at hr
  simpa using (List.mem_filter.1 hr).2

omit hc in
theorem State.freeTag_core_ne {d : Nat} (h : d ≠ c) : (s.freeTag c u).core d = s.core d := by
  unfold State.freeTag
  split
  · exact s.core_modCore_ne c d _ h
  · rfl

theorem State.failTask_reports (cause : Nat) : ((s.failTask c u cause).core c).reports = (s.core c).reports :=
  ((s.failCopySide u cause).retire_reports hc u (some cause)).trans (by rw [State.core_of_cores (s.failCopySide_cores u cause)])

/-- A post that is refused ends with the code, and its tag has no entry any more. -/
theorem State.freeTag_failTask_ended (cause : Nat) : Ended s ((s.freeTag c u).failTask c u cause) c u (-(cause : Int)) ∧
    ∀ g : BitVec 16, u.tagHeld = some g → ∀ r ∈ (((s.freeTag c u).failTask c u cause).core c).reports, r.tag ≠ g := by
  obtain ⟨rs, hrs⟩ := s.core_freeTag u hc
  refine ⟨.of_change (u' := u) (fun w hw _ => by rw [hrs]; exact hw) (by rw [hrs]) (fun d hd => s.freeTag_core_ne u hd) ⟨rfl, rfl, rfl⟩
    ((s.freeTag c u).failTask_ended hc u cause), fun g hg => ?_⟩
  rw [State.failTask_reports _ _ hc]
  exact s.freeTag_reports u hc hg

end freeTag

section answer
variable (s : State) {c : Nat} {q : BitVec 32} {u : Task} {h desc : Word} {tag : Option Word} {rcnt wcnt : Nat}
  (hu : (s.core c).task q = some u) (hi : u.state = .issued) (hs : u.sent = true) (hm : u.cmd = .rpost h desc tag rcnt wcnt)
  (hpkg : handlePkg h = s.marten.values.pkg)
include hu hi hs hm hpkg

/-- What the answer of an intake of this package does with the task that posted. -/
theorem exec_postAnswerArrival {code : Int} (hout : OutMsg.postAnswer (s.identity c) q code ∈ s.outbox) :
    exec (.postAnswerArrival c q code) s =
      let s' := s.without (.postAnswer (s.identity c) q code)
      if code = 0 then .next (s'.retire c u none)
      else if code = 1 then .next (s'.backToReady c u retryDelay)
      else if code = -(Cause.estale : Int) ∨ code = -(Cause.linkFailed : Int) then .next ((s'.freeTag c u).failTask c u code.natAbs)
      else .next s' := by
  have hhere : ¬ (handlePkg h != s.marten.values.pkg) = true := by simp [hpkg]
  show execPostAnswerArrival c q code s = _
  unfold execPostAnswerArrival
  rw [hu]
  dsimp only
  rw [hm]
  dsimp only
  rw [if_neg hhere, State.takeOut_mem hout]
  dsimp only
  rw [if_neg (by rw [hi, hs]; decide)]
  rfl

/-- An accepted post ends its task. -/
theorem postAnswerArrival_accepted (hout : OutMsg.postAnswer (s.identity c) q 0 ∈ s.outbox) :
    RunsTo (.postAnswerArrival c q 0) s (Ended s · c u 0) :=
  ⟨_, (exec_postAnswerArrival s hu hi hs hm hpkg hout).trans (if_pos rfl),
    .of_cores (s' := s.without _) rfl (State.retire_ended _ (State.core_lt_of_task hu) u none)⟩

/-- A refused post fails its task and frees its tag. -/
theorem postAnswerArrival_refused {e : Nat} (he : e = Cause.estale ∨ e = Cause.linkFailed)
    (hout : OutMsg.postAnswer (s.identity c) q (-(e : Int)) ∈ s.outbox) :
    RunsTo (.postAnswerArrival c q (-(e : Int))) s fun t => Ended s t c u (-(e : Int)) ∧
      ∀ g : BitVec 16, u.tagHeld = some g → ∀ r ∈ (t.core c).reports, r.tag ≠ g := by
  let s' := s.without (.postAnswer (s.identity c) q (-(e : Int)))
  have hcode : -(e : Int) ≠ 0 ∧ -(e : Int) ≠ 1 ∧ (-(e : Int) = -(Cause.estale : Int) ∨ -(e : Int) = -(Cause.linkFailed : Int)) := by
    rcases he with rfl | rfl <;> decide
  obtain ⟨hzero, hone, hrefusal⟩ := hcode
  have hexec := (exec_postAnswerArrival s hu hi hs hm hpkg hout).trans ((if_neg hzero).trans ((if_neg hone).trans (if_pos hrefusal)))
  rw [show (-(e : Int)).natAbs = e by omega] at hexec
  obtain ⟨hended, hreports⟩ := s'.freeTag_failTask_ended u (State.core_lt_of_task hu) e
  exact ⟨_, hexec, .of_cores (s' := s') rfl hended, hreports⟩

/-- A busy post goes back to READY. -/
theorem postAnswerArrival_busy (hout : OutMsg.postAnswer (s.identity c) q 1 ∈ s.outbox) :
    RunsTo (.postAnswerArrival c q 1) s fun t =>
      ∃ w ∈ (t.core c).window, w = { u with state := .ready, inst := none, sent := false, retry := 1024, age := 0, waited := 0 } := by
  let s' := s.without (.postAnswer (s.identity c) q 1)
  obtain ⟨hmem, -⟩ := Core.task_some hu
  exact ⟨_, (exec_postAnswerArrival s hu hi hs hm hpkg hout).trans ((if_neg (by decide)).trans (if_pos rfl)),
    _, s'.mem_window_modTask u.seq (fun t => { t with state := .ready, inst := none, sent := false, retry := retryDelay, age := 0, waited := 0 })
      hmem rfl, rfl⟩

end answer

/-! ## Reports (R244, R245) -/

section report
variable (s : State) (c : Nat)

/-- The state in which a report arrives, with its message taken out of the package where one of its cores has sent it. -/
def State.reportTaken (tag : Option (BitVec 16)) (status : Int) : State := (s.takeOut (.report (s.identity c) tag status)).getD s

theorem State.core_reportTaken (tag : Option (BitVec 16)) (status : Int) (d : Nat) : (s.reportTaken c tag status).core d = s.core d := by
  unfold State.reportTaken State.takeOut
  split <;> rfl

theorem State.core_lt_of_mem_reports {s : State} {c : Nat} {r : Report} (h : r ∈ (s.core c).reports) : c < 260 := by
  by_contra hc
  unfold State.core at h
  rw [dif_neg hc] at h
  exact absurd h List.not_mem_nil

/-- The status of a tagged task reaches the entry that waits for it. -/
theorem remoteReport_tagged {r : Report} (status : Int) (hr : r ∈ (s.core c).reports) (hnone : r.status = none) :
    RunsTo (.remoteReport c (some r.tag) status) s fun t => { r with status := some status } ∈ (t.core c).reports := by
  refine ⟨_, rfl, ?_⟩
  show _ ∈ (State.core (State.modCore (s.reportTaken c (some r.tag) status) c _) c).reports
  rw [State.core_modCore_self _ _ _ (State.core_lt_of_mem_reports hr), State.core_reportTaken]
  exact List.mem_map.2 ⟨r, hr, if_pos ⟨rfl, by rw [hnone]; rfl⟩⟩

/-- The failure of an untagged task counts in RPFAIL. -/
theorem remoteReport_untagged (status : Int) (hc : c < 260) : RunsTo (.remoteReport c none status) s fun t =>
    (t.core c).rpfail = if (s.core c).rpfail = BitVec.allOnes 64 then (s.core c).rpfail else (s.core c).rpfail + 1 := by
  refine ⟨_, rfl, ?_⟩
  show (State.core (State.modCore (s.reportTaken c none status) c _) c).rpfail = _
  rw [State.core_modCore_self _ _ _ hc, State.core_reportTaken]

end report

/-! ## The statement -/

/-- Settles O57: a post from its issue to its answer, by the reads and the tag of the sending core, the answer of the intake that it names,
its admission, and what the answer and the report change at the sender. -/
theorem remotePosting : Obligations.RemotePosting := by
  unfold Obligations.RemotePosting
  intro s c q u h desc tag rcnt wcnt x posts
  refine ⟨fun n k mode => ?_, fun p => ?_, fun n p cmd hnext htake hcmd => ?_, fun hu hi hs hm hpkg => ⟨?_, ?_, ?_⟩,
    fun status => ⟨?_, ?_⟩⟩
  · intro d vals g hn hch hu hm hw hawaits hpkg hdesc hsoft htrans hclean hcmd hfresh
    obtain ⟨t, hexec, hout, hwindow, hreports⟩ :=
      remotePostRetry_sends s hn hch hm hu hw hdesc ⟨⟨mode, htrans⟩, hawaits, hsoft, hclean⟩ hpkg hfresh hcmd
    exact ⟨t, hexec, ⟨_, hout, rfl, rfl, rfl, rfl, rfl, rfl, rfl, rfl, rfl, rfl⟩, ⟨_, hwindow, rfl⟩, hreports⟩
  · intro w i y valid answered hwho hpkg hout hsaved
    have hanswered {es : List RemotePost} {code : Int} (h : RunsTo (.remotePostArrival p) s (PostAnswered s · p es code)) :
        RunsTo (.remotePostArrival p) s (answered es code) := by
      obtain ⟨t, hexec, hentries, hmem, houtbox⟩ := h
      exact ⟨t, hexec, hentries, hmem, houtbox⟩
    have hnames : valid ↔ s.NamesOpen p :=
      ⟨fun ⟨hhandle, hopen, hgen, howned, hpartno⟩ => ⟨hhandle, hopen, hgen, howned, hpartno⟩,
        fun ⟨hhandle, hopen, hgen, howned, hpartno⟩ => ⟨hhandle, hopen, hgen, howned, hpartno⟩⟩
    refine ⟨fun hvalid hroom => ?_, fun hvalid hfull => ?_, fun hswap hinvalid => ?_⟩
    · exact hanswered (remotePostArrival_accepts s p hwho hpkg hout hsaved
        ((s.intakeAnswer_open p hsaved (hnames.1 hvalid)).trans (if_neg (Nat.not_le.2 hroom))))
    · exact hanswered (remotePostArrival_refuses s p hwho hpkg hout
        ((s.intakeAnswer_open p hsaved (hnames.1 hvalid)).trans (if_pos hfull)) (by decide))
    · exact hanswered (remotePostArrival_refuses s p hwho hpkg hout
        (s.intakeAnswer_estale p hsaved hswap fun hnamed => hinvalid (hnames.2 hnamed)) (by decide))
  · intro u0 hok hbind
    obtain ⟨t, hexec, ⟨ops, deps, st, hwindow⟩, hseq, hentries, hevent⟩ := intakeAdmit_enters s hnext htake hcmd hok hbind
    exact ⟨t, hexec, ⟨_, hwindow, rfl, rfl, rfl, rfl, rfl⟩, hseq, hentries, hevent⟩
  · exact postAnswerArrival_accepted s hu hi hs hm hpkg
  · exact fun e he => postAnswerArrival_refused s hu hi hs hm hpkg he
  · exact postAnswerArrival_busy s hu hi hs hm hpkg
  · exact fun r hr hnone => remoteReport_tagged s c status hr hnone
  · exact remoteReport_untagged s c status

end Sys2Proof.Machine
end

section
/-!
SUPPORT. The operations that leave memory as it is. (A proof is `(rfl)`, and not `rfl`, where `simp` shall rewrite with the lemma and not compute.)
-/
namespace Sys2Proof.Machine

/-! ## Branches and folds -/

@[simp] theorem State.ite_mem (p : Prop) [Decidable p] (s t : State) : (if p then s else t).mem = if p then s.mem else t.mem :=
  apply_ite State.mem p s t

@[simp] theorem State.foldl_mem {α : Type} (f : State → α → State) (hf : ∀ s a, (f s a).mem = s.mem) (as : List α) (s : State) :
    (as.foldl f s).mem = s.mem := by
  induction as generalizing s with
  | nil => rfl
  | cons a as ih => exact (ih _).trans (hf s a)

variable (s : State)

/-! ## Cores, strands and objects -/

@[simp] theorem State.setLater_mem (r : Reg) (v : Word) (k : PendKind) : (s.setLater r v k).mem = s.mem := by simp [State.setLater]
@[simp] theorem State.modLate_mem (f : Late → Late) : (s.modLate f).mem = s.mem := by simp [State.modLate]
@[simp] theorem State.enterDies_mem (ds : List Nat) (want : Late → Bool) : (s.enterDies ds want).mem = s.mem := by simp [State.enterDies]
@[simp] theorem State.settleFor_mem (by_ : Writer) (die k n : Nat) : (s.settleFor by_ die k n).mem = s.mem := by simp [State.settleFor]
@[simp] theorem State.coverClear_mem (ks : List Nat) (n : Nat) : (s.coverClear ks n).mem = s.mem := by simp [State.coverClear]
@[simp] theorem State.detect_mem (k n : Nat) : (s.detect k n).mem = s.mem := by simp [State.detect]
@[simp] theorem State.scan_mem (ks : List Nat) (n : Nat) : (s.scan ks n).mem = s.mem := by simp [State.scan]
@[simp] theorem State.tbKill_mem (key : Nat) : (s.tbKill key).mem = s.mem := (rfl)
@[simp] theorem State.noteBar_mem (key time who : Nat) : (s.noteBar key time who).mem = s.mem := (rfl)

@[simp] theorem State.stopStrand_mem (c k cause : Nat) (val resume : Word) :
    (s.stopStrand c k cause val resume).mem = s.mem := by simp [State.stopStrand]

@[simp] theorem State.trapAt_mem (c k cause path : Nat) (defer stream : Bool) (val resume : Word) :
    (s.trapAt c k cause path defer stream val resume).mem = s.mem := by simp [State.trapAt]

@[simp] theorem State.trap_mem (cause : Nat) (val : Word) : (s.trap cause val).mem = s.mem := by simp [State.trap]
@[simp] theorem State.eret_mem : s.eret.mem = s.mem := by simp [State.eret]
@[simp] theorem State.serviceEvent_mem (svc strand bit : Nat) : (s.serviceEvent svc strand bit).mem = s.mem := by simp [State.serviceEvent]
@[simp] theorem State.modPart_mem (no : Nat) (f : Partition → Partition) : (s.modPart no f).mem = s.mem := (rfl)

/-! ## Accesses -/

@[simp] theorem State.noteRead_mem (c k key n : Nat) : (s.noteRead c k key n).mem = s.mem := by simp [State.noteRead]

@[simp] theorem State.awaitReq_mem (c k : Nat) (kind : ReqKind) (d : Dest) (a : Acc) (cached : Bool) (user : ReqUser) (own : List (Nat × Byte)) :
    (s.awaitReq c k kind d a cached user own).1.mem = s.mem := (rfl)

@[simp] theorem State.sendReq_mem (c k : Nat) (kind : ReqKind) (d : Dest) (a : Acc) (cached : Bool) (own : List (Nat × Byte)) :
    (s.sendReq c k kind d a cached own).mem = s.mem := (rfl)

@[simp] theorem State.dropRemoteLine_mem (die key n : Nat) : (s.dropRemoteLine die key n).mem = s.mem := (rfl)

@[simp] theorem State.sendReads_mem (c : Nat) (user : ReqUser) (n : Nat) (own : List (Nat × Byte)) (places : List Dest) :
    (s.sendReads c user n own places).mem = s.mem := State.foldl_mem _ (fun s u => by split <;> rfl) _ s

@[simp] theorem State.countMigrate_mem (space va n mode : Nat) : (s.countMigrate space va n mode).mem = s.mem := by simp [State.countMigrate]

@[simp] theorem State.openFault_mem (h' : Holder) (c space path acc va kind level ipa : Nat) :
    (s.openFault h' c space path acc va kind level ipa).mem = s.mem := (rfl)

@[simp] theorem State.flushStreams_mem (scope : Nat) : (s.flushStreams scope).mem = s.mem := by simp [State.flushStreams]
@[simp] theorem State.dropAway_mem (die : Nat) : (s.dropAway die).mem = s.mem := (rfl)
@[simp] theorem State.acquire_mem (scope : Nat) : (s.acquire scope).mem = s.mem := by simp [State.acquire]
@[simp] theorem State.noteRelease_mem (scope : Nat) : (s.noteRelease scope).mem = s.mem := by simp [State.noteRelease]
@[simp] theorem State.tbRelease_mem (key : Nat) (ids : List Nat) : (s.tbRelease key ids).mem = s.mem := by simp [State.tbRelease]
@[simp] theorem State.meet_mem (ids : List Nat) : (s.meet ids).mem = s.mem := by simp [State.meet]
@[simp] theorem State.streamFailed_mem (x : Stream) : (s.streamFailed x).mem = s.mem := by simp [State.streamFailed]
@[simp] theorem State.raiseFlags_mem (c k : Nat) (f : Flags) : (s.raiseFlags c k f).mem = s.mem := by simp [State.raiseFlags]

@[simp] theorem State.finishAtomic_mem (a : Acc) : (s.finishAtomic a).mem = s.mem := by
  unfold State.finishAtomic
  split <;> simp

@[simp] theorem State.holdAccess_mem (a : Acc) (kind level ipa : Nat) : (s.holdAccess a kind level ipa).mem = s.mem := by
  unfold State.holdAccess
  split <;> simp

@[simp] theorem State.loadHere_mem (a : Acc) (r : Reg) (signed : Bool) (key : Nat) :
    (s.loadHere a r signed key).mem = s.mem := by simp [State.loadHere]

@[simp] theorem State.loadAway_mem (a : Acc) (r : Reg) (signed : Bool) (d : Dest) (mode : Nat) : (s.loadAway a r signed d mode).mem = s.mem := by
  unfold State.loadAway
  dsimp only
  repeat' split
  all_goals simp

@[simp] theorem State.sendStore_mem (c k : Nat) (b : Buffered) : (s.sendStore c k b).1.mem = s.mem := by
  unfold State.sendStore
  split <;> simp

@[simp] theorem State.sendAtomic_mem (c k : Nat) (a : Acc) (r : Reg) (d : Dest) : (s.sendAtomic c k a r d).mem = s.mem := by simp [State.sendAtomic]

@[simp] theorem State.sendFrom_mem (c k : Nat) (bs kept : List Buffered) (s : State) : (s.sendFrom c k bs kept).mem = s.mem := by
  induction bs generalizing s kept with
  | nil => simp [State.sendFrom]
  | cons b bs ih =>
    have hstore := s.sendStore_mem c k b
    unfold State.sendFrom
    repeat' split
    all_goals simp_all

@[simp] theorem State.sendReady_mem (c k : Nat) : (s.sendReady c k).mem = s.mem := by simp [State.sendReady]
@[simp] theorem State.buffer_mem (a : Acc) (d : Dest) : (s.buffer a d).mem = s.mem := by simp [State.buffer]
@[simp] theorem State.storeTo_mem (a : Acc) (d : Dest) : (s.storeTo a d).mem = s.mem := by simp [State.storeTo]
@[simp] theorem State.atomicAway_mem (a : Acc) (r : Reg) (d : Dest) : (s.atomicAway a r d).mem = s.mem := by simp [State.atomicAway]
@[simp] theorem State.readTags_mem : s.readTags.mem = s.mem := by simp [State.readTags]

/-! ## Trace records -/

@[simp] theorem State.recordAway_mem (c k va : Nat) (d : Dest) (r : BitVec 256) : (s.recordAway c k va d r).mem = s.mem := by
  simp [State.recordAway, State.modRing_mem]

/-! ## Operands -/

@[simp] theorem State.later_mem (d : Reg) (v : Word) : (s.later d v).mem = s.mem := by simp [State.later]
@[simp] theorem State.branch_mem (taken : Bool) (off : BitVec 16) : (s.branch taken off).mem = s.mem := by simp [State.branch]
@[simp] theorem State.link_mem (d : Reg) (n : Nat) (target : Word) : (s.link d n target).mem = s.mem := by simp [State.link]

/-! ## Fences and barriers -/

@[simp] theorem State.scPlace_mem (scope : Nat) : (s.scPlace scope).mem = s.mem := by simp [State.scPlace]
@[simp] theorem State.dropLines_mem (c : Nat) (ids : List Nat) : (s.dropLines c ids).mem = s.mem := by simp [State.dropLines]
@[simp] theorem State.cross_mem (scope p q : Nat) : (s.cross scope p q).mem = s.mem := by simp [State.cross]
@[simp] theorem State.setBar_mem (b : Bar) : (s.setBar b).mem = s.mem := (rfl)
@[simp] theorem State.toBarrier_mem (a : Arrival) : (s.toBarrier a).mem = s.mem := (rfl)
@[simp] theorem State.arrive_mem (scope id : Nat) : (s.arrive scope id).mem = s.mem := by simp [State.arrive]
@[simp] theorem State.serveConfig_mem (a : Arrival) (expect : Nat) : (s.serveConfig a expect).mem = s.mem := (rfl)

@[simp] theorem State.serveArrival_mem (a : Arrival) : (s.serveArrival a).mem = s.mem := by
  unfold State.serveArrival
  split <;> simp

@[simp] theorem State.serveItem_mem (a : Arrival) : (s.serveItem a).mem = s.mem := by
  unfold State.serveItem
  split <;> simp

/-! ## The window -/

@[simp] theorem State.modTask_mem (c : Nat) (q : BitVec 32) (f : Task → Task) : (s.modTask c q f).mem = s.mem := by simp [State.modTask]

@[simp] theorem State.writeToken_mem (c k : Nat) (t : Task) (failed : Option Nat) (a : Arriver) : (s.writeToken c k t failed a).mem = s.mem := by
  unfold State.writeToken
  repeat' split
  all_goals simp

@[simp] theorem State.sendReport_mem (who : Nat) (tag : BitVec 16) (failed : Option Nat) :
    (s.sendReport who tag failed).mem = s.mem := by simp [State.sendReport]

@[simp] theorem State.retire_mem (c : Nat) (t : Task) (failed : Option Nat) : (s.retire c t failed).mem = s.mem := by
  unfold State.retire
  repeat' split
  all_goals simp

@[simp] theorem State.enter_mem (c : Nat) (t : Task) (early : Option Nat) : (s.enter c t early).mem = s.mem := by
  unfold State.enter
  dsimp only
  repeat' split
  all_goals simp

/-! ## Descriptors -/

@[simp] theorem State.dropDefining_mem : s.dropDefining.mem = s.mem := by simp [State.dropDefining]

/-! ## Grids -/

@[simp] theorem State.modGrid_mem (c g : Nat) (f : Grid → Grid) : (s.modGrid c g f).mem = s.mem := by simp [State.modGrid]
@[simp] theorem State.defineGrid_mem (d : Reg) (no : Nat) (g : Grid) : (s.defineGrid d no g).mem = s.mem := by simp [State.defineGrid]
@[simp] theorem State.noticeShips_mem (c g : Nat) : (s.noticeShips c g).mem = s.mem := (rfl)
@[simp] theorem State.failGrid_mem (c no code : Nat) : (s.failGrid c no code).mem = s.mem := by simp [State.failGrid]
@[simp] theorem State.startShips_mem (failed : Bool) (hs : List Shipment) : (s.startShips failed hs).mem = s.mem := (rfl)

@[simp] theorem State.stampRegion_mem (c f r : Nat) (step : BitVec 32) (a : Arriver) :
    (s.stampRegion c f r step a).mem = s.mem := by simp [State.stampRegion]

@[simp] theorem State.sendShipment_mem (h' : Shipment) (d : ShipData) : (s.sendShipment h' d).mem = s.mem := (rfl)

@[simp] theorem State.endShipment_mem (h' : Shipment) (landed : Bool) (lost : Option Nat) : (s.endShipment h' landed lost).mem = s.mem := by
  unfold State.endShipment
  split <;> simp

/-! ## The debugger -/

@[simp] theorem State.mem_arm (part : Nat) (entries : List (Nat × Breakpoint)) : (s.arm part entries).mem = s.mem := (rfl)

@[simp] theorem State.countSafePoint_mem (c k : Nat) : (s.countSafePoint c k).mem = s.mem := by
  unfold State.countSafePoint
  split <;> simp

@[simp] theorem State.releaseRequest_mem (part : Nat) : (s.releaseRequest part).mem = s.mem := by simp [State.releaseRequest]

/-! ## Time -/

@[simp] theorem State.advance_mem (dt : Nat) : (s.advance dt).mem = s.mem := (rfl)

@[simp] theorem State.fill_mem (x1 : Fill) : (s.fill x1).mem = s.mem := by
  unfold State.fill
  repeat' split
  all_goals simp

@[simp] theorem State.drain_mem (n : Nat) : (s.drain n).mem = s.mem := by simp [State.drain]
@[simp] theorem State.endStep_mem : s.endStep.mem = s.mem := by simp [State.endStep]

/-! ## Fetch -/

@[simp] theorem State.fetchDetect_mem (c space : Nat) (super : Bool) (path va n : Nat) : (s.fetchDetect c space super path va n).mem = s.mem := by
  unfold State.fetchDetect
  repeat' split
  all_goals simp

@[simp] theorem State.requestCode_mem (c unit pc n : Nat) (d : Dest) : (s.requestCode c unit pc n d).mem = s.mem := by simp [State.requestCode]
@[simp] theorem State.observe_mem (i : Instr) : (s.observe i).mem = s.mem := by simp [State.observe]
@[simp] theorem State.issuedBy_mem (c k : Nat) : (s.issuedBy c k).mem = s.mem := by simp [State.issuedBy]

@[simp] theorem State.suspend_mem (c : Nat) (t : Task) (path acc va kind level ipa : Nat) :
    (s.suspend c t path acc va kind level ipa).mem = s.mem := by simp [State.suspend]

/-! ## Copies -/

@[simp] theorem State.askReads_mem (c : Nat) (t : Task) (places : List Dest) : (s.askReads c t places).mem = s.mem := by simp [State.askReads]

@[simp] theorem State.copyDetect_mem (c : Nat) (t : Task) (va n : Nat) : (s.copyDetect c t va n).mem = s.mem := by
  unfold State.copyDetect
  repeat' split
  all_goals simp

/-! ## Remote posts -/

@[simp] theorem State.backToReady_mem (c : Nat) (t : Task) (delay : Nat) : (s.backToReady c t delay).mem = s.mem := by simp [State.backToReady]
@[simp] theorem State.takePost_mem (post : RemotePost) : (s.takePost post).mem = s.mem := by simp [State.takePost]

/-! ## Tasks -/

@[simp] theorem State.taskMeets_mem (c k : Nat) (ph : BitVec 8) : (s.taskMeets c k ph).mem = s.mem := by simp [State.taskMeets]

/-! ## The system -/

@[simp] theorem State.dropFetch_mem (c k : Nat) : (s.dropFetch c k).mem = s.mem := by simp [State.dropFetch]
@[simp] theorem State.evRelease_mem (c k : Nat) : (s.evRelease c k).mem = s.mem := by simp [State.evRelease]
@[simp] theorem State.watchdogStop_mem (c k : Nat) : (s.watchdogStop c k).mem = s.mem := by simp [State.watchdogStop]
@[simp] theorem State.holdSparse_mem (va : Word) (kind level ipa : Nat) : (s.holdSparse va kind level ipa).mem = s.mem := by simp [State.holdSparse]

/-! ## Landing zones -/

@[simp] theorem State.modZone_mem (c z : Nat) (f : Zone → Zone) : (s.modZone c z f).mem = s.mem := by simp [State.modZone]
@[simp] theorem State.modSlot_mem (c z i : Nat) (f : Slot → Slot) : (s.modSlot c z i f).mem = s.mem := by simp [State.modSlot]

@[simp] theorem State.replyCopy_mem (who : Nat) (seq : BitVec 32) (code : Nat) : (s.replyCopy who seq code).mem = s.mem := by
  unfold State.replyCopy
  split <;> simp

@[simp] theorem State.fillSlot_mem (c z i : Nat) (a : Arriver) : (s.fillSlot c z i a).mem = s.mem := by
  unfold State.fillSlot
  dsimp only
  repeat' split
  all_goals simp

/-! ## Returns -/

@[simp] theorem State.returnHere_mem (c k : Nat) (p : Pend) (a : Acc) (d : Dest) (late : Bool) : (s.returnHere c k p a d late).mem = s.mem := by
  unfold State.returnHere
  split <;> simp

@[simp] theorem State.holdWord_mem (die : Nat) (d : Dest) (size : Nat) (v : Word) : (s.holdWord die d size v).mem = s.mem := (rfl)

@[simp] theorem State.strandDone_mem (r : Req) (v : Word) : (s.strandDone r v).mem = s.mem := by
  unfold State.strandDone
  dsimp only
  split <;> simp [State.headsDone_mem]

@[simp] theorem State.strandFails_mem (r : Req) (cause : Nat) : (s.strandFails r cause).mem = s.mem := by
  unfold State.strandFails
  dsimp only
  split <;> simp [State.headsDone_mem]

@[simp] theorem State.codeDone_mem (r : Req) (v : Word) : (s.codeDone r v).mem = s.mem := by simp [State.codeDone]
@[simp] theorem State.noteStream_mem (who strand : Nat) (last acked : BitVec 32) : (s.noteStream who strand last acked).mem = s.mem := (rfl)
@[simp] theorem State.answer_mem (r : RemoteReq) (v : Word) (ok : Bool) : (s.answer r v ok).mem = s.mem := (rfl)
@[simp] theorem State.ackStream_mem (r : RemoteReq) (strand : Nat) (n : BitVec 32) : (s.ackStream r strand n).mem = s.mem := (rfl)

@[simp] theorem State.streamPast_mem (r : RemoteReq) (strand : Nat) (q : BitVec 32) (flush : Bool) :
    (s.streamPast r strand q flush).mem = s.mem := by simp [State.streamPast]

@[simp] theorem State.refuseIn_mem (r : RemoteReq) : (s.refuseIn r).mem = s.mem := by
  unfold State.refuseIn
  split <;> simp

@[simp] theorem State.holdIn_mem (r : RemoteReq) (kind level : Nat) : (s.holdIn r kind level).mem = s.mem := (rfl)

/-! ## The host -/

@[simp] theorem State.modConn_mem (n : Nat) (f : Conn → Conn) : (s.modConn n f).mem = s.mem := (rfl)

@[simp] theorem State.sendEqt_mem (n : Nat) (h' : BitVec 256) (payload : List Byte) : (s.sendEqt n h' payload).mem = s.mem := by
  unfold State.sendEqt
  split <;> simp

@[simp] theorem State.sendAck_mem (n : Nat) : (s.sendAck n).mem = s.mem := by
  unfold State.sendAck
  split <;> simp

@[simp] theorem State.resend_mem (n : Nat) (us : List Unacked) : (s.resend n us).mem = s.mem := (rfl)

@[simp] theorem State.delivered_mem (n : Nat) : (s.delivered n).mem = s.mem := by
  unfold State.delivered
  split <;> simp

@[simp] theorem State.respond_mem (n addr cause : Nat) (payload : List Byte) : (s.respond n addr cause payload).mem = s.mem := by simp [State.respond]
@[simp] theorem State.dropReqs_mem (c : Nat) (user : ReqUser) : (s.dropReqs c user).mem = s.mem := (rfl)
@[simp] theorem State.modPacketOf_mem (q i : Nat) (f : Packet → Packet) : (s.modPacketOf q i f).mem = s.mem := (rfl)
@[simp] theorem State.dropRecorded_mem (q i : Nat) : (s.dropRecorded q i).mem = s.mem := (rfl)

@[simp] theorem State.holdMessage_mem (n : Nat) (c : Conn) (h' : BitVec 256) (payload : List Byte) :
    (s.holdMessage n c h' payload).mem = s.mem := by simp [State.holdMessage]

@[simp] theorem State.detectParts_mem (ps : List PagePart) : (s.detectParts ps).mem = s.mem :=
  State.foldl_mem _ (fun s p => by split <;> simp) ps s

@[simp] theorem State.notifyCore_mem (svc : Nat) : (s.notifyCore svc).mem = s.mem := by simp [State.notifyCore]

/-! ## Queues and packets -/

@[simp] theorem State.modQueue_mem (q : Nat) (f : Queue → Queue) : (s.modQueue q f).mem = s.mem := (rfl)
@[simp] theorem State.hostFence_mem : s.hostFence.mem = s.mem := by simp [State.hostFence]
@[simp] theorem State.modPacket_mem (idx : Nat) (f : Packet → Packet) : (s.modPacket idx f).mem = s.mem := (rfl)
@[simp] theorem State.countParts_mem (space : Nat) (ps : List PagePart) : (s.countParts space ps).mem = s.mem := by simp [State.countParts]

@[simp] theorem State.holdPacket_mem (idx : Nat) (p : Packet) (acc va kind level ipa : Nat) :
    (s.holdPacket idx p acc va kind level ipa).mem = s.mem := (rfl)

@[simp] theorem State.modLaunch_mem (id : Nat) (f : Launch → Launch) : (s.modLaunch id f).mem = s.mem := (rfl)
@[simp] theorem State.startStrand_mem (l : Launch) (c : Nat) : (s.startStrand l c).mem = s.mem := by simp [State.startStrand]
@[simp] theorem State.beginLaunch_mem (l : Launch) : (s.beginLaunch l).mem = s.mem := by simp [State.beginLaunch]
@[simp] theorem State.takeGuest_mem (g : GuestLaunch) : (s.takeGuest g).mem = s.mem := by simp [State.takeGuest]
@[simp] theorem State.endLaunch_mem (l : Launch) (status : Int) : (s.endLaunch l status).mem = s.mem := (rfl)
@[simp] theorem State.endGuest_mem (l : Launch) : (s.endGuest l).mem = s.mem := (rfl)

/-! ## Faults and moves -/

@[simp] theorem State.sclFails_mem (c k : Nat) (f : OpenFault) (a : Acc) (cause : Nat) :
    (s.sclFails c k f a cause).mem = s.mem := by simp [State.sclFails]

@[simp] theorem State.sclHeldAgain_mem (c k : Nat) (f : OpenFault) (a : Acc) (kind level ipa : Nat) :
    (s.sclHeldAgain c k f a kind level ipa).mem = s.mem := by simp [State.sclHeldAgain]

@[simp] theorem State.sclLoads_mem (c k : Nat) (f : OpenFault) (a : Acc) (r : Reg) (signed : Bool) (d : Dest) :
    (s.sclLoads c k f a r signed d).mem = s.mem := by
  unfold State.sclLoads
  split <;> simp

@[simp] theorem State.sclProceeds_mem (c k : Nat) (f : OpenFault) (a : Acc) (d : Dest) (mode : Nat) : (s.sclProceeds c k f a d mode).mem = s.mem := by
  unfold State.sclProceeds
  split <;> simp

@[simp] theorem State.sclZero_mem (c k : Nat) (f : OpenFault) (a : Acc) : (s.sclZero c k f a).mem = s.mem := by
  unfold State.sclZero
  split <;> simp

@[simp] theorem State.sclAgain_mem (c k : Nat) (f : OpenFault) (a : Acc) : (s.sclAgain c k f a).mem = s.mem := by
  unfold State.sclAgain
  dsimp only
  repeat' split
  all_goals simp

@[simp] theorem State.modHeld_mem (f : OpenFault) (g : Packet → Packet) : (s.modHeld f g).mem = s.mem := (rfl)
@[simp] theorem State.clearCount_mem (space page : Nat) : (s.clearCount space page).mem = s.mem := (rfl)

/-! ## Partitions -/

@[simp] theorem State.releaseBars_mem (p : Partition) (cs : List Nat) : (s.releaseBars p cs).mem = s.mem := (rfl)

@[simp] theorem State.endStopped_mem (id : Nat) : (s.endStopped id).mem = s.mem := by
  unfold State.endStopped
  split <;> simp

@[simp] theorem State.openIntakes_mem (p : Partition) : (s.openIntakes p).mem = s.mem := by simp [State.openIntakes]
@[simp] theorem State.stopPosts_mem (x : Core) : (s.stopPosts x).mem = s.mem := by simp [State.stopPosts]

/-! ## The boot -/

@[simp] theorem State.startService_mem (c : Nat) : (s.startService c).mem = s.mem := by simp [State.startService]
@[simp] theorem State.bootPort_mem (b : BootInput) : (s.bootPort b).mem = s.mem := by simp [State.bootPort]
@[simp] theorem State.bootCores_mem (b : BootInput) : (s.bootCores b).mem = s.mem := by simp [State.bootCores]
@[simp] theorem State.bootImages_mem (b : BootInput) : (s.bootImages b).mem = s.mem := by simp [State.bootImages]

/-! ## Links -/

@[simp] theorem State.modLink_mem (n : Nat) (f : Link → Link) : (s.modLink n f).mem = s.mem := (rfl)

/-! ## Masks and permutes -/

@[simp] theorem State.wholeLanes_mem (vd : VReg) (ty : BitVec 4) (xs : List Nat) : (s.wholeLanes vd ty xs).mem = s.mem := by simp [State.wholeLanes]

end Sys2Proof.Machine
end

section
/-!
SUPPORT. The operations that write memory keep its canonical form, and with them every operation that is made of them.
-/
namespace Sys2Proof.Machine

/-- `State.memOk` as `simp` takes it: the canonical form of the memory that a state is given. -/
@[simp, reducible] def State.Canon (s : State) : Prop := Memory.wf s.mem = true

/-- The canonical form in the state that an outcome goes on with. -/
def Out.Canon : Out → Prop
  | .next t => t.Canon
  | _ => True

@[simp] theorem Out.next_canon (t : State) : Out.Canon (.next t) ↔ t.Canon := Iff.rfl

@[simp] theorem Out.ite_canon (p : Prop) [Decidable p] (a b : Out) : Out.Canon (if p then a else b) ↔ (p → a.Canon) ∧ (¬ p → b.Canon) := by
  split <;> simp [*]

@[simp] theorem Memory.wf_ite (p : Prop) [Decidable p] (m n : List Host.Cell) :
    Memory.wf (if p then m else n) = true ↔ (p → Memory.wf m = true) ∧ (¬ p → Memory.wf n = true) := by
  split <;> simp [*]

@[simp] theorem State.foldl_canon {α : Type} (f : State → α → State) (hf : ∀ s a, s.Canon → (f s a).Canon) (as : List α) {s : State} (h : s.Canon) :
    (as.foldl f s).Canon := State.memOk_foldl f hf as h

@[simp] theorem Memory.canon_set {m : List Host.Cell} (h : Memory.wf m = true) (k : Nat) (b : Byte) : Memory.wf (Memory.set m k b) = true :=
  Memory.wf_set k b h

@[simp] theorem Memory.canon_setBytes {m : List Host.Cell} (h : Memory.wf m = true) (k : Nat) (bs : List Byte) :
    Memory.wf (Memory.setBytes m k bs) = true := Memory.wf_setBytes bs k h

@[simp] theorem State.storeBytes_canon {s : State} (h : s.Canon) (k : Nat) (bs : List Byte) : Memory.wf (s.storeBytes k bs) = true :=
  State.wf_storeBytes k bs h

@[simp] theorem State.putMarked_canon {s : State} (h : s.Canon) (cells : List (Nat × Byte × Bool)) : (s.putMarked cells).Canon :=
  State.memOk_putMarked cells h

@[simp] theorem State.writeMarked_canon {s : State} (h : s.Canon) (by_ : Writer) (die : Nat) (clock : List Nat) (cells : List (Nat × Byte × Bool)) :
    (s.writeMarked by_ die clock cells).Canon := State.memOk_writeMarked by_ die clock cells h

@[simp] theorem State.zeroRange_canon {s : State} (h : s.Canon) (k n : Nat) : (s.zeroRange k n).Canon := State.memOk_zeroRange k n h

@[simp] theorem State.writeElem_canon {s : State} (h : s.Canon) (e : Nat) (p : Nat × Nat) (v : Nat) : (s.writeElem e p v).Canon :=
  State.memOk_writeElem e p v h

variable {s : State}

/-! ## Cores, strands and objects -/

@[simp] theorem State.writeNat_canon (h : s.Canon) (k n v : Nat) : (s.writeNat k n v).Canon := by simp [State.writeNat, h]
@[simp] theorem State.writeCells_canon (h : s.Canon) (cells : List (Nat × Byte × Bool)) : (s.writeCells cells).Canon := by simp [State.writeCells, h]

theorem State.takeOut_canon {s t : State} {m : OutMsg} (h : s.Canon) (ht : s.takeOut m = some t) : t.Canon := by
  unfold State.takeOut at ht
  split at ht
  · obtain rfl := Option.some.inj ht
    exact h
  · simp at ht

theorem State.takenOut_canon {s t : State} {m : OutMsg} {mine : Bool} (h : s.Canon) (ht : (if mine then s.takeOut m else some s) = some t) :
    t.Canon := by
  split at ht
  · exact State.takeOut_canon h ht
  · exact Option.some.inj ht ▸ h

@[simp] theorem State.putTb_canon (h : s.Canon) (key x : Nat) : (s.putTb key x).Canon := by simp [State.putTb, h]

@[simp] theorem State.tbInit_canon (h : s.Canon) (key exp scope : Nat) (slot : Bool) :
    (s.tbInit key exp scope slot).Canon := by simp [State.tbInit, h]

@[simp] theorem State.tbFail_canon (h : s.Canon) (key c : Nat) : (s.tbFail key c).Canon := (s.tbFail_steady key c).memOk h

@[simp] theorem State.tbUpdate_canon (h : s.Canon) (key : Nat) (kind : TbKind) (n who path seq plen : Nat) :
    (s.tbUpdate key kind n who path seq plen).1.Canon := by
  unfold State.tbUpdate
  dsimp only
  repeat' split
  all_goals simp [h]

/-! ## Accesses -/

@[simp] theorem State.sendWrites_canon (h : s.Canon) (c : Nat) (user : ReqUser) (own : List (Nat × Byte)) (cells : List (Dest × List Byte)) :
    (s.sendWrites c user own cells).Canon := (s.sendWrites_steady c user own cells).memOk h

@[simp] theorem State.release_canon (h : s.Canon) (scope : Nat) {go : State → Out} (hgo : ∀ t, t.Canon → (go t).Canon) :
    (s.release scope go).Canon := by
  unfold State.release
  split <;> simp [h, hgo]

@[simp] theorem State.atomicAt_canon (h : s.Canon) (c k key size code : Nat) (x e : Word) (clock : List Nat) :
    (s.atomicAt c k key size code x e clock).2.Canon := (s.atomicAt_steady c k key size code x e clock).memOk h

@[simp] theorem State.atomicHere_canon (h : s.Canon) (a : Acc) (code : Nat) (r : Reg) (x e : Word) (key : Nat) :
    (s.atomicHere a code r x e key).Canon := by simp [State.atomicHere, h]

@[simp] theorem State.accessAt_canon (h : s.Canon) (a : Acc) (d : Dest) (mode : Nat) : (s.accessAt a d mode).Canon := by
  unfold State.accessAt
  repeat' split
  all_goals simp [h]

@[simp] theorem State.access_canon (h : s.Canon) (a : Acc) : (s.access a).Canon := by
  unfold State.access
  repeat' split
  all_goals simp [h]

@[simp] theorem State.load_canon (h : s.Canon) (size : Nat) (signed : Bool) (d a : Reg) (imm : BitVec 12) :
    (s.load size signed d a imm).Canon := by simp [State.load, h]

@[simp] theorem State.store_canon (h : s.Canon) (size : Nat) (flush : Bool) (d a : Reg) (imm : BitVec 12) :
    (s.store size flush d a imm).Canon := by simp [State.store, h]

@[simp] theorem State.atomic_canon (h : s.Canon) (code : Nat) (d a b : Reg) (ar : Bool) (scope : BitVec 3) (wide : Bool) :
    (s.atomic code d a b ar scope wide).Canon := by simp +contextual [State.atomic, h]

@[simp] theorem State.performBuffered_canon (h : s.Canon) (c k idx : Nat) (b : Buffered) (key : Nat) :
    (s.performBuffered c k idx b key).Canon := (s.performBuffered_steady c k idx b key).memOk h

@[simp] theorem State.flushOver_canon (c k key n fuel : Nat) {s : State} (h : s.Canon) : (State.flushOver c k key n fuel s).Canon := by
  induction fuel generalizing s with
  | zero => exact h
  | succ f ih =>
    unfold State.flushOver
    split
    · exact ih (s.performBuffered_canon h _ _ _ _ _)
    · exact h

@[simp] theorem State.flushObject_canon (h : s.Canon) (key : Nat) : (s.flushObject key).Canon :=
  State.foldl_canon _ (fun _ c hs => State.foldl_canon _ (fun _ k ht => by simp [ht]) _ hs) _ h

/-! ## Trace records -/

@[simp] theorem State.traceWord_canon (h : s.Canon) (c key : Nat) (clock : List Nat) (v : Nat) :
    (s.traceWord c key clock v).Canon := by simp [State.traceWord, h]

@[simp] theorem State.recordHere_canon (h : s.Canon) (c k key : Nat) (r : BitVec 256) : (s.recordHere c k key r).Canon := by
  simp +contextual [State.recordHere, State.modRing_mem, h]

@[simp] theorem State.putRecord_canon (h : s.Canon) (c k : Nat) (d : Dest) (r : BitVec 256) : (s.putRecord c k d r).Canon := by
  unfold State.putRecord
  split <;> simp [h]

@[simp] theorem State.intoSlot_canon (h : s.Canon) (c k : Nat) (d : Dest) (r : BitVec 256) : (s.intoSlot c k d r).Canon := by
  simp [State.intoSlot, State.modRing_mem, h]

@[simp] theorem State.writeRecord_canon (h : s.Canon) (c k : Nat) (r : BitVec 256) : (s.writeRecord c k r).Canon := by
  unfold State.writeRecord
  dsimp only
  repeat' split
  all_goals simp [h]

@[simp] theorem State.record_canon (h : s.Canon) (c k kind pa pb step : Nat) (sp : Option SafePoint) :
    (s.record c k kind pa pb step sp).Canon := by simp [State.record, h]

@[simp] theorem State.strandRecord_canon (h : s.Canon) (c k kind pa pb : Nat) :
    (s.strandRecord c k kind pa pb).Canon := by simp [State.strandRecord, h]

@[simp] theorem State.leaveWait_canon (h : s.Canon) (c k : Nat) (a : Arriver) (edge : Nat) :
    (s.leaveWait c k a edge).Canon := by simp [State.leaveWait, h]

@[simp] theorem State.leave_canon (h : s.Canon) (a : Arriver) (edge : Nat) : (s.leave a edge).Canon := by simp [State.leave, h]

@[simp] theorem State.taskWait_canon (h : s.Canon) (c : Nat) (t : Task) (a : Arriver) (edge : Nat) :
    (s.taskWait c t a edge).Canon := by simp [State.taskWait, h]

/-! ## Operands -/

@[simp] theorem State.checked_canon (h : s.Canon) {go : State → State} (hgo : ∀ t, t.Canon → (go t).Canon) : (s.checked go).Canon := by
  unfold State.checked
  split <;> simp [h, hgo]

@[simp] theorem State.arith_canon (h : s.Canon) (d : Reg) (v : Word) (n : Nat) : (s.arith d v n).Canon := by simp [State.arith, h]
@[simp] theorem State.multiply_canon (h : s.Canon) (d : Reg) (v : Word) : (s.multiply d v).Canon := by simp [State.multiply, h]
@[simp] theorem State.divide_canon (h : s.Canon) (d : Reg) (v : Word) : (s.divide d v).Canon := by simp [State.divide, h]

/-! ## Fences and barriers -/

@[simp] theorem State.fenceWhen_canon (h : s.Canon) (ready : Bool) {go : State → State} (hgo : ∀ t, t.Canon → (go t).Canon) :
    (s.fenceWhen ready go).Canon := by simp [State.fenceWhen, h, hgo]

@[simp] theorem State.barWaitThen_canon (h : s.Canon) (d : Reg) (scope id : Nat) : (s.barWaitThen d scope id).Canon := by
  unfold State.barWaitThen
  split <;> simp [h]

@[simp] theorem State.onTb_canon (h : s.Canon) (a : Reg) (writes reads : Bool) {go : Nat → State → Out} (hgo : ∀ a t, t.Canon → (go a t).Canon) :
    (s.onTb a writes reads go).Canon := by
  unfold State.onTb
  dsimp only
  repeat' split
  all_goals simp [h, hgo]

@[simp] theorem State.strandUpdate_canon (h : s.Canon) (k : Nat) (kind : TbKind) (n : Nat) (d : Reg) :
    (s.strandUpdate k kind n d).Canon := by simp [State.strandUpdate, h]

theorem execTbInit_canon (h : s.Canon) (d a b : Reg) (scope : BitVec 3) : (execTbInit d a b scope s).Canon :=
  State.onTb_canon h _ _ _ fun k t ht => by simp [ht]

theorem execTbArv_canon (h : s.Canon) (d a b : Reg) : (execTbArv d a b s).Canon :=
  State.onTb_canon h _ _ _ fun k t ht => by simp +contextual [ht]

@[simp] theorem State.tbWaited_canon (h : s.Canon) (k : Nat) (ph : BitVec 8) (d : Reg) (c : Nat) :
    (s.tbWaited k ph d c).Canon := by simp [State.tbWaited, h]

theorem execTbWait_canon (h : s.Canon) (d a b : Reg) : (execTbWait d a b s).Canon :=
  State.onTb_canon h _ _ _ fun k t ht => by dsimp only; split <;> simp [ht]

/-! ## The window -/

@[simp] theorem State.failTask_canon (h : s.Canon) (c : Nat) (t : Task) (cause : Nat) :
    (s.failTask c t cause).Canon := (s.failTask_steady c t cause).memOk h

@[simp] theorem State.post_canon (h : s.Canon) (h' : TaskHead) (cmd : Cmd) (early : Option Nat) :
    (s.post h' cmd early).Canon := by simp [State.post, h]

/-! ## Descriptors -/

@[simp] theorem State.readWords_canon (h : s.Canon) (va n : Nat) {go : Nat → State → Out} (hgo : ∀ a t, t.Canon → (go a t).Canon) :
    (s.readWords va n go).Canon := by
  unfold State.readWords
  split <;> simp [h, hgo]

@[simp] theorem State.readDescriptor_canon (h : s.Canon) (a : Word) (n : Nat) {go : Nat → State → Out} (hgo : ∀ a t, t.Canon → (go a t).Canon) :
    (s.readDescriptor a n go).Canon := by simp +contextual [State.readDescriptor, h, hgo]

@[simp] theorem State.whenUnnamed_canon (h : s.Canon) (ns : List Nat) {go : State → Out} (hgo : ∀ t, t.Canon → (go t).Canon) :
    (s.whenUnnamed ns go).Canon := by simp [State.whenUnnamed, h, hgo]

/-! ## Grids -/

theorem State.readMap_canon (map : Nat) (g : Grid) {go : List (List Nat × Nat) → State → Out} (hgo : ∀ ps t, t.Canon → (go ps t).Canon)
    (cs : List (List Nat)) (acc : List (List Nat × Nat)) {s : State} (h : s.Canon) : (s.readMap map g cs acc go).Canon := by
  induction cs generalizing s acc with
  | nil => exact hgo acc s h
  | cons c cs ih => exact State.readWords_canon h _ _ fun v t ht => ih _ ht

@[simp] theorem State.awaitGrid_canon (h : s.Canon) (d : Reg) (no : Nat) (g : Grid) : (s.awaitGrid d no g).Canon := by simp [State.awaitGrid, h]

theorem execGridDef_canon (h : s.Canon) (d a b : Reg) : (execGridDef d a b s).Canon := by
  unfold execGridDef
  dsimp only
  split
  · simp [h]
  · refine State.readDescriptor_canon h _ _ fun raw t ht => ?_
    have hmap (g : Grid) (go : List (List Nat × Nat) → State → Out) (hgo : ∀ ps u, u.Canon → (go ps u).Canon) :
      (t.readMap (bitsOf raw 63 0) g g.neighbours [] go).Canon := State.readMap_canon _ _ hgo _ _ ht
    simp +contextual [hmap, ht]

@[simp] theorem State.land_canon (h : s.Canon) (c : Nat) (d : ShipData) : (s.land c d).1.Canon := by
  unfold State.land
  dsimp only
  repeat' split
  all_goals simp [h]

/-! ## The debugger -/

@[simp] theorem State.debugStop_canon (h : s.Canon) (c k kind idx : Nat) : (s.debugStop c k kind idx).Canon := by
  unfold State.debugStop
  split <;> simp [h]

@[simp] theorem State.reach_canon (h : s.Canon) (c k : Nat) (sp : SafePoint) (ownCount : Bool) : (s.reach c k sp ownCount).Canon := by
  unfold State.reach
  dsimp only
  repeat' split
  all_goals simp [h]

/-! ## Engines -/

@[simp] theorem State.numRecord_canon (h : s.Canon) (c : Nat) (t : Task) (rs : List ((Nat × Nat) × Elem)) : (s.numRecord c t rs).Canon := by
  unfold State.numRecord
  repeat' split
  all_goals simp [h]

@[simp] theorem State.finishCompute_canon (h : s.Canon) (c : Nat) (t : Task) : (s.finishCompute c t).Canon := by
  unfold State.finishCompute
  extract_lets x u d b ks rs v w ps
  have hu : u.Canon := State.foldl_canon _ (fun s o hs => by simp [hs]) _ h
  have hv : v.Canon := State.numRecord_canon hu _ _ _
  have hw : w.Canon := State.foldl_canon _ (fun s r hs => by split <;> simp [hs]) _ hv
  simp [h, hu, hw]

/-! ## Vector contexts -/

@[simp] theorem State.vfail_canon (h : s.Canon) (cause : Nat) : (s.vfail cause).Canon := by
  unfold State.vfail
  split <;> simp [h]

@[simp] theorem State.pushMask_canon (h : s.Canon) (p : BitVec 1024) (f : Flags) : (s.pushMask p f).Canon := by simp [State.pushMask, h]

@[simp] theorem State.onTop_canon (h : s.Canon) {go : BitVec 1024 → State → Out} (hgo : ∀ a t, t.Canon → (go a t).Canon) : (s.onTop go).Canon := by
  unfold State.onTop
  split <;> simp [h, hgo]

@[simp] theorem State.onTwo_canon (h : s.Canon) (go : BitVec 1024 → BitVec 1024 → BitVec 1024) : (s.onTwo go).Canon := by
  unfold State.onTwo
  split <;> simp [h]

@[simp] theorem State.writeLanes_canon (h : s.Canon) (vd : VReg) (n g : Nat) (m : Bool) (new : List (Nat × Flags)) :
    (s.writeLanes vd n g m new).Canon := by
  unfold State.writeLanes
  split <;> simp [h]

@[simp] theorem State.lane1_canon (h : s.Canon) (vd va : VReg) (ty : BitVec 4) (m : Bool) (f : Nat → Nat × Flags) :
    (s.lane1 vd va ty m f).Canon := by simp [State.lane1, h]

@[simp] theorem State.lane2_canon (h : s.Canon) (vd va vb : VReg) (ty : BitVec 4) (m : Bool) (f : Nat → Nat → Nat × Flags) :
    (s.lane2 vd va vb ty m f).Canon := by simp [State.lane2, h]

@[simp] theorem State.lane3_canon (h : s.Canon) (vd va vb vc : VReg) (ty : BitVec 4) (m : Bool) (f : Nat → Nat → Nat → Nat × Flags) :
    (s.lane3 vd va vb vc ty m f).Canon := by simp [State.lane3, h]

/-! ## Fetch -/

@[simp] theorem State.fetchWord_canon (h : s.Canon) (va : Word) {go : Nat → State → Out} (hgo : ∀ a t, t.Canon → (go a t).Canon) :
    (s.fetchWord va go).Canon := by
  unfold State.fetchWord
  dsimp only
  repeat' split
  all_goals simp [h, hgo]

@[simp] theorem State.endRegWait_canon (h : s.Canon) : s.endRegWait.Canon := by
  unfold State.endRegWait
  dsimp only
  repeat' split
  all_goals simp [h]

@[simp] theorem State.issue_canon (h : s.Canon) (i : Instr) {go : State → Out} (hgo : ∀ t, t.Canon → (go t).Canon) : (s.issue i go).Canon := by
  unfold State.issue
  repeat' split
  all_goals simp [h, hgo]

theorem State.raiseDeferred_canon {s t : State} (h : s.Canon) (ht : s.raiseDeferred = some t) : t.Canon := by
  unfold State.raiseDeferred at ht
  split at ht
  · simp at ht
  · split at ht
    · simp at ht
    · obtain rfl := Option.some.inj ht
      simpa using h

@[simp] theorem State.fetchVector_canon (h : s.Canon) (t : Task) {go : Nat → State → Out} (hgo : ∀ a t, t.Canon → (go a t).Canon) :
    (s.fetchVector t go).Canon := by
  unfold State.fetchVector
  dsimp only
  repeat' split
  all_goals simp [h, hgo]

/-! ## Copies -/

@[simp] theorem State.copyRecord_canon (h : s.Canon) (c : Nat) (t : Task) (va n : Nat) {go : Nat → State → State}
    (hgo : ∀ a t, t.Canon → (go a t).Canon) : (s.copyRecord c t va n go).Canon := by
  unfold State.copyRecord
  dsimp only
  repeat' split
  all_goals simp [h, hgo]

@[simp] theorem State.mapChecked_canon (h : s.Canon) (c : Nat) (t : Task) (m : Tmap) : (s.mapChecked c t m).Canon := by
  unfold State.mapChecked
  split <;> simp [h]

@[simp] theorem State.readTmap_canon (h : s.Canon) (c : Nat) (t : Task) (va : Nat) : (s.readTmap c t va).Canon := by
  unfold State.readTmap
  dsimp only
  repeat' split
  all_goals simp +contextual [h]

@[simp] theorem State.issueCopy_canon (h : s.Canon) (c : Nat) (t : Task) : (s.issueCopy c t).Canon := by
  unfold State.issueCopy
  repeat' split
  all_goals simp [h]

@[simp] theorem State.copyArrival_canon (h : s.Canon) (c : Nat) (t : Task) : (s.copyArrival c t).Canon := by
  unfold State.copyArrival
  split <;> simp [h]

@[simp] theorem State.copyCredit_canon (h : s.Canon) (c : Nat) (t : Task) (r : CopyRun) (n : Nat) {go : State → Task → State}
    (hgo : ∀ t a, t.Canon → (go t a).Canon) : (s.copyCredit c t r n go).Canon := by
  unfold State.copyCredit
  split <;> simp [h, hgo]

@[simp] theorem State.copyWrites_canon (h : s.Canon) (c : Nat) (t : Task) (r : CopyRun) : (s.copyWrites c t r).Canon := by simp [State.copyWrites, h]

@[simp] theorem State.creditChunk_canon (h : s.Canon) (c : Nat) (t : Task) (m : Tmap) (r : CopyRun) :
    (s.creditChunk c t m r).Canon := by simp +contextual [State.creditChunk, h]

@[simp] theorem State.performChunk_canon (h : s.Canon) (c : Nat) (t : Task) (m : Tmap) : (s.performChunk c t m).Canon := by
  unfold State.performChunk
  extract_lets x t u
  have hu : u.Canon := by simp [u, h]
  split
  extract_lets v
  rename_i r e _
  have hv : v.Canon := State.copyWrites_canon hu _ _ _
  split
  · simp [hu]
  · split
    · exact State.failTask_canon hv _ _ _
    · simp [hv]
    · simp [hv]

/-! ## Remote posts -/

@[simp] theorem State.sendPost_canon (h : s.Canon) (c : Nat) (t : Task) (handle : Word) (tagVal : Option Word) (rcnt wcnt d : Nat) :
    (s.sendPost c t handle tagVal rcnt wcnt d).Canon := by simp [State.sendPost, h]

@[simp] theorem State.issuePost_canon (h : s.Canon) (c : Nat) (t : Task) : (s.issuePost c t).Canon := by
  unfold State.issuePost
  split
  · split
    · simp [h]
    · exact State.copyRecord_canon h _ _ _ _ fun d u hu => by simp [hu]
  · exact h

theorem execPostAnswerArrival_canon (h : s.Canon) (core : Nat) (seq : BitVec 32) (code : Int) :
    (execPostAnswerArrival core seq code s).Canon := by
  unfold execPostAnswerArrival
  split
  · simp [h]
  · extract_lets away got free
    have hfree {u : State} (hu : u.Canon) : (free u).Canon := by
      simp only [free]
      split <;> simp [hu]
    have hgot {u : State} (hu : got = some u) : u.Canon := by
      simp only [got] at hu
      split at hu
      · exact Option.some.inj hu ▸ h
      · exact State.takeOut_canon h hu
    clear_value got
    cases got with
    | none => simp [h]
    | some u =>
      have hu := hgot rfl
      dsimp only
      repeat' split
      all_goals simp [hu, hfree]

theorem execRemotePostArrival_canon (h : s.Canon) (post : RemotePost) : (execRemotePostArrival post s).Canon := by
  unfold execRemotePostArrival
  dsimp only
  split
  · simp [h]
  · rename_i t ht
    simp [State.takenOut_canon h ht]

theorem execRemoteReport_canon (h : s.Canon) (core : Nat) (tag : Option (BitVec 16)) (status : Int) :
    (execRemoteReport core tag status s).Canon := by
  have hgot (m : OutMsg) : ((s.takeOut m).getD s).Canon := by
    cases ht : s.takeOut m with
    | none => exact h
    | some t => exact State.takeOut_canon h ht
  unfold execRemoteReport
  dsimp only
  split <;> simp [hgot]

/-! ## Tasks -/

@[simp] theorem State.makeReady_canon (h : s.Canon) (c : Nat) (t : Task) : (s.makeReady c t).Canon := by simp [State.makeReady, h]

@[simp] theorem State.engineEdge_canon (h : s.Canon) (c : Nat) (t : Task) (u : Nat) : (s.engineEdge c t u).1.Canon := by
  unfold State.engineEdge
  repeat' split
  all_goals simp [h]

@[simp] theorem State.issueTask_canon (h : s.Canon) (c : Nat) (t : Task) (u : Nat) : (s.issueTask c t u).Canon := by
  have hedge := s.engineEdge_canon h c t u
  unfold State.issueTask
  generalize s.engineEdge c t u = e at hedge ⊢
  obtain ⟨s', t'⟩ := e
  dsimp only at hedge ⊢
  repeat' split
  all_goals simp [hedge]

@[simp] theorem State.takeReport_canon (h : s.Canon) (c : Nat) (t : Task) (g : BitVec 16) : (s.takeReport c t g).Canon := by
  unfold State.takeReport
  split <;> simp [h]

/-! ## The system -/

@[simp] theorem State.drained_canon (h : s.Canon) {go : State → Out} (hgo : ∀ t, t.Canon → (go t).Canon) : (s.drained go).Canon := by
  unfold State.drained
  repeat' split
  all_goals simp [h, hgo]

theorem execCkpt_canon (h : s.Canon) : (execCkpt s).Canon :=
  State.drained_canon h fun t ht => by simp [State.ownCount_mem, ht]

@[simp] theorem State.onSys_canon (h : s.Canon) (num : BitVec 12) {go : Nat → Nat → Nat → Bool → State → Out}
    (hgo : ∀ i j k b t, t.Canon → (go i j k b t).Canon) : (s.onSys num go).Canon := by simp [State.onSys, h, hgo]

@[simp] theorem execRegisterWrite_canon (h : s.Canon) (core strand : Nat) (num : BitVec 12) (value : Word) :
    (execRegisterWrite core strand num value s).Canon := by simp [execRegisterWrite, h]

@[simp] theorem execEvset_canon (h : s.Canon) (core : Nat) (value : Word) : (execEvset core value s).Canon := by simp [execEvset, h]

@[simp] theorem execTrctlWrite_canon (h : s.Canon) (core strand : Nat) (value : Word) :
    (execTrctlWrite core strand value s).Canon := by simp [execTrctlWrite, h]

@[simp] theorem execTrbaseWrite_canon (h : s.Canon) (core strand : Nat) (value : Word) :
    (execTrbaseWrite core strand value s).Canon := by simp [execTrbaseWrite, h]

@[simp] theorem State.failTasks_canon (h : s.Canon) (c cause : Nat) (p : Task → Bool) :
    (s.failTasks c cause p).Canon := (s.failTasks_steady c cause p).memOk h

@[simp] theorem forMask_canon (mask : BitVec 4) (h : s.Canon) {f : Nat → State → State} (hf : ∀ k t, t.Canon → (f k t).Canon) :
    (forMask mask s f).Canon := State.foldl_canon _ (fun s k hs => by split; exacts [hf k s hs, hs]) _ h

@[simp] theorem execCorectlFlush_canon (h : s.Canon) (core : Nat) (mask : BitVec 4) :
    (execCorectlFlush core mask s).Canon := by simp [execCorectlFlush, h]

@[simp] theorem execCorectlFlushin_canon (h : s.Canon) (core : Nat) : (execCorectlFlushin core s).Canon := by simp [execCorectlFlushin, h]

@[simp] theorem execCorectlStop_canon (h : s.Canon) (core : Nat) (mask : BitVec 4) :
    (execCorectlStop core mask s).Canon := by simp [execCorectlStop, h]

@[simp] theorem State.zeroPads_canon (h : s.Canon) (c : Nat) : (s.zeroPads c).Canon := by
  unfold State.zeroPads
  simpa using State.zeroRange_canon (State.zeroRange_canon (by simpa using h) _ _) _ _

@[simp] theorem execCorectlReset_canon (h : s.Canon) (core : Nat) (mask : BitVec 4) : (execCorectlReset core mask s).Canon := by
  unfold execCorectlReset
  have hreset {f : Nat → State → State} (hf : ∀ k t, t.Canon → (f k t).Canon) : (forMask mask s f).Canon := forMask_canon mask h hf
  simp only [Out.next_canon]
  split
  · rw [State.Canon, State.modCore_mem]
    exact State.zeroPads_canon (hreset fun k t ht => by simp [ht]) core
  · exact hreset fun k t ht => by simp [ht]

theorem Out.thenState_canon {o : Out} (ho : o.Canon) (h : s.Canon) {go : State → Out} (hgo : ∀ t, t.Canon → (go t).Canon) :
    (o.thenState s go).Canon := by
  cases o with
  | next t => exact hgo t ho
  | fault f => exact hgo s h
  | refused r => exact hgo s h

@[simp] theorem State.corectl_canon (h : s.Canon) (core : Nat) (value : Word) : (s.corectl core value).Canon := by
  unfold State.corectl
  refine Out.thenState_canon (execCorectlFlush_canon h _ _) h fun t ht => Out.thenState_canon ?_ ht fun u hu =>
    Out.thenState_canon (execCorectlStop_canon hu _ _) hu fun v hv => execCorectlReset_canon hv _ _
  simp [ht]

theorem execSysw_canon (h : s.Canon) (num : BitVec 12) (a : Reg) : (execSysw num a s).Canon :=
  State.onSys_canon h num fun c k n r t ht => by simp +contextual [ht]

@[simp] theorem State.setLeaf_canon (h : s.Canon) (l : Leaf) (new : Nat) : (s.setLeaf l new).Canon := by simp [State.setLeaf, h]

@[simp] theorem State.onSparse_canon (h : s.Canon) (d a : Reg) {go : Leaf → State → Out} (hgo : ∀ a t, t.Canon → (go a t).Canon) :
    (s.onSparse d a go).Canon := by
  unfold State.onSparse
  dsimp only
  repeat' split
  all_goals simp [h, hgo]

theorem execMemCommit_canon (h : s.Canon) (d a : Reg) : (execMemCommit d a s).Canon :=
  State.onSparse_canon h d a fun l t ht => by
    split
    · simp [ht]
    · repeat' split
      all_goals simp [ht]

/-! ## Landing zones -/

@[simp] theorem State.failSlot_canon (h : s.Canon) (c z i cause : Nat) : (s.failSlot c z i cause).Canon := (s.failSlot_steady c z i cause).memOk h

theorem State.tbInits_canon (h : s.Canon) (y : Zone) (c n : Nat) :
    ((List.range n).foldl (fun s i => s.tbInit (y.barKey c i) 1 y.scope true) s).Canon :=
  State.foldl_canon _ (fun _ _ hs => State.tbInit_canon hs _ _ _ _) _ h

theorem execLzDef_canon (h : s.Canon) (d a b : Reg) : (execLzDef d a b s).Canon := by
  simp +contextual [execLzDef, State.readDescriptor_canon, State.tbInits_canon, h]

@[simp] theorem State.grantSlot_canon (h : s.Canon) (r : ResvRequest) : (s.grantSlot r).2.Canon := by
  unfold State.grantSlot
  dsimp only
  repeat' split
  all_goals simp [h]

theorem execLzResvRequest_canon (h : s.Canon) (req : ResvRequest) : (execLzResvRequest req s).Canon := by
  unfold execLzResvRequest
  dsimp only
  split
  · simp [h]
  · rename_i t ht
    have := State.takenOut_canon h ht
    simp [h, this]

theorem execLzRel_canon (h : s.Canon) (d a b : Reg) : (execLzRel d a b s).Canon := by
  have hrel (c z i : Nat) (y : Zone) (t : State) (ht : t.Canon) :
      (((t.failSlot c z i Cause.estale).tbKill (y.barKey c i)).tbInit (y.barKey c i) 1 y.scope true).Canon := by simp [ht]
  simp +contextual [execLzRel, hrel, h]

@[simp] theorem State.undefZone_canon (h : s.Canon) (c z : Nat) : (s.undefZone c z).Canon := by
  simp +contextual [State.undefZone, h]

@[simp] theorem State.refuseChunk_canon (h : s.Canon) (k : CprChunk) (cause : Nat) : (s.refuseChunk k cause).Canon := by simp [State.refuseChunk, h]
@[simp] theorem State.landChunk_canon (h : s.Canon) (k : CprChunk) (c z i : Nat) : (s.landChunk k c z i).Canon := by simp [State.landChunk, h]

theorem execCprChunkArrival_canon (h : s.Canon) (chunk : CprChunk) : (execCprChunkArrival chunk s).Canon := by
  unfold execCprChunkArrival
  dsimp only
  split
  · simp [h]
  · split
    · simp [h]
    · rename_i t ht
      split <;> simp [State.takenOut_canon h ht]

@[simp] theorem State.landArrival_canon (h : s.Canon) (m : CprArrival) (c z i : Nat) : (s.landArrival m c z i).Canon := by simp [State.landArrival, h]

theorem execCprArrival_canon (h : s.Canon) (arr : CprArrival) : (execCprArrival arr s).Canon := by
  unfold execCprArrival
  dsimp only
  split
  · simp [h]
  · split
    · simp [h]
    · rename_i t ht
      split <;> simp [State.takenOut_canon h ht]

theorem execCprFailureReport_canon (h : s.Canon) (resv : Word) (code : Nat) : (execCprFailureReport resv code s).Canon := by
  unfold execCprFailureReport
  split
  · rename_i t ht
    have := State.takeOut_canon h ht
    repeat' split
    all_goals simp [this]
  · repeat' split
    all_goals simp [h]

/-! ## Returns -/

@[simp] theorem State.codeFails_canon (h : s.Canon) (r : Req) (cause : Nat) : (s.codeFails r cause).Canon := by
  unfold State.codeFails
  repeat' split
  all_goals simp [h]

@[simp] theorem State.storeIn_canon (h : s.Canon) (r : RemoteReq) (key : Nat) (v : Word) (strand : Nat) (q : BitVec 32) (flush : Bool) :
    (s.storeIn r key v strand q flush).Canon := by simp [State.storeIn, h]

@[simp] theorem State.atomicIn_canon (h : s.Canon) (r : RemoteReq) (key code : Nat) (x e : Word) : (s.atomicIn r key code x e).Canon := by
  unfold State.atomicIn
  dsimp only
  repeat' split
  all_goals simp [h]

@[simp] theorem State.performIn_canon (h : s.Canon) (r : RemoteReq) (key : Nat) : (s.performIn r key).Canon := by
  unfold State.performIn
  split <;> simp [h]

@[simp] theorem State.incoming_canon (h : s.Canon) (r : RemoteReq) : (s.incoming r).Canon := by
  unfold State.incoming
  dsimp only
  repeat' split
  all_goals simp [h]

/-! ## The host -/

@[simp] theorem State.unitNat_canon (h : s.Canon) (k n v : Nat) : (s.unitNat k n v).Canon := (s.unitNat_steady k n v).memOk h
@[simp] theorem State.portResult_canon (h : s.Canon) (svc code : Nat) : (s.portResult svc code).Canon := by simp [State.portResult, h]

@[simp] theorem State.endEvents_canon (h : s.Canon) (n : Nat) (seqs : List (BitVec 32)) (code : Nat) :
    (s.endEvents n seqs code).Canon := by simp +contextual [State.endEvents, h]

@[simp] theorem State.acked_canon (h : s.Canon) (n : Nat) (ack : BitVec 32) : (s.acked n ack).Canon := by
  unfold State.acked
  split <;> simp [h]

@[simp] theorem State.hostPut_canon (h : s.Canon) (n : Nat) (cells : List (Nat × Byte)) : (s.hostPut n cells).Canon := by simp [State.hostPut, h]

@[simp] theorem State.hostDone_canon (h : s.Canon) (n : Nat) (r : Req) (v : Word) : (s.hostDone n r v).Canon := by
  unfold State.hostDone
  split <;> simp [h]

@[simp] theorem State.countRefusal_canon (h : s.Canon) (ring : Nat) : (s.countRefusal ring).Canon := by simp [State.countRefusal, h]

@[simp] theorem State.lostRecord_canon (h : s.Canon) (q i : Nat) : (s.lostRecord q i).Canon := by
  unfold State.lostRecord
  split <;> simp [h]

@[simp] theorem State.reqDone_canon (h : s.Canon) (r : Req) (v : Word) : (s.reqDone r v).Canon := by
  unfold State.reqDone
  repeat' split
  all_goals simp [h]

@[simp] theorem State.reqFails_canon (h : s.Canon) (r : Req) (cause : Nat) : (s.reqFails r cause).Canon := by
  unfold State.reqFails
  dsimp only
  repeat' split
  all_goals simp [h]

@[simp] theorem State.reqsFail_canon (h : s.Canon) (cause : Nat) (which : Req → Bool) : (s.reqsFail cause which).Canon :=
  State.foldl_canon _ (fun s r hs => by split <;> simp [hs]) _ h

@[simp] theorem State.downConn_canon (h : s.Canon) (n : Nat) : (s.downConn n).Canon := by
  unfold State.downConn
  split <;> simp [h]

@[simp] theorem State.resendOne_canon (h : s.Canon) (n : Nat) (u : Unacked) : (s.resendOne n u).Canon := by simp [State.resendOne, h]

@[simp] theorem State.nacked_canon (h : s.Canon) (n : Nat) (h' : BitVec 256) : (s.nacked n h').Canon := by
  unfold State.nacked
  dsimp only
  repeat' split
  all_goals simp +contextual [h]

@[simp] theorem State.takeMessage_canon (h : s.Canon) (n : Nat) (c : Conn) (h' : BitVec 256) (payload : List Byte) :
    (s.takeMessage n c h' payload).Canon := by simp [State.takeMessage, h]

@[simp] theorem State.takeDatagram_canon (h : s.Canon) (f : Frame) : (s.takeDatagram f).Canon := by
  unfold State.takeDatagram
  split <;> simp [h]

@[simp] theorem State.hostMessage_canon (h : s.Canon) (n op : Nat) (h' : BitVec 256) (payload : List Byte) {go : Conn → State → Out}
    (hgo : ∀ a t, t.Canon → (go a t).Canon) : (s.hostMessage n op h' payload go).Canon := by
  unfold State.hostMessage
  split <;> simp [h, hgo]

@[simp] theorem State.hostAccess_canon (h : s.Canon) (n : Nat) (c : Conn) (h' : BitVec 256) (payload : List Byte) (acc len : Nat)
    {go : List PagePart → State} (hgo : ∀ a, (go a).Canon) : (s.hostAccess n c h' payload acc len go).Canon := by
  unfold State.hostAccess
  split <;> simp [h, hgo]

theorem execEqtWrite_canon (h : s.Canon) (conn : Nat) (hdr : BitVec 256) (payload : List Byte) :
    (execEqtWrite conn hdr payload s).Canon :=
  State.hostMessage_canon h _ _ _ _ fun c t ht => State.hostAccess_canon ht _ _ _ _ _ _ fun ps => by simp [ht]

theorem execEqtFadd_canon (h : s.Canon) (conn : Nat) (hdr : BitVec 256) (payload : List Byte) :
    (execEqtFadd conn hdr payload s).Canon :=
  State.hostMessage_canon h _ _ _ _ fun c t ht => State.hostAccess_canon ht _ _ _ _ _ _ fun ps => by
    dsimp only
    repeat' split
    all_goals simp [ht]

@[simp] theorem State.setNotify_canon (h : s.Canon) (q : Nat) : (s.setNotify q).Canon := by
  unfold State.setNotify
  split <;> simp [h]

theorem execEqtNotify_canon (h : s.Canon) (conn : Nat) (hdr : BitVec 256) (payload : List Byte) :
    (execEqtNotify conn hdr payload s).Canon :=
  State.hostMessage_canon h _ _ _ _ fun c t ht => by
    dsimp only
    split <;> simp [ht]

/-! ## Queues and packets -/

@[simp] theorem State.clearRing_canon (h : s.Canon) (e : QueueEntry) : (s.clearRing e).Canon := by simp +contextual [State.clearRing, h]
@[simp] theorem State.putQueueEntry_canon (h : s.Canon) (q : Nat) (e : QueueEntry) : (s.putQueueEntry q e).Canon := by simp [State.putQueueEntry, h]

@[simp] theorem State.headerError_canon (h : s.Canon) (q : Queue) (index x cause : Nat) : (s.headerError q index x cause).Canon :=
  State.countRefusal_canon (State.unitNat_canon (State.unitNat_canon h _ _ _) _ _ _) _

@[simp] theorem State.putCompletion_canon (h : s.Canon) (q : Queue) (index : Nat) (d : Dest) (status : Int) :
    (s.putCompletion q index d status).Canon := by
  unfold State.putCompletion
  split <;> simp [h]

@[simp] theorem State.refusePacket_canon (h : s.Canon) (q : Queue) (index x cause : Nat) : (s.refusePacket q index x cause).Canon := by
  unfold State.refusePacket
  dsimp only
  repeat' split
  all_goals simp [h]

@[simp] theorem State.takeNotify_canon (h : s.Canon) (q : Nat) : (s.takeNotify q).Canon := by simp [State.takeNotify, h]

theorem execQueuePacketRead_canon (h : s.Canon) (queue : Nat) : (execQueuePacketRead queue s).Canon := by
  unfold execQueuePacketRead
  split
  · simp [h]
  · extract_lets runs u i k v x w
    have hu : u.Canon := State.takeNotify_canon h queue
    have hw : w.Canon := by simp [w, v, hu]
    repeat' split
    all_goals simp [h, hu, hw]

@[simp] theorem State.onPacket_canon (h : s.Canon) (idx kind : Nat) {go : Packet → State → Out} (hgo : ∀ a t, t.Canon → (go a t).Canon) :
    (s.onPacket idx kind go).Canon := by
  unfold State.onPacket
  split <;> simp [h, hgo]

theorem execPacketEvent_canon (h : s.Canon) (idx : Nat) : (execPacketEvent idx s).Canon :=
  State.onPacket_canon h _ _ fun p t ht => by
    dsimp only
    repeat' split
    all_goals simp [ht]

@[simp] theorem State.putChunk_canon (h : s.Canon) (p : Packet) (src dst : List PagePart) (n : Nat) :
    (s.putChunk p src dst n).Canon := by simp [State.putChunk, h]

theorem execPacketCopy_canon (h : s.Canon) (idx : Nat) : (execPacketCopy idx s).Canon :=
  State.onPacket_canon h _ _ fun p t ht => by
    dsimp only
    repeat' split
    all_goals simp [ht]

theorem execPacketLaunch_canon (h : s.Canon) (idx : Nat) : (execPacketLaunch idx s).Canon :=
  State.onPacket_canon h _ _ fun p t ht => by
    dsimp only
    repeat' split
    all_goals simp [ht]

@[simp] theorem State.recordPacket_canon (h : s.Canon) (q : Queue) (idx : Nat) (p : Packet) (v : Int) :
    (s.recordPacket q idx p v).Canon := (s.recordPacket_steady q idx p v).memOk h

/-! ## Faults and moves -/

@[simp] theorem State.recordFault_canon (h : s.Canon) (f : OpenFault) : (s.recordFault f).Canon := by simp [State.recordFault, h]
@[simp] theorem State.taskAgain_canon (h : s.Canon) (c : Nat) (t : Task) : (s.taskAgain c t).Canon := by simp [State.taskAgain, h]

@[simp] theorem State.retryFault_canon (h : s.Canon) (f : OpenFault) : (s.retryFault f).Canon := by
  unfold State.retryFault
  dsimp only
  repeat' split
  all_goals simp [h]

@[simp] theorem State.refuseFault_canon (h : s.Canon) (f : OpenFault) : (s.refuseFault f).Canon := by
  unfold State.refuseFault
  dsimp only
  repeat' split
  all_goals simp [h]

@[simp] theorem State.writeHeld_canon (h : s.Canon) (c : Nat) : (s.writeHeld c).Canon := by
  unfold State.writeHeld
  dsimp only
  split
  · exact h
  · have hheld := State.foldl_canon (fun s (p : Nat × BitVec 256) => s.writeRecord c p.1 p.2) (fun s p hs => State.writeRecord_canon hs _ _ _)
      (s.core c).traceHeld (s := s.setCore c { s.core c with traceHeld := [], traceLost := 0 }) (by simpa using h)
    split
    · exact hheld
    · exact State.writeRecord_canon hheld _ _ _

@[simp] theorem State.endMove_canon (h : s.Canon) (m : Moving) : (s.endMove m).Canon :=
  State.foldl_canon _ (fun _ c hs => State.writeHeld_canon hs c) _ (State.foldl_canon _ (fun _ f hs => State.retryFault_canon hs f) _ h)

theorem execMigrationComplete_canon (h : s.Canon) (space page : Nat) (moved : MovedPage) :
    (execMigrationComplete space page moved s).Canon := by
  have hput (k : Nat) (l : Leaf) (v : Nat) : ((s.writeBytes k moved.bytes).setLeaf l v).Canon := by simp [h]
  unfold execMigrationComplete
  dsimp only
  repeat' split
  all_goals simp [h, hput]

@[simp] theorem State.invalidate_canon (h : s.Canon) (svc kind : Nat) (stale : Nat → TlbEntry → Bool) (busy : Nat → Nat → Nat → Bool) :
    (s.invalidate svc kind stale busy).Canon := by simp [State.invalidate, h]

/-! ## Partitions -/

@[simp] theorem State.failNamedSlots_canon (h : s.Canon) (c : Nat) (ids : List Nat) : (s.failNamedSlots c ids).Canon :=
  State.foldl_canon _ (fun _ z hs => State.foldl_canon _ (fun _ i ht => by simp [ht]) _ hs) _ h

@[simp] theorem State.failNamedBars_canon (h : s.Canon) (c : Nat) (ids : List Nat) :
    (s.failNamedBars c ids).Canon := by simp +contextual [State.failNamedBars, h]

@[simp] theorem State.failEdges_canon (h : s.Canon) (p : Partition) (cs : List Nat) : (s.failEdges p cs).Canon := by
  unfold State.failEdges
  refine State.foldl_canon _ (fun s c hs => by simp +contextual [hs]) _ (State.foldl_canon _ (fun s c hs => by simp [hs]) _ ?_)
  simpa using h

@[simp] theorem State.failPosted_canon (h : s.Canon) (l c : Nat) : (s.failPosted l c).Canon := by simp [State.failPosted, h]

@[simp] theorem State.stopHere_canon (h : s.Canon) (l : Launch) : (s.stopHere l).Canon := by
  unfold State.stopHere
  extract_lets mine u v
  have hu : u.Canon := State.foldl_canon _ (fun s c hs => by simp +contextual [hs]) _ h
  have hv : v.Canon := State.foldl_canon _ (fun s c hs => by simp [hs]) _ hu
  split
  · simp [hv]
  · exact hv

@[simp] theorem State.resetCore_canon (h : s.Canon) (c : Nat) : (s.resetCore c).Canon := (s.resetCore_steady c).memOk h
@[simp] theorem State.configureBars_canon (h : s.Canon) (p : Partition) : (s.configureBars p).Canon := (s.configureBars_steady p).memOk h
@[simp] theorem State.stopPackets_canon (h : s.Canon) (no : Nat) : (s.stopPackets no).Canon := (s.stopPackets_steady no).memOk h

@[simp] theorem State.saveHeader_canon (h : s.Canon) (p : Partition) (state nrep : Nat) :
    (s.saveHeader p state nrep).Canon := by simp [State.saveHeader, h]

@[simp] theorem State.stopPartition_canon (h : s.Canon) (p : Partition) : (s.stopPartition p).Canon := s.stopPartition_memOk p h

@[simp] theorem State.stopNo_canon (h : s.Canon) (no : Nat) : (s.stopNo no).Canon := by
  unfold State.stopNo
  split <;> simp [h]

@[simp] theorem State.moveBytes_canon (h : s.Canon) (src dst n : Nat) : (s.moveBytes src dst n).Canon := by simp [State.moveBytes, h]

theorem State.moveAll_canon (keys : State × Nat → Nat × Nat → Nat × Nat) (ps : List (Nat × Nat)) {s : State} (h : s.Canon) (k : Nat) :
    (ps.foldl (fun (acc : State × Nat) p => (acc.1.moveBytes (keys acc p).1 (keys acc p).2 p.2, acc.2 + p.2)) (s, k)).1.Canon := by
  induction ps generalizing s k with
  | nil => exact h
  | cons p ps ih => exact ih (State.moveBytes_canon h _ _ _) _

@[simp] theorem State.writeCore_canon (h : s.Canon) (r : Nat × Core × Nat) : (s.writeCore r).Canon :=
  State.moveAll_canon (fun acc p => (p.1, acc.2)) _ (State.memOk_unitWrite _ _ h) _

theorem execPartitionSave_canon (h : s.Canon) (part : Nat) : (execPartitionSave part s).Canon := by
  unfold execPartitionSave
  split
  · simp [h]
  · split
    · simp [h]
    · extract_lets xs ships bars lives u v w
      have hu : u.Canon := State.foldl_canon _ (fun _ r hs => State.writeCore_canon hs r) _ h
      have hw : w.Canon := State.foldl_canon _ (fun _ c hs => State.resetCore_canon hs c) _ (State.saveHeader_canon hu _ _ _)
      simpa using hw

@[simp] theorem State.restoreCore_canon (h : s.Canon) (r : Nat × Core × Nat) : (s.restoreCore r).Canon := by
  unfold State.restoreCore
  simpa using State.moveAll_canon (fun acc p => (acc.2, p.1)) (s.livePlaces r.1 r.2.1) h (r.2.2 + 0x12840)

theorem execPartitionResume_canon (h : s.Canon) (part : Nat) : (execPartitionResume part s).Canon := by
  unfold execPartitionResume
  split
  · simp [h]
  · rename_i p _
    split
    · simp [h]
    · extract_lets u v w
      have hu : u.Canon := State.foldl_canon _ (fun _ r hs => State.restoreCore_canon hs r) _ h
      have hv : v.Canon := by simpa [v] using hu
      simpa using State.saveHeader_canon hv p 0 0

@[simp] theorem State.putRemap_canon (h : s.Canon) (no word : Nat) : (s.putRemap no word).Canon := by simp [State.putRemap, h]
@[simp] theorem State.writeTables_canon (h : s.Canon) (r : PartRequest) : (s.writeTables r).Canon := by simp +contextual [State.writeTables, h]

theorem execPartitionCreate_canon (h : s.Canon) (req : PartRequest) : (execPartitionCreate req s).Canon := by
  unfold execPartitionCreate
  split
  · simp [h]
  · extract_lets p m u v w y z conns
    have hv : v.Canon := by simpa [v] using h
    have hy : y.Canon := by simpa [y] using State.configureBars_canon (State.unitNat_canon hv _ _ _) p
    have hz : z.Canon := State.foldl_canon _ (fun _ q hs => by simp [hs]) _ hy
    exact State.writeTables_canon (s := { z with conns := z.conns ++ conns }) hz req

@[simp] theorem State.scramble_canon (h : s.Canon) (g : Nat × Nat) : (s.scramble g).Canon := by
  unfold State.scramble
  have hset (l : List Nat) : ∀ {m : List Host.Cell}, Memory.wf m = true →
      Memory.wf (l.foldl (fun m i => Memory.set m (g.1 + i) (Config.raceByte s.tick (g.1 + i))) m) = true := by
    induction l with
    | nil => exact id
    | cons i l ih => exact fun hm => ih (Memory.wf_set _ _ hm)
  exact hset _ h

@[simp] theorem State.closeAll_canon (h : s.Canon) (no : Nat) : (s.closeAll no).Canon := by
  unfold State.closeAll
  refine State.foldl_canon _ (fun s sp hs => by simp [hs]) _ ?_
  exact State.foldl_canon _ (fun s r hs => by simp [hs]) _ (State.foldl_canon _ (fun s q hs => by simp [hs]) _ h)

@[simp] theorem State.dropSaved_canon (h : s.Canon) (p : Partition) : (s.dropSaved p).Canon := by simp [State.dropSaved, h]

theorem execPartitionRelease_canon (h : s.Canon) (part : Nat) : (execPartitionRelease part s).Canon := by
  unfold execPartitionRelease
  split
  · simp [h]
  · split
    · simp [h]
    · extract_lets u gs w m v x free
      have hu : u.Canon := by simp [u, h]
      have hv : v.Canon := State.closeAll_canon hu part
      have hx : x.Canon := State.foldl_canon _ (fun _ g hs => State.scramble_canon hs g) _ hv
      exact hx

/-! ## The boot -/

theorem Memory.above_map (f : Nat → Byte → Byte) {k : Nat} {m : List Host.Cell} (h : Memory.above k m = true) :
    Memory.above k (m.map fun c => (c.1, f c.1 c.2)) = true := by
  induction m with
  | nil => rfl
  | cons c m ih =>
    obtain ⟨a, b⟩ := c
    simp only [Memory.above, List.map_cons, Bool.and_eq_true, decide_eq_true_eq] at h ⊢
    exact ⟨h.1, ih h.2⟩

/-- Changing listed bytes and dropping those that become what an unlisted address reads as keeps the canonical form. -/
theorem Memory.wf_mapFilter (f : Nat → Byte → Byte) {m : List Host.Cell} (h : Memory.wf m = true) :
    Memory.wf ((m.map fun c => (c.1, f c.1 c.2)).filter fun c => c.2 != 0) = true := by
  induction m with
  | nil => rfl
  | cons c m ih =>
    obtain ⟨a, b⟩ := c
    simp only [Memory.wf, Bool.and_eq_true, decide_eq_true_eq] at h
    obtain ⟨⟨habove, -⟩, hwf⟩ := h
    rw [List.map_cons, List.filter_cons]
    split
    · rename_i hne
      simp only [Memory.wf, Bool.and_eq_true, decide_eq_true_eq]
      exact ⟨⟨Memory.above_filter _ (Memory.above_map f habove), by simpa [Memory.unlisted] using hne⟩, ih hwf⟩
    · exact ih hwf

@[simp] theorem State.clearTables_canon (h : s.Canon) (v : BootValues) : (s.clearTables v).Canon :=
  Memory.wf_mapFilter (fun k b => b &&& BootValues.keeps v k) h

@[simp] theorem State.bootConfig_canon (h : s.Canon) (b : BootInput) : (s.bootConfig b).Canon := by
  simp [State.bootConfig, h]

@[simp] theorem State.bootRom_canon (h : s.Canon) (b : BootInput) : (s.bootRom b).Canon := by
  simp [State.bootRom, h]

theorem State.memoryAfterReset_wf (s : State) : Memory.wf s.memoryAfterReset = true := by
  unfold State.memoryAfterReset
  have hset (l m : List Host.Cell) (hm : Memory.wf m = true) :
      Memory.wf (l.foldl (fun m c => Memory.set m c.1 (Config.raceByte s.tick c.1)) m) = true := by
    induction l generalizing m with
    | nil => exact hm
    | cons c l ih => exact ih _ (Memory.wf_set _ _ hm)
  exact hset _ _ rfl

theorem execPackageReset_canon (s : State) (boot : BootInput) : (execPackageReset boot s).Canon :=
  State.bootRom_canon s.memoryAfterReset_wf boot

/-! ## Definitions -/

@[simp] theorem State.setRegion_canon (h : s.Canon) (q : QReg) (f : Nat → Nat) : (s.setRegion q f).Canon := by simp [State.setRegion, h]

/-! ## Links -/

@[simp] theorem State.failRouted_canon (h : s.Canon) (c : Nat) (e : Nat × Nat) : (s.failRouted c e).Canon :=
  State.foldl_canon _ (fun _ z hs => State.foldl_canon _ (fun _ i ht => by simp [ht]) _ hs) _ h

/-- A change of the cores and of what leaves the package, after which the barriers that the link carried fail, leaves memory as it is. -/
theorem State.failNetBars_canon (h : s.Canon) (cores : Vector Core 260) (out : List OutMsg) :
    ({ s with cores := cores, outbox := out } : State).failNetBars.Canon := h

@[simp] theorem State.linkFails_canon (h : s.Canon) (e : Nat × Nat) : (s.linkFails e).Canon := by
  have hfail (s : State) (h : s.Canon) := State.foldl_canon (fun (s : State) c =>
    (s.failTasks c Cause.linkFailed fun t => s.crosses t.route e).failRouted c e) (fun s c hs => by simp [hs]) (List.range 256) h
  unfold State.linkFails
  refine State.failNetBars_canon (hfail _ ?_) _ _
  simp [h]

@[simp] theorem State.goDown_canon (h : s.Canon) (n : Nat) : (s.goDown n).Canon := by
  simp [State.goDown, h]

/-! ## The loader -/

@[simp] theorem State.loadBytes_canon (h : s.Canon) (parts : List (Dest × List Byte)) : (s.loadBytes parts).Canon :=
  State.foldl_canon _ (fun s p hs => by split <;> simp [hs]) parts h

@[simp] theorem State.nameTables_canon (h : s.Canon) (at_ : LoadPlace) (points : Nat) : (s.nameTables at_ points).Canon :=
  State.memOk_unitWrite _ _ (State.unitNat_canon (State.unitNat_canon h _ _ _) _ _ _)

theorem execImageLoad_canon (h : s.Canon) (part space : Nat) (at_ : LoadPlace) (file : List Byte) :
    (execImageLoad part space at_ file s).Canon := by
  have hplaced (parts : List (Dest × List Byte)) (n : Nat) : ((s.loadBytes parts).nameTables at_ n).Canon := by simp [h]
  unfold execImageLoad
  dsimp only
  split
  · simp [h]
  · split
    · simp [h]
    · simp [hplaced]

/-! ## Floating-point lanes -/

@[simp] theorem State.float1_canon (h : s.Canon) (vd va : VReg) (ty : BitVec 4) (rm : BitVec 3) (sat m : Bool) (f : Ext → Ext × Flags) :
    (s.float1 vd va ty rm sat m f).Canon := by simp [State.float1, h]

@[simp] theorem State.float2_canon (h : s.Canon) (vd va vb : VReg) (ty : BitVec 4) (rm : BitVec 3) (sat m : Bool) (f : Ext → Ext → Ext × Flags) :
    (s.float2 vd va vb ty rm sat m f).Canon := by simp [State.float2, h]

@[simp] theorem State.fused_canon (h : s.Canon) (vd va vb vc : VReg) (ty : BitVec 4) (rm : BitVec 3) (sat m negP negZ : Bool) :
    (s.fused vd va vb vc ty rm sat m negP negZ).Canon := by simp [State.fused, h]

/-! ## Integer lanes -/

@[simp] theorem State.intOp_canon (h : s.Canon) (vd va vb : VReg) (ty : BitVec 4) (m : Bool) (f : Int → Int → Int) :
    (s.intOp vd va vb ty m f).Canon := by simp [State.intOp, h]

@[simp] theorem State.satOp_canon (h : s.Canon) (vd va vb : VReg) (ty : BitVec 4) (m : Bool) (f : Int → Int → Int) :
    (s.satOp vd va vb ty m f).Canon := by simp [State.satOp, h]

@[simp] theorem State.bitOp_canon (h : s.Canon) (vd va vb : VReg) (ty : BitVec 4) (m : Bool) (f : Nat → Nat → Nat) :
    (s.bitOp vd va vb ty m f).Canon := by simp [State.bitOp, h]

@[simp] theorem State.shiftReg_canon (h : s.Canon) (kind : Nat) (vd va vb : VReg) (ty : BitVec 4) (m : Bool) :
    (s.shiftReg kind vd va vb ty m).Canon := by simp [State.shiftReg, h]

@[simp] theorem State.shiftImm_canon (h : s.Canon) (kind : Nat) (vd va : VReg) (k : BitVec 5) (ty : BitVec 4) (m : Bool) :
    (s.shiftImm kind vd va k ty m).Canon := by simp [State.shiftImm, h]

@[simp] theorem State.wideOp_canon (h : s.Canon) (vd va vb : VReg) (ty ty2 : BitVec 4) (m : Bool) (f : Int → Int → Int) :
    (s.wideOp vd va vb ty ty2 m f).Canon := by simp [State.wideOp, h]

/-! ## Masks and permutes -/

@[simp] theorem State.pushLanes_canon (h : s.Canon) (m : Bool) (bs : List (Bool × Flags)) : (s.pushLanes m bs).Canon := by
  unfold State.pushLanes
  split <;> simp [h]

@[simp] theorem State.permute_canon (h : s.Canon) (vd : VReg) (ty : BitVec 4) (m : Bool) (f : Nat → Nat) :
    (s.permute vd ty m f).Canon := by simp [State.permute, h]

@[simp] theorem State.reduce_canon (h : s.Canon) (vd : VReg) (m : Bool) (go : (Nat → Bool) → Nat × Flags) : (s.reduce vd m go).Canon := by
  unfold State.reduce
  split <;> simp [h]

@[simp] theorem State.reduceInt_canon (h : s.Canon) (vd va : VReg) (ty : BitVec 4) (m : Bool) (ident : Int) (f : Int → Int → Int) :
    (s.reduceInt vd va ty m ident f).Canon := by simp [State.reduceInt, h]

/-! ## Vector memory -/

@[simp] theorem State.laneAccess_canon (h : s.Canon) (store : Bool) (layout n align : Nat) (lanes : List (Bool × Nat)) {go : List Nat → State → Out}
    (hgo : ∀ a t, t.Canon → (go a t).Canon) :
    (s.laneAccess store layout n align lanes go).Canon := by
  unfold State.laneAccess
  dsimp only
  repeat' split
  all_goals simp [h, hgo]

@[simp] theorem State.vecLoad_canon (h : s.Canon) (vd : VReg) (ty layout : Nat) (m : Bool) (addrs : List Nat) :
    (s.vecLoad vd ty layout m addrs).Canon := by
  unfold State.vecLoad
  dsimp only
  repeat' split
  all_goals simp +contextual [h]

@[simp] theorem State.vecStore_canon (h : s.Canon) (vd : VReg) (ty layout : Nat) (m : Bool) (addrs : List Nat) :
    (s.vecStore vd ty layout m addrs).Canon := by
  unfold State.vecStore
  split
  · simp [h]
  · exact State.laneAccess_canon h _ _ _ _ _ fun keys t ht => by simp +contextual [ht]

theorem execMst_canon (h : s.Canon) (abase aidx : AReg) (imm : BitVec 16) : (execMst abase aidx imm s).Canon :=
  State.onTop_canon h fun p t ht => State.laneAccess_canon ht _ _ _ _ _ fun ks u hu => by simp [hu]

@[simp] theorem State.writeA_canon (h : s.Canon) (ad : AReg) (v : Word) : (s.writeA ad v).Canon := by simp [State.writeA, h]
@[simp] theorem State.steer_canon (h : s.Canon) (taken : Bool) (target : Word) : (s.steer taken target).Canon := by simp [State.steer, h]

/-! ## Steps -/

theorem endOf_canon {o : Out} (h : o.Canon) : (endOf o).Canon := by
  cases o with
  | next t => simpa [endOf] using h
  | fault f => exact trivial
  | refused r => exact trivial

end Sys2Proof.Machine
end

section
/-!
SUPPORT. The canonical form of memory in every step: each instruction and row of events, the turn of a strand and of a vector context.
-/
namespace Sys2Proof.Machine

/-- Every instruction and every row of events keeps the canonical form: through the operation that it shares with others, or at the end of each of
its own branches. -/
theorem exec_canon (i : Instr) {s : State} (h : s.Canon) : Out.Canon (exec i s) := by
  cases i
  -- integer operations, branches, loads and stores
  case add | sub | and | or | xor | andn | sll | srl | sra | ror | slt | sltn | min | max | minn | maxn | mul | mulh | mulhn | div | divn | rem |
    remn | clz | ctz | popc | brev | bswap | clmul | clmulh | addw | subw | sllw | srlw | sraw | exts | extz | seq | sne | addi | andi | ori | xori
    | slti | sltni | slli | srli | srai | rori | lih | addpc | beq | bne | blt | bge | bltn | bgen | jal | jalr | ldI8 | ldI16 | ldI32 | ld64 | ldN8
    | ldN16 | ldN32 | st8 | st16 | st32 | st64 | st64F | li | lihi | addl | jall =>
    simp [exec, execAdd, execSub, execAnd, execOr, execXor, execAndn, execSll, execSrl, execSra, execRor, execSlt, execSltn, execMin, execMax,
      execMinn, execMaxn, execMul, execMulh, execMulhn, execDiv, execDivn, execRem, execRemn, execClz, execCtz, execPopc, execBrev, execBswap,
      execClmul, execClmulh, execAddw, execSubw, execSllw, execSrlw, execSraw, execExts, execExtz, execSeq, execSne, execAddi, execAndi, execOri,
      execXori, execSlti, execSltni, execSlli, execSrli, execSrai, execRori, execLih, execAddpc, execBeq, execBne, execBlt, execBge, execBltn,
      execBgen, execJal, execJalr, execLdI8, execLdI16, execLdI32, execLd64, execLdN8, execLdN16, execLdN32, execSt8, execSt16, execSt32, execSt64,
      execSt64F, execLi, execLihi, execAddl, execJall, h]
  -- atomics, fences, barriers and tokens
  case atomAdd | atomAnd | atomOr | atomXor | atomXchg | atomCas | atomMin | atomMax | atomMinn | atomMaxn | atomFadd | atomFmin | atomFmax |
    atomIncw | atomAddb | fenceAcq | fenceRel | fenceAr | fenceSc | fenceX | barArv | barWait | barCfg | tkTest | tkAfter | tbAfter =>
    simp [exec, execAtomAdd, execAtomAnd, execAtomOr, execAtomXor, execAtomXchg, execAtomCas, execAtomMin, execAtomMax, execAtomMinn, execAtomMaxn,
      execAtomFadd, execAtomFmin, execAtomFmax, execAtomIncw, execAtomAddb, execFenceAcq, execFenceRel, execFenceAr, execFenceSc, execFenceX,
      execBarArv, execBarWait, execBarCfg, execTkTest, execTkAfter, execTbAfter, h]
  case barSync | tbExpect | tbTest | tbInval | tbName =>
    simp +contextual [exec, execBarSync, execTbExpect, execTbTest, execTbInval, execTbName, h]
  case tbInit => exact execTbInit_canon h _ _ _ _
  case tbArv => exact execTbArv_canon h _ _ _
  case tbWait => exact execTbWait_canon h _ _ _
  case tkWait =>
    dsimp only [exec, execTkWait]
    repeat' split
    all_goals simp [h]
  -- buffers, regions and task forms
  case bufDef =>
    simp +contextual [exec, execBufDef, h]
  case bufUndef | rgnB | rgnO | rgnE | rgnClr | mm | mmd | mmz | xp | row | vrun | cp | cpW | cpG | cpS | cpF | cpR | taskRpost | taskRstat =>
    simp [exec, execBufUndef, execRgnB, execRgnO, execRgnE, execRgnClr, execMm, execMmd, execMmz, execXp, execRow, execVrun, execCp, execCpW,
      execCpG, execCpS, execCpF, execCpR, execTaskRpost, execTaskRstat, h]
  -- landing zones
  case lzDef => exact execLzDef_canon h _ _ _
  case lzRel => exact execLzRel_canon h _ _ _
  case lzResvRequest => exact execLzResvRequest_canon h _
  case cprChunkArrival => exact execCprChunkArrival_canon h _
  case cprArrival => exact execCprArrival_canon h _
  case cprFailureReport => exact execCprFailureReport_canon h _ _
  case lzResv | lzStat | lzUndef | slotLeaseExpiry =>
    simp [exec, execLzResv, execLzStat, execLzUndef, execSlotLeaseExpiry, h]
  case lzResvAnswer =>
    dsimp only [exec, execLzResvAnswer]
    repeat' split
    all_goals simp [h]
  -- grids
  case gridDef => exact execGridDef_canon h _ _ _
  case gridBc | gridStep | gridStat | gridUndef | gridFailureNotice =>
    simp [exec, execGridBc, execGridStep, execGridStat, execGridUndef, execGridFailureNotice, h]
  case gridMarkerRetire | declaredStepArrival | haloShipmentLand | haloShipmentCredit | haloShipmentRead | haloFillLand =>
    dsimp only [exec, execGridMarkerRetire, execDeclaredStepArrival, execHaloShipmentLand, execHaloShipmentCredit, execHaloShipmentRead,
      execHaloFillLand]
    repeat' split
    all_goals simp [h]
  -- system registers, strands and sparse pages
  case ecall | trap | sysr | spawn | accFree | traceMark | stepEnd | eret | endStrand | yield | halt | corectlFlush | corectlFlushin | corectlStop |
    timerExpiry =>
    simp [exec, execEcall, execTrap, execSysr, execSpawn, execAccFree, execTraceMark, execStepEnd, execEret, execEndStrand, execYield, execHalt,
      execCorectlFlush, execCorectlFlushin, execCorectlStop, execTimerExpiry, h]
  case sysw => exact execSysw_canon h _ _
  case memCommit => exact execMemCommit_canon h _ _
  case ckpt => exact execCkpt_canon h
  case registerWrite => exact execRegisterWrite_canon h _ _ _ _
  case evset => exact execEvset_canon h _ _
  case trctlWrite => exact execTrctlWrite_canon h _ _ _
  case trbaseWrite => exact execTrbaseWrite_canon h _ _ _
  case corectlReset => exact execCorectlReset_canon h _ _
  case waitev | accAlloc =>
    dsimp only [exec, execWaitev, execAccAlloc]
    repeat' split
    all_goals simp [h]
  case memDecommit =>
    simp +contextual [exec, execMemDecommit, h]
  case safept =>
    simp [exec, execSafept, State.ownCount_mem, h]
  -- vector memory and control
  case illegalWord | vld | vst | vlds | vsts | vgath | vscat | vldb | ali | aadd | aaddi | amul | ashl | amovv | vloop | vj | abne | vtrap =>
    simp [exec, execIllegalWord, execVld, execVst, execVlds, execVsts, execVgath, execVscat, execVldb, execAli, execAadd, execAaddi, execAmul,
      execAshl, execAmovv, execVloop, execVj, execAbne, execVtrap, h]
  case mld | vbz | vbnz =>
    simp +contextual [exec, execMld, execVbz, execVbnz, h]
  case mst => exact execMst_canon h _ _ _
  case vend =>
    dsimp only [exec, execVend]
    repeat' split
    all_goals simp [h]
  -- integer members
  case vadd | vsub | vmul | vmulh | vmad | vmin | vmax | vabs | vneg | vand | vor | vxor | vnot | vsll | vsllImm | vsrl | vsrlImm | vsra | vsraImm |
    vadds | vsubs | vavg | vclz | vpopc | vclmul | vclmulh | vmulw | vaddw | vdot4 =>
    simp [exec, execVadd, execVsub, execVmul, execVmulh, execVmad, execVmin, execVmax, execVabs, execVneg, execVand, execVor, execVxor, execVnot,
      execVsll, execVsllImm, execVsrl, execVsrlImm, execVsra, execVsraImm, execVadds, execVsubs, execVavg, execVclz, execVpopc, execVclmul,
      execVclmulh, execVmulw, execVaddw, execVdot4, h]
  -- floating-point members
  case vfadd | vfsub | vfmul | vfma | vfms | vfnma | vfmin | vfmax | vfminp | vfmaxp | vfabs | vfneg | vfcpys | vfdiv | vfsqrt | vexp2 | vlog2 |
    vrcp | vrsqrt | vsinpi | vcospi | vfrnd | vfclass | vfscale | vcvt | vcvtw | vcvtn =>
    simp [exec, execVfadd, execVfsub, execVfmul, execVfma, execVfms, execVfnma, execVfmin, execVfmax, execVfminp, execVfmaxp, execVfabs, execVfneg,
      execVfcpys, execVfdiv, execVfsqrt, execVexp2, execVlog2, execVrcp, execVrsqrt, execVsinpi, execVcospi, execVfrnd, execVfclass, execVfscale,
      execVcvt, execVcvtw, execVcvtn, h]
  -- masks, permutes and reductions
  case vcmp | mpush | minv | mcnt | mfirst | vbcast | vsplat | vshuf | vrot | vslide | vzip | vuzp | vcmprs | vexpnd | viota | vsel | vmov | vrsum |
    vrmax | vrmin | vrxor | vrfsum | vrfmax | mand | mor | mandn | mpop =>
    simp [exec, execVcmp, execMpush, execMinv, execMcnt, execMfirst, execVbcast, execVsplat, execVshuf, execVrot, execVslide, execVzip, execVuzp,
      execVcmprs, execVexpnd, execViota, execVsel, execVmov, execVrsum, execVrmax, execVrmin, execVrxor, execVrfsum, execVrfmax, execMand, execMor,
      execMandn, execMpop, h]
  -- the window
  case windowGrant =>
    simp [exec, execWindowGrant, h]
  case taskReady | taskIssue | remotePostRetry | taskAging | producerFailed | taskComplete | stampStaleLimit =>
    dsimp only [exec, execTaskReady, execTaskIssue, execRemotePostRetry, execTaskAging, execProducerFailed, execTaskComplete, execStampStaleLimit]
    repeat' split
    all_goals simp [h]
  -- queues and packets
  case launchStart | launchComplete | packetComplete | queueOpen | queueWatchdogExpiry =>
    dsimp only [exec, execLaunchStart, execLaunchComplete, execPacketComplete, execQueueOpen, execQueueWatchdogExpiry]
    repeat' split
    all_goals simp [h]
  case queuePacketRead => exact execQueuePacketRead_canon h _
  case packetLaunch => exact execPacketLaunch_canon h _
  case packetCopy => exact execPacketCopy_canon h _
  case packetEvent => exact execPacketEvent_canon h _
  case packetNop =>
    simp [exec, execPacketNop, h]
  -- returns and the host
  case loadReturn | eqtRetransmit | eqtAckTimer | barrierArrival | accessPerformedAtHome | eqtAck | eqtNack | rdmaResponse | notifyLineWrite |
    eventPortSend | pendingResultWritten =>
    dsimp only [exec, execLoadReturn, execEqtRetransmit, execEqtAckTimer, execBarrierArrival, execAccessPerformedAtHome, execEqtAck, execEqtNack,
      execRdmaResponse, execNotifyLineWrite, execEventPortSend, execPendingResultWritten]
    repeat' split
    all_goals simp [h]
  case remoteStoreAck =>
    dsimp only [exec, execRemoteStoreAck]
    repeat' split
    all_goals simp [State.headsDone_mem, h]
  case frameReceive | rdmaInboundRequest | rdmaTransportGiveUp =>
    simp [exec, execFrameReceive, execRdmaInboundRequest, execRdmaTransportGiveUp, h]
  case eqtWrite => exact execEqtWrite_canon h _ _ _
  case eqtFadd => exact execEqtFadd_canon h _ _ _
  case eqtNotify => exact execEqtNotify_canon h _ _ _
  case eqtRead =>
    simp +contextual [exec, execEqtRead, h]
  -- copies and posts
  case copyChunkDone | copyArrivalReply | intakeAdmit =>
    dsimp only [exec, execCopyChunkDone, execCopyArrivalReply, execIntakeAdmit]
    repeat' split
    all_goals simp [h]
  case remotePostArrival => exact execRemotePostArrival_canon h _
  case remoteReport => exact execRemoteReport_canon h _ _ _
  case postAnswerArrival => exact execPostAnswerArrival_canon h _ _ _
  -- faults, moves and invalidation
  case resolvableFault | heldFaultRecord | dispRetry | dispRefuse | migrationStart =>
    dsimp only [exec, execResolvableFault, execHeldFaultRecord, execDispRetry, execDispRefuse, execMigrationStart]
    repeat' split
    all_goals simp [h]
  case migrationComplete => exact execMigrationComplete_canon h _ _ _
  case invalidateSpace | invalidatePartition | invalidateAll =>
    simp [exec, execInvalidateSpace, execInvalidatePartition, execInvalidateAll, h]
  -- the debugger
  case breakpointStop =>
    dsimp only [exec, execBreakpointStop]
    repeat' split
    all_goals simp [h]
  case debugStepRequest | debugHaltRequest | debugResume | traceSample =>
    simp [exec, execDebugStepRequest, execDebugHaltRequest, execDebugResume, execTraceSample, h]
  -- partitions and the loader
  case preemptRequest | fatalStop | preemptLimit | partitionStopRequest =>
    dsimp only [exec, execPreemptRequest, execFatalStop, execPreemptLimit, execPartitionStopRequest]
    repeat' split
    all_goals simp [h]
  case partitionSave => exact execPartitionSave_canon h _
  case partitionResume => exact execPartitionResume_canon h _
  case partitionCreate => exact execPartitionCreate_canon h _
  case partitionRelease => exact execPartitionRelease_canon h _
  case imageLoad => exact execImageLoad_canon h _ _ _ _
  case partitionStop =>
    simp [exec, execPartitionStop, h]
  -- links
  case flitCrcError | linkDown | linkWidthChange | linkRetrain | linkTrainingDone | linkFailureNews | linkDisable | linkDisableDrained | linkEnable
    | linkRecordUpdate | rttMeasure | linkRecordRequest =>
    simp [exec, execFlitCrcError, execLinkDown, execLinkWidthChange, execLinkRetrain, execLinkTrainingDone, execLinkFailureNews, execLinkDisable,
      execLinkDisableDrained, execLinkEnable, execLinkRecordUpdate, execRttMeasure, execLinkRecordRequest, h]
  case requestResend | noRouteTimeout =>
    dsimp only [exec, execRequestResend, execNoRouteTimeout]
    repeat' split
    all_goals simp [h]
  -- power, telemetry and the boot
  case memoryScrub | scratchpadScrub | forecastUpdate | clockSelect | powerTrip | capSet | thermalThrottle | telemetryRequest | attestationRequest
    =>
    simp [exec, execMemoryScrub, execScratchpadScrub, execForecastUpdate, execClockSelect, execPowerTrip, execCapSet, execThermalThrottle,
      execTelemetryRequest, execAttestationRequest, h]
  case thermalShutdown =>
    simp +contextual [exec, execThermalShutdown, h]
  case packageReset => exact execPackageReset_canon s _

theorem runDecoded_canon {s : State} (h : s.Canon) (w : Nat) (d : Decoded) : (runDecoded w s d).Canon := by
  cases d with
  | instr i => exact State.issue_canon h i fun t ht => exec_canon i ht
  | illegal e => exact exec_canon (.illegalWord false (BitVec.ofNat 64 w)) h

theorem runStrand_canon {s : State} (h : s.Canon) : (runStrand s).Canon :=
  State.fetchWord_canon h _ fun w t ht => by
    dsimp only
    split
    · exact State.fetchWord_canon (by simpa using ht) _ fun w' u hu => runDecoded_canon hu _ _
    · exact runDecoded_canon (by simpa using ht) _ _

theorem stepStrand_canon {s : State} (h : s.Canon) : (stepStrand s).Canon := by
  have hrun := runStrand_canon h
  unfold stepStrand
  split
  · simp [h]
  · split
    · rename_i t ht
      simpa using State.raiseDeferred_canon h ht
    · split
      · rename_i t ht
        rw [ht] at hrun
        simpa using hrun
      · exact hrun

theorem runVector_canon {s : State} (h : s.Canon) (w : Nat) : (runVector w s).Canon := by
  unfold runVector
  split
  · exact exec_canon _ h
  · exact exec_canon _ h

theorem stepCtx_canon {s : State} (h : s.Canon) : (stepCtx s).Canon := by
  unfold stepCtx
  split
  · simp [h]
  · split
    · exact State.fetchVector_canon (by simpa using h) _ fun w t ht => runVector_canon ht w
    · simp [h]

/-- A step keeps the canonical form, whatever has the turn. -/
theorem step_canon {s : State} (h : s.Canon) : Out.Canon (step s) := by
  have hend : s.endStep.Canon := by simpa using h
  unfold step
  split
  · exact hend
  · split
    · exact endOf_canon (stepStrand_canon h)
    · exact hend
  · split
    · exact endOf_canon (stepCtx_canon h)
    · exact hend
  · split
    · exact endOf_canon (exec_canon _ h)
    · exact hend

/-- Settles O38: every instruction and row of events keeps the canonical form (`exec_canon`), and so does what a step does around it
(`step_canon`). -/
theorem stepKeepsMemory : Obligations.StepKeepsMemory := by
  unfold Obligations.StepKeepsMemory
  intro s t h hstep
  have hcanon := step_canon h
  rw [hstep] at hcanon
  exact hcanon

end Sys2Proof.Machine
end

section
/-!
SUPPORT. Bytes of memory after several writes, little-endian values, and the bytes that one party writes in this package.
-/
namespace Sys2Proof.Machine

/-! ## Little-endian values (R2) -/

theorem leNat_lt (bs : List Byte) : leNat bs < 2 ^ (8 * bs.length) := by
  induction bs with
  | nil => simp [leNat]
  | cons b bs ih =>
    have hb : b.toNat < 256 := b.isLt
    rw [leNat, List.length_cons, Nat.mul_succ, Nat.pow_add]
    omega

theorem leNat_leBytes (n v : Nat) : leNat (leBytes n v) = v % 2 ^ (8 * n) := by
  induction n generalizing v with
  | zero => simp [leBytes, leNat, Nat.mod_one]
  | succ n ih =>
    rw [leBytes, leNat, ih, BitVec.toNat_ofNat, Nat.mul_succ, Nat.pow_add, Nat.mul_comm (2 ^ (8 * n)), Nat.mod_mul]

section reads
variable (s : State)

theorem State.readNat_lt (k n : Nat) : s.readNat k n < 2 ^ (8 * n) := by
  have h := leNat_lt (s.bytes k n)
  rwa [show (s.bytes k n).length = n by simp [State.bytes]] at h

variable {s}

theorem State.byte_of_mem {t : State} (h : t.mem = s.mem) (j : Nat) : t.byte j = s.byte j := by unfold State.byte; rw [h]

theorem State.bytes_congr {t : State} {k n : Nat} (h : ∀ i, i < n → t.byte (k + i) = s.byte (k + i)) : t.bytes k n = s.bytes k n :=
  List.map_congr_left fun i hi => h i (List.mem_range.1 hi)

theorem State.readNat_congr {t : State} {k n : Nat} (h : ∀ i, i < n → t.byte (k + i) = s.byte (k + i)) : t.readNat k n = s.readNat k n :=
  congrArg leNat (State.bytes_congr h)

theorem State.readNat_of_mem {t : State} (h : t.mem = s.mem) (k n : Nat) : t.readNat k n = s.readNat k n :=
  State.readNat_congr fun i _ => State.byte_of_mem h (k + i)

/-- Bytes that stand at a key are read there. -/
theorem State.bytes_eq {k : Nat} {bs : List Byte} (h : ∀ i, i < bs.length → s.byte (k + i) = bs.getD i 0) : s.bytes k bs.length = bs := by
  refine List.ext_getElem (by simp [State.bytes]) fun i hi hi' => ?_
  simpa [State.bytes, hi'] using h i hi'

/-- The bytes of a value that stand at a key are read as the value. -/
theorem State.readNat_eq {k n v : Nat} (h : ∀ i, i < n → s.byte (k + i) = (leBytes n v).getD i 0) : s.readNat k n = v % 2 ^ (8 * n) := by
  have hbytes := State.bytes_eq (s := s) (k := k) (bs := leBytes n v) (by simpa [leBytes_length] using h)
  rw [leBytes_length] at hbytes
  rw [State.readNat, hbytes, leNat_leBytes]

variable (s)

/-- A unit's own write of a value goes where it is said to go. -/
theorem State.byte_unitNat (k n v j : Nat) (hm : s.memOk) :
    (s.unitNat k n v).byte j = if k ≤ j ∧ j < k + n then (leBytes n v).getD (j - k) 0 else s.byte j := by
  rw [State.unitNat, s.byte_unitWrite k j _ hm, leBytes_length]

theorem State.readNat_unitNat (k n v : Nat) (hm : s.memOk) : (s.unitNat k n v).readNat k n = v % 2 ^ (8 * n) :=
  State.readNat_eq fun i hi => by rw [s.byte_unitNat k n v (k + i) hm, if_pos (by omega), Nat.add_sub_cancel_left]

end reads

/-! ## Bytes put one by one -/

/-- Of bytes put one after the other, the last at a key stands there. -/
theorem Memory.get_foldl_set {m : List Host.Cell} (l : List (Nat × Byte)) (j : Nat) (h : Memory.wf m = true) :
    Memory.get (l.foldl (fun m c => Memory.set m c.1 c.2) m) j =
      match l.reverse.find? (fun c => c.1 == j) with
      | some c => c.2
      | none => Memory.get m j := by
  induction l generalizing m with
  | nil => rfl
  | cons c l ih =>
    rw [List.foldl_cons, ih (Memory.wf_set _ _ h), List.reverse_cons, List.find?_append]
    cases hl : l.reverse.find? fun c => c.1 == j with
    | some d => rfl
    | none =>
      rw [Memory.get_set c.1 j c.2 h]
      by_cases hj : c.1 = j
      · simp [hj]
      · simp [hj, Ne.symm hj]

/-- Bytes put at a key and the keys after it. -/
theorem Memory.foldl_set_mapIdx (m : List Host.Cell) (k : Nat) (bs : List Byte) :
    (bs.mapIdx fun i b => (k + i, b)).foldl (fun m c => Memory.set m c.1 c.2) m = Memory.setBytes m k bs := by
  induction bs generalizing m k with
  | nil => rfl
  | cons b bs ih =>
    rw [List.mapIdx_cons, List.foldl_cons, Memory.setBytes, ← ih]
    simp only [Nat.add_zero, Nat.add_assoc, Nat.add_comm 1]

section cells
variable (s : State)

/-- What a place does not touch, no part of it touches. -/
theorem State.touchesPort_part {k n j m : Nat} (h : s.touchesPort k n = false) (hk : k ≤ j) (hn : j + m ≤ k + n) : s.touchesPort j m = false := by
  refine Bool.eq_false_iff.2 fun hj => Bool.eq_false_iff.1 h ?_
  simp only [State.touchesPort, Bool.or_eq_true, List.any_eq_true, Bool.and_eq_true, decide_eq_true_eq] at hj ⊢
  rcases hj with ⟨p, hp, hlo, hhi⟩ | ⟨⟨hr, hlo⟩, hhi⟩
  · exact .inl ⟨p, hp, by omega, by omega⟩
  · exact .inr ⟨⟨hr, by omega⟩, by omega⟩

theorem State.putMarked_onlyMem (cells : List (Nat × Byte × Bool)) : s.onlyMem (s.putMarked cells) :=
  State.onlyMem.trans (by unfold State.onlyMem; rfl) (State.latchDisp_onlyMem _)

theorem State.writeMarked_onlyMem (by_ : Writer) (die : Nat) (clock : List Nat) (cells : List (Nat × Byte × Bool)) :
    s.onlyMem (s.writeMarked by_ die clock cells) :=
  (State.onlyMem.foldl _ (fun s ks => s.noteLate_onlyMem by_ die clock ks) _ s).trans (State.putMarked_onlyMem _ _)

/-- What a unit's own fields hold back of a write hangs on memory and on what Marten has fixed alone. -/
theorem State.portHolds_congr {t : State} (hm : t.mem = s.mem) (hv : t.marten = s.marten) (k : Nat) : t.portHolds k = s.portHolds k := by
  unfold State.portHolds State.portBases State.hasRecords
  simp only [hv, State.byte_of_mem hm]

theorem State.onlyMem.marten {s t : State} (h : s.onlyMem t) : t.marten = s.marten := by rw [show t = _ from h]

/-- Bytes none of which a unit's field holds back are put where they are said to go. -/
theorem State.writeMarked_sets (by_ : Writer) (die : Nat) (clock : List Nat) (cells : List (Nat × Byte × Bool))
    (hfree : ∀ x ∈ cells, (s.touchesPort x.1 1 && s.portHolds x.1) = false) :
    (s.writeMarked by_ die clock cells).mem = cells.foldl (fun m x => Memory.set m x.1 x.2.1) s.mem := by
  let u : State := (byLine (cells.map (·.1)).eraseDups).foldl (fun s ks => s.noteLate by_ die clock ks) s
  have hu : s.onlyMem u := State.onlyMem.foldl _ (fun s ks => s.noteLate_onlyMem by_ die clock ks) _ s
  have hmem : u.mem = s.mem := State.foldl_mem _ (fun s ks => s.noteLate_mem by_ die clock ks) _ s
  have hall : (cells.filter fun x => !(u.touchesPort x.1 1 && u.portHolds x.1)) = cells := List.filter_eq_self.2 fun x hx => by
    rw [hu.touchesPort, s.portHolds_congr hmem hu.marten, hfree x hx]
    rfl
  show (u.putMarked cells).mem = _
  unfold State.putMarked
  rw [hall, State.latchDisp_mem, hmem]

end cells

end Sys2Proof.Machine
end

section
/-!
SUPPORT. Connections of hosts (R397 to R400): the next message of a connection, and the RESP that answers it.
-/
namespace Sys2Proof.Machine

/-! ## Headers (Table 24.1) -/

theorem eqtHdr_toNat {op addr len status space vec eq : Nat} (hop : op < 256) (hlen : len < 2 ^ 32) (hspace : space < 2 ^ 20) :
    (eqtHdr op addr len status space vec eq).toNat =
      addr % 2 ^ 64 * 2 ^ 192 + len * 2 ^ 160 + eq % 2 ^ 16 * 2 ^ 144 + vec % 2 ^ 16 * 2 ^ 128 + space * 2 ^ 108 + op * 2 ^ 96 +
        status % 2 ^ 32 * 2 ^ 64 := by
  unfold eqtHdr
  rw [BitVec.toNat_ofNat, Nat.mod_eq_of_lt]
  omega

theorem eqtNumber_toNat (h : BitVec 256) (seq ack : BitVec 32) :
    (eqtNumber h seq ack).toNat = h.toNat / 2 ^ 64 * 2 ^ 64 + ack.toNat * 2 ^ 32 + seq.toNat := by
  unfold eqtNumber
  rw [BitVec.toNat_ofNat, Nat.mod_eq_of_lt]
  omega

section numbered
variable (h : BitVec 256) (seq ack : BitVec 32)

/-- The fields above the two numbers of a header stay as it is numbered. -/
theorem bitsOf_eqtNumber {hi lo : Nat} (hlo : 64 ≤ lo) : bitsOf (eqtNumber h seq ack).toNat hi lo = bitsOf h.toNat hi lo := by
  have hlow : ack.toNat * 2 ^ 32 + seq.toNat < 2 ^ 64 := by omega
  unfold bitsOf
  rw [eqtNumber_toNat, Nat.add_assoc, show lo = 64 + (lo - 64) by omega, Nat.pow_add, ← Nat.div_div_eq_div_mul, ← Nat.div_div_eq_div_mul,
    Nat.mul_comm, Nat.mul_add_div (Nat.two_pow_pos 64), Nat.div_eq_of_lt hlow, Nat.add_zero]

theorem eqtOp_eqtNumber : eqtOp (eqtNumber h seq ack) = eqtOp h := bitsOf_eqtNumber h seq ack (by decide)
theorem eqtAddr_eqtNumber : eqtAddr (eqtNumber h seq ack) = eqtAddr h := bitsOf_eqtNumber h seq ack (by decide)
theorem eqtStatus_eqtNumber : eqtStatus (eqtNumber h seq ack) = eqtStatus h := bitsOf_eqtNumber h seq ack (by decide)

theorem eqtSeq_eqtNumber : eqtSeq (eqtNumber h seq ack) = seq := by
  unfold eqtSeq
  rw [eqtNumber_toNat]
  apply BitVec.eq_of_toNat_eq
  rw [BitVec.toNat_ofNat]
  omega

end numbered

theorem eqtOp_eqtHdr {op addr len status : Nat} (hop : op < 256) (hlen : len < 2 ^ 32) : eqtOp (eqtHdr op addr len status 0 0 0) = op := by
  unfold eqtOp bitsOf
  rw [eqtHdr_toNat hop hlen (by decide)]
  omega

theorem eqtAddr_eqtHdr {op addr len status : Nat} (hop : op < 256) (hlen : len < 2 ^ 32) :
    eqtAddr (eqtHdr op addr len status 0 0 0) = addr % 2 ^ 64 := by
  unfold eqtAddr bitsOf
  rw [eqtHdr_toNat hop hlen (by decide)]
  omega

theorem eqtStatus_eqtHdr {op addr len status : Nat} (hop : op < 256) (hlen : len < 2 ^ 32) :
    eqtStatus (eqtHdr op addr len status 0 0 0) = status % 2 ^ 32 := by
  unfold eqtStatus bitsOf
  rw [eqtHdr_toNat hop hlen (by decide)]
  omega

/-! ## The connection table (R397) -/

section conns
variable (s : State)

theorem State.conn_modConn (n : Nat) (f : Conn → Conn) : (s.modConn n f).conn n = (s.conn n).map f := by
  have hkey (x : Nat × Conn) : ((if x.1 = n then (x.1, f x.2) else x).1 == n) = (x.1 == n) := by split <;> rfl
  unfold State.conn State.modConn
  dsimp only
  rw [List.find?_map, show ((fun x : Nat × Conn => x.1 == n) ∘ fun x => if x.1 = n then (x.1, f x.2) else x) = (·.1 == n) from funext hkey]
  cases hx : s.conns.find? (·.1 == n) with
  | none => rfl
  | some x => simp [show x.1 = n by simpa using List.find?_some hx]

variable {s} {n : Nat} {c : Conn}

/-- A connection with one more message sent on it. -/
def Conn.withSent (c : Conn) (u : Unacked) : Conn := { c with txNext := c.txNext + 1, unacked := c.unacked ++ [u] }

/-- A message on an OPEN connection whose window has room is numbered and sent. -/
theorem State.sendEqt_sends (h : BitVec 256) (payload : List Byte) (hc : s.conn n = some c) (ho : c.st = .open) (hu : c.unacked.length < 1024) :
    let h' := eqtNumber h c.txNext c.rxNext
    s.sendEqt n h payload =
      { s.modConn n (·.withSent ⟨c.txNext, h', payload, s.now, 0⟩) with outbox := s.outbox ++ [.eqt n h' payload] } := by
  unfold State.sendEqt
  rw [hc, Option.filter_some, if_pos (by rw [ho]; rfl)]
  exact if_pos hu

theorem State.sendEqt_conn (h : BitVec 256) (payload : List Byte) (hc : s.conn n = some c) (ho : c.st = .open) (hu : c.unacked.length < 1024) :
    (s.sendEqt n h payload).conn n = some (c.withSent ⟨c.txNext, eqtNumber h c.txNext c.rxNext, payload, s.now, 0⟩) := by
  rw [State.sendEqt_sends h payload hc ho hu]
  exact (s.conn_modConn n (·.withSent _)).trans (congrArg (Option.map _) hc)

/-- The next message of a connection has been delivered: fewer than 64 deliveries call for no ACK yet. -/
theorem State.delivered_quiet (hc : s.conn n = some c) (ha : c.sinceAck < 63) :
    (s.delivered n).outbox = s.outbox ∧ ∃ c' : Conn, (s.delivered n).conn n = some c' ∧ c'.rxNext = c.rxNext + 1 ∧
      ∀ x ∈ c'.rxHeld, x.1 ≠ c.rxNext := by
  unfold State.delivered
  rw [hc]
  dsimp only
  rw [if_neg (by omega)]
  exact ⟨rfl, _, by rw [State.conn_modConn, hc]; rfl, rfl, fun x hx => by simpa using (List.mem_filter.1 hx).2⟩

/-! ## RESP (R400) -/

/-- In t the next message of connection n, c in the state before, has been delivered and answered by one RESP after the messages o. -/
def Conn.Answered (c : Conn) (n : Nat) (o : List OutMsg) (addr : Nat) (status : Int) (bs : List Byte) (t : State) : Prop :=
  (∃ r : BitVec 256, t.outbox = o ++ [.eqt n r bs] ∧ eqtOp r = 8 ∧ eqtAddr r = addr ∧ eqtStatus r = (status % 2 ^ 32).toNat) ∧
  ∃ c' : Conn, t.conn n = some c' ∧ c'.rxNext = c.rxNext + 1 ∧ ∀ x ∈ c'.rxHeld, x.1 ≠ c.rxNext

/-- A connection that is OPEN, whose window has room for one more message, and that no ACK is due on with the next delivery. -/
structure State.Ready (s : State) (n : Nat) (c : Conn) : Prop where
  conn : s.conn n = some c
  isOpen : c.st = .open
  room : c.unacked.length < 1024
  quiet : c.sinceAck < 63

theorem State.Ready.of_conns {t : State} (h : s.Ready n c) (hc : t.conns = s.conns) : t.Ready n c :=
  ⟨by rw [← h.conn]; unfold State.conn; rw [hc], h.isOpen, h.room, h.quiet⟩

theorem State.respond_answers {addr cause : Nat} {bs : List Byte} (h : s.Ready n c) (haddr : addr < 2 ^ 64) (hlen : bs.length < 2 ^ 32) :
    c.Answered n s.outbox addr (-(cause : Int)) bs (s.respond n addr cause bs) := by
  unfold State.respond
  generalize hstatus : ((-(cause : Int)) % (2 ^ 32 : Int)).toNat = status
  dsimp only
  have hlt : status < 2 ^ 32 := by omega
  obtain ⟨hout, c', hconn, hnext, hheld⟩ := State.delivered_quiet (State.sendEqt_conn (eqtHdr 8 addr bs.length status 0 0 0) bs h.conn h.isOpen h.room) h.quiet
  rw [State.sendEqt_sends _ bs h.conn h.isOpen h.room] at hout
  refine ⟨⟨_, by rw [State.sendEqt_sends _ bs h.conn h.isOpen h.room]; exact hout, ?_, ?_, ?_⟩, c', hconn, hnext, hheld⟩
  · rw [eqtOp_eqtNumber, eqtOp_eqtHdr (by decide) hlen]
  · rw [eqtAddr_eqtNumber, eqtAddr_eqtHdr (by decide) hlen, Nat.mod_eq_of_lt haddr]
  · rw [eqtStatus_eqtNumber, eqtStatus_eqtHdr (by decide) hlen, Nat.mod_eq_of_lt hlt]
    rw [← hstatus]

theorem State.sendEqt_only (n : Nat) (h : BitVec 256) (payload : List Byte) :
    ∃ cs o, s.sendEqt n h payload = { s with conns := cs, outbox := o } := by
  unfold State.sendEqt
  split
  · exact ⟨s.conns, s.outbox, rfl⟩
  · dsimp only
    split
    · exact ⟨_, _, rfl⟩
    · exact ⟨_, s.outbox, rfl⟩

/-- An answer changes the connections and the messages on their way, and nothing else. -/
theorem State.respond_only (n addr cause : Nat) (bs : List Byte) : ∃ cs o, s.respond n addr cause bs = { s with conns := cs, outbox := o } := by
  unfold State.respond
  dsimp only
  obtain ⟨cs, o, hsend⟩ := State.sendEqt_only (s := s) n (eqtHdr 8 addr bs.length ((-(cause : Int)) % (2 ^ 32 : Int)).toNat 0 0 0) bs
  rw [hsend]
  unfold State.delivered State.sendAck
  split
  · exact ⟨cs, o, rfl⟩
  · dsimp only
    split
    · split
      · exact ⟨_, _, rfl⟩
      · exact ⟨_, _, rfl⟩
    · exact ⟨_, _, rfl⟩

theorem State.respond_strand (n addr cause : Nat) (bs : List Byte) (d k : Nat) : (s.respond n addr cause bs).strand d k = s.strand d k := by
  obtain ⟨cs, o, h⟩ := State.respond_only (s := s) n addr cause bs
  rw [h]
  rfl

/-! ## The next message of a connection -/

/-- The next message of a connection is one of an operation, and nothing keeps it from being performed. -/
structure State.Due (s : State) (n : Nat) (c : Conn) (h : BitVec 256) (payload : List Byte) (op : Nat) : Prop extends s.Ready n c where
  free : c.fault = none
  op : eqtOp h = op
  held : (c.rxNext, h, payload) ∈ c.rxHeld
  alone : s.awaits 0 (.host n) = false

variable {h : BitVec 256} {payload : List Byte} {op : Nat}

theorem State.hostMessage_goes_on (hd : s.Due n c h payload op) (go : Conn → State → Out) : s.hostMessage n op h payload go = go c s := by
  unfold State.hostMessage
  rw [hd.conn]
  refine if_neg ?_
  rw [hd.isOpen, hd.free, hd.alone, hd.op, List.contains_iff_mem.2 hd.held]
  simp

theorem State.hostAccess_refused {acc len e : Nat} (hx : s.hostCheck c h acc len = .refuse e) (go : List PagePart → State) :
    s.hostAccess n c h payload acc len go = .next (s.respond n 0 e []) := by
  unfold State.hostAccess
  rw [hx]

theorem State.hostAccess_passes {acc len : Nat} {ps : List PagePart} (hx : s.hostCheck c h acc len = .parts ps) (go : List PagePart → State) :
    s.hostAccess n c h payload acc len go = .next (go ps) := by
  unfold State.hostAccess
  rw [hx]

end conns

end Sys2Proof.Machine
end

section
/-!
SUPPORT. What the messages of a host do in this package (R400, R405): a WRITE, a READ, a FADD and a NOTIFY.
-/
namespace Sys2Proof.Machine

section messages
variable {s : State} {n : Nat} {c : Conn} {h : BitVec 256} {payload : List Byte} {va key m : Nat}

/-! ## WRITE -/

/-- The bytes of a host's write to one place of this package. -/
theorem State.hostPut_mem {bs : List Byte} (hp : s.touchesPort key bs.length = false) :
    (s.hostPut n (bs.mapIdx fun i b => (key + i, b))).mem = Memory.setBytes s.mem key bs := by
  unfold State.hostPut
  rw [s.writeMarked_sets, List.foldl_map]
  · exact Memory.foldl_set_mapIdx s.mem key bs
  · intro x hx
    obtain ⟨y, hy, rfl⟩ := List.mem_map.1 hx
    obtain ⟨i, hi, rfl⟩ := List.mem_mapIdx.1 hy
    rw [s.touchesPort_part hp (by dsimp only; omega) (by dsimp only; omega)]
    rfl

theorem State.onlyMem.conns {t : State} (h : s.onlyMem t) : t.conns = s.conns := by rw [show t = _ from h]

theorem execEqtWrite_here (hd : s.Due n c h payload 1) (hx : s.hostCheck c h accWrite payload.length = .parts [⟨va, payload.length, some (.here key), m⟩]) :
    exec (.eqtWrite n h payload) s = .next ((s.hostPut n (payload.mapIdx fun i b => (key + i, b))).respond n 0 0 []) := by
  show execEqtWrite n h payload s = _
  unfold execEqtWrite
  rw [State.hostMessage_goes_on hd, State.hostAccess_passes hx]
  simp [splitParts]

theorem eqtWrite_stores (hm : s.memOk) (hd : s.Due n c h payload 1)
    (hx : s.hostCheck c h accWrite payload.length = .parts [⟨va, payload.length, some (.here key), m⟩]) (hp : s.touchesPort key payload.length = false) :
    RunsTo (.eqtWrite n h payload) s fun t => c.Answered n s.outbox 0 0 [] t ∧
      ∀ j, t.byte j = if key ≤ j ∧ j < key + payload.length then payload.getD (j - key) 0 else s.byte j := by
  have honly : s.onlyMem (s.hostPut n (payload.mapIdx fun i b => (key + i, b))) := s.writeMarked_onlyMem _ _ _ _
  refine ⟨_, execEqtWrite_here hd hx, ?_, fun j => ?_⟩
  · rw [← honly.outbox]
    exact State.respond_answers (hd.toReady.of_conns honly.conns) (by decide) (by decide)
  · rw [State.byte, State.respond_mem, State.hostPut_mem hp, Memory.get_setBytes payload key j hm]
    rfl

theorem eqtWrite_refused {e : Nat} (hd : s.Due n c h payload 1) (hx : s.hostCheck c h accWrite payload.length = .refuse e) :
    RunsTo (.eqtWrite n h payload) s fun t => c.Answered n s.outbox 0 (-(e : Int)) [] t ∧ t.mem = s.mem := by
  refine ⟨s.respond n 0 e [], ?_, State.respond_answers hd.toReady (by decide) (by decide), s.respond_mem _ _ _ _⟩
  show execEqtWrite n h payload s = _
  unfold execEqtWrite
  rw [State.hostMessage_goes_on hd, State.hostAccess_refused hx]

/-! ## READ -/

theorem eqtStatus_lt (h : BitVec 256) : eqtStatus h < 2 ^ 32 := Nat.mod_lt _ (by decide)

theorem eqtRead_answers (he : s.softErrors = []) (hd : s.Due n c h payload 3)
    (hx : s.hostCheck c h accRead (eqtStatus h) = .parts [⟨va, eqtStatus h, some (.here key), m⟩])
    (hclean : ∀ i, i < eqtStatus h → s.poisoned (key + i) 1 = false) :
    RunsTo (.eqtRead n h payload) s fun t => c.Answered n s.outbox 0 0 (s.bytes key (eqtStatus h)) t ∧ t.mem = s.mem := by
  refine ⟨s.respond n 0 0 (s.bytes key (eqtStatus h)), ?_, State.respond_answers hd.toReady (by decide) ?_, s.respond_mem _ _ _ _⟩
  · have hgot : s.getParts [⟨va, eqtStatus h, some (.here key), m⟩] = (List.range (eqtStatus h)).map fun i => (s.byte (key + i), false) := by
      simp only [State.getParts, List.append_nil]
      exact List.map_congr_left fun i hi => by rw [hclean i (List.mem_range.1 hi)]
    have hsound : ((List.range (eqtStatus h)).map fun i => (s.byte (key + i), false)).any (·.2) = false := by simp
    have hbytes : ((List.range (eqtStatus h)).map fun i => (s.byte (key + i), false)).map (·.1) = s.bytes key (eqtStatus h) := by
      simp [State.bytes, Function.comp_def]
    have hdetect : s.detectParts [⟨va, eqtStatus h, some (.here key), m⟩] = s := s.detect_none key _ he
    show execEqtRead n h payload s = _
    unfold execEqtRead
    rw [State.hostMessage_goes_on hd, State.hostAccess_passes hx]
    dsimp only
    rw [hdetect, hgot, hsound, hbytes]
    rfl
  · simpa [State.bytes] using eqtStatus_lt h

/-! ## FADD -/

theorem State.stage2_lt {die no ipa a : Nat} (h : s.stage2 die no ipa = .pa a) : a < 2 ^ 41 := by
  unfold State.stage2 at h
  dsimp only at h
  split at h
  · split at h
    · exact absurd h (by simp)
    · rename_i a' hr
      cases h
      simp only [reservedPa, decide_eq_true_eq] at hr
      omega
  · rename_i hpa
    exact absurd h (hpa a)

/-- A translation whose place, if it is in this package, lies in device memory. -/
def Trans.Device (x : Trans) : Prop := ∀ k mode, x = .to (.here k) mode → k < 2 ^ 41

theorem Trans.device_of_ne {x : Trans} (h : ∀ k mode, x ≠ .to (.here k) mode) : x.Device := fun k mode e => absurd e (h k mode)

theorem State.leafChecks_device (die space va acc : Nat) (needU : Bool) (l : Leaf) : (s.leafChecks die space va acc needU l).Device := by
  have hfail (e : Nat) : (Trans.fail e).Device := Trans.device_of_ne fun _ _ => Trans.noConfusion
  have hopen (k v i : Nat) : (Trans.open k v i).Device := Trans.device_of_ne fun _ _ => Trans.noConfusion
  have hhost (e a mode : Nat) : (Trans.to (.host e a) mode).Device := Trans.device_of_ne fun _ _ h => nomatch h
  have hpeer (p a mode : Nat) : (Trans.to (.peer p a) mode).Device := Trans.device_of_ne fun _ _ h => nomatch h
  have hzero : Trans.zero.Device := Trans.device_of_ne fun _ _ => Trans.noConfusion
  unfold State.leafChecks
  dsimp only
  iterate 5 refine iteInduction (fun _ => hfail _) fun _ => ?_
  refine iteInduction (fun _ => iteInduction (fun _ => hfail _) fun _ => hzero) fun _ => ?_
  refine iteInduction (fun _ => ?_) fun _ => iteInduction (fun _ => hopen _ _ _) fun _ => iteInduction (fun _ => ?_) fun _ =>
    iteInduction (fun _ => hpeer _ _ _) fun _ => hfail _
  · rcases hx : s.stage2 die l.partno (leafOut l.bits + pageOffset va l.level) with a | n | _
    · refine iteInduction (fun _ => hopen _ _ _) fun _ k mode h => ?_
      cases h
      exact State.stage2_lt hx
    · exact hopen _ _ _
    · exact hfail _
  · cases leafEndpoint l.bits with
    | none => exact hfail _
    | some n => exact iteInduction (fun _ => hhost _ _ _) fun _ => hfail _

/-- A host reaches no scratchpad. -/
theorem State.translate_device (c space : Nat) (super : Bool) (acc va : Nat) : (s.translate c space super 7 acc va).Device := by
  have hfail (e : Nat) : (Trans.fail e).Device := Trans.device_of_ne fun _ _ => Trans.noConfusion
  unfold State.translate
  refine iteInduction (fun _ => ?_) fun _ => iteInduction (fun _ => ?_) fun _ => iteInduction (fun _ => ?_) fun _ => iteInduction (fun h => ?_) fun _ => hfail _
  · rcases s.stage1 (dieOf c) space va with l | e | ⟨k, v, i⟩
    · exact s.leafChecks_device _ _ _ _ _ _
    · exact hfail _
    · exact Trans.device_of_ne fun _ _ => Trans.noConfusion
  · rw [if_pos (.inr (.inr rfl))]
    exact hfail _
  · rw [if_pos (.inr (.inr rfl))]
    exact hfail _
  · exact absurd h.2.2.2.1 (by decide)

theorem State.pageChecks_device {c space acc k : Nat} {super : Bool} {p : PagePart} {pages : List (Nat × Nat)} {ps : List PagePart}
    (h : s.pageChecks c space super 7 acc pages = .parts ps) (hp : p ∈ ps) (hk : p.dest = some (.here k)) : k < 2 ^ 41 := by
  induction pages generalizing ps with
  | nil => cases h; cases hp
  | cons q pages ih =>
    have hdev := s.translate_device c space super acc q.1
    unfold State.pageChecks at h
    rcases hx : s.translate c space super 7 acc q.1 with ⟨d, mode⟩ | _ | e | ⟨kd, v, i⟩ <;> rw [hx] at h <;> dsimp only at h
    · rcases hq : s.pageChecks c space super 7 acc pages with qs | e | ⟨x, kd, v, i⟩ <;> rw [hq] at h <;> cases h
      rcases List.mem_cons.1 hp with rfl | hp
      · cases hk
        exact hdev k mode hx
      · exact ih hq hp
    · rcases hq : s.pageChecks c space super 7 acc pages with qs | e | ⟨x, kd, v, i⟩ <;> rw [hq] at h <;> cases h
      rcases List.mem_cons.1 hp with rfl | hp
      · cases hk
      · exact ih hq hp
    · cases h
    · cases h

theorem State.hostCheck_device {acc len : Nat} {ps : List PagePart} {p : PagePart} (hx : s.hostCheck c h acc len = .parts ps) (hp : p ∈ ps)
    (hk : p.dest = some (.here key)) : key < 2 ^ 41 := by
  unfold State.hostCheck at hx
  split at hx
  · cases hx
  · split at hx
    · cases hx
    · split at hx
      · cases hx
      · exact State.pageChecks_device hx hp hk

/-- Poison under 8 bytes of device memory is poison under one of them. -/
theorem State.poisoned_eight {k : Nat} (hk : k < 2 ^ 41) (h : ∀ i, i < 8 → s.poisoned (k + i) 1 = false) : s.poisoned k 8 = false := by
  have hunit (i : Nat) (hi : i < 8) : unitAt (k + i) = 8 := if_pos (by omega)
  have hword (i : Nat) (hi : i < 8) : s.poison.contains ((k + i) / 8) = false := by
    have := h i hi
    simpa [State.poisoned, wordsOf, hunit i hi] using this
  unfold State.poisoned wordsOf
  rw [show unitAt k = 8 from hunit 0 (by decide)]
  simp only [List.any_eq_false]
  intro i hi
  rw [if_neg (by decide), List.mem_map] at hi
  obtain ⟨j, hj, rfl⟩ := hi
  rw [List.mem_range] at hj
  obtain rfl | rfl : j = 0 ∨ j = 1 := by omega
  · simpa using hword 0 (by decide)
  · rw [show k / 8 + 1 = (k + 7) / 8 by omega]
    simpa using hword 7 (by decide)

theorem eqtFadd_adds (hm : s.memOk) (he : s.softErrors = []) (hd : s.Due n c h payload 2)
    (hx : s.hostCheck c h accAtomic 8 = .parts [⟨va, 8, some (.here key), m⟩]) (hclean : ∀ i, i < 8 → s.poisoned (key + i) 1 = false)
    (hp : s.touchesPort key 8 = false) :
    RunsTo (.eqtFadd n h payload) s fun t => c.Answered n s.outbox (s.readNat key 8) 0 [] t ∧
      WroteBytes s t key 8 (some ((s.readNat key 8 + leNat payload) % 2 ^ 64)) := by
  let bs : List Byte := leBytes 8 ((s.readNat key 8 + leNat payload) % 2 ^ 64)
  have hlen : bs.length = 8 := leBytes_length 8 _
  let got : List Nat := (s.late.filter (·.touches key 8)).flatMap fun w => w.id :: w.clock
  let u : State := s.lateBytes (.host n) noDie (s.hostLate n ++ got) key bs
  have honly : s.onlyMem u := s.lateBytes_onlyMem _ _ _ _ _
  have hpoison : s.poisoned key 8 = false := State.poisoned_eight (State.hostCheck_device hx List.mem_cons_self rfl) hclean
  have hrun : exec (.eqtFadd n h payload) s = .next (u.respond n (s.readNat key 8) 0 []) := by
    have hdetect : s.detectParts [⟨va, 8, some (.here key), m⟩] = s := s.detect_none key _ he
    show execEqtFadd n h payload s = _
    unfold execEqtFadd
    rw [State.hostMessage_goes_on hd, State.hostAccess_passes hx]
    dsimp only
    rw [hdetect]
    dsimp only [List.head?_cons, Option.bind_some]
    rw [hpoison]
    rfl
  refine ⟨_, hrun, ?_, fun j => ?_⟩
  · rw [← honly.outbox]
    exact State.respond_answers (hd.toReady.of_conns honly.conns) (s.readNat_lt key 8) (by decide)
  · rw [State.byte, State.respond_mem, State.lateBytes_mem, s.get_storeBytes key j bs hm (hlen.symm ▸ hp), hlen]
    dsimp only
    split
    · exact leBytes_getD 8 _ _ (by omega)
    · rfl

end messages

end Sys2Proof.Machine
end

section
/-!
SUPPORT. Notify lines (R405) and event ports (R446).
-/
namespace Sys2Proof.Machine

section notify
variable {s : State}

/-! ## Event bits of the service cores (R289) -/

theorem State.serviceEvent_sets (s : State) {svc k : Nat} {bit : Nat} (hs : svc < 4) (hk : k < 4) (hb : bit < 16) :
    ((s.serviceEvent svc k bit).strand (256 + svc) k).sys.evpend.getLsbD bit = true := by
  unfold State.serviceEvent
  rw [State.strand_modStrand_self _ _ (by omega) hk]
  simp only [Strand.setEvent, BitVec.getLsbD_or, BitVec.getLsbD_ofNat, Nat.testBit_two_pow_self, hb, decide_true, Bool.and_true, Bool.or_true]

/-- An event bit that is set stays set as others are set. -/
theorem State.serviceEvent_keeps (s : State) {svc k bit d j b : Nat} (h : (s.strand d j).sys.evpend.getLsbD b = true) :
    ((s.serviceEvent svc k bit).strand d j).sys.evpend.getLsbD b = true := by
  unfold State.serviceEvent
  rcases s.strand_modStrand_cases (256 + svc) k d j (fun t => t.setEvent bit ⟨0, 7, 0xFFFFFFF9, 0, s.now⟩) with e | e
  · rw [e]
    exact h
  · rw [e]
    simp [Strand.setEvent, BitVec.getLsbD_or, h]

theorem State.notifyCore_events (s : State) {svc i : Nat} (hs : svc < 4) (hi : i < 4) :
    ((s.notifyCore svc).strand (256 + svc) i).sys.evpend.getLsbD 10 = true := by
  have go (ks : List Nat) (s : State) (h : i ∈ ks ∨ (s.strand (256 + svc) i).sys.evpend.getLsbD 10 = true) :
      ((ks.foldl (fun s k => s.serviceEvent svc k 10) s).strand (256 + svc) i).sys.evpend.getLsbD 10 = true := by
    induction ks generalizing s with
    | nil => exact h.resolve_left List.not_mem_nil
    | cons k ks ih =>
      refine ih _ ?_
      rcases h with h | h
      · rcases List.mem_cons.1 h with rfl | h
        · exact .inr (s.serviceEvent_sets hs hi (by decide))
        · exact .inl h
      · exact .inr (s.serviceEvent_keeps h)
  exact go _ s (.inl (List.mem_range.2 hi))

/-- A fold of changes of the cores changes nothing else. -/
theorem State.foldl_cores_only {α : Type} (g : State → α → State) (hg : ∀ s a, ∃ cs, g s a = { s with cores := cs }) (as : List α) (s : State) :
    ∃ cs, as.foldl g s = { s with cores := cs } := by
  induction as generalizing s with
  | nil => exact ⟨s.cores, rfl⟩
  | cons a as ih =>
    obtain ⟨cs, h⟩ := hg s a
    obtain ⟨cs', h'⟩ := ih { s with cores := cs }
    exact ⟨cs', by rw [List.foldl_cons, h, h']⟩

theorem State.notifyCore_only (s : State) (svc : Nat) : ∃ cs, s.notifyCore svc = { s with cores := cs } :=
  State.foldl_cores_only _ (fun s k => s.modStrand_only (256 + svc) k _) _ s

/-! ## The notify of a queue (R405) -/

/-- In t every strand of the service core of queue q has event 10, and the summary has the queue's bit beside those that it had in s. -/
def State.Notified (s : State) (q : Nat) (t : State) : Prop :=
  (∀ i, i < 4 → (t.strand (256 + q / 256) i).sys.evpend.getLsbD 10 = true) ∧
    t.readNat (s.marten.values.notifySummary + 8 * (q / 64)) 8 = s.readNat (s.marten.values.notifySummary + 8 * (q / 64)) 8 ||| 2 ^ (q % 64)

/-- The summary word with the bit of queue q. -/
def State.withSummaryBit (s : State) (q : Nat) : State :=
  let k := s.marten.values.notifySummary + 8 * (q / 64)
  s.unitNat k 8 (s.readNat k 8 ||| 2 ^ (q % 64))

theorem State.setNotify_open {q : Nat} {x : Queue} (hq : s.queue q = some x) (ho : x.entry.state = 1) :
    s.setNotify q = (s.withSummaryBit q).notifyCore (q / 256) := by
  unfold State.setNotify
  rw [hq]
  exact if_neg (by rw [ho]; decide)

theorem State.setNotify_notifies {q : Nat} {x : Queue} (hm : s.memOk) (hq : s.queue q = some x) (ho : x.entry.state = 1) (hlt : q < 1024) :
    s.Notified q (s.setNotify q) := by
  rw [State.setNotify_open hq ho]
  refine ⟨fun i hi => State.notifyCore_events _ (by omega) hi, ?_⟩
  obtain ⟨cs, h⟩ := (s.withSummaryBit q).notifyCore_only (q / 256)
  have hmem : ((s.withSummaryBit q).notifyCore (q / 256)).mem = (s.withSummaryBit q).mem := by rw [h]
  rw [State.readNat_of_mem hmem]
  refine (s.readNat_unitNat _ _ _ hm).trans (Nat.mod_eq_of_lt (Nat.or_lt_two_pow (s.readNat_lt _ 8) ?_))
  exact Nat.pow_lt_pow_right (by decide) (by omega)

theorem State.setNotify_only (s : State) (q : Nat) : ∃ cs u, s.setNotify q = { u with cores := cs } ∧ s.onlyMem u := by
  unfold State.setNotify
  split
  · split
    · exact ⟨s.cores, s, rfl, .refl s⟩
    · obtain ⟨cs, h⟩ := (s.withSummaryBit q).notifyCore_only (q / 256)
      exact ⟨cs, s.withSummaryBit q, h, s.unitWrite_onlyMem _ _⟩
  · exact ⟨s.cores, s, rfl, .refl s⟩

theorem State.Notified.respond {q n addr cause : Nat} {bs : List Byte} {t : State} (h : s.Notified q t) : s.Notified q (t.respond n addr cause bs) :=
  ⟨fun i hi => by rw [State.respond_strand]; exact h.1 i hi, by rw [State.readNat_of_mem (State.respond_mem ..)]; exact h.2⟩

section message
variable {n : Nat} {c : Conn} {h : BitVec 256} {payload : List Byte} {x : Queue}

theorem eqtNotify_notifies (hm : s.memOk) (hd : s.Due n c h payload 4) (hq : s.queue (eqtAddr h % 1024) = some x) (ho : x.entry.state = 1)
    (hown : x.entry.partno = c.partno) :
    RunsTo (.eqtNotify n h payload) s fun t => s.Notified (eqtAddr h % 1024) t ∧ c.Answered n s.outbox 0 0 [] t := by
  have hrun : exec (.eqtNotify n h payload) s = .next ((s.setNotify (eqtAddr h % 1024)).respond n 0 0 []) := by
    show execEqtNotify n h payload s = _
    unfold execEqtNotify
    rw [State.hostMessage_goes_on hd]
    dsimp only
    rw [show s.queue (eqtAddr h % 2 ^ 10) = some x from hq]
    exact if_pos hown
  obtain ⟨cs, u, hset, honly⟩ := s.setNotify_only (eqtAddr h % 1024)
  refine ⟨_, hrun, (State.setNotify_notifies hm hq ho (Nat.mod_lt _ (by decide))).respond, ?_⟩
  rw [hset, ← honly.outbox]
  exact State.respond_answers (hd.toReady.of_conns honly.conns) (by decide) (by decide)

theorem eqtNotify_refused (hd : s.Due n c h payload 4) (hq : s.queue (eqtAddr h % 1024) = some x) (hown : x.entry.partno ≠ c.partno) :
    RunsTo (.eqtNotify n h payload) s fun t => c.Answered n s.outbox 0 (-(Cause.protect : Int)) [] t ∧ t.mem = s.mem := by
  refine ⟨s.respond n 0 Cause.protect [], ?_, State.respond_answers hd.toReady (by decide) (by decide), s.respond_mem _ _ _ _⟩
  show execEqtNotify n h payload s = _
  unfold execEqtNotify
  rw [State.hostMessage_goes_on hd]
  dsimp only
  rw [show s.queue (eqtAddr h % 2 ^ 10) = some x from hq]
  exact if_neg hown

end message

/-! ## A write to a notify line -/

theorem State.unitWrite_notified (s : State) (k : Nat) (bs : List Byte) : (s.unitWrite k bs).notified = s.notified ++ s.notifyLines k bs.length := by
  have hlatch (u : State) : u.latchDisp.notified = u.notified := by unfold State.latchDisp; split <;> rfl
  obtain ⟨l, h⟩ := s.settleOver_only k bs.length
  unfold State.unitWrite State.putMem
  rw [hlatch, h]
  rfl

/-- The page of a written notify line: the first that holds it. -/
theorem find_notifyPage {pages : List Nat} {phys i k : Nat} (hi : pages[i]? = some k) (hk : k ≤ phys) (hlt : phys < k + 4096)
    (hfirst : ∀ j k' : Nat, j < i → pages[j]? = some k' → phys < k' ∨ k' + 4096 ≤ phys) :
    ((List.range pages.length).find? fun i => let p := pages.getD i 0; p ≤ phys && phys < p + 4096) = some i := by
  obtain ⟨hlen, -⟩ := List.getElem?_eq_some_iff.1 hi
  rw [List.find?_range_eq_some]
  refine ⟨by simp [hi, hk, hlt], List.mem_range.2 hlen, fun j hj => ?_⟩
  have hj' : pages[j]? = some pages[j] := List.getElem?_eq_getElem (by omega)
  have := hfirst j _ hj hj'
  simp only [List.getD_eq_getElem?_getD, hj', Option.getD_some]
  simp only [Bool.not_eq_true', Bool.and_eq_false_iff, decide_eq_false_iff_not]
  omega

theorem notifyLineWrite_notifies {phys i k : Nat} {x : Queue} (hm : s.memOk) (hphys : phys ∈ s.notified)
    (hi : s.marten.values.notifyPages[i]? = some k) (hk : k ≤ phys) (hlt : phys < k + 4096)
    (hfirst : ∀ j k' : Nat, j < i → s.marten.values.notifyPages[j]? = some k' → phys < k' ∨ k' + 4096 ≤ phys)
    (hq : s.queue (64 * i + (phys - k) / 64) = some x) (ho : x.entry.state = 1) (hno : 64 * i + (phys - k) / 64 < 1024) :
    RunsTo (.notifyLineWrite phys) s fun t => s.Notified (64 * i + (phys - k) / 64) t ∧
      t.notified = s.notified.erase phys ++ s.notifyLines (s.marten.values.notifySummary + 8 * ((64 * i + (phys - k) / 64) / 64)) 8 := by
  let u : State := { s with notified := s.notified.erase phys }
  have hrun : exec (.notifyLineWrite phys) s = .next (u.setNotify (64 * i + (phys - k) / 64)) := by
    show execNotifyLineWrite phys s = _
    unfold execNotifyLineWrite
    rw [if_neg (by simpa using hphys)]
    dsimp only
    rw [find_notifyPage hi hk hlt hfirst]
    dsimp only
    rw [List.getD_eq_getElem?_getD, hi]
    rfl
  refine ⟨_, hrun, State.setNotify_notifies (s := u) hm hq ho hno, ?_⟩
  rw [State.setNotify_open (s := u) hq ho]
  obtain ⟨cs, h⟩ := (u.withSummaryBit (64 * i + (phys - k) / 64)).notifyCore_only ((64 * i + (phys - k) / 64) / 256)
  rw [h]
  exact (u.unitWrite_notified _ _).trans (by rw [leBytes_length]; rfl)

end notify

/-! ## Event ports (R446) -/

section ports
variable {s : State}

/-- RESULT is written and GO cleared. -/
theorem State.portResult_writes (svc code : Nat) (hm : s.memOk) :
    (s.portResult svc code).readNat (s.port svc + 38) 2 = code % 2 ^ 16 ∧ ((s.portResult svc code).byte (s.port svc + 33)).toNat % 2 = 0 ∧
      (s.portResult svc code).outbox = s.outbox := by
  generalize hp : s.port svc = p
  obtain ⟨l, k, hlate⟩ := s.noteLate_only .outside noDie [] [p + 33, p + 38, p + 39]
  have hbyte (j : Nat) : (s.portResult svc code).byte j =
      if p + 38 ≤ j ∧ j < p + 38 + 2 then (leBytes 2 code).getD (j - (p + 38)) 0
      else if j = p + 33 then BitVec.ofNat 8 ((s.byte (p + 33)).toNat / 2 * 2) else s.byte j := by
    unfold State.portResult State.byte
    dsimp only
    rw [hp, hlate]
    dsimp only
    rw [Memory.get_setBytes _ _ _ (Memory.wf_set _ _ hm), leBytes_length, Memory.get_set _ _ _ hm]
  refine ⟨State.readNat_eq fun i hi => ?_, ?_, ?_⟩
  · rw [hbyte, if_pos (by omega), Nat.add_sub_cancel_left]
  · rw [hbyte, if_neg (by omega), if_pos rfl, BitVec.toNat_ofNat]
    omega
  · unfold State.portResult
    dsimp only
    rw [hp, hlate]

/-- The event port of a service core with GO 1 and nothing on its way from it. -/
structure State.PortGo (s : State) (svc : Nat) : Prop where
  served : svc < 4
  ring : svc < s.marten.values.faultRings.length
  idle : ∀ p ∈ s.ports, p.1 ≠ svc
  go : bitsOf (s.readNat (s.port svc) 64) 264 264 = 1

theorem State.PortGo.not_idle {svc : Nat} (h : s.PortGo svc) :
    ¬ (4 ≤ svc ∨ s.marten.values.faultRings.length ≤ svc ∨ bitsOf (s.readNat (s.port svc) 64) 264 264 = 0 ∨
      s.ports.any (fun p => p.1 == svc) = true) := by
  have hports : s.ports.any (fun p => p.1 == svc) = false := by simpa using fun a b c hp => h.idle _ hp
  rw [hports, h.go]
  have := h.served
  have := h.ring
  simp only [Bool.false_eq_true, or_false]
  omega

theorem eventPortSend_refused {svc code : Nat} (hm : s.memOk) (h : s.PortGo svc)
    (hx : s.portCheck (s.readNat (s.port svc) 64) (bitsOf (s.readNat (s.port svc) 64) 263 256) = some code) :
    RunsTo (.eventPortSend svc) s fun t =>
      t.readNat (s.port svc + 38) 2 = code % 2 ^ 16 ∧ (t.byte (s.port svc + 33)).toNat % 2 = 0 ∧ t.outbox = s.outbox := by
  refine ⟨s.portResult svc code, ?_, State.portResult_writes svc code hm⟩
  show execEventPortSend svc s = _
  unfold execEventPortSend
  dsimp only
  rw [if_neg h.not_idle, hx]

/-- A port whose checks pass holds the header of an EVENT for an OPEN connection. -/
theorem State.portCheck_passes {x w : Nat} {y : Conn} (hx : s.portCheck x w = none) (hy : s.conn w = some y) :
    eqtOp (BitVec.ofNat 256 x) = 5 ∧ y.st = .open := by
  unfold State.portCheck at hx
  dsimp only at hx
  split at hx
  · cases hx
  · rename_i hhead
    refine ⟨by_contra fun hop => hhead (.inl hop), ?_⟩
    rw [hy] at hx
    rcases he : s.spaceEntry (eqtSpace (BitVec.ofNat 256 x)) with _ | ⟨p, l⟩ <;> rw [he] at hx <;> dsimp only at hx
    · cases hx
    · split at hx
      · cases hx
      · split at hx
        · rename_i ho
          simpa using ho
        · cases hx

theorem eventPortSend_sends {svc : Nat} {y : Conn} (h : s.PortGo svc)
    (hx : s.portCheck (s.readNat (s.port svc) 64) (bitsOf (s.readNat (s.port svc) 64) 263 256) = none)
    (hy : s.conn (bitsOf (s.readNat (s.port svc) 64) 263 256) = some y) (hu : y.unacked.length < 1024) :
    RunsTo (.eventPortSend svc) s fun t =>
      t.ports = s.ports ++ [(svc, bitsOf (s.readNat (s.port svc) 64) 263 256, y.txNext)] ∧ t.mem = s.mem ∧
      ∃ r : BitVec 256, t.outbox = s.outbox ++ [.eqt (bitsOf (s.readNat (s.port svc) 64) 263 256) r []] ∧ eqtOp r = 5 ∧
        eqtAddr r = bitsOf (s.readNat (s.port svc) 64) 255 192 ∧ eqtSeq r = y.txNext := by
  obtain ⟨hop, ho⟩ := State.portCheck_passes hx hy
  let x : Nat := s.readNat (s.port svc) 64
  have haddr : eqtAddr (BitVec.ofNat 256 x) = bitsOf x 255 192 := by
    unfold eqtAddr bitsOf
    rw [BitVec.toNat_ofNat]
    omega
  refine ⟨{ s.sendEqt (bitsOf x 263 256) (BitVec.ofNat 256 x) [] with ports := s.ports ++ [(svc, bitsOf x 263 256, y.txNext)] }, ?_, rfl, ?_, ?_⟩
  · show execEventPortSend svc s = _
    unfold execEventPortSend
    dsimp only
    rw [if_neg h.not_idle, hx, hy]
  · exact s.sendEqt_mem _ _ _
  · rw [State.sendEqt_sends _ [] hy ho hu]
    exact ⟨_, rfl, (eqtOp_eqtNumber _ _ _).trans hop, (eqtAddr_eqtNumber _ _ _).trans haddr, eqtSeq_eqtNumber _ _ _⟩

end ports

end Sys2Proof.Machine
end

section
/-!
SUPPORT. Requests of strands to hosts (R97, R402): the answer to one, and the failure of all that go through an endpoint.
-/
namespace Sys2Proof.Machine

section requests
variable {s : State} {r : Req}

/-- A request of a strand for data, and the strand that awaits it: it has nothing buffered. -/
structure State.Plain (s : State) (r : Req) : Prop where
  user : r.user = .strand
  noFetch : r.kind ≠ .fetch
  noResv : r.kind ≠ .resv
  core : r.core < 260
  strand : r.strand < 4
  stores : (s.strand r.core r.strand).stores = []

theorem State.reqDone_plain (v : Word) (h : s.Plain r) : s.reqDone r v = (s.answeredReq r s.rline).strandDone r v := by
  unfold State.reqDone
  rw [h.user]
  dsimp only
  split
  · exact absurd ‹_› h.noFetch
  · exact absurd ‹_› h.noResv
  · rfl

theorem State.reqFails_plain (cause : Nat) (h : s.Plain r) : s.reqFails r cause = (s.answeredReq r s.rline).strandFails r cause := by
  unfold State.reqFails
  rw [h.user]
  dsimp only
  split
  · exact absurd ‹_› h.noFetch
  · exact absurd ‹_› h.noResv
  · exact absurd ‹_› h.noResv
  · rfl

/-- Behind an access that a strand with nothing else buffered awaits, nothing leaves. -/
theorem State.sendReady_empty {c k : Nat} (h : (s.strand c k).stores = []) : s.sendReady c k = s :=
  State.sendReady_settled c k fun b hb => absurd hb (by rw [h]; exact List.not_mem_nil)

/-! ## The answer of a host (R402) -/

/-- The value of a load elsewhere reaches its register, which waits no more. -/
theorem State.strandDone_load {d : Reg} {signed : Bool} (v : Word) (ho : r.acc.op = .load d signed) (hc : r.core < 260) (hk : r.strand < 4)
    (hs : (s.strand r.core r.strand).stores = []) :
    ∃ l, s.strandDone r v = ({ s with rline := l } : State).modStrand r.core r.strand fun t =>
      (t.unmark ⟨d, .request r.id⟩).setReg d (extendLoad r.acc.size signed (r.overlay v).toNat) := by
  let f (t : Strand) : Strand := (t.unmark ⟨d, .request r.id⟩).setReg d (extendLoad r.acc.size signed (r.overlay v).toNat)
  have hquiet (l : List RemoteWord) : ((({ s with rline := l } : State).modStrand r.core r.strand f).raiseFlags r.core r.strand 0).sendReady r.core r.strand =
      ({ s with rline := l } : State).modStrand r.core r.strand f := by
    rw [State.raiseFlags_none, State.sendReady_empty]
    rw [State.strand_modStrand_self _ f hc hk]
    exact (congrArg Strand.stores (Strand.setReg_rest _ d _)).trans hs
  unfold State.strandDone Acc.answer Req.reg
  simp only [ho]
  split
  · exact ⟨_, hquiet _⟩
  · exact ⟨s.rline, hquiet _⟩

theorem rdmaResponse_writes {idx e : Nat} {data : List Byte} {d : Reg} {signed : Bool} (hi : s.reqs[idx]? = some r) (he : r.endpoint = some e)
    (hr : s.Plain r) (hd : d ≠ 0) (ho : r.acc.op = .load d signed)
    (hfirst : ∀ z ∈ s.reqs.take idx, ¬ (z.core = r.core ∧ z.strand = r.strand ∧ z.user = .strand ∧ z.endpoint = r.endpoint)) :
    RunsTo (.rdmaResponse idx data) s fun t => t.reqs = s.reqs.erase r ∧ t.mem = s.mem ∧
      let v := (r.overlay (BitVec.ofNat 64 (leNat (data.take r.acc.size)))).toNat
      (∀ z, (t.strand r.core r.strand).reg z = if z = d then extendLoad r.acc.size signed v else (s.strand r.core r.strand).reg z) ∧
      (t.strand r.core r.strand).pend = (s.strand r.core r.strand).pend.erase ⟨d, .request r.id⟩ := by
  have hrun : exec (.rdmaResponse idx data) s = .next (s.reqDone r (BitVec.ofNat 64 (leNat (data.take r.acc.size)))) := by
    show execRdmaResponse idx data s = _
    unfold execRdmaResponse
    rw [hi]
    refine if_neg ?_
    rw [he, hr.user]
    simp only [Option.isNone_some, Bool.false_or, List.any_eq_true, Bool.and_eq_true, beq_iff_eq, not_exists]
    exact fun z ⟨hz, ⟨⟨hcore, hstrand⟩, huser⟩, hend⟩ => hfirst z hz ⟨hcore, hstrand, huser, hend.trans he.symm⟩
  obtain ⟨l, hdone⟩ := State.strandDone_load (s := s.answeredReq r s.rline) (BitVec.ofNat 64 (leNat (data.take r.acc.size))) ho hr.core hr.strand hr.stores
  refine ⟨_, hrun, ?_⟩
  rw [State.reqDone_plain _ hr, hdone]
  refine ⟨State.modStrand_reqs _ _ _ _, State.modStrand_mem _ _ _ _, fun z => ?_, ?_⟩
  · rw [State.strand_modStrand_self _ _ hr.core hr.strand, Strand.reg_setReg]
    by_cases hz : z = d
    · subst hz
      rw [if_pos ⟨rfl, hd⟩, if_pos rfl]
    · rw [if_neg fun h => hz h.1, if_neg hz]
      rfl
  · rw [State.strand_modStrand_self _ _ hr.core hr.strand]
    exact congrArg Strand.pend (Strand.setReg_rest _ d _)

/-! ## An endpoint that gives up (R97) -/

/-- From s to t memory and the endpoints stay, nothing is buffered that was not, and no cause is lost that a strand has yet to take. -/
structure State.Failing (s t : State) : Prop where
  mem : t.mem = s.mem
  endpoints : t.endpoints = s.endpoints
  stores : ∀ c k, (s.strand c k).stores = [] → (t.strand c k).stores = []
  deferred : ∀ c k, ∀ x ∈ (s.strand c k).deferred, x ∈ (t.strand c k).deferred

theorem State.Failing.refl (s : State) : s.Failing s := ⟨rfl, rfl, fun _ _ h => h, fun _ _ _ h => h⟩

theorem State.Failing.trans {t u : State} (h : s.Failing t) (g : t.Failing u) : s.Failing u :=
  ⟨g.mem.trans h.mem, g.endpoints.trans h.endpoints, fun c k e => g.stores c k (h.stores c k e),
    fun c k x e => g.deferred c k x (h.deferred c k x e)⟩

theorem State.modStrand_failing (c k : Nat) (f : Strand → Strand) (hs : ∀ t, t.stores = [] → (f t).stores = [])
    (hd : ∀ t, ∀ x ∈ t.deferred, x ∈ (f t).deferred) : s.Failing (s.modStrand c k f) := by
  refine ⟨s.modStrand_mem c k f, s.modStrand_endpoints c k f, fun d j h => ?_, fun d j x h => ?_⟩
  · rcases s.strand_modStrand_cases c k d j f with e | e
    · rw [e]; exact h
    · rw [e]; exact hs _ h
  · rcases s.strand_modStrand_cases c k d j f with e | e
    · rw [e]; exact h
    · rw [e]; exact hd _ x h

theorem State.headsDone_only (c k n : Nat) : ∃ cs, s.headsDone c k n = { s with cores := cs } := by
  unfold State.headsDone
  split
  · exact ⟨s.cores, rfl⟩
  · exact State.foldl_cores_only _ (fun s j => s.modStrand_only c j _) _ s

theorem State.headsDone_reqs (c k n : Nat) : (s.headsDone c k n).reqs = s.reqs := by
  obtain ⟨cs, h⟩ := State.headsDone_only (s := s) c k n
  rw [h]

theorem State.headsDone_failing (c k n : Nat) : s.Failing (s.headsDone c k n) := by
  refine ⟨s.headsDone_mem c k n, ?_, fun d j h => (State.headsDone_keeps Strand.stores (fun _ _ _ => rfl) c k n d j).trans h, fun d j x h => ?_⟩
  · obtain ⟨cs, h⟩ := State.headsDone_only (s := s) c k n
    rw [h]
  · rw [State.headsDone_keeps Strand.deferred fun _ _ _ => rfl]
    exact h

theorem Strand.dropHostStore_none {t : Strand} (a : Acc) (h : t.stores = []) : t.dropHostStore a = t := by
  unfold Strand.dropHostStore
  rw [h]
  rfl

theorem Strand.dropHostStore_deferred (t : Strand) (a : Acc) : (t.dropHostStore a).deferred = t.deferred := by
  unfold Strand.dropHostStore
  split <;> rfl

/-- A failed request of a strand is gone, and the strand has the cause to take where a register awaited the value. -/
theorem State.reqFails_fails (cause : Nat) (h : s.Plain r) :
    s.Failing (s.reqFails r cause) ∧ (s.reqFails r cause).reqs = s.reqs.erase r ∧
      (r.reg.isSome = true → (cause, 2 ^ 15, BitVec.ofNat 64 r.acc.va) ∈ ((s.reqFails r cause).strand r.core r.strand).deferred) := by
  let u : State := s.answeredReq r s.rline
  have hu : s.Failing u := ⟨rfl, rfl, fun _ _ e => e, fun _ _ _ e => e⟩
  rw [State.reqFails_plain cause h]
  unfold State.strandFails
  cases hreg : r.reg with
  | some d =>
    let f (t : Strand) : Strand := (t.unmark ⟨d, .request r.id⟩).defer cause r.acc.va
    have hf : u.Failing (u.modStrand r.core r.strand f) :=
      State.modStrand_failing _ _ _ (fun _ e => e) fun t x hx => List.mem_append_left _ hx
    dsimp only
    rw [State.sendReady_empty (hf.stores _ _ h.stores)]
    refine ⟨hu.trans hf, State.modStrand_reqs _ _ _ _, fun _ => ?_⟩
    rw [State.strand_modStrand_self _ f h.core h.strand]
    exact List.mem_append_right _ List.mem_cons_self
  | none =>
    let f (t : Strand) : Strand := if r.acc.pc.toNat % 2 = 1 then t.dropHostStore r.acc else (t.dropHostStore r.acc).defer cause r.acc.va
    have hf : u.Failing (u.modStrand r.core r.strand f) := by
      refine State.modStrand_failing _ _ _ (fun t e => ?_) fun t x hx => ?_
      · dsimp only [f]
        rw [Strand.dropHostStore_none _ e]
        split <;> exact e
      · rw [← t.dropHostStore_deferred r.acc] at hx
        dsimp only [f]
        split
        · exact hx
        · exact List.mem_append_left _ hx
    have hg := hf.trans (State.headsDone_failing r.core r.strand (if r.acc.pc = tracePc 1 then 1 else 0))
    dsimp only
    rw [State.sendReady_empty (hg.stores _ _ h.stores)]
    refine ⟨hu.trans hg, ?_, fun e => absurd e (by decide)⟩
    rw [State.headsDone_reqs]
    exact State.modStrand_reqs _ _ _ _

/-- A request that fails when its turn comes, if it is still under way. -/
def State.failsIn (cause : Nat) (s : State) (r : Req) : State :=
  match s.reqs.find? (·.id == r.id) with
  | some r' => s.reqFails r' cause
  | none => s

/-- Requests of strands that fail one after the other. -/
theorem State.foldl_failsIn (cause : Nat) (l : List Req) (hnodup : (s.reqs.map (·.id)).Nodup) (hsub : ∀ z ∈ l, z ∈ s.reqs) (hl : l.Nodup)
    (hplain : ∀ z ∈ l, s.Plain z) :
    let t := l.foldl (State.failsIn cause) s
    s.Failing t ∧ (∀ z ∈ t.reqs, z ∈ s.reqs ∧ z ∉ l) ∧
      ∀ z ∈ l, z.reg.isSome = true → (cause, 2 ^ 15, BitVec.ofNat 64 z.acc.va) ∈ (t.strand z.core z.strand).deferred := by
  induction l generalizing s with
  | nil => exact ⟨.refl s, fun z hz => ⟨hz, List.not_mem_nil⟩, fun z hz => absurd hz List.not_mem_nil⟩
  | cons r l ih =>
    have hinj : ∀ z ∈ s.reqs, ∀ w ∈ s.reqs, z.id = w.id → z = w := fun z hz w hw => List.inj_on_of_nodup_map hnodup hz hw
    have hmem := hsub r List.mem_cons_self
    have hturn : State.failsIn cause s r = s.reqFails r cause := by
      unfold State.failsIn
      cases hf : s.reqs.find? (·.id == r.id) with
      | none => exact absurd (List.find?_eq_none.1 hf r hmem) (by simp)
      | some r' =>
        have hid : r'.id = r.id := by simpa using List.find?_some hf
        rw [hinj r' (List.mem_of_find?_eq_some hf) r hmem hid]
    obtain ⟨hfail, hreqs, hdef⟩ := State.reqFails_fails cause (hplain r List.mem_cons_self)
    obtain ⟨hnotin, hl'⟩ := List.nodup_cons.1 hl
    have hreqsNodup : s.reqs.Nodup := List.Nodup.of_map _ hnodup
    obtain ⟨hrest, hgone, hdefs⟩ := ih (s := s.reqFails r cause)
      (by rw [hreqs]; exact hnodup.sublist (List.erase_sublist.map _))
      (fun z hz => by
        rw [hreqs]
        exact (List.mem_erase_of_ne fun (e : z = r) => hnotin (e ▸ hz)).2 (hsub z (List.mem_cons_of_mem r hz)))
      hl'
      (fun z hz =>
        have h := hplain z (List.mem_cons_of_mem r hz)
        ⟨h.user, h.noFetch, h.noResv, h.core, h.strand, hfail.stores _ _ h.stores⟩)
    rw [List.foldl_cons, hturn]
    refine ⟨hfail.trans hrest, fun z hz => ?_, fun z hz hreg => ?_⟩
    · obtain ⟨hin, hnl⟩ := hgone z hz
      rw [hreqs, hreqsNodup.mem_erase_iff] at hin
      exact ⟨hin.2, fun h => (List.mem_cons.1 h).elim hin.1 hnl⟩
    · rcases List.mem_cons.1 hz with rfl | hz
      · exact hrest.deferred _ _ _ (hdef hreg)
      · exact hdefs z hz hreg

theorem rdmaTransportGiveUp_fails {e : Nat} (hplain : ∀ z ∈ s.reqs, z.endpoint = some e → s.Plain z) (hnodup : (s.reqs.map (·.id)).Nodup) :
    RunsTo (.rdmaTransportGiveUp e) s fun t => (∀ x ∈ t.endpoints, x.1 = e → x.2.up = false) ∧ t.mem = s.mem ∧
      (∀ z ∈ t.reqs, z.endpoint ≠ some e) ∧
      ∀ z ∈ s.reqs, z.endpoint = some e → z.reg.isSome = true →
        ∃ x ∈ (t.strand z.core z.strand).deferred, x = (Cause.linkFailed, 2 ^ 15, BitVec.ofNat 64 z.acc.va) := by
  let close (x : Nat × Endpoint) : Nat × Endpoint := if x.1 = e then (x.1, { x.2 with up := false }) else x
  let u : State := { s with endpoints := s.endpoints.map close }
  let l : List Req := s.reqs.filter fun z => z.endpoint == some e
  have hmem {z : Req} : z ∈ l ↔ z ∈ s.reqs ∧ z.endpoint = some e := by simp [l]
  obtain ⟨hfail, hgone, hdef⟩ := State.foldl_failsIn (s := u) Cause.linkFailed l hnodup (fun z hz => (hmem.1 hz).1)
    ((List.Nodup.of_map _ hnodup).filter _)
    (fun z hz =>
      have h := hplain z (hmem.1 hz).1 (hmem.1 hz).2
      ⟨h.user, h.noFetch, h.noResv, h.core, h.strand, h.stores⟩)
  refine ⟨l.foldl (State.failsIn Cause.linkFailed) u, rfl, fun x hx hxe => ?_, hfail.mem, fun z hz he => ?_, fun z hz he hreg => ?_⟩
  · rw [hfail.endpoints] at hx
    obtain ⟨y, -, rfl⟩ := List.mem_map.1 hx
    dsimp only [close] at hxe ⊢
    split
    · rfl
    · rename_i hy
      rw [if_neg hy] at hxe
      exact absurd hxe hy
  · exact (hgone z hz).2 (hmem.2 ⟨(hgone z hz).1, he⟩)
  · exact ⟨_, hdef z (hmem.2 ⟨hz, he⟩) hreg, rfl⟩

end requests

/-! ## The statement -/

/-- Settles O51, a clause per message, line, port and request: each lemma names the row that it speaks of. -/
theorem hostMessages : Obligations.HostMessages := by
  intro s n c h payload key va m due replied at_ len q notified
  have hdue {op : Nat} (hd : due op) : s.Due n c h payload op := by
    obtain ⟨hconn, hopen, hfault, hop, hheld, hroom, hquiet, hawaits⟩ := hd
    exact ⟨⟨hconn, hopen, hroom, hquiet⟩, hfault, hop, hheld, hawaits⟩
  refine ⟨fun hm he => ⟨fun hd hx hp => eqtWrite_stores hm (hdue hd) hx hp, fun hd hx hclean => eqtRead_answers he (hdue hd) hx hclean,
    fun hd hx hclean hp => eqtFadd_adds hm he (hdue hd) hx hclean hp, fun e hx hd => eqtWrite_refused (hdue hd) hx,
    fun x hd hq ho _ => ⟨eqtNotify_notifies hm (hdue hd) hq ho, eqtNotify_refused (hdue hd) hq⟩,
    fun phys i k x hphys hi hk hlt hfirst hq ho hno _ => notifyLineWrite_notifies hm hphys hi hk hlt hfirst hq ho hno,
    fun svc hsvc hring hidle hgo => ⟨fun code hx => eventPortSend_refused hm ⟨hsvc, hring, hidle, hgo⟩ hx,
      fun y hx hy hu => eventPortSend_sends ⟨hsvc, hring, hidle, hgo⟩ hx hy hu⟩⟩,
    fun idx r data d signed e => ⟨fun hi he huser hfetch hresv hcore hstrand hstores hd ho hfirst =>
      rdmaResponse_writes hi he ⟨huser, hfetch, hresv, hcore, hstrand, hstores⟩ hd ho hfirst, fun hplain hnodup => ?_, rfl⟩⟩
  refine rdmaTransportGiveUp_fails (fun z hz hend => ?_) hnodup
  obtain ⟨huser, hfetch, hresv, hcore, hstrand, hstores⟩ := hplain z hz hend
  exact ⟨huser, hfetch, hresv, hcore, hstrand, hstores⟩

end Sys2Proof.Machine
end

section
/-!
SUPPORT. Open faults (R101, R104, R416 to R419): their records in the ring of a die, and what a disposition does.
-/
namespace Sys2Proof.Machine

section faults
variable {s : State} {f : OpenFault}

/-! ## Dispositions that a write gives -/

theorem State.latchDisp_faults (s : State) : s.latchDisp.faults = s.faults.map (·.latch s) := by
  unfold State.latchDisp
  split
  · rename_i h
    rw [List.isEmpty_iff.1 h]
    rfl
  · rfl

theorem OpenFault.latch_fid (f : OpenFault) (s : State) : (f.latch s).fid = f.fid := by
  unfold OpenFault.latch
  split
  · split <;> rfl
  · rfl

/-- A write latches dispositions, and opens and closes no fault. -/
theorem State.putMem_faults (s : State) (k n : Nat) (m : List Host.Cell) : ∃ u, (s.putMem k n m).faults = s.faults.map (·.latch u) :=
  ⟨_, State.latchDisp_faults _⟩

theorem State.unitWrite_faults (s : State) (k : Nat) (bs : List Byte) : ∃ u, (s.unitWrite k bs).faults = s.faults.map (·.latch u) := by
  obtain ⟨l, h⟩ := s.settleOver_only k bs.length
  unfold State.unitWrite
  rw [h]
  exact State.putMem_faults _ _ _ _

theorem State.writeBytes_faults (s : State) (k : Nat) (bs : List Byte) : ∃ u, (s.writeBytes k bs).faults = s.faults.map (·.latch u) := by
  obtain ⟨l, h⟩ := s.settleOver_only k bs.length
  unfold State.writeBytes
  rw [h]
  exact State.putMem_faults _ _ _ _

/-! ## Fault records (R416, Table 25.2) -/

/-- A field between what lies above it and below it. -/
theorem bitsOf_field {x hi lo v : Nat} (above below : Nat) (h : lo ≤ hi) (hx : x = above * 2 ^ (hi + 1) + v * 2 ^ lo + below) (hv : v < 2 ^ (hi + 1 - lo))
    (hb : below < 2 ^ lo) : bitsOf x hi lo = v := by
  have hpow : 2 ^ (hi + 1) = 2 ^ (hi + 1 - lo) * 2 ^ lo := by rw [← Nat.pow_add]; congr 1; omega
  unfold bitsOf
  rw [hx, hpow, ← Nat.mul_assoc, ← Nat.add_mul, Nat.add_comm, Nat.add_mul_div_right _ _ (Nat.two_pow_pos lo), Nat.div_eq_of_lt hb, Nat.zero_add,
    Nat.add_comm, Nat.add_mul_mod_self_right, Nat.mod_eq_of_lt hv]

/-- The fields of a word laid out as a fault record is. -/
theorem bitsOf_recordWord (addr ipa fid pseq core space part path acc kind level : Nat) {seq : Nat} (hseq : seq < 256) :
    let x := addr % 2 ^ 64 * 2 ^ 384 + ipa % 2 ^ 64 * 2 ^ 320 + fid % 2 ^ 64 * 2 ^ 256 + pseq % 2 ^ 32 * 2 ^ 224 + core % 2 ^ 23 * 2 ^ 201 +
      space % 2 ^ 20 * 2 ^ 181 + part % 2 ^ 16 * 2 ^ 165 + path % 8 * 2 ^ 162 + acc % 16 * 2 ^ 158 + kind % 8 * 2 ^ 155 + level % 4 * 2 ^ 153 + seq
    x < 2 ^ (8 * 64) ∧ bitsOf x 7 0 = seq ∧ bitsOf x 157 155 = kind % 8 ∧ bitsOf x 319 256 = fid % 2 ^ 64 := by
  intro x
  have haddr : addr % 2 ^ 64 < 2 ^ 64 := Nat.mod_lt _ (by decide)
  have hipa : ipa % 2 ^ 64 < 2 ^ 64 := Nat.mod_lt _ (by decide)
  have hfid : fid % 2 ^ 64 < 2 ^ 64 := Nat.mod_lt _ (by decide)
  have hpseq : pseq % 2 ^ 32 < 2 ^ 32 := Nat.mod_lt _ (by decide)
  have hcore : core % 2 ^ 23 < 2 ^ 23 := Nat.mod_lt _ (by decide)
  have hspace : space % 2 ^ 20 < 2 ^ 20 := Nat.mod_lt _ (by decide)
  have hpart : part % 2 ^ 16 < 2 ^ 16 := Nat.mod_lt _ (by decide)
  have hpath : path % 8 < 8 := Nat.mod_lt _ (by decide)
  have hacc : acc % 16 < 16 := Nat.mod_lt _ (by decide)
  have hkind : kind % 8 < 8 := Nat.mod_lt _ (by decide)
  have hlevel : level % 4 < 4 := Nat.mod_lt _ (by decide)
  dsimp only [x]
  generalize addr % 2 ^ 64 = addr, ipa % 2 ^ 64 = ipa, fid % 2 ^ 64 = fid, pseq % 2 ^ 32 = pseq, core % 2 ^ 23 = core, space % 2 ^ 20 = space,
    part % 2 ^ 16 = part, path % 8 = path, acc % 16 = acc, kind % 8 = kind, level % 4 = level at *
  let top : Nat := addr * 2 ^ 226 + ipa * 2 ^ 162 + fid * 2 ^ 98 + pseq * 2 ^ 66 + core * 2 ^ 43 + space * 2 ^ 23 + part * 2 ^ 7 + path * 2 ^ 4 + acc
  let low : Nat := pseq * 2 ^ 224 + core * 2 ^ 201 + space * 2 ^ 181 + part * 2 ^ 165 + path * 2 ^ 162 + acc * 2 ^ 158 + kind * 2 ^ 155 + level * 2 ^ 153 + seq
  refine ⟨by omega, ?_, bitsOf_field top (level * 2 ^ 153 + seq) (by decide) ?_ hkind ?_, bitsOf_field (addr * 2 ^ 64 + ipa) low (by decide) ?_ hfid ?_⟩
  · unfold bitsOf; omega
  all_goals omega

/-- The fields of a fault record. -/
theorem State.faultRecord_fields (s : State) (f : OpenFault) (n : Nat) :
    let x := s.faultRecord f n
    x < 2 ^ (8 * 64) ∧ bitsOf x 7 0 = 1 + n / 256 % 255 ∧ bitsOf x 157 155 = f.kind % 8 ∧ bitsOf x 319 256 = (n + 1) % 2 ^ 64 := by
  unfold State.faultRecord
  exact bitsOf_recordWord _ _ _ _ _ _ _ _ _ _ _ (by omega)

/-- In t fault f of s stands in the next record of its die, whose service core has event 7. -/
def State.Recorded (s : State) (f : OpenFault) (t : State) : Prop :=
  let n := s.fids.getD f.die 0
  let x := t.readNat (s.recordPlace f.die n) 64
  t.fids = s.fids.set f.die (n + 1) ∧ x = s.faultRecord f n ∧ bitsOf x 7 0 = 1 + n / 256 % 255 ∧ bitsOf x 157 155 = f.kind % 8 ∧
  bitsOf x 319 256 = (n + 1) % 2 ^ 64 ∧ (∃ g ∈ t.faults, g.fid = f.fid ∧ g.recNo = some n) ∧
  (t.strand (256 + f.die) 0).sys.evpend.getLsbD 7 = true ∧
  ∀ j, j < s.recordPlace f.die n ∨ s.recordPlace f.die n + 64 ≤ j → t.byte j = s.byte j

theorem State.recordFault_records (hm : s.memOk) (hd : f.die < 4) (hr : f.recNo = none) (hf : f ∈ s.faults)
    (hfree : ∀ g ∈ s.faults, g.die = f.die → 256 ≤ s.fids.getD f.die 0 → g.recNo ≠ some (s.fids.getD f.die 0 - 256)) :
    s.Recorded f (s.recordFault f) := by
  unfold State.Recorded State.recordFault
  generalize s.fids.getD f.die 0 = n at *
  dsimp only
  generalize s.recordPlace f.die n = p
  rw [if_neg]
  · let u : State := s.unitNat p 64 (s.faultRecord f n)
    let mark (g : OpenFault) : OpenFault := if g.fid = f.fid then { g with recNo := some n } else g
    let v : State := { u with faults := u.faults.map mark, fids := u.fids.set f.die (n + 1) }
    have honly : s.onlyMem u := s.unitWrite_onlyMem _ _
    have hmem : (v.serviceEvent f.die 0 7).mem = u.mem := v.serviceEvent_mem f.die 0 7
    obtain ⟨hlt, hfields⟩ := s.faultRecord_fields f n
    have hread : (v.serviceEvent f.die 0 7).readNat p 64 = s.faultRecord f n :=
      (State.readNat_of_mem hmem p 64).trans ((s.readNat_unitNat p 64 _ hm).trans (Nat.mod_eq_of_lt hlt))
    obtain ⟨w, hw⟩ := s.unitWrite_faults p (leBytes 64 (s.faultRecord f n))
    have hfid : (f.latch w).fid = f.fid := f.latch_fid w
    have hfaults : (v.serviceEvent f.die 0 7).faults = (s.faults.map (·.latch w)).map mark :=
      (v.modStrand_faults _ _ _).trans (congrArg (List.map mark) hw)
    have hfids : (v.serviceEvent f.die 0 7).fids = s.fids.set f.die (n + 1) :=
      (v.modStrand_fids _ _ _).trans (congrArg (List.set · f.die (n + 1)) (by rw [show u = _ from honly]))
    rw [← hread] at hfields
    refine ⟨hfids, hread, hfields.1, hfields.2.1, hfields.2.2, ?_, v.serviceEvent_sets hd (by decide) (by decide), fun j hj => ?_⟩
    · rw [hfaults]
      exact ⟨mark (f.latch w), List.mem_map_of_mem (List.mem_map_of_mem hf), by simp [mark, hfid], by simp [mark, hfid]⟩
    · exact (State.byte_of_mem hmem j).trans ((s.byte_unitNat p 64 _ j hm).trans (if_neg (by omega)))
  · refine not_or.2 ⟨by rw [hr]; decide, ?_⟩
    simp only [List.any_eq_true, Bool.and_eq_true, beq_iff_eq, decide_eq_true_eq, not_exists, not_and]
    exact fun g hg ⟨hdie, hle⟩ => hfree g hg hdie hle

/-! ## RETRY (R418) -/

variable {die slot : Nat}

theorem State.disposed_mem (h : s.disposed die slot = some f) : f ∈ s.faults := List.mem_of_find?_eq_some h

/-- A RETRY of what is no held access of a strand acts at once. -/
theorem dispRetry_retries (h : s.disposed die slot = some f) (hr : f.isRetry = true) (hw : s.loadMustWait f = false) :
    exec (.dispRetry die slot) s = .next (s.retryFault f) := by
  show execDispRetry die slot s = _
  unfold execDispRetry
  rw [h]
  exact if_pos (by rw [hr, hw]; rfl)

theorem dispRefuse_refuses (h : s.disposed die slot = some f) (hr : f.isRetry = false) :
    exec (.dispRefuse die slot) s = .next (s.refuseFault f) := by
  show execDispRefuse die slot s = _
  unfold execDispRefuse
  rw [h]
  exact if_neg (by rw [hr]; decide)

section task
variable {c : Nat} {q : BitVec 32} {u : Task}

theorem State.suspended_task (h : s.suspended c q f = some u) : (s.core c).task q = some u := by
  unfold State.suspended at h
  split at h
  · rename_i t ht
    split at h
    · cases h
      exact ht
    · cases h
  · cases h

theorem dispRetry_task (h : s.disposed die slot = some f) (hr : f.isRetry = true) (hh : f.holder = .task c q) (hu : s.suspended c q f = some u)
    (hv : ∀ e a : Word, u.cmd ≠ .vrun e a ∨ u.stored = false) :
    RunsTo (.dispRetry die slot) s fun t => t.faults = s.faults.erase f ∧ t.mem = s.mem ∧
      ∃ w ∈ (t.core c).window, w = { u with state := .ready, fault := none, waited := 0, age := 0 } := by
  let s' : State := { s with faults := s.faults.erase f }
  obtain ⟨hin, hq⟩ := Core.task_some (State.suspended_task hu)
  have hagain : s.retryFault f = s'.modTask c u.seq fun t => { t with state := .ready, fault := none, waited := 0, age := 0 } := by
    unfold State.retryFault
    rw [hh]
    dsimp only
    rw [show s'.suspended c q f = some u from hu]
    refine if_neg fun ⟨hvrun, hstored⟩ => ?_
    split at hvrun
    · rename_i e a hcmd
      exact (hv e a).elim (fun h => h hcmd) fun h => by rw [h] at hstored; cases hstored
    · cases hvrun
  have hwait : s.loadMustWait f = false := by unfold State.loadMustWait; rw [hh]
  refine ⟨_, dispRetry_retries h hr hwait, ?_⟩
  rw [hagain]
  exact ⟨s'.setCore_faults _ _, s'.modTask_mem _ _ _, _, s'.mem_window_modTask u.seq _ hin rfl, rfl⟩

theorem State.failCopySide_faults (s : State) (t : Task) (cause : Nat) : (s.failCopySide t cause).faults.length = s.faults.length := by
  have hfail (k : Nat) : (s.tbFail k cause).faults.length = s.faults.length := by
    obtain ⟨w, hw⟩ := s.writeBytes_faults k (leBytes 32 (tbFailBits (s.tb k) cause))
    exact (congrArg List.length hw).trans (List.length_map _)
  unfold State.failCopySide
  split
  · split <;> rfl
  · split
    · split
      · exact hfail _
      · rfl
    · rfl

theorem State.failTask_faults (s : State) (c : Nat) (t : Task) (cause : Nat) : (s.failTask c t cause).faults.length = s.faults.length := by
  obtain ⟨cs, l, o, h⟩ := (s.failCopySide t cause).retire_only c t (some cause)
  unfold State.failTask
  rw [h]
  exact s.failCopySide_faults t cause

theorem dispRefuse_task (h : s.disposed die slot = some f) (hr : f.isRetry = false) (hh : f.holder = .task c q) (hu : s.suspended c q f = some u) :
    RunsTo (.dispRefuse die slot) s fun t => t.faults.length < s.faults.length ∧ Ended s t c u (-(Cause.xlate : Int)) := by
  let s' : State := { s with faults := s.faults.erase f }
  have hfails : s.refuseFault f = s'.failTask c u Cause.xlate := by
    unfold State.refuseFault
    rw [hh]
    dsimp only
    rw [show s'.suspended c q f = some u from hu]
  have hlt : (s.faults.erase f).length < s.faults.length := by
    have := List.length_pos_of_mem (State.disposed_mem h)
    rw [List.length_erase_of_mem (State.disposed_mem h)]
    omega
  refine ⟨_, dispRefuse_refuses h hr, ?_⟩
  rw [hfails]
  exact ⟨(s'.failTask_faults c u _).trans_lt hlt, 
    .of_cores (s' := s') rfl (s'.failTask_ended (State.core_lt_of_task (State.suspended_task hu)) u Cause.xlate)⟩

end task

section fetch
variable {c k : Nat}

theorem dispRetry_fetch (h : s.disposed die slot = some f) (hr : f.isRetry = true) (hc : c < 260) (hk : k < 4) (hh : f.holder = .fetch c k)
    (hs : s.standsAt c k f = true) :
    RunsTo (.dispRetry die slot) s fun t => t.faults = s.faults.erase f ∧ t.mem = s.mem ∧
      t.strand c k = { s.strand c k with state := .run, reason := 0, obj := 0, waited := 0 } := by
  let s' : State := { s with faults := s.faults.erase f }
  have hagain : s.retryFault f = s'.modStrand c k fun t => { t with state := .run, reason := 0, obj := 0, waited := 0 } := by
    unfold State.retryFault
    rw [hh]
    exact if_pos hs
  have hwait : s.loadMustWait f = false := by unfold State.loadMustWait; rw [hh]
  refine ⟨_, dispRetry_retries h hr hwait, ?_⟩
  rw [hagain]
  exact ⟨State.modStrand_faults _ _ _ _, State.modStrand_mem _ _ _ _, s'.strand_modStrand_self _ hc hk⟩

theorem bitsOf_ecauseOf {cause : Nat} (h : cause < 256) : bitsOf (ecauseOf cause 0 false false).toNat 7 0 = cause := by
  simp [ecauseOf, bitsOf]
  omega

theorem dispRefuse_fetch (h : s.disposed die slot = some f) (hr : f.isRetry = false) (hc : c < 260) (hk : k < 4) (hh : f.holder = .fetch c k)
    (hs : s.standsAt c k f = true) (hvec : (s.strand c k).sys.tvec ≠ 0) (htrap : (s.strand c k).sys.intrap = false) :
    RunsTo (.dispRefuse die slot) s fun t =>
      let y := t.strand c k
      t.faults = s.faults.erase f ∧ y.pc = (s.strand c k).sys.tvec &&& ~~~3#64 ∧ y.sys.epc = (s.strand c k).pc ∧
      bitsOf y.sys.ecause.toNat 7 0 = Cause.xlate ∧ y.sys.eval = BitVec.ofNat 64 f.va ∧ y.sys.intrap = true ∧ y.state = .run := by
  let s' : State := { s with faults := s.faults.erase f }
  let u : State := s'.modCore c fun x => { x with defining := x.defining.filter fun d => d.2 != k }
  have hstrand : u.strand c k = s.strand c k := by
    unfold State.strand
    rw [show u.core c = _ from s'.core_setCore_self c _ hc]
    rfl
  have hfatal : (u.strand c k).fatal Cause.xlate = false := by
    rw [hstrand]
    unfold Strand.fatal
    rw [beq_false_of_ne hvec, htrap]
    rfl
  have hrefuse : s.refuseFault f = u.trapAt c k Cause.xlate 0 false false (BitVec.ofNat 64 f.va) (u.strand c k).pc := by
    unfold State.refuseFault
    rw [hh]
    exact if_pos hs
  refine ⟨_, dispRefuse_refuses h hr, ?_⟩
  rw [hrefuse]
  unfold State.trapAt
  rw [hfatal]
  dsimp only [Bool.false_eq_true, if_false]
  rw [if_neg (by decide), State.strand_modStrand_self _ _ hc hk, hstrand]
  exact ⟨(State.modStrand_faults _ _ _ _).trans (State.setCore_faults _ _ _), rfl, rfl, bitsOf_ecauseOf (by decide), rfl, rfl, rfl⟩

end fetch

end faults

end Sys2Proof.Machine
end

section
/-!
SUPPORT. Pages that move, and invalidation (R96, R413, R444).
-/
namespace Sys2Proof.Machine

section moves
variable {s : State} {space page g : Nat} {l : Leaf}

/-! ## The start of a move -/

theorem not_moving (h : ∀ m ∈ s.moving, ¬ (m.space = space ∧ m.page = page)) : s.moving.any (fun m => m.space == space && m.page == page) = false := by
  simpa using h

theorem State.clearCount_count (s : State) (space page : Nat) : (s.clearCount space page).migCount space page = 0 := by
  unfold State.migCount State.clearCount
  have hnone : ((s.migCounts.filter fun x => !(x.space == space && x.page == page)).find? fun x => x.space == space && x.page == page) = none :=
    List.find?_eq_none.2 fun x hx => by
      simpa only [Bool.not_eq_true', Bool.not_eq_true] using (List.mem_filter.1 hx).2
  dsimp only
  rw [hnone]

theorem State.mayMove_passed {n : Nat} (hmode : leafMode l.bits = 4) (hth : migThreshold (leafClass l.bits) = some n) (hn : n < s.migCount space page) :
    s.mayMove space page l = true := by
  unfold State.mayMove
  rw [hmode, hth]
  simpa using hn

section own
variable (hl : s.pageLeaf space page = some l) (hfree : ∀ m ∈ s.moving, ¬ (m.space = space ∧ m.page = page))
include hl hfree

theorem migrationStart_moves {a : Nat} (hmay : s.mayMove space page l = true) (hg : g % 65536 = 0) (hpa : s.stage2 0 l.partno g = .pa a) :
    Runs (.migrationStart space page ⟨some g, s.marten.values.pkg⟩) s
      { s with moving := s.moving ++ [⟨space, page, g, s.marten.values.pkg, none⟩] } := by
  show execMigrationStart space page _ s = _
  unfold execMigrationStart
  rw [hl]
  dsimp only
  rw [not_moving hfree, if_neg (by decide), if_pos rfl, hmay, hpa]
  dsimp only
  rw [if_neg (by decide), if_neg (not_not.2 hg)]

theorem migrationStart_clears (hmay : s.mayMove space page l = true) :
    RunsTo (.migrationStart space page ⟨none, s.marten.values.pkg⟩) s fun t =>
      t.migCount space page = 0 ∧ t.moving = s.moving ∧ t.mem = s.mem := by
  refine ⟨s.clearCount space page, ?_, s.clearCount_count space page, rfl, rfl⟩
  show execMigrationStart space page _ s = _
  unfold execMigrationStart
  rw [hl]
  dsimp only
  rw [not_moving hfree, if_neg (by decide), if_pos rfl, hmay]
  rfl

theorem migrationStart_elsewhere {other : Nat} {p : Partition} (hne : other ≠ s.marten.values.pkg) (hgroup : other / 32 = s.marten.values.pkg / 32)
    (hp : s.part l.partno = some p) (hin : other ∈ p.packages) (hmode : leafMode l.bits ≤ 4) (hg : g % 65536 = 0) :
    Runs (.migrationStart space page ⟨some g, other⟩) s { s with moving := s.moving ++ [⟨space, page, g, other, l.home⟩] } := by
  show execMigrationStart space page _ s = _
  unfold execMigrationStart
  rw [hl]
  dsimp only
  rw [not_moving hfree, if_neg (by decide), if_neg hne, hp, hgroup]
  exact if_pos ⟨by simpa using hin, hg, hmode⟩

end own

/-! ## The leaf of a page that has moved (Table 24.8) -/

/-- The entry of a page that stands in a granule of a package, under a mode, committed. -/
def Leaf.movedTo (l : Leaf) (granule peer mode : Nat) : Nat :=
  putBits (putBits (putBits (putBits l.bits 58 44 peer) 43 12 (granule / 65536)) 9 7 mode) 6 6 1

theorem bitsOf_mod {hi lo n : Nat} (x : Nat) (h : lo ≤ hi) (hn : hi < n) : bitsOf (x % 2 ^ n) hi lo = bitsOf x hi lo := by
  unfold bitsOf
  rw [show 2 ^ n = 2 ^ lo * 2 ^ (n - lo) by rw [← Nat.pow_add]; congr 1; omega, Nat.mod_mul_right_div_self,
    Nat.mod_mod_of_dvd _ (Nat.pow_dvd_pow 2 (by omega))]

theorem Leaf.movedTo_fields (l : Leaf) {granule peer mode : Nat} (ha : granule % 65536 = 0) (hlt : granule < 2 ^ 48) (hm : mode < 8) :
    let e := l.movedTo granule peer mode % 2 ^ 64
    leafMode e = mode ∧ leafC e = true ∧ leafOut e = granule ∧ leafPeer e = peer % 2 ^ 15 ∧ e % 64 = l.bits % 64 := by
  intro e
  have he (hi lo : Nat) (h : lo ≤ hi) (hn : hi < 64) : bitsOf e hi lo = bitsOf (l.movedTo granule peer mode) hi lo := bitsOf_mod _ h hn
  have hmode : bitsOf e 9 7 = mode := by
    rw [he 9 7 (by decide) (by decide), Leaf.movedTo, bitsOf_putBits_above _ _ _ _ _ _ (by decide) (by decide), bitsOf_putBits _ _ _ _ (by decide)]
    exact Nat.mod_eq_of_lt hm
  have hc : bitsOf e 6 6 = 1 := by
    rw [he 6 6 (by decide) (by decide), Leaf.movedTo, bitsOf_putBits _ _ _ _ (by decide)]
    rfl
  have hout : bitsOf e 43 12 = granule / 65536 := by
    rw [he 43 12 (by decide) (by decide), Leaf.movedTo, bitsOf_putBits_above _ _ _ _ _ _ (by decide) (by decide),
      bitsOf_putBits_above _ _ _ _ _ _ (by decide) (by decide), bitsOf_putBits _ _ _ _ (by decide)]
    exact Nat.mod_eq_of_lt (by omega)
  have hpeer : bitsOf e 58 44 = peer % 2 ^ 15 := by
    rw [he 58 44 (by decide) (by decide), Leaf.movedTo, bitsOf_putBits_above _ _ _ _ _ _ (by decide) (by decide),
      bitsOf_putBits_above _ _ _ _ _ _ (by decide) (by decide), bitsOf_putBits_above _ _ _ _ _ _ (by decide) (by decide),
      bitsOf_putBits _ _ _ _ (by decide)]
  have hlow : bitsOf e 5 0 = bitsOf l.bits 5 0 := by
    rw [he 5 0 (by decide) (by decide), Leaf.movedTo]
    iterate 4 rw [bitsOf_putBits_below _ _ _ _ _ _ (by decide) (by decide) (by decide)]
  refine ⟨hmode, ?_, ?_, hpeer, ?_⟩
  · exact decide_eq_true hc
  · unfold leafOut
    rw [hout]
    omega
  · simpa [bitsOf] using hlow

/-! ## The end of a move -/

theorem State.writeHeld_none {c : Nat} (h : (s.core c).traceHeld = []) : s.writeHeld c = s := by
  unfold State.writeHeld
  dsimp only
  rw [h]
  rfl

/-- Where no fault waits and no core holds a trace record back, a page stops moving and nothing follows. -/
theorem State.endMove_quiet (m : Moving) (hf : s.faults = []) (ht : ∀ c, (s.core c).traceHeld = []) :
    s.endMove m = ({ s with moving := s.moving.filter (· != m) } : State).clearCount m.space m.page := by
  let u : State := ({ s with moving := s.moving.filter (· != m) } : State).clearCount m.space m.page
  have hu : u.faults = [] := hf
  have hheld (c : Nat) : u.writeHeld c = u := State.writeHeld_none (ht c)
  unfold State.endMove
  dsimp only
  rw [show (({ s with moving := s.moving.filter (· != m) } : State).clearCount m.space m.page) = u from rfl, hu, List.filter_nil, List.foldl_nil,
    List.foldl_fixed' hheld]

/-- A write in this package leaves no fault open where none was, and no trace record held. -/
theorem State.writeBytes_quiet (k : Nat) (bs : List Byte) (hf : s.faults = []) (ht : ∀ c, (s.core c).traceHeld = []) :
    (s.writeBytes k bs).faults = [] ∧ ∀ c, ((s.writeBytes k bs).core c).traceHeld = [] := by
  obtain ⟨u, hu⟩ := s.writeBytes_faults k bs
  exact ⟨by rw [hu, hf]; rfl, fun c => by rw [(s.writeBytes_onlyMem k bs).core]; exact ht c⟩

theorem State.readNat_writeNat (s : State) (k n v : Nat) (hm : s.memOk) (hp : s.touchesPort k n = false) :
    (s.writeNat k n v).readNat k n = v % 2 ^ (8 * n) :=
  State.readNat_eq fun i hi => by
    rw [State.writeNat, s.byte_writeBytes k (k + i) _ hm (by rw [leBytes_length]; exact hp), leBytes_length, if_pos (by omega),
      Nat.add_sub_cancel_left]

/-- In t the leaf l maps the granule of the move m at a package under a mode, and the page has stopped moving, its counter at zero. -/
def State.HasMoved (l : Leaf) (m : Moving) (peer mode : Nat) (t : State) : Prop :=
  let e := t.readNat l.place 8
  leafMode e = mode ∧ leafC e = true ∧ leafOut e = m.granule ∧ leafPeer e = peer ∧ e % 64 = l.bits % 64 ∧ m ∉ t.moving ∧
    t.migCount m.space m.page = 0

/-- The leaf is set and the move ends. -/
theorem State.setLeaf_moves {m : Moving} {peer mode : Nat} (hm : s.memOk) (hp : s.touchesPort l.place 8 = false) (hf : s.faults = [])
    (ht : ∀ c, (s.core c).traceHeld = []) (ha : m.granule % 65536 = 0) (hlt : m.granule < 2 ^ 48) (hmode : mode < 8) (moved : List Moved) :
    let t := ({ s.setLeaf l (l.movedTo m.granule peer mode) with moved := moved } : State).endMove m
    State.HasMoved l m (peer % 2 ^ 15) mode t ∧ t.moved = moved ∧ ∀ j, j < l.place ∨ l.place + 8 ≤ j → t.byte j = s.byte j := by
  intro t
  let v : Nat := l.movedTo m.granule peer mode
  obtain ⟨hfaults, htraces⟩ := State.writeBytes_quiet l.place (leBytes 8 v) hf ht
  have hend : t = _ := State.endMove_quiet (s := { s.setLeaf l v with moved := moved }) m hfaults htraces
  have hmem : t.mem = (s.writeNat l.place 8 v).mem := by rw [hend]; rfl
  have hread : t.readNat l.place 8 = v % 2 ^ 64 := (State.readNat_of_mem hmem _ 8).trans (s.readNat_writeNat _ 8 v hm hp)
  obtain ⟨h1, h2, h3, h4, h5⟩ := l.movedTo_fields (peer := peer) ha hlt hmode
  refine ⟨?_, by rw [hend]; rfl, fun j hj => ?_⟩
  · unfold State.HasMoved
    rw [hread]
    refine ⟨h1, h2, h3, h4, h5, ?_, ?_⟩
    · rw [hend]
      intro hin
      simpa using (List.mem_filter.1 hin).2
    · rw [hend]
      exact State.clearCount_count _ _ _
  · rw [State.byte_of_mem hmem, s.writeNat_bytes l.place 8 v j hm hp, if_neg (by omega)]

theorem Moving.found {mover : Nat} {m : Moving} (h : (s.moving.find? fun m => m.space == space && m.page == page && m.mover == mover) = some m) :
    m.space = space ∧ m.page = page := by
  have := List.find?_some h
  simp only [Bool.and_eq_true, beq_iff_eq] at this
  exact this.1

section complete
variable {m : Moving} {mover : Nat} {bytes : List Byte} (hl : s.pageLeaf space page = some l)
  (hfound : (s.moving.find? fun m => m.space == space && m.page == page && m.mover == mover) = some m) (hm : s.memOk) (hf : s.faults = [])
  (ht : ∀ c, (s.core c).traceHeld = []) (ha : m.granule % 65536 = 0) (hlt : m.granule < 2 ^ 48) (hp : s.touchesPort l.place 8 = false)
include hl hfound hm hf ht ha hlt hp

/-- At the package that moves a page its bytes stand in the granule. -/
theorem migrationComplete_here {k : Nat} (hme : mover = s.marten.values.pkg) (hpa : s.stage2 0 l.partno m.granule = .pa k) (hlen : bytes.length = 65536)
    (hk : s.touchesPort k 65536 = false) :
    RunsTo (.migrationComplete space page ⟨bytes, mover⟩) s fun t => State.HasMoved l m 0 0 t ∧
      ∀ j, j < l.place ∨ l.place + 8 ≤ j → t.byte j = if k ≤ j ∧ j < k + 65536 then bytes.getD (j - k) 0 else s.byte j := by
  let u : State := s.writeBytes k bytes
  have honly : s.onlyMem u := s.writeBytes_onlyMem k bytes
  obtain ⟨hfaults, htraces⟩ := State.writeBytes_quiet k bytes hf ht
  obtain ⟨hmoved, -, hbytes⟩ := State.setLeaf_moves (s := u) (l := l) (m := m) (peer := 0) (mode := 0) (State.memOk_writeBytes k bytes hm)
    ((honly.touchesPort _ _).trans hp) hfaults htraces ha hlt (by decide)
    (u.setLeaf l (l.movedTo m.granule 0 0)).moved
  refine ⟨_, ?_, hmoved, fun j hj => (hbytes j hj).trans ?_⟩
  · show execMigrationComplete space page ⟨bytes, mover⟩ s = _
    unfold execMigrationComplete
    dsimp only
    rw [hfound, hl]
    dsimp only
    rw [if_pos hme, hpa]
    dsimp only
    rw [if_neg (not_not.2 hlen)]
    rfl
  · rw [s.byte_writeBytes k j bytes hm (by rw [hlen]; exact hk), hlen]

/-- At every other package that maps the page its leaf becomes DIRECT, and the old home notes where the page has gone. -/
theorem migrationComplete_elsewhere (hne : mover ≠ s.marten.values.pkg) :
    RunsTo (.migrationComplete space page ⟨bytes, mover⟩) s fun t => State.HasMoved l m (mover % 2 ^ 15) 2 t ∧
      (∀ p i : Nat, m.home = some (p, i) → ⟨p, i, mover, m.granule / 65536⟩ ∈ t.moved) ∧
      ∀ j, j < l.place ∨ l.place + 8 ≤ j → t.byte j = s.byte j := by
  have hrun (moved : List Moved) := State.setLeaf_moves (l := l) (m := m) (peer := mover) (mode := 2) hm hp hf ht ha hlt (by decide) moved
  rcases hh : m.home with _ | ⟨p, i⟩
  · obtain ⟨hmoved, -, hbytes⟩ := hrun (s.setLeaf l (l.movedTo m.granule mover 2)).moved
    refine ⟨_, ?_, hmoved, fun p i h => absurd h (by simp), hbytes⟩
    show execMigrationComplete space page ⟨bytes, mover⟩ s = _
    unfold execMigrationComplete
    dsimp only
    rw [hfound, hl]
    dsimp only
    rw [if_neg hne, hh]
    rfl
  · obtain ⟨hmoved, hlist, hbytes⟩ := hrun (⟨p, i, mover, m.granule / 65536⟩ ::
      (s.setLeaf l (l.movedTo m.granule mover 2)).moved.filter fun x => !(x.partno == p && x.page == i))
    refine ⟨_, ?_, hmoved, fun p' i' h => ?_, hbytes⟩
    · show execMigrationComplete space page ⟨bytes, mover⟩ s = _
      unfold execMigrationComplete
      dsimp only
      rw [hfound, hl]
      dsimp only
      rw [if_neg hne, hh]
      rfl
    · cases h
      rw [hlist]
      exact List.mem_cons_self

end complete

end moves

/-! ## Invalidation (R413, R444) -/

section invalidation
variable {s : State}

/-- No access translated under a space and partition of a kind is under way. -/
theorem State.anyUnderWay_none (p : Nat → Nat → Bool) (hreqs : ∀ r ∈ s.reqs, r.user = .strand ∧ r.kind ≠ .fetch)
    (hquiet : ∀ c k, c < 260 → k < 4 → p (s.strand c k).sys.spaceid.toNat (s.core c).partno = true → (s.strand c k).underWay = false) :
    s.anyUnderWay p = false := by
  unfold State.anyUnderWay
  rw [Bool.or_eq_false_iff]
  refine ⟨List.any_eq_false.2 fun x hx hany => ?_, List.any_eq_false.2 fun r hr => ?_⟩
  · obtain ⟨t, ht, hbusy⟩ := List.any_eq_true.1 hany
    obtain ⟨c, hc, rfl⟩ := Vector.mem_iff_getElem.1 (Vector.mem_toList_iff.1 hx)
    obtain ⟨k, hk, rfl⟩ := Vector.mem_iff_getElem.1 (Vector.mem_toList_iff.1 ht)
    have hcore : s.core c = s.cores[c] := dif_pos hc
    have hstrand : s.strand c k = s.cores[c].strands[k] := by
      unfold State.strand
      rw [hcore]
      exact dif_pos hk
    rw [← hstrand, ← hcore, Bool.and_eq_true] at hbusy
    rw [hquiet c k hc hk hbusy.1] at hbusy
    exact absurd hbusy.2 (by decide)
  · obtain ⟨huser, hkind⟩ := hreqs r hr
    simp [huser, hkind]

/-- An invalidation of a kind that nothing holds up drops what its word names, and clears the word. -/
theorem State.invalidate_clears {svc kind : Nat} {stale : Nat → TlbEntry → Bool} {busy : Nat → Nat → Nat → Bool} (hm : s.memOk)
    (hsvc : svc < 4) (hring : svc < s.marten.values.faultRings.length) (hkind : 0 < kind)
    (hhi : bitsOf (s.readNat (s.invWord svc) 8) 63 38 = 0) (hk : bitsOf (s.readNat (s.invWord svc) 8) 37 36 = kind)
    (hfree : s.anyUnderWay (busy (s.readNat (s.invWord svc) 8)) = false) :
    ∃ t, s.invalidate svc kind stale busy = .next t ∧ t.tlb = s.tlb.filter (fun e => !stale (s.readNat (s.invWord svc) 8) e) ∧
      t.readNat (s.invWord svc) 8 = 0 ∧ ∀ j, j < s.invWord svc ∨ s.invWord svc + 8 ≤ j → t.byte j = s.byte j := by
  let w : Nat := s.readNat (s.invWord svc) 8
  let u : State := { s with tlb := s.tlb.filter fun e => !stale w e }
  have hw : w ≠ 0 := fun h => by
    rw [show s.readNat (s.invWord svc) 8 = 0 from h] at hk
    rw [← hk] at hkind
    exact absurd hkind (by decide)
  refine ⟨u.unitNat (s.invWord svc) 8 0, ?_, ?_, u.readNat_unitNat_zero _ 8 hm, fun j hj => ?_⟩
  · unfold State.invalidate
    dsimp only
    rw [if_neg (not_or.2 ⟨by omega, not_or.2 ⟨by omega, hw⟩⟩), if_neg (not_or.2 ⟨not_not.2 hhi, by omega⟩),
      if_neg (not_or.2 ⟨not_not.2 hk, by rw [hfree]; decide⟩)]
  · rw [show u.unitNat (s.invWord svc) 8 0 = _ from u.unitWrite_onlyMem _ _]
  · exact (u.byte_unitNat _ 8 0 j hm).trans (if_neg (by omega))

end invalidation

/-! ## The statement -/

/-- Settles O55: a fault's record (`State.recordFault_records`), a disposition by what the fault holds, the start and the end of a move, and an
invalidation of each kind (`State.invalidate_clears`). -/
theorem faultsAndMoves : Obligations.FaultsAndMoves := by
  refine ⟨fun s idx die slot f => ?_, fun s space page g svc n other l bytes hl => ?_⟩
  · refine ⟨fun hm hd hr hfree => ⟨fun hi => ?_, fun hfind => ?_⟩, fun hdisp => ⟨fun hretry =>
      ⟨fun c q u hh hu hv => dispRetry_task hdisp hretry hh hu hv, fun c k hc hk hh hs => dispRetry_fetch hdisp hretry hc hk hh hs⟩, fun hretry =>
      ⟨fun c q u hh hu => dispRefuse_task hdisp hretry hh hu, fun c k hc hk hh hs hvec htrap => dispRefuse_fetch hdisp hretry hc hk hh hs hvec htrap⟩⟩⟩
    · refine ⟨s.recordFault f, ?_, State.recordFault_records hm hd hr (List.mem_of_getElem? hi) hfree⟩
      show execResolvableFault idx s = _
      unfold execResolvableFault
      rw [hi]
    · refine ⟨s.recordFault f, ?_, State.recordFault_records hm hd hr (List.mem_of_find?_eq_some hfind) hfree⟩
      show execHeldFaultRecord die s = _
      unfold execHeldFaultRecord
      rw [hfind]
  · refine ⟨fun hfree hg => ⟨fun hmode hth hn => ?_, fun p hne hgroup hp hin hmode => migrationStart_elsewhere hl hfree hne hgroup hp hin hmode hg⟩,
      fun m mover hfound hm hf ht ha hlt hp => ?_, ?_⟩
    · have hmay := State.mayMove_passed hmode hth hn
      exact ⟨fun a hpa => migrationStart_moves hl hfree hmay hg hpa, migrationStart_clears hl hfree hmay⟩
    · obtain ⟨rfl, rfl⟩ := Moving.found hfound
      exact ⟨fun k hme hpa hlen _ hk => migrationComplete_here hl hfound hm hf ht ha hlt hp hme hpa hlen hk,
        fun hne => migrationComplete_elsewhere hl hfound hm hf ht ha hlt hp hne⟩
    · intro w clears hsvc hring hm hreqs hhi
      have hreqs' (r : Req) (hr : r ∈ s.reqs) : r.user = .strand ∧ r.kind ≠ .fetch := hreqs r hr
      refine ⟨fun hk hquiet => ?_, fun hk hquiet => ?_, fun hk hquiet => ?_⟩
      · exact State.invalidate_clears (stale := fun w e => e.space == bitsOf w 19 0) (busy := fun w space _ => space == bitsOf w 19 0) hm hsvc hring
          (by decide) hhi hk (State.anyUnderWay_none _ hreqs' fun c k hc hj h => hquiet c k hc hj (by simpa using h))
      · exact State.invalidate_clears (stale := fun w e => e.partno == bitsOf w 35 20) (busy := fun w _ part => part == bitsOf w 35 20) hm hsvc hring
          (by decide) hhi hk (State.anyUnderWay_none _ hreqs' fun c k hc hj h => hquiet c k hc hj (by simpa using h))
      · exact State.invalidate_clears (stale := fun _ _ => true) (busy := fun _ _ _ => true) hm hsvc hring (by decide) hhi hk
          (State.anyUnderWay_none _ hreqs' fun c k hc hj _ => hquiet c k hc hj)

end Sys2Proof.Machine
end

section
/-!
SUPPORT. Copies (R104, R123, R237 to R239): what asking, crediting and performing leave of cores and memory, and how a copy goes on.
-/
namespace Sys2Proof.Machine

/-! ## What leaves the cores as they are -/

theorem State.foldl_cores {α : Type} (f : State → α → State) (hf : ∀ (s : State) a, (f s a).cores = s.cores) (as : List α) (s : State) :
    (as.foldl f s).cores = s.cores := by
  induction as generalizing s with
  | nil => rfl
  | cons a as ih => rw [List.foldl_cons, ih, hf]

section cores
variable (s : State)

@[simp] theorem State.sendReads_cores (c : Nat) (user : ReqUser) (n : Nat) (own : List (Nat × Byte)) (places : List Dest) :
    (s.sendReads c user n own places).cores = s.cores := State.foldl_cores _ (fun s u => by split <;> rfl) _ s

@[simp] theorem State.sendWrites_cores (c : Nat) (user : ReqUser) (own : List (Nat × Byte)) (cells : List (Dest × List Byte)) :
    (s.sendWrites c user own cells).cores = s.cores := by
  have hline (s : State) (y : Dest × List Byte) : (s.dropRemoteLine (dieOf c) (destKey y.1) y.2.length).cores = s.cores := rfl
  refine State.foldl_cores _ (fun s u => ?_) _ s
  dsimp only
  split
  · rfl
  · exact State.foldl_cores _ hline _ _

@[simp] theorem State.countMigrate_cores (space va n mode : Nat) : (s.countMigrate space va n mode).cores = s.cores := by
  unfold State.countMigrate
  split <;> rfl

/-- The late writes that an update releases are noted aside. -/
theorem State.tbRelease_onlyMem (key : Nat) (ids : List Nat) : s.onlyMem (s.tbRelease key ids) := by
  unfold State.tbRelease
  split <;> rfl

/-- An update of a transaction barrier writes its object and notes its time. -/
theorem State.tbUpdate_onlyMem (key : Nat) (kind : TbKind) (n who path seq plen : Nat) :
    s.onlyMem (s.tbUpdate key kind n who path seq plen).1 := by
  have hput (x time : Nat) : s.onlyMem ((s.putTb key x).noteBar key time seq) := (s.writeNat_onlyMem key 32 x).trans rfl
  unfold State.tbUpdate
  split
  · exact .refl s
  · extract_lets x v parr x1 x2 x3 x4 x5 x6
    split
    · exact .refl s
    · split
      · exact s.tbFail_onlyMem _ _
      · split
        · exact hput _ _
        · exact hput _ _

/-- The end of a task fails its own side, and then retires it: what the failed task keeps of itself decides. -/
theorem State.failTask_ended_of (s : State) {c : Nat} (hc : c < 260) {u u' : Task} (hu : u'.seq = u.seq ∧ u'.owner = u.owner ∧ u'.tok = u.tok)
    (cause : Nat) : Ended s (s.failTask c u' cause) c u (-(cause : Int)) :=
  .of_change (fun _ hw _ => hw) rfl (fun _ _ => rfl) hu (s.failTask_ended hc u' cause)

end cores

/-- Of bytes put one after the other, the last at a key stands there. -/
theorem State.byte_of_cells {s t : State} {cells : List (Nat × Byte × Bool)} (hm : s.memOk)
    (hmem : t.mem = cells.foldl (fun m x => Memory.set m x.1 x.2.1) s.mem) (j : Nat) :
    t.byte j = match cells.reverse.find? (·.1 == j) with | some x => x.2.1 | none => s.byte j := by
  have hmap : t.mem = (cells.map fun x => (x.1, x.2.1)).foldl (fun m x => Memory.set m x.1 x.2) s.mem := by rw [hmem, List.foldl_map]
  have hget : t.byte j = match (cells.map fun x => (x.1, x.2.1)).reverse.find? (·.1 == j) with | some x => x.2 | none => s.byte j :=
    (congrArg (Memory.get · j) hmap).trans (Memory.get_foldl_set _ j hm)
  rw [hget, ← List.map_reverse, List.find?_map]
  show (match ((cells.reverse.find? (·.1 == j)).map fun x => (x.1, x.2.1)) with | some x => x.2 | none => s.byte j) = _
  cases cells.reverse.find? (·.1 == j) <;> rfl

/-! ## The next step of a copy (R104, R237) -/

/-- An issued copy that awaits nothing goes on where its chunks stand. -/
theorem exec_copyChunkDone {s : State} {c : Nat} {q : BitVec 32} {u : Task} {bits : BitVec 1024} {p : Nat × Option Nat}
    (hu : (s.core c).task q = some u) (hstate : u.state = .issued) (hmap : u.map = some bits) (hcopy : u.cmd.copy = some p)
    (hsent : u.arrivalSent = false) (hreply : u.reply = none) (hawait : s.awaits c (.task q) = false) :
    exec (.copyChunkDone c q) s = .next (if (u.chunk bits.toNat).isEmpty then s.copyArrival c u
      else if u.stage = 2 then s.creditChunk c u bits.toNat ⟨[], [], [], [], []⟩ else s.performChunk c u bits.toNat) := by
  show execCopyChunkDone c q s = _
  unfold execCopyChunkDone
  simp only [hu, hstate, hmap, hcopy, hsent, hreply, hawait, Option.isNone_some, Option.isSome_none, bne_self_eq_false, Bool.or_false,
    Bool.false_eq_true, if_false]
  split
  · rfl
  · split <;> rfl

section walk
variable (s : State) (c : Nat) (u : Task)

/-- A copy without a barrier completes after its last chunk. -/
theorem State.copyArrival_none (hresv : u.cmd.resv = none) (hbar : u.bar = none) : s.copyArrival c u = s.retire c u none := by
  simp only [State.copyArrival, hresv, hbar]

/-- A copy with a barrier makes its arrival there and keeps the reply. -/
theorem State.copyArrival_bar {k : Nat} (hresv : u.cmd.resv = none) (hbar : u.bar = some k) (hfrozen : s.frozenAt (.here k) = false) :
    s.copyArrival c u =
      let a := (s.tbRelease k (s.copyLate c u k)).tbUpdate k .arrive 0 (s.identity c) 4 u.seq.toNat u.pl
      a.1.modTask c u.seq fun t => { t with arrivalSent := true, reply := some (-(a.2 : Int)) } := by
  simp only [State.copyArrival, hresv, hbar, hfrozen, Bool.false_eq_true, if_false]

/-- The credit of a copy without a barrier is counted in the task alone. -/
theorem State.creditChunk_none (m : Tmap) (r : CopyRun) (hresv : u.cmd.resv = none) (hbar : u.bar = none)
    (hnext : Task.chunk { u with chunks := u.chunks + 1 } m ≠ []) :
    s.creditChunk c u m r = s.modTask c u.seq fun t => { t with chunks := t.chunks + 1, stage := 0 } := by
  have hmore (v : Task) (hv : v.chunks = u.chunks + 1) : (v.chunk m).isEmpty = false := by
    simpa [Task.chunk, hv] using hnext
  simp only [State.creditChunk, State.copyCredit, hresv, hbar, hmore, Bool.false_eq_true, if_false]

/-- A chunk at its start is performed by its walk, once no soft error is latent. -/
theorem State.performChunk_start (m : Tmap) {u' : Task} {r : CopyRun} (hu' : u' = { u with readTick := s.tick }) (hstage : u.stage = 0)
    (hsoft : s.softErrors = []) (hrun : s.copyElems c u' m (u.chunk m) ⟨[], [], [], [], []⟩ = (r, .done)) :
    s.performChunk c u m =
      if !r.reads.isEmpty then s.askReads c u' r.reads
      else if r.away.isEmpty then (s.copyWrites c u' r).creditChunk c u' m r
      else (s.copyWrites c u' r).modTask c u'.seq fun t => { t with stage := 2 } := by
  have hstart : (if u.stage = 0 then { u with readTick := s.tick } else u) = u' := (if_pos hstage).trans hu'.symm
  have hchunk : u'.chunk m = u.chunk m := by rw [hu']; rfl
  have hfirst : u'.stage = 0 := by rw [hu']; exact hstage
  simp only [State.performChunk, hstart, hsoft, hchunk, hrun, hfirst, List.isEmpty_nil, if_true, true_and]

/-- Asking changes the task alone, among the cores. -/
theorem State.askReads_task (hu : u ∈ (s.core c).window) (u' : Task) (hseq : u'.seq = u.seq) (places : List Dest) :
    { u with stage := 1, readTick := s.tick } ∈ ((s.askReads c u' places).core c).window := by
  have hmem : u ∈ ((s.sendReads c (.task u'.seq) 8 [] places).core c).window := by rwa [State.core_of_cores (s.sendReads_cores _ _ _ _ _)]
  exact State.mem_window_modTask _ _ _ hmem hseq.symm

/-- The state in which a chunk's bytes are written: the task keeps what it may still read of the bytes before them (R239). -/
def State.keepsOlds (olds : List (Nat × Byte × Bool)) : State :=
  if olds.isEmpty then s else s.modTask c u.seq fun t => { t with olds := t.olds ++ olds }

theorem State.keepsOlds_mem (olds : List (Nat × Byte × Bool)) : (s.keepsOlds c u olds).mem = s.mem := by
  unfold State.keepsOlds
  split
  · rfl
  · exact s.modTask_mem _ _ _

theorem State.keepsOlds_marten (olds : List (Nat × Byte × Bool)) : (s.keepsOlds c u olds).marten = s.marten := by
  unfold State.keepsOlds
  split
  · rfl
  · exact s.setCore_marten c _

theorem State.keepsOlds_task (olds : List (Nat × Byte × Bool)) {v : Task} (hv : v ∈ (s.core c).window) (hseq : v.seq = u.seq) :
    ∃ w ∈ ((s.keepsOlds c u olds).core c).window, w = { v with olds := w.olds } := by
  unfold State.keepsOlds
  split
  · exact ⟨v, hv, rfl⟩
  · exact ⟨_, s.mem_window_modTask _ _ hv hseq, rfl⟩

/-- Performing a chunk writes the bytes of its walk, sends those of other places and counts the pages that it touched. -/
theorem State.copyWrites_eq (r : CopyRun) : ∃ olds space, s.copyWrites c u r =
    r.parts.eraseDups.foldl (fun s p => s.countMigrate space (64 * p) 1 4)
      (((s.keepsOlds c u olds).writeMarked (.cpy c u.seq) (dieOf c) [] r.cells.reverse).sendWrites c (.task u.seq) [] r.away) := ⟨_, _, rfl⟩

theorem State.copyWrites_task (r : CopyRun) {v : Task} (hv : v ∈ (s.core c).window) (hseq : v.seq = u.seq) :
    ∃ w ∈ ((s.copyWrites c u r).core c).window, w = { v with olds := w.olds } := by
  obtain ⟨olds, space, h⟩ := s.copyWrites_eq c u r
  have hcores : (s.copyWrites c u r).cores = (s.keepsOlds c u olds).cores := by
    rw [h, State.foldl_cores _ (fun s p => s.countMigrate_cores _ _ _ _), State.sendWrites_cores, (State.writeMarked_onlyMem _ _ _ _ _).cores]
  rw [State.core_of_cores hcores]
  exact s.keepsOlds_task c u olds hv hseq

/-- Of the bytes of a chunk that stays in this package, the last of its walk stands at each place. -/
theorem State.byte_copyWrites (r : CopyRun) (haway : r.away = []) (hm : s.memOk) (hfree : ∀ x ∈ r.cells, s.portHolds x.1 = false) (j : Nat) :
    (s.copyWrites c u r).byte j = match r.cells.find? (·.1 == j) with | some x => x.2.1 | none => s.byte j := by
  obtain ⟨olds, space, h⟩ := s.copyWrites_eq c u r
  have hholds (k : Nat) : (s.keepsOlds c u olds).portHolds k = s.portHolds k :=
    s.portHolds_congr (s.keepsOlds_mem c u olds) (s.keepsOlds_marten c u olds) k
  have hmem : (s.copyWrites c u r).mem = r.cells.reverse.foldl (fun m x => Memory.set m x.1 x.2.1) s.mem := by
    rw [h, State.foldl_mem _ (fun s p => s.countMigrate_mem _ _ _ _), haway]
    exact ((s.keepsOlds c u olds).writeMarked_sets _ _ _ _ fun x hx => by
      rw [hholds, hfree x (List.mem_reverse.1 hx), Bool.and_false]).trans (by rw [s.keepsOlds_mem])
  rw [State.byte_of_cells hm hmem, List.reverse_reverse]

end walk

/-! ## What an issued copy does next -/

section step
variable {s : State} {c : Nat} {q : BitVec 32} {u : Task} {bits : BitVec 1024} {p : Nat × Option Nat} (hu : (s.core c).task q = some u)
  (hstate : u.state = .issued) (hmap : u.map = some bits) (hcopy : u.cmd.copy = some p) (hresv : u.cmd.resv = none) (hsent : u.arrivalSent = false)
  (hreply : u.reply = none) (hawait : s.awaits c (.task q) = false)
include hu hstate hmap hcopy hsent hreply hawait

/-- The step of a copy whose walk has ended. -/
theorem runs_copyArrival (hend : u.chunk bits.toNat = []) : Runs (.copyChunkDone c q) s (s.copyArrival c u) :=
  (exec_copyChunkDone hu hstate hmap hcopy hsent hreply hawait).trans (by rw [hend]; rfl)

/-- The step of a copy at the start of a chunk. -/
theorem runs_performChunk (hmore : u.chunk bits.toNat ≠ []) (hstage : u.stage = 0) :
    Runs (.copyChunkDone c q) s (s.performChunk c u bits.toNat) :=
  (exec_copyChunkDone hu hstate hmap hcopy hsent hreply hawait).trans (by
    rw [if_neg (by simpa using hmore), if_neg (by rw [hstage]; decide)])

include hresv

/-- After its last chunk a copy without a barrier completes. -/
theorem copyChunkDone_completes (hend : u.chunk bits.toNat = []) (hbar : u.bar = none) :
    RunsTo (.copyChunkDone c q) s fun t => Ended s t c u 0 ∧ t.mem = s.mem := by
  refine ⟨_, runs_copyArrival hu hstate hmap hcopy hsent hreply hawait hend, ?_⟩
  rw [s.copyArrival_none c u hresv hbar]
  exact ⟨s.retire_ended (State.core_lt_of_task hu) u none, s.retire_mem c u none⟩

/-- After its last chunk a copy makes its arrival at its barrier. -/
theorem copyChunkDone_arrives {k : Nat} (hend : u.chunk bits.toNat = []) (hbar : u.bar = some k) (hfrozen : s.frozenAt (.here k) = false) :
    RunsTo (.copyChunkDone c q) s fun t =>
      let a := (s.tbRelease k (s.copyLate c u k)).tbUpdate k .arrive 0 (s.identity c) 4 u.seq.toNat u.pl
      t.mem = a.1.mem ∧ ∃ w ∈ (t.core c).window, w = { u with arrivalSent := true, reply := some (-(a.2 : Int)) } := by
  refine ⟨_, runs_copyArrival hu hstate hmap hcopy hsent hreply hawait hend, ?_⟩
  rw [s.copyArrival_bar c u hresv hbar hfrozen]
  have honly := (s.tbRelease_onlyMem k (s.copyLate c u k)).trans
    ((s.tbRelease k (s.copyLate c u k)).tbUpdate_onlyMem k .arrive 0 (s.identity c) 4 u.seq.toNat u.pl)
  have hmem := (Core.task_some hu).1
  rw [← honly.core c] at hmem
  exact ⟨State.modTask_mem _ _ _ _, _, State.mem_window_modTask _ _ _ hmem rfl, rfl⟩

variable {r : CopyRun} {u' : Task} (hu' : u' = { u with readTick := s.tick }) (hmore : u.chunk bits.toNat ≠ []) (hstage : u.stage = 0)
  (hsoft : s.softErrors = []) (hrun : s.copyElems c u' bits.toNat (u.chunk bits.toNat) ⟨[], [], [], [], []⟩ = (r, .done))
include hu' hmore hstage hsoft hrun

omit hresv in
/-- What a chunk reads at other packages and hosts is asked for first. -/
theorem copyChunkDone_asks (hreads : r.reads ≠ []) :
    RunsTo (.copyChunkDone c q) s fun t => t.mem = s.mem ∧ ∃ w ∈ (t.core c).window, w = { u' with stage := 1 } := by
  refine ⟨_, runs_performChunk hu hstate hmap hcopy hsent hreply hawait hmore hstage, ?_⟩
  rw [s.performChunk_start c u bits.toNat hu' hstage hsoft hrun, if_pos (by simpa using hreads)]
  refine ⟨(State.modTask_mem _ _ _ _).trans (s.sendReads_mem _ _ _ _ _), _, s.askReads_task c u (Core.task_some hu).1 u' (by rw [hu']) _, ?_⟩
  rw [hu']

/-- A chunk that stays in this package writes its bytes and is counted. -/
theorem copyChunkDone_writes (hreads : r.reads = []) (haway : r.away = []) (hm : s.memOk) (hfree : ∀ x ∈ r.cells, s.portHolds x.1 = false)
    (hbar : u.bar = none) (hnext : Task.chunk { u with chunks := u.chunks + 1 } bits.toNat ≠ []) :
    RunsTo (.copyChunkDone c q) s fun t =>
      (∃ w ∈ (t.core c).window, w = { u with chunks := u.chunks + 1, stage := 0, olds := w.olds }) ∧
      ∀ j, t.byte j = match r.cells.find? (·.1 == j) with | some x => x.2.1 | none => s.byte j := by
  refine ⟨_, runs_performChunk hu hstate hmap hcopy hsent hreply hawait hmore hstage, ?_⟩
  have hresv' : u'.cmd.resv = none := by rw [hu']; exact hresv
  have hbar' : u'.bar = none := by rw [hu']; exact hbar
  have hnext' : Task.chunk { u' with chunks := u'.chunks + 1 } bits.toNat ≠ [] := by rw [hu']; exact hnext
  have hseq : u.seq = u'.seq := by rw [hu']
  rw [s.performChunk_start c u bits.toNat hu' hstage hsoft hrun, hreads, haway, List.isEmpty_nil, Bool.not_true, if_neg (by decide),
    if_pos List.isEmpty_nil, State.creditChunk_none _ c u' bits.toNat r hresv' hbar' hnext']
  obtain ⟨v, hv, hvu⟩ := s.copyWrites_task c u' r (Core.task_some hu).1 hseq
  refine ⟨⟨_, State.mem_window_modTask _ _ _ hv (by rw [hvu, hseq]), ?_⟩, fun j => ?_⟩
  · rw [hvu]
  · exact (congrArg (Memory.get · j) (State.modTask_mem _ _ _ _)).trans (s.byte_copyWrites c u' r haway hm hfree j)

omit hresv in
/-- A chunk with bytes for other places waits for them before it is counted. -/
theorem copyChunkDone_sends (hreads : r.reads = []) (haway : r.away ≠ []) :
    RunsTo (.copyChunkDone c q) s fun t =>
      ∃ w ∈ (t.core c).window, w.seq = u.seq ∧ w.stage = 2 ∧ w.chunks = u.chunks ∧ w.state = .issued := by
  refine ⟨_, runs_performChunk hu hstate hmap hcopy hsent hreply hawait hmore hstage, ?_⟩
  have hseq : u.seq = u'.seq := by rw [hu']
  rw [s.performChunk_start c u bits.toNat hu' hstage hsoft hrun, hreads, List.isEmpty_nil, Bool.not_true, if_neg (by decide),
    if_neg (by simpa using haway)]
  obtain ⟨v, hv, hvu⟩ := s.copyWrites_task c u' r (Core.task_some hu).1 hseq
  refine ⟨_, State.mem_window_modTask _ _ _ hv (by rw [hvu, hseq]), ?_⟩
  rw [hvu]
  exact ⟨rfl, rfl, rfl, hstate⟩

end step

/-! ## The reply to a copy's arrival -/

section reply
variable {s : State} {c : Nat} {q : BitVec 32} {u : Task} (hu : (s.core c).task q = some u) (hstate : u.state = .issued)
include hu hstate

/-- The reply 0 completes the copy. -/
theorem copyArrivalReply_completes (hreply : u.reply = some 0) : RunsTo (.copyArrivalReply c q 0) s (Ended s · c u 0) := by
  refine ⟨s.retire c u none, ?_, s.retire_ended (State.core_lt_of_task hu) u none⟩
  show execCopyArrivalReply c q 0 s = _
  simp only [execCopyArrivalReply, hu, hstate, hreply, bne_self_eq_false, Bool.false_eq_true, if_false, true_or, if_true]

/-- A negative reply fails the copy with its code, and no phase. -/
theorem copyArrivalReply_fails {e : Nat} (he : 0 < e) (hreply : u.reply = some (-(e : Int))) :
    RunsTo (.copyArrivalReply c q (-(e : Int))) s (Ended s · c u (-(e : Int))) := by
  refine ⟨_, ?_, s.failTask_ended_of (State.core_lt_of_task hu) (u := u) (u' := { u with resvRead := false, bar := none }) ⟨rfl, rfl, rfl⟩ e⟩
  have hne : ¬ -(e : Int) = 0 := by omega
  have hneg : -(e : Int) < 0 := by omega
  show execCopyArrivalReply c q (-(e : Int)) s = _
  simp only [execCopyArrivalReply, hu, hstate, hreply, bne_self_eq_false, Bool.false_eq_true, if_false, true_or, if_true, hne, hneg,
    Int.natAbs_neg, Int.natAbs_natCast]

end reply

end Sys2Proof.Machine
end

section
/-!
SUPPORT. Landing slots (R205, R342 to R345, Table 17.4): the slots of a state, the bits of their barriers, and what changes either.
-/
namespace Sys2Proof.Machine

/-! ## Slots that take transitions -/

/-- Slot i of zone z of core c, the key of its barrier and the key of its first byte (R337). -/
def State.slotAt (s : State) (c z i : Nat) : Slot := ((s.core c).zone z).slot i
def State.slotBar (s : State) (c z i : Nat) : Nat := ((s.core c).zone z).barKey c i
def State.slotBase (s : State) (c z i : Nat) : Nat := ((s.core c).zone z).slotKey c i

/-- Slot i of a zone of core c takes the transitions of R342: it is open, of a zone in use, in a scratchpad that is not frozen. -/
structure State.OpenSlot (s : State) (c z i : Nat) : Prop where
  active : ((s.core c).zone z).active = true
  isOpen : (s.slotAt c z i).isOpen = true
  thawed : (s.core c).frozen = false

theorem Core.zone_lt_of_active {x : Core} {z : Nat} (h : (x.zone z).active = true) : z < 16 := by
  by_contra hz
  rw [Core.zone, dif_neg hz] at h
  exact Bool.false_ne_true h

theorem Zone.slot_lt_of_isOpen {y : Zone} {i : Nat} (h : (y.slot i).isOpen = true) : i < y.slots.length := by
  by_contra hi
  rw [Zone.slot, List.getD_eq_default _ _ (Nat.le_of_not_lt hi)] at h
  exact absurd h (by decide)

theorem State.core_lt_of_active {s : State} {c z : Nat} (h : ((s.core c).zone z).active = true) : c < 260 := by
  have hreset (hz : z < 16) : (Core.reset.zone z).active = false := by
    rw [Core.zone, dif_pos hz]
    exact congrArg Zone.active (Vector.getElem_replicate hz)
  by_contra hc
  have hz := Core.zone_lt_of_active h
  rw [State.core, dif_neg hc, hreset hz] at h
  exact Bool.false_ne_true h

/-- A reservation that names a slot names one that takes transitions. -/
theorem State.OpenSlot.of_slotOf {s : State} {resv : Word} {c z i : Nat} (h : s.slotOf resv = .inl (c, z, i)) : s.OpenSlot c z i := by
  unfold State.slotOf at h
  dsimp only at h
  split at h
  · cases h
  · split at h
    · cases h
    · rename_i hzone
      split at h
      · cases h
      · rename_i hfrozen
        split at h
        · cases h
        · rename_i hslot
          cases h
          simp only [not_or, Bool.not_eq_true', Bool.not_eq_false, Bool.not_eq_true] at hzone hfrozen hslot
          obtain ⟨-, hactive, -⟩ := hzone
          exact ⟨hactive, hslot.2, hfrozen⟩

theorem State.zone_modSlot (s : State) {c z : Nat} (i : Nat) (f : Slot → Slot) (hc : c < 260) (hz : z < 16) :
    ((s.modSlot c z i f).core c).zone z = { (s.core c).zone z with slots := ((s.core c).zone z).slots.modify i f } := by
  have hcore : (s.modSlot c z i f).core c = (s.core c).modZone z fun y => { y with slots := y.slots.modify i f } := s.core_modCore_self c _ hc
  rw [hcore]
  simp [Core.modZone, Core.zone, hz]

theorem State.OpenSlot.slot_modSlot {s : State} {c z i : Nat} (h : s.OpenSlot c z i) (f : Slot → Slot) :
    (s.modSlot c z i f).slotAt c z i = f (s.slotAt c z i) := by
  have hi := Zone.slot_lt_of_isOpen h.isOpen
  unfold State.slotAt
  rw [s.zone_modSlot i f (State.core_lt_of_active h.active) (Core.zone_lt_of_active h.active)]
  simp [Zone.slot, hi]

theorem State.onlyMem.slotAt {s t : State} (h : s.onlyMem t) (c z i : Nat) : t.slotAt c z i = s.slotAt c z i := by
  unfold State.slotAt
  rw [h.core]

theorem State.slotAt_of_zone {s t : State} {c z : Nat} (h : (t.core c).zone z = (s.core c).zone z) (i : Nat) : t.slotAt c z i = s.slotAt c z i :=
  congrArg (Zone.slot · i) h

/-- A change of a core that leaves its zones. -/
theorem State.zone_modCore (s : State) (d : Nat) {f : Core → Core} (hf : ∀ x, (f x).zones = x.zones) (c z : Nat) :
    ((s.modCore d f).core c).zone z = (s.core c).zone z := by
  by_cases hd : d < 260
  · by_cases hc : c = d
    · subst hc
      rw [s.core_modCore_self c f hd]
      unfold Core.zone
      rw [hf]
    · rw [s.core_modCore_ne d c f hc]
  · rw [show s.modCore d f = s from s.setCore_off _ _ hd]

/-! ## The tasks of a core while its slots and stamps change -/

/-- v is u but for what it has been told of stamps. -/
def Task.restamped (u v : Task) : Prop := v = { u with stamped := v.stamped }

/-- t has the tasks of s, but for what posted ones have been told of stamps. -/
def State.restamps (s t : State) : Prop := ∀ w, ∀ u ∈ (s.core w).window, ∃ v ∈ (t.core w).window, u.restamped v

theorem State.restamps.of_window {s t : State} (h : ∀ w, (t.core w).window = (s.core w).window) : s.restamps t :=
  fun w u hu => ⟨u, by rwa [h], rfl⟩

theorem State.restamps.trans {s t u : State} (h : s.restamps t) (g : t.restamps u) : s.restamps u := fun w x hx => by
  obtain ⟨y, hy, hxy⟩ := h w x hx
  obtain ⟨v, hv, hyv⟩ := g w y hy
  exact ⟨v, hv, by rw [Task.restamped, hyv, hxy]⟩

theorem State.onlyMem.restamps {s t : State} (h : s.onlyMem t) : s.restamps t := .of_window fun w => by rw [h.core]

theorem State.restamps.of_modCore (s : State) (d : Nat) {f : Core → Core}
    (hf : ∀ x : Core, ∀ u ∈ x.window, ∃ v ∈ (f x).window, u.restamped v) : s.restamps (s.modCore d f) := fun w u hu => by
  have hkeep {x : Core} (hx : u ∈ x.window) : ∃ v ∈ x.window, u.restamped v := ⟨u, hx, rfl⟩
  by_cases hd : d < 260
  · by_cases hw : w = d
    · subst hw
      rw [s.core_modCore_self w f hd]
      exact hf _ u hu
    · rw [s.core_modCore_ne d w f hw]
      exact hkeep hu
  · rw [show s.modCore d f = s from s.setCore_off _ _ hd]
    exact hkeep hu

theorem Core.modZone_window (x : Core) (z : Nat) (f : Zone → Zone) : (x.modZone z f).window = x.window := by
  unfold Core.modZone
  split <;> rfl

theorem State.modSlot_restamps (s : State) (c z i : Nat) (f : Slot → Slot) : s.restamps (s.modSlot c z i f) :=
  .of_modCore s c fun x u hu => ⟨u, by rwa [Core.modZone_window], rfl⟩

/-- The tests of R72 change of a task what it has been told of stamps, and nothing else. -/
theorem Core.retest_restamps (x : Core) {u : Task} (hu : u ∈ x.window) : ∃ v ∈ x.retest.window, u.restamped v := by
  have hkeep : u.restamped u := rfl
  have hstamp (st : Option Nat) : u.restamped { u with stamped := st } := rfl
  refine ⟨_, List.mem_map.2 ⟨u, hu, rfl⟩, ?_⟩
  split
  · dsimp only
    split
    · exact hkeep
    · split
      · exact hkeep
      · exact hstamp _
    · exact hstamp _
  · exact hkeep

theorem State.stampRegion_restamps (s : State) (c f r : Nat) (step : BitVec 32) (a : Arriver) : s.restamps (s.stampRegion c f r step a) :=
  .of_modCore s c fun x u hu => by
    split
    · exact Core.retest_restamps _ hu
    · exact ⟨u, hu, rfl⟩

theorem State.zone_stampRegion (s : State) (d f r : Nat) (step : BitVec 32) (a : Arriver) (c z : Nat) :
    ((s.stampRegion d f r step a).core c).zone z = (s.core c).zone z := by
  unfold State.stampRegion
  refine s.zone_modCore d (fun x => ?_) c z
  split
  · rfl
  · rfl

/-! ## Replies to copies (R237) -/

theorem State.zone_modTask (s : State) (d : Nat) (q : BitVec 32) (f : Task → Task) (c z : Nat) :
    ((s.modTask d q f).core c).zone z = (s.core c).zone z := by
  unfold State.modTask
  exact s.zone_modCore d (f := fun x => x.modTask q f) (fun _ => rfl) c z

theorem State.zone_replyCopy (s : State) (who : Nat) (q : BitVec 32) (code c z : Nat) :
    ((s.replyCopy who q code).core c).zone z = (s.core c).zone z := by
  unfold State.replyCopy
  split
  · exact s.zone_modTask _ _ _ c z
  · rfl

/-- A task of a copy of this package takes the first reply. -/
theorem State.restamps.replied {s t : State} (h : s.restamps t) (hpkg : t.marten = s.marten) {who w : Nat} {q : BitVec 32} (code : Nat) {u : Task}
    (hw : s.coreOfIdentity who = some w) (hu : u ∈ (s.core w).window) (hq : u.seq = q) (hreply : u.reply = none) :
    ∃ u' ∈ ((t.replyCopy who q code).core w).window,
      u'.seq = u.seq ∧ u'.reply = some (-(code : Int)) ∧ u'.cmd = u.cmd ∧ u'.state = u.state := by
  obtain ⟨v, hv, hvu⟩ := h w u hu
  have hw' : t.coreOfIdentity who = some w := by unfold State.coreOfIdentity at hw ⊢; rwa [hpkg]
  have hseq : v.seq = q := by rw [hvu]; exact hq
  have hnone : v.reply = none := by rw [hvu]; exact hreply
  unfold State.replyCopy
  rw [hw']
  refine ⟨_, t.mem_window_modTask q _ hv hseq, ?_⟩
  rw [hnone, hvu]
  exact ⟨rfl, rfl, rfl, rfl⟩

/-! ## The object of a barrier after an update (R204, R205, Table 9.6) -/

theorem tbStatus_tbFailBits (x c : Nat) : tbStatus (tbFailBits x c % 2 ^ 256) = 1 := by
  simp (disch := omega) only [tbStatus, tbFailBits, bitsOf_mod, bitsOf_putBits_above, bitsOf_putBits_below, bitsOf_putBits]
  rfl

theorem tbFcode_tbFailBits (x c : Nat) : tbFcode (tbFailBits x c % 2 ^ 256) = c % 256 := by
  simp (disch := omega) only [tbFcode, tbFailBits, bitsOf_mod, bitsOf_putBits_above, bitsOf_putBits]
  rfl

/-- PBYTES is the number whose residue stands in its field. -/
theorem tbPbytes_of_bits {x : Nat} {v : Int} (hlo : -(2 ^ 39 : Int) ≤ v) (hhi : v < (2 ^ 39 : Int))
    (h : bitsOf x 39 0 = (v % (2 ^ 40 : Int)).toNat % 2 ^ 40) : tbPbytes x = v := by
  unfold tbPbytes sextInt
  unfold bitsOf at h
  norm_num at h hlo hhi ⊢
  split <;> omega

theorem tbPbytes_lt (x : Nat) : tbPbytes x < (2 ^ 39 : Int) := by
  unfold tbPbytes sextInt
  norm_num
  split <;> omega

section barrier
variable (s : State) (key : Nat)

/-- An update leaves memory as it is, or writes the object. -/
theorem State.tbUpdate_mem (kind : TbKind) (n who path seq plen : Nat) :
    (s.tbUpdate key kind n who path seq plen).1.mem = s.mem ∨
    ∃ x, (s.tbUpdate key kind n who path seq plen).1.mem = (s.putTb key x).mem := by
  unfold State.tbUpdate
  split
  · exact .inl rfl
  · extract_lets x v parr x1 x2 x3 x4 x5 x6
    split
    · exact .inl rfl
    · split
      · exact .inr ⟨_, rfl⟩
      · split
        · exact .inr ⟨_, rfl⟩
        · exact .inr ⟨_, rfl⟩

/-- The answer of an update hangs on memory and on which objects are live alone. -/
theorem State.tbUpdate_code_congr {t : State} (hm : t.mem = s.mem) (hl : t.live = s.live) (kind : TbKind) (n who path seq plen : Nat) :
    (t.tbUpdate key kind n who path seq plen).2 = (s.tbUpdate key kind n who path seq plen).2 := by
  have hlive : t.isLive key = s.isLive key := by unfold State.isLive; rw [hl]
  have htb : t.tb key = s.tb key := State.readNat_of_mem hm key 32
  unfold State.tbUpdate
  rw [hlive, htb]
  split
  · rfl
  · extract_lets x v parr x1 x2 x3 x4 x5 x6
    split
    · rfl
    · split
      · rfl
      · split <;> rfl

variable (hm : s.memOk) (hport : s.touchesPort key 32 = false)
include hm hport

theorem State.byte_putTb_outside (x j : Nat) (hj : j < key ∨ key + 32 ≤ j) : (s.putTb key x).byte j = s.byte j := by
  rw [State.putTb, s.writeNat_bytes key 32 x j hm hport, if_neg (by omega)]

theorem State.tb_putTb_mod (x : Nat) : (s.putTb key x).tb key = x % 2 ^ 256 := s.readNat_writeNat key 32 x hm hport

theorem State.byte_tbUpdate_outside (kind : TbKind) (n who path seq plen j : Nat) (hj : j < key ∨ key + 32 ≤ j) :
    (s.tbUpdate key kind n who path seq plen).1.byte j = s.byte j := by
  rcases s.tbUpdate_mem key kind n who path seq plen with h | ⟨x, h⟩
  · exact State.byte_of_mem h j
  · rw [State.byte_of_mem h, s.byte_putTb_outside key hm hport x j hj]

/-- A failed phase of a barrier: its status, its code, and no byte beside it. -/
theorem State.tb_tbFail (c : Nat) : (s.tbFail key c).tb key = tbFailBits (s.tb key) c % 2 ^ 256 :=
  (State.readNat_of_mem rfl key 32).trans (s.tb_putTb_mod key hm hport _)

theorem State.byte_tbFail_outside (c j : Nat) (hj : j < key ∨ key + 32 ≤ j) : (s.tbFail key c).byte j = s.byte j :=
  (State.byte_of_mem rfl j).trans (s.byte_putTb_outside key hm hport _ j hj)

/-- A credit that the bounds of Table 9.6 allow takes its bytes off PBYTES. -/
theorem State.tbPbytes_credit {n : Nat} (who path seq plen : Nat) (hlive : s.isLive key = true) (hst : tbStatus (s.tb key) ≠ 1) (hn : n < 2 ^ 39)
    (hlo : -(2 ^ 39 : Int) ≤ tbPbytes (s.tb key) - n) :
    tbPbytes ((s.tbUpdate key .credit n who path seq plen).1.tb key) = tbPbytes (s.tb key) - n := by
  have hhi : tbPbytes (s.tb key) - n < (2 ^ 39 : Int) := by have := tbPbytes_lt (s.tb key); omega
  have hput {t : State} {x : Nat} (ht : t.mem = (s.putTb key x).mem)
      (hx : bitsOf x 39 0 = ((tbPbytes (s.tb key) - n) % (2 ^ 40 : Int)).toNat % 2 ^ 40) :
      tbPbytes (t.tb key) = tbPbytes (s.tb key) - n := by
    refine tbPbytes_of_bits hlo hhi ?_
    have htb : t.tb key = x % 2 ^ 256 := (State.readNat_of_mem ht key 32).trans (s.tb_putTb_mod key hm hport x)
    rw [htb, bitsOf_mod x (by omega) (by omega), hx]
  unfold State.tbUpdate
  rw [if_neg (by rw [hlive]; decide)]
  extract_lets x v parr x1 x2 x3 x4 x5 x6
  have hv : v = tbPbytes (s.tb key) - n := rfl
  have hover : ¬ (n ≥ 2 ^ 39 ∨ v < -(2 ^ 39 : Int) ∨ v ≥ (2 ^ 39 : Int) ∨ (TbKind.credit = .arrive ∧ tbParr x = 0)) := by
    rintro (h | h | h | ⟨h, -⟩)
    · omega
    · omega
    · omega
    · cases h
  have hbits : bitsOf x5 39 0 = (v % (2 ^ 40 : Int)).toNat % 2 ^ 40 := by
    simp (disch := omega) only [x5, x4, x3, x2, x1, bitsOf_putBits_below, bitsOf_putBits]
  rw [if_neg hst, if_neg hover]
  split
  · refine hput rfl ?_
    rw [← hv, ← hbits]
    simp (disch := omega) only [x6, bitsOf_putBits_below]
  · exact hput rfl hbits

end barrier

/-! ## A slot fails (R205, R342) -/

/-- The slot has failed in t with a code, and the phase of its barrier with it; no byte beside the barrier has changed. -/
def State.SlotFailed (s : State) (c z i code : Nat) (t : State) : Prop :=
  let bar := s.slotBar c z i
  (t.slotAt c z i).st = .failed ∧ (t.slotAt c z i).code = code ∧
  tbStatus (t.tb bar) = 1 ∧ tbFcode (t.tb bar) = code % 256 ∧ ∀ j, j < bar ∨ bar + 32 ≤ j → t.byte j = s.byte j

/-- What leaves memory and the zones leaves a failed slot failed. -/
theorem State.SlotFailed.of_same {s t t' : State} {c z i code : Nat} (h : s.SlotFailed c z i code t)
    (hzone : (t'.core c).zone z = (t.core c).zone z) (hmem : t'.mem = t.mem) : s.SlotFailed c z i code t' := by
  obtain ⟨hst, hcode, hstatus, hfcode, hbytes⟩ := h
  have htb (k : Nat) : t'.tb k = t.tb k := State.readNat_of_mem hmem k 32
  have hslot := State.slotAt_of_zone hzone i
  exact ⟨by rw [hslot, hst], by rw [hslot, hcode], by rw [htb, hstatus], by rw [htb, hfcode],
    fun j hj => (State.byte_of_mem hmem j).trans (hbytes j hj)⟩

section fails
variable {s : State} {c z i : Nat} (ho : s.OpenSlot c z i)
include ho

theorem State.OpenSlot.failSlot_eq (code : Nat) :
    s.failSlot c z i code =
      (s.tbFail (s.slotBar c z i) code).modSlot c z i fun x => { x with st := .failed, code := code } := by
  have hopen : (((s.core c).zone z).slot i).isOpen = true := ho.isOpen
  simp only [State.failSlot, ho.active, hopen, ho.thawed, Bool.not_true, Bool.or_false, Bool.false_eq_true, if_false]
  rfl

theorem State.OpenSlot.onlyMem {t : State} (h : s.onlyMem t) : t.OpenSlot c z i :=
  ⟨by rw [h.core]; exact ho.active, by rw [h.slotAt]; exact ho.isOpen, by rw [h.core]; exact ho.thawed⟩

theorem State.OpenSlot.failSlot_restamps (code : Nat) : s.restamps (s.failSlot c z i code) := by
  rw [ho.failSlot_eq]
  exact (s.tbFail_onlyMem _ _).restamps.trans (State.modSlot_restamps _ _ _ _ _)

theorem State.OpenSlot.failSlot_marten (code : Nat) : (s.failSlot c z i code).marten = s.marten := by
  rw [ho.failSlot_eq]
  exact (State.setCore_marten _ _ _).trans (s.tbFail_onlyMem _ _).marten

theorem State.OpenSlot.failSlot_failed (hm : s.memOk) (hport : s.touchesPort (s.slotBar c z i) 32 = false) (code : Nat) :
    s.SlotFailed c z i code (s.failSlot c z i code) := by
  have hslot := (ho.onlyMem (s.tbFail_onlyMem (s.slotBar c z i) code)).slot_modSlot fun x => { x with st := .failed, code := code }
  have htb (x : Nat) (h : x = tbFailBits (s.tb (s.slotBar c z i)) code % 2 ^ 256) : tbStatus x = 1 ∧ tbFcode x = code % 256 := by
    rw [h]
    exact ⟨tbStatus_tbFailBits _ _, tbFcode_tbFailBits _ _⟩
  rw [ho.failSlot_eq]
  obtain ⟨hstatus, hcode⟩ := htb _ ((State.readNat_of_mem (State.modSlot_mem _ _ _ _ _) _ 32).trans (s.tb_tbFail _ hm hport code))
  exact ⟨by rw [hslot], by rw [hslot], hstatus, hcode, fun j hj =>
    (State.byte_of_mem (State.modSlot_mem _ _ _ _ _) j).trans (s.byte_tbFail_outside _ hm hport code j hj)⟩

end fails

section events
variable {s : State} {c z i : Nat} (hm : s.memOk) (hport : s.touchesPort (s.slotBar c z i) 32 = false)
include hm hport

/-- The end of its lease fails a slot with ESTALE. -/
theorem slotLeaseExpiry_fails (ho : s.OpenSlot c z i) (hlease : ((s.core c).zone z).lease ≤ (s.slotAt c z i).lease) :
    RunsTo (.slotLeaseExpiry c z i) s (s.SlotFailed c z i Cause.estale) := by
  refine ⟨_, ?_, ho.failSlot_failed hm hport Cause.estale⟩
  show execSlotLeaseExpiry c z i s = _
  exact if_pos hlease

/-- A failure report fails the slot with its code. -/
theorem cprFailureReport_fails {resv : Word} {code : Nat} (hout : OutMsg.cprFailure resv code ∈ s.outbox)
    (hpkg : resvCore resv / 256 = s.marten.values.pkg) (hslot : s.slotOf resv = .inl (c, z, i)) :
    RunsTo (.cprFailureReport resv code) s (s.SlotFailed c z i code) := by
  have ho := State.OpenSlot.of_slotOf hslot
  have ho' : (s.without (.cprFailure resv code)).OpenSlot c z i := ⟨ho.active, ho.isOpen, ho.thawed⟩
  refine ⟨(s.without (.cprFailure resv code)).failSlot c z i code, ?_, ho'.failSlot_failed hm hport code⟩
  have hslot' : (s.without (.cprFailure resv code)).slotOf resv = .inl (c, z, i) := hslot
  have hpkg' : ¬ resvCore resv / 256 ≠ (s.without (.cprFailure resv code)).marten.values.pkg := not_not.2 hpkg
  show execCprFailureReport resv code s = _
  simp only [execCprFailureReport, State.takeOut_mem hout, if_neg hpkg', hslot']

end events

end Sys2Proof.Machine
end

section
/-!
SUPPORT. What reaches a landing slot (R238, R342 to R345): the chunks of a CP.R and its arrival.
-/
namespace Sys2Proof.Machine

/-! ## A chunk at its slot -/

section chunk
variable {s : State} {k : CprChunk} {c z i : Nat}

/-- A chunk of this package that fits its slot's size comes to the slot that its reservation names. -/
theorem exec_cprChunkArrival (hwho : k.who < 2 ^ 23) (hours : k.who / 256 = s.marten.values.pkg) (hout : OutMsg.chunk k ∈ s.outbox)
    (hpkg : resvCore k.resv / 256 = s.marten.values.pkg) (hfits : ∀ p ∈ k.bytes, p.1 < resvSize k.resv)
    (hslot : s.slotOf k.resv = .inl (c, z, i)) :
    exec (.cprChunkArrival k) s = (s.without (.chunk k)).landChunk k c z i := by
  have hslot' : (s.without (.chunk k)).slotOf k.resv = .inl (c, z, i) := hslot
  have hmine : (k.who / 256 == s.marten.values.pkg) = true := by simpa using hours
  have hfit : (k.bytes.all fun p => decide (p.1 < resvSize k.resv)) = true := by simpa using hfits
  have hno : ¬ (resvCore k.resv / 256 ≠ s.marten.values.pkg ∨ (!true) = true ∨ 2 ^ 23 ≤ k.who) := by
    simpa [hpkg] using hwho
  show execCprChunkArrival k s = _
  simp only [execCprChunkArrival, hfit, hmine, if_neg hno, if_true, State.takeOut_mem hout, hslot']

/-- A chunk with more bytes than the slot has room for fails it. -/
theorem landChunk_overflow (ho : s.OpenSlot c z i) (hm : s.memOk) (hport : s.touchesPort (s.slotBar c z i) 32 = false)
    (hbig : (s.slotAt c z i).rbytes < (s.slotAt c z i).rcvd + k.bytes.length) :
    ∃ t, s.landChunk k c z i = .next t ∧ s.SlotFailed c z i Cause.regionEscape t := by
  refine ⟨(s.failSlot c z i Cause.regionEscape).replyCopy k.who k.seq Cause.regionEscape, ?_, ?_⟩
  · exact if_pos hbig
  · exact (ho.failSlot_failed hm hport Cause.regionEscape).of_same (State.zone_replyCopy _ _ _ _ c z) (State.replyCopy_mem _ _ _ _)

/-- The cells that a chunk writes. -/
def cellsOfChunk (k : CprChunk) (base : Nat) : List (Nat × Byte × Bool) := k.bytes.map fun p => (base + p.1, p.2, k.bad.contains p.1)

/-- The state in which a chunk's bytes stand in its slot, before they are credited. -/
def State.chunkWritten (s : State) (k : CprChunk) (c z i : Nat) : State :=
  let t := s.writeMarked (s.chunkWriter k) noDie [] (cellsOfChunk k (s.slotBase c z i))
  t.tbRelease (s.slotBar c z i) ((t.late.map (·.id)).filter (s.nextLate ≤ ·))

theorem State.chunkWritten_onlyMem (s : State) (k : CprChunk) (c z i : Nat) : s.onlyMem (s.chunkWritten k c z i) :=
  (s.writeMarked_onlyMem _ _ _ _).trans (State.tbRelease_onlyMem _ _ _)

/-- A chunk that fits its slot and meets no barrier there is written, counted and credited. -/
theorem landChunk_lands (hroom : (s.slotAt c z i).rcvd + k.bytes.length ≤ (s.slotAt c z i).rbytes)
    (hfree : ∀ p ∈ k.bytes, s.tagged (s.slotBase c z i + p.1) 1 = false) :
    s.landChunk k c z i = .next
      (((s.chunkWritten k c z i).modSlot c z i fun x =>
          { x with st := .landing, rcvd := x.rcvd + k.bytes.length, lease := 0, route := k.route }).tbUpdate
        (s.slotBar c z i) .credit k.bytes.length k.who 4 k.seq.toNat k.pl).1 := by
  have htag : (k.bytes.any fun p => s.tagged (s.slotBase c z i + p.1) 1) = false := by
    simpa using hfree
  exact (if_neg (Nat.not_lt.2 hroom)).trans (if_neg (Bool.eq_false_iff.1 htag))

/-- A chunk's bytes stand where its offsets say, the last of several at one place. -/
theorem State.byte_chunkWritten (hm : s.memOk) (hfree : ∀ p ∈ k.bytes, s.portHolds (s.slotBase c z i + p.1) = false) (j : Nat) :
    (s.chunkWritten k c z i).byte j =
      match k.bytes.reverse.find? (s.slotBase c z i + ·.1 == j) with | some p => p.2 | none => s.byte j := by
  have hsets := s.writeMarked_sets (s.chunkWriter k) noDie [] (cellsOfChunk k (s.slotBase c z i)) fun x hx => by
    obtain ⟨p, hp, rfl⟩ := List.mem_map.1 hx
    rw [hfree p hp, Bool.and_false]
  have hmem : (s.chunkWritten k c z i).mem = _ := (State.tbRelease_mem _ _ _).trans hsets
  rw [State.byte_of_cells hm hmem, cellsOfChunk, ← List.map_reverse, List.find?_map]
  show (match (k.bytes.reverse.find? fun p => s.slotBase c z i + p.1 == j).map
    (fun p => (s.slotBase c z i + p.1, p.2, k.bad.contains p.1)) with | some x => x.2.1 | none => s.byte j) = _
  cases k.bytes.reverse.find? fun p => s.slotBase c z i + p.1 == j <;> rfl

/-- A chunk that meets no live barrier leaves the live barriers as they are. -/
theorem State.tb_chunkWritten (hm : s.memOk)
    (hfree : ∀ p ∈ k.bytes, s.tagged (s.slotBase c z i + p.1) 1 = false ∧ s.portHolds (s.slotBase c z i + p.1) = false)
    {bar : Nat} (hlive : s.isLive bar = true) : (s.chunkWritten k c z i).tb bar = s.tb bar := by
  refine State.readNat_congr fun j hj => ?_
  rw [State.byte_chunkWritten hm (fun p hp => (hfree p hp).2)]
  have hnone : k.bytes.reverse.find? (fun p => s.slotBase c z i + p.1 == bar + j) = none := by
    refine List.find?_eq_none.2 fun p hp hkey => ?_
    have htag := (hfree p (List.mem_reverse.1 hp)).1
    rw [beq_iff_eq.1 hkey] at htag
    obtain ⟨l, hl, hkl⟩ := List.any_eq_true.1 hlive
    have hkl := beq_iff_eq.1 hkl
    have hno := List.any_eq_false.1 htag l hl
    simp only [decide_eq_true_eq] at hno
    omega
  rw [hnone]

/-- What a chunk leaves of its slot and of memory as it lands. -/
structure State.Landed (s : State) (k : CprChunk) (c z i : Nat) (t : State) : Prop where
  slot : t.slotAt c z i =
    { s.slotAt c z i with st := .landing, rcvd := (s.slotAt c z i).rcvd + k.bytes.length, lease := 0, route := k.route }
  bytes : ∀ j, j < s.slotBar c z i ∨ s.slotBar c z i + 32 ≤ j →
    t.byte j = match k.bytes.reverse.find? (s.slotBase c z i + ·.1 == j) with | some p => p.2 | none => s.byte j
  credit : s.isLive (s.slotBar c z i) = true → tbStatus (s.tb (s.slotBar c z i)) ≠ 1 → k.bytes.length < 2 ^ 39 →
    -(2 ^ 39 : Int) ≤ tbPbytes (s.tb (s.slotBar c z i)) - k.bytes.length →
    tbPbytes (t.tb (s.slotBar c z i)) = tbPbytes (s.tb (s.slotBar c z i)) - k.bytes.length

/-- A chunk that fits its slot lands in it. -/
theorem landChunk_landed (ho : s.OpenSlot c z i) (hm : s.memOk) (hport : s.touchesPort (s.slotBar c z i) 32 = false)
    (hroom : (s.slotAt c z i).rcvd + k.bytes.length ≤ (s.slotAt c z i).rbytes)
    (hfree : ∀ p ∈ k.bytes, s.tagged (s.slotBase c z i + p.1) 1 = false ∧ s.portHolds (s.slotBase c z i + p.1) = false) :
    ∃ t, s.landChunk k c z i = .next t ∧ s.Landed k c z i t := by
  refine ⟨_, landChunk_lands hroom fun p hp => (hfree p hp).1, ?_⟩
  set bar := s.slotBar c z i with hbar
  let f (x : Slot) : Slot := { x with st := .landing, rcvd := x.rcvd + k.bytes.length, lease := 0, route := k.route }
  let w := s.chunkWritten k c z i
  let u := w.modSlot c z i f
  have hw : s.onlyMem w := s.chunkWritten_onlyMem k c z i
  have hmem : u.mem = w.mem := State.modSlot_mem _ _ _ _ _
  have hwm : w.memOk := by
    rw [State.memOk, show w.mem = _ from State.tbRelease_mem _ _ _]
    exact State.memOk_writeMarked _ _ _ _ hm
  have hum : u.memOk := by rw [State.memOk, hmem]; exact hwm
  have hmarten : u.marten = s.marten := (w.setCore_marten _ _).trans hw.marten
  have huport : u.touchesPort bar 32 = false := by
    unfold State.touchesPort State.hasRecords at hport ⊢
    rw [hmarten]
    exact hport
  have hulive : u.isLive bar = s.isLive bar := by
    unfold State.isLive
    rw [show u.live = w.live from w.setCore_live _ _, show w.live = s.live by rw [show w = _ from hw]]
  refine ⟨?_, fun j hj => ?_, fun hlive hst hn hlo => ?_⟩
  · rw [(u.tbUpdate_onlyMem bar .credit k.bytes.length k.who 4 k.seq.toNat k.pl).slotAt, (ho.onlyMem hw).slot_modSlot, hw.slotAt]
  · rw [u.byte_tbUpdate_outside bar hum huport _ _ _ _ _ _ j hj, State.byte_of_mem hmem]
    exact State.byte_chunkWritten hm (fun p hp => (hfree p hp).2) j
  · have htb : u.tb bar = s.tb bar := (State.readNat_of_mem hmem bar 32).trans (State.tb_chunkWritten hm hfree hlive)
    rw [← htb] at hst hlo ⊢
    exact u.tbPbytes_credit bar hum huport k.who 4 k.seq.toNat k.pl (hulive.trans hlive) hst hn hlo

end chunk

/-! ## The arrival of a CP.R at its slot -/

section arrival
variable {s : State} {a : CprArrival} {c z i : Nat}

/-- The tasks of a's copy in this package have the reply in t. -/
def State.Replied (s : State) (a : CprArrival) (code : Int) (t : State) : Prop :=
  ∀ (w : Nat) (u : Task), s.coreOfIdentity a.who = some w → u ∈ (s.core w).window → u.seq = a.seq → u.reply = none →
    ∃ u' ∈ (t.core w).window, u'.seq = u.seq ∧ u'.reply = some code ∧ u'.cmd = u.cmd ∧ u'.state = u.state

/-- An arrival of this package, behind the last of its chunks, comes to the slot that its reservation names. -/
theorem exec_cprArrival (hwho : a.who < 2 ^ 23) (hours : a.who / 256 = s.marten.values.pkg) (hout : OutMsg.cprArrival a ∈ s.outbox)
    (hpkg : resvCore a.resv / 256 = s.marten.values.pkg) (hlast : s.chunkUnderWay a.who a.seq = false) (hslot : s.slotOf a.resv = .inl (c, z, i)) :
    exec (.cprArrival a) s = (s.without (.cprArrival a)).landArrival a c z i := by
  have hslot' : (s.without (.cprArrival a)).slotOf a.resv = .inl (c, z, i) := hslot
  have hmine : (a.who / 256 == s.marten.values.pkg) = true := by simpa using hours
  have hno : ¬ (resvCore a.resv / 256 ≠ s.marten.values.pkg ∨ 2 ^ 23 ≤ a.who ∨ s.chunkUnderWay a.who a.seq = true) := by
    simpa [hpkg, hlast] using hwho
  show execCprArrival a s = _
  simp only [execCprArrival, hmine, if_neg hno, if_true, State.takeOut_mem hout, hslot']

/-- An arrival that does not find the slot's bytes there fails it. -/
theorem landArrival_short (ho : s.OpenSlot c z i) (hm : s.memOk) (hport : s.touchesPort (s.slotBar c z i) 32 = false)
    (hne : (s.slotAt c z i).rcvd ≠ (s.slotAt c z i).rbytes) :
    ∃ t, s.landArrival a c z i = .next t ∧ s.SlotFailed c z i Cause.regionEscape t ∧ s.Replied a (-(Cause.regionEscape : Int)) t := by
  refine ⟨(s.failSlot c z i Cause.regionEscape).replyCopy a.who a.seq Cause.regionEscape, if_pos hne, ?_, fun w u hw hu hq hr => ?_⟩
  · exact (ho.failSlot_failed hm hport Cause.regionEscape).of_same (State.zone_replyCopy _ _ _ _ c z) (State.replyCopy_mem _ _ _ _)
  · exact (ho.failSlot_restamps Cause.regionEscape).replied (ho.failSlot_marten _) Cause.regionEscape hw hu hq hr

theorem State.OpenSlot.slot_fillSlot (ho : s.OpenSlot c z i) (b : Arriver) :
    (s.fillSlot c z i b).slotAt c z i = { s.slotAt c z i with st := .full } := by
  have hslot := ho.slot_modSlot fun x => { x with st := .full }
  unfold State.fillSlot
  dsimp only
  split
  · rw [State.slotAt_of_zone (State.zone_stampRegion _ _ _ _ _ _ c z), (State.modLate_onlyMem _ _).slotAt]
    exact hslot
  · exact hslot

theorem State.fillSlot_restamps (s : State) (c z i : Nat) (b : Arriver) : s.restamps (s.fillSlot c z i b) := by
  have hslot := s.modSlot_restamps c z i fun x => { x with st := .full }
  unfold State.fillSlot
  dsimp only
  split
  · exact hslot.trans ((State.modLate_onlyMem _ _).restamps.trans (State.stampRegion_restamps _ _ _ _ _ _))
  · exact hslot

theorem State.fillSlot_marten (s : State) (c z i : Nat) (b : Arriver) : (s.fillSlot c z i b).marten = s.marten := by
  have hslot (f : Slot → Slot) : (s.modSlot c z i f).marten = s.marten := s.setCore_marten _ _
  unfold State.fillSlot
  dsimp only
  split
  · exact (State.setCore_marten _ _ _).trans ((State.modLate_onlyMem _ _).marten.trans (hslot _))
  · exact hslot _

/-- An arrival that finds the slot's bytes there, and that its barrier takes, makes the slot FULL and is answered 0. -/
theorem landArrival_fills (ho : s.OpenSlot c z i) (heq : (s.slotAt c z i).rcvd = (s.slotAt c z i).rbytes)
    (hcode : (s.tbUpdate (s.slotBar c z i) .arrive 0 a.who 4 a.seq.toNat a.pl).2 = 0) :
    ∃ t, s.landArrival a c z i = .next t ∧ (t.slotAt c z i).st = .full ∧
      (t.slotAt c z i).rcvd = (s.slotAt c z i).rcvd ∧ s.Replied a 0 t := by
  let v := (s.tbUpdate (s.slotBar c z i) .arrive 0 a.who 4 a.seq.toNat a.pl).1
  have hv : s.onlyMem v := s.tbUpdate_onlyMem _ _ _ _ _ _ _
  let t := v.fillSlot c z i ⟨a.who, 4, a.seq.toNat, a.pl, v.now⟩
  have hland : s.landArrival a c z i = .next (t.replyCopy a.who a.seq 0) := by
    have hfull : ¬ (((s.core c).zone z).slot i).rcvd ≠ (((s.core c).zone z).slot i).rbytes := not_not.2 heq
    have htaken : (s.tbUpdate (((s.core c).zone z).barKey c i) .arrive 0 a.who 4 a.seq.toNat a.pl).2 = 0 := hcode
    simp only [State.landArrival, if_neg hfull, htaken, if_true]
    rfl
  have hslot : (t.replyCopy a.who a.seq 0).slotAt c z i = { s.slotAt c z i with st := .full } := by
    rw [State.slotAt_of_zone (State.zone_replyCopy _ _ _ _ c z), (ho.onlyMem hv).slot_fillSlot, hv.slotAt]
  refine ⟨_, hland, by rw [hslot], by rw [hslot], fun w u hw hu hq hr => ?_⟩
  have hrestamps : s.restamps t := hv.restamps.trans (v.fillSlot_restamps _ _ _ _)
  exact hrestamps.replied ((v.fillSlot_marten _ _ _ _).trans hv.marten) 0 hw hu hq hr

end arrival

end Sys2Proof.Machine
end

section
/-!
SUPPORT. O56: copies, and the slots they land in (R104, R123, R205, R237 to R239, R342 to R345).
-/
namespace Sys2Proof.Machine

/-- Settles O56: each clause is the theorem of its event, of copies and of landing slots. -/
theorem copiesAndSlots : Obligations.CopiesAndSlots := by
  refine ⟨fun s c q u hu hstate => ⟨fun bits p hmap hcopy hresv hsent hreply hawait => ⟨fun hend hbar => ?_, fun k hend hbar hfrozen => ?_,
    fun r hmore hstage hsoft hrun => ⟨fun hreads => ?_, fun hreads haway hm hfree hbar hnext => ?_, fun hreads haway => ?_⟩⟩,
    fun hreply => copyArrivalReply_completes hu hstate hreply, fun e he hreply => copyArrivalReply_fails hu hstate he hreply⟩,
    fun s c z i => ?_⟩
  · exact copyChunkDone_completes hu hstate hmap hcopy hresv hsent hreply hawait hend hbar
  · exact copyChunkDone_arrives hu hstate hmap hcopy hresv hsent hreply hawait hend hbar hfrozen
  · exact copyChunkDone_asks hu hstate hmap hcopy hsent hreply hawait rfl hmore hstage hsoft hrun hreads
  · exact copyChunkDone_writes hu hstate hmap hcopy hresv hsent hreply hawait rfl hmore hstage hsoft hrun hreads haway hm hfree hbar hnext
  · exact copyChunkDone_sends hu hstate hmap hcopy hsent hreply hawait rfl hmore hstage hsoft hrun hreads haway
  · intro y x bar base after failed isOpen hm hport
    refine ⟨fun ⟨hactive, hopen, hthawed⟩ hlease => slotLeaseExpiry_fails hm hport ⟨hactive, hopen, hthawed⟩ hlease,
      fun resv code hout hpkg hslot => cprFailureReport_fails hm hport hout hpkg hslot,
      fun k hwho hours hout hpkg hfits hslot => ?_, fun a hwho hours hout hpkg hlast hslot => ?_⟩
    · have hexec := exec_cprChunkArrival hwho hours hout hpkg hfits hslot
      have ho : (s.without (.chunk k)).OpenSlot c z i := .of_slotOf (resv := k.resv) hslot
      refine ⟨fun hbig => ?_, fun hroom hfree => ?_⟩
      · obtain ⟨t, ht, hfailed⟩ := landChunk_overflow ho hm hport hbig
        exact ⟨t, hexec.trans ht, hfailed⟩
      · obtain ⟨t, ht, hslot, hbytes, hcredit⟩ := landChunk_landed ho hm hport hroom hfree
        refine ⟨t, hexec.trans ht, ?_, ?_, ?_, ?_, hbytes, hcredit⟩
        · exact congrArg Slot.st hslot
        · exact congrArg Slot.rcvd hslot
        · exact congrArg Slot.lease hslot
        · exact (congrArg Slot.gen hslot).trans rfl
    · have hexec := exec_cprArrival hwho hours hout hpkg hlast hslot
      have ho : (s.without (.cprArrival a)).OpenSlot c z i := .of_slotOf (resv := a.resv) hslot
      refine ⟨fun hne => ?_, fun heq hcode => ?_⟩
      · obtain ⟨t, ht, hended⟩ := landArrival_short (a := a) ho hm hport hne
        exact ⟨t, hexec.trans ht, hended⟩
      · have hcode' := (s.tbUpdate_code_congr bar (t := s.without (.cprArrival a)) rfl rfl .arrive 0 a.who 4 a.seq.toNat a.pl).trans hcode
        obtain ⟨t, ht, hfull⟩ := landArrival_fills (a := a) ho heq hcode'
        exact ⟨t, hexec.trans ht, hfull⟩

end Sys2Proof.Machine
end

section
/-!
SUPPORT. What fences order (R108, R112 to R121): the late writes that a step leaves, the readers that it shows them to, and the notes of the
moving strand.
-/
namespace Sys2Proof.Machine

/-! ## Late writes that come nearer to their readers -/

/-- x is the late write w with no reader more to reach. -/
structure Late.Nearer (w x : Late) : Prop where
  id : x.id = w.id
  dies : x.dies ⊆ w.dies
  caches : x.caches ⊆ w.caches
  engines : x.engines ⊆ w.engines

theorem Late.Nearer.refl (w : Late) : w.Nearer w := ⟨rfl, List.Subset.refl _, List.Subset.refl _, List.Subset.refl _⟩

theorem Late.Nearer.trans {w x y : Late} (h : w.Nearer x) (g : x.Nearer y) : w.Nearer y :=
  ⟨g.id.trans h.id, List.Subset.trans g.dies h.dies, List.Subset.trans g.caches h.caches, List.Subset.trans g.engines h.engines⟩

/-- Lagging is a matter of the reader's die, and of what its core keeps. -/
theorem Late.lags_scl (w : Late) (c : Nat) : w.lags (.scl c) = true ↔ dieOf c ∈ w.dies ∨ c ∈ w.caches := by simp [Late.lags]

theorem Late.lags_engine (w : Late) (c : Nat) : w.lags (.engine c) = true ↔ dieOf c ∈ w.dies ∨ c ∈ w.engines := by simp [Late.lags]

theorem Late.Nearer.lags {w x : Late} (h : w.Nearer x) {r : Reader} (hr : x.lags r = true) : w.lags r = true := by
  cases r with
  | scl c => exact (w.lags_scl c).2 (((x.lags_scl c).1 hr).imp (h.dies ·) (h.caches ·))
  | engine c => exact (w.lags_engine c).2 (((x.lags_engine c).1 hr).imp (h.dies ·) (h.engines ·))

/-- Every late write of t is one of s, come no further from its readers. -/
def State.NoLater (s t : State) : Prop := ∀ x ∈ t.late, ∃ w ∈ s.late, w.Nearer x

theorem State.NoLater.of_late {s t : State} (h : t.late = s.late) : s.NoLater t := fun x hx => ⟨x, h ▸ hx, .refl x⟩

theorem State.NoLater.trans {s t u : State} (h : s.NoLater t) (g : t.NoLater u) : s.NoLater u := fun y hy =>
  have ⟨_, hx, hxy⟩ := g y hy
  have ⟨w, hw, hwx⟩ := h _ hx
  ⟨w, hw, hwx.trans hxy⟩

/-- Every late write of a number has reached a reader. -/
def State.ShownTo (s : State) (i : Nat) (r : Reader) : Prop := ∀ x ∈ s.late, x.id = i → x.lags r = false

theorem mem_of_mem_dropSettled {x : Late} {l : List Late} : x ∈ dropSettled l → x ∈ l := by
  unfold dropSettled
  refine List.foldlRecOn (motive := fun kept => x ∈ kept → x ∈ l) l _ (fun h => absurd h List.not_mem_nil) fun kept ih w hw hx => ?_
  split at hx
  · exact ih hx
  · exact (List.mem_append.1 hx).elim ih fun h => List.mem_singleton.1 h ▸ hw

/-- A wanted late write enters itself; those that follow in the fold leave it there. -/
theorem mem_lateClosure {w : Late} {late : List Late} {want : Late → Bool} (hw : w ∈ late) (h : want w = true) : w ∈ lateClosure late want := by
  obtain ⟨newer, older, hsplit⟩ := List.append_of_mem (List.mem_reverse.2 hw)
  unfold lateClosure
  rw [hsplit, List.foldl_append, List.foldl_cons]
  refine List.foldlRecOn (motive := fun acc => w ∈ acc) older _ ?_ fun acc ih x _ => ?_
  · simp [h]
  · split
    exacts [List.mem_cons_of_mem x ih, ih]

section late
variable {s : State}

theorem State.late_not_isEmpty {w : Late} (hw : w ∈ s.late) : ¬ s.late.isEmpty = true := fun h =>
  List.ne_nil_of_mem hw (List.isEmpty_iff.1 h)

theorem State.mem_modLate {f : Late → Late} {x : Late} (h : x ∈ (s.modLate f).late) : ∃ w ∈ s.late, f w = x := by
  unfold State.modLate at h
  split at h
  · rename_i he
    rw [List.isEmpty_iff.1 he] at h
    exact absurd h List.not_mem_nil
  · exact List.mem_map.1 (mem_of_mem_dropSettled h)

theorem State.modLate_noLater {f : Late → Late} (hf : ∀ w : Late, w.Nearer (f w)) : s.NoLater (s.modLate f) := fun _ hx =>
  have ⟨w, hw, hfw⟩ := State.mem_modLate hx
  ⟨w, hw, hfw ▸ hf w⟩

/-- Late writes that enter the views of dies are late for none of these any more, and come no further from any reader. -/
theorem State.mem_enterDies {ds : List Nat} {want : Late → Bool} {x : Late} (h : x ∈ (s.enterDies ds want).late) :
    ∃ w ∈ s.late, w.Nearer x ∧ (want w = true → ∀ d ∈ ds, d ∉ x.dies) := by
  unfold State.enterDies at h
  split at h
  · rename_i he
    rw [List.isEmpty_iff.1 he] at h
    exact absurd h List.not_mem_nil
  · obtain ⟨w, hw, rfl⟩ := State.mem_modLate h
    refine ⟨w, hw, ?_⟩
    by_cases hin : (lateClosure s.late want).any (·.id == w.id) = true
    · rw [if_pos hin]
      refine ⟨⟨rfl, List.filter_subset_self _, ?_, List.Subset.refl _⟩, fun _ d hd hmem => ?_⟩
      · dsimp only
        split
        exacts [List.filter_subset_self _, List.Subset.refl _]
      · have := (List.mem_filter.1 hmem).2
        simp [hd] at this
    · rw [if_neg hin]
      exact ⟨.refl w, fun hwant => absurd (List.any_eq_true.2 ⟨w, mem_lateClosure hw hwant, beq_self_eq_true w.id⟩) hin⟩

theorem State.enterDies_noLater (ds : List Nat) (want : Late → Bool) : s.NoLater (s.enterDies ds want) := fun _ hx =>
  have ⟨w, hw, hn, _⟩ := State.mem_enterDies hx
  ⟨w, hw, hn⟩

/-- A wanted late write is late for none of the dies any more. -/
theorem State.enterDies_enters {ds ids : List Nat} {i d : Nat} (hi : i ∈ ids) (hd : d ∈ ds) {x : Late}
    (hx : x ∈ (s.enterDies ds fun w => ids.contains w.id).late) (hxi : x.id = i) : d ∉ x.dies := by
  obtain ⟨w, -, hn, henters⟩ := State.mem_enterDies hx
  exact henters (List.contains_iff_mem.2 (hn.id ▸ hxi.symm ▸ hi)) d hd

end late

/-! ## What the caches and the engines of a core keep -/

/-- A late write that the data cache of a core holds no more. -/
def Late.leaveCache (c : Nat) (w : Late) : Late := { w with caches := w.caches.filter (· != c) }

/-- A late write that the engines of a core read no older bytes of. -/
def Late.leaveEngines (c : Nat) (w : Late) : Late := { w with engines := w.engines.filter (· != c) }

theorem Late.leaveCache_nearer (c : Nat) (w : Late) : w.Nearer (w.leaveCache c) :=
  ⟨rfl, List.Subset.refl _, List.filter_subset_self _, List.Subset.refl _⟩

theorem Late.leaveEngines_nearer (c : Nat) (w : Late) : w.Nearer (w.leaveEngines c) :=
  ⟨rfl, List.Subset.refl _, List.Subset.refl _, List.filter_subset_self _⟩

theorem Late.leaveCache_shown {c : Nat} {w : Late} (h : dieOf c ∉ w.dies) : (w.leaveCache c).lags (.scl c) = false := by
  simp [Late.lags, Late.leaveCache, h]

theorem Late.leaveEngines_shown {c : Nat} {w : Late} (h : dieOf c ∉ w.dies) : (w.leaveEngines c).lags (.engine c) = false := by
  simp [Late.lags, Late.leaveEngines, h]

/-- The late writes of a list of numbers, changed by f; the others as they are. -/
def Late.among (ids : List Nat) (f : Late → Late) (w : Late) : Late := if ids.contains w.id then f w else w

theorem Late.among_nearer (ids : List Nat) {f : Late → Late} (hf : ∀ w : Late, w.Nearer (f w)) (w : Late) : w.Nearer (w.among ids f) := by
  unfold Late.among
  split
  exacts [hf w, .refl w]

/-- Once the late writes of a list have entered the view of a reader's die, and what its core keeps of them is gone, the reader sees them. -/
theorem State.modLate_shows {s : State} {ids : List Nat} {i d : Nat} {r : Reader} {f : Late → Late} (hi : i ∈ ids)
    (hs : ∀ x ∈ s.late, x.id = i → d ∉ x.dies) (hf : ∀ w : Late, w.Nearer (f w))
    (hshown : ∀ w : Late, d ∉ w.dies → (f w).lags r = false) : (s.modLate (Late.among ids f)).ShownTo i r := by
  intro x hx hxi
  obtain ⟨w, hw, rfl⟩ := State.mem_modLate hx
  have hwi : w.id = i := (Late.among_nearer ids hf w).id.symm.trans hxi
  unfold Late.among
  rw [if_pos (List.contains_iff_mem.2 (hwi.symm ▸ hi))]
  exact hshown w (hs w hw hwi)

/-! ## Lists of late writes -/

section lists
variable {s : State}

theorem State.mem_joinLate {w : Late} (hw : w ∈ s.late) {a b : List Nat} (h : w.id ∈ a ∨ w.id ∈ b) : w.id ∈ s.joinLate a b := by
  unfold State.joinLate
  rw [if_neg (State.late_not_isEmpty hw)]
  exact List.mem_filter.2 ⟨List.mem_map_of_mem hw, by simpa using h⟩

theorem State.mem_inScope {w : Late} (hw : w ∈ s.late) {c n : Nat} {ids : List Nat} (h : w.id ∈ ids)
    (hin : ∀ x ∈ w.cells, homeIn c n x.1 = true) : w.id ∈ s.inScope c n ids :=
  List.mem_map_of_mem (List.mem_filter.2 ⟨List.mem_filter.2 ⟨hw, List.contains_iff_mem.2 h⟩, List.all_eq_true.2 hin⟩)

end lists

/-! ## Steps that order -/

/-- t is s but for notes of the moving strand, and no late write has come further from a reader. -/
structure Orders (s t : State) : Prop extends SeenMore s t where
  noLater : s.NoLater t

section orders
variable {s : State}

theorem Orders.refl (s : State) : Orders s s := ⟨.refl s, .of_late rfl⟩

theorem Orders.trans {t u : State} (h : Orders s t) (g : Orders t u) : Orders s u :=
  ⟨h.toSeenMore.trans g.toSeenMore, h.noLater.trans g.noLater⟩

theorem State.modMe_after_orders (g : Strand → List Nat) : Orders s (s.modMe fun t => { t with after := g t }) :=
  ⟨.of_modMe rfl, .of_late (s.modMe_late _)⟩

theorem State.modLate_orders {f : Late → Late} (hf : ∀ w : Late, w.Nearer (f w)) : Orders s (s.modLate f) :=
  ⟨State.modLate_seenMore f, State.modLate_noLater hf⟩

theorem State.enterDies_orders (ds : List Nat) (want : Late → Bool) : Orders s (s.enterDies ds want) :=
  ⟨State.enterDies_seenMore ds want, State.enterDies_noLater ds want⟩

theorem State.dropAway_orders (die : Nat) : Orders s (s.dropAway die) := ⟨⟨rfl, rfl, fun _ _ _ => rfl, rfl⟩, .of_late rfl⟩

theorem State.meet_orders (ids : List Nat) : Orders s (s.meet ids) := by
  refine ⟨State.meet_seenMore ids, .of_late ?_⟩
  unfold State.meet
  split
  exacts [rfl, s.modMe_late _]

theorem State.strand_dropLines (c : Nat) (ids : List Nat) (d k : Nat) : (s.dropLines c ids).strand d k = s.strand d k := by
  unfold State.strand State.dropLines State.modCore
  by_cases hd : d = c
  · subst hd
    by_cases hc : d < 260
    · rw [State.core_setCore_self _ _ _ hc]; rfl
    · rw [State.setCore_off _ _ _ hc]
  · rw [State.core_setCore_ne _ _ _ _ hd]

theorem State.dropLines_orders (c : Nat) (ids : List Nat) : Orders s (s.dropLines c ids) where
  cursor := s.modCore_at_ c _
  mem := s.modCore_mem c _
  others d k _ := s.strand_dropLines c ids d k
  me := by
    have hat : (s.dropLines c ids).at_ = s.at_ := s.modCore_at_ c _
    have hme : (s.dropLines c ids).me = s.me := by
      unfold State.me State.myCore State.myStrand
      rw [hat, s.strand_dropLines]
    rw [hme]
  noLater := .of_late (s.modCore_late c _)

/-! ## Acquires (R114 to R118) -/

variable (s) in
/-- The moving strand has noted what it acquires at a scope. -/
def State.acquireNoted (n : Nat) : State :=
  s.modMe fun t => { t with after := s.joinLate t.after (s.inScope s.myCore n s.me.read) }

variable (s) in
/-- What the moving strand is ordered after once it has acquired at a scope. -/
def State.acquired (n : Nat) : List Nat := (s.acquireNoted n).me.after

theorem State.mem_acquired {n : Nat} {w : Late} (hw : w ∈ s.late)
    (h : w.id ∈ s.me.after ∨ w.id ∈ s.me.read ∧ ∀ x ∈ w.cells, homeIn s.myCore n x.1 = true) : w.id ∈ s.acquired n := by
  unfold State.acquired State.acquireNoted
  rw [State.me_modMe]
  exact State.mem_joinLate hw (h.imp_right fun ⟨hr, hin⟩ => State.mem_inScope hw hr hin)

variable (s) in
/-- The views after an acquire, before the held lines of CACHED pages are discarded. -/
def State.acquireViews (n : Nat) : State :=
  if s.late.isEmpty then s
  else
    ((s.acquireNoted n).enterDies [dieOf s.myCore] fun w => (s.acquired n).contains w.id).modLate
      (Late.among (s.acquired n) (Late.leaveCache s.myCore))

theorem State.acquireViews_orders (n : Nat) : Orders s (s.acquireViews n) := by
  unfold State.acquireViews
  split
  · exact .refl s
  · exact ((State.modMe_after_orders _).trans (State.enterDies_orders _ _)).trans
      (State.modLate_orders (Late.among_nearer _ (Late.leaveCache_nearer _)))

theorem State.acquire_eq (n : Nat) :
    s.acquire n = if n < 4 then s.acquireViews n else (s.acquireViews n).dropAway (dieOf s.myCore) := by
  have hcore : (s.acquireNoted n).myCore = s.myCore := congrArg (·.core.val) (s.modMe_at_ _)
  have hviews : (s.acquireViews n).myCore = s.myCore := congrArg (·.core.val) (State.acquireViews_orders n).cursor
  have h : s.acquire n = if n < 4 then s.acquireViews n else (s.acquireViews n).dropAway (dieOf (s.acquireViews n).myCore) := by
    unfold State.acquireViews
    rw [← hcore]
    rfl
  rw [h, hviews]

theorem State.acquire_orders (n : Nat) : Orders s (s.acquire n) := by
  rw [State.acquire_eq]
  split
  · exact State.acquireViews_orders n
  · exact (State.acquireViews_orders n).trans (State.dropAway_orders _)

/-- The moving strand's core reads what its strand is ordered after. -/
theorem State.acquire_shows {n : Nat} {w : Late} (hw : w ∈ s.late) (h : w.id ∈ s.acquired n) :
    (s.acquire n).ShownTo w.id (.scl s.myCore) := by
  have hviews : (s.acquireViews n).ShownTo w.id (.scl s.myCore) := by
    unfold State.acquireViews
    rw [if_neg (State.late_not_isEmpty hw)]
    exact State.modLate_shows h (fun x hx => State.enterDies_enters h List.mem_cons_self hx) (Late.leaveCache_nearer _)
      fun _ => Late.leaveCache_shown
  rw [State.acquire_eq]
  split
  exacts [hviews, hviews]

/-- At GRP and SYS scope the die holds no word of a CACHED page any more (R95). -/
theorem State.acquire_dropsAway {n : Nat} (h : 4 ≤ n) : ∀ x ∈ (s.acquire n).rline, x.die ≠ dieOf s.myCore := by
  rw [State.acquire_eq, if_neg (by omega)]
  exact fun x hx => by simpa using (List.mem_filter.1 hx).2

/-! ## Releases, and the place of a FENCE.SC (R112, R116, R117) -/

theorem State.noteRelease_orders (n : Nat) : Orders s (s.noteRelease n) := by
  unfold State.noteRelease
  split
  exacts [.refl s, State.modMe_after_orders _]

theorem State.noteRelease_after {n : Nat} {w : Late} (hw : w ∈ s.late) (h : w.id ∈ s.me.wrote ∨ w.id ∈ s.me.read)
    (hin : ∀ x ∈ w.cells, homeIn s.myCore n x.1 = true) : w.id ∈ (s.noteRelease n).me.after := by
  unfold State.noteRelease
  rw [if_neg (State.late_not_isEmpty hw), State.me_modMe]
  exact State.mem_joinLate hw (.inr (State.mem_inScope hw (List.mem_append.2 h) hin))

theorem State.scPlace_orders (n : Nat) : Orders s (s.scPlace n) := by
  unfold State.scPlace
  split
  · exact .refl s
  · exact ((State.meet_orders _).trans (State.modMe_after_orders _)).trans ⟨⟨rfl, rfl, fun _ _ _ => rfl, rfl⟩, .of_late rfl⟩

/-! ## FENCE.X (R121) -/

theorem dieOf_mem_diesIn {c : Nat} (hc : c < 260) (n : Nat) : dieOf c ∈ diesIn c n := by
  have hdie : dieOf c < 4 := by
    simp only [dieOf, isService, decide_eq_true_eq]
    split <;> omega
  unfold diesIn
  split
  · exact List.mem_singleton_self _
  · simp only [List.mem_cons, List.not_mem_nil, or_false]
    omega

/-- What a FENCE.X towards q takes of a late write from what a core keeps. -/
def Late.leaveFor (q c : Nat) : Late → Late := if q = 0 then Late.leaveCache c else Late.leaveEngines c

theorem Late.leaveFor_nearer (q c : Nat) (w : Late) : w.Nearer (Late.leaveFor q c w) := by
  unfold Late.leaveFor
  split
  exacts [w.leaveCache_nearer c, w.leaveEngines_nearer c]

variable (s) in
/-- The late writes that a FENCE.X from p completes. -/
def State.crossed (n p : Nat) : List Nat := s.inScope s.myCore n (s.crossSet p)

variable (s) in
/-- A FENCE.X before the late writes that it completes leave what the core keeps. -/
def State.crossDies (n p q : Nat) : State :=
  (if q = 0 then s.dropLines s.myCore (s.crossed n p) else s).enterDies (diesIn s.myCore n) fun w => (s.crossed n p).contains w.id

variable (s) in
/-- With q = SCL the late writes come before the strand's later stores too. -/
def State.crossNoted (n p q : Nat) : State :=
  if q = 0 then (s.crossDies n p q).modMe fun t => { t with after := (s.crossDies n p q).joinLate t.after (s.crossed n p) }
  else s.crossDies n p q

variable (s) in
/-- The views after a FENCE.X, before the held lines of CACHED pages are discarded. -/
def State.crossViews (n p q : Nat) : State :=
  if s.late.isEmpty then s else (s.crossNoted n p q).modLate (Late.among (s.crossed n p) (Late.leaveFor q s.myCore))

theorem State.cross_eq (n p q : Nat) :
    s.cross n p q = if q = 0 then (s.crossViews n p q).dropAway (dieOf s.myCore) else s.crossViews n p q := by
  have hf : Late.among (s.crossed n p) (Late.leaveFor q s.myCore) = fun w =>
      if !(s.crossed n p).contains w.id then w
      else if q = 0 then { w with caches := w.caches.filter (· != s.myCore) } else { w with engines := w.engines.filter (· != s.myCore) } := by
    funext w
    unfold Late.among Late.leaveFor
    cases (s.crossed n p).contains w.id with
    | false => rfl
    | true => by_cases hq : q = 0 <;> simp only [hq, if_true, if_false] <;> rfl
  unfold State.crossViews
  rw [hf]
  rfl

theorem State.crossDies_orders (n p q : Nat) : Orders s (s.crossDies n p q) := by
  refine Orders.trans ?_ (State.enterDies_orders _ _)
  split
  exacts [State.dropLines_orders _ _, .refl s]

theorem State.crossNoted_orders (n p q : Nat) : Orders s (s.crossNoted n p q) := by
  refine (State.crossDies_orders n p q).trans ?_
  unfold State.crossNoted
  split
  exacts [State.modMe_after_orders _, .refl _]

theorem State.cross_orders (n p q : Nat) : Orders s (s.cross n p q) := by
  have hviews : Orders s (s.crossViews n p q) := by
    unfold State.crossViews
    split
    · exact .refl s
    · exact (State.crossNoted_orders n p q).trans (State.modLate_orders (Late.among_nearer _ (Late.leaveFor_nearer q _)))
  rw [State.cross_eq]
  split
  exacts [hviews.trans (State.dropAway_orders _), hviews]

theorem State.crossNoted_late (n p q : Nat) : (s.crossNoted n p q).late = (s.crossDies n p q).late := by
  unfold State.crossNoted
  split
  exacts [State.modMe_late _ _, rfl]

/-- A reader of the own core sees the late writes that a FENCE.X completes, when what its core keeps of them is gone. -/
theorem State.cross_shows {n p q : Nat} {r : Reader} {w : Late} (hw : w ∈ s.late) (h : w.id ∈ s.crossed n p)
    (hshown : ∀ w : Late, dieOf s.myCore ∉ w.dies → (Late.leaveFor q s.myCore w).lags r = false) : (s.cross n p q).ShownTo w.id r := by
  have hviews : (s.crossViews n p q).ShownTo w.id r := by
    unfold State.crossViews
    rw [if_neg (State.late_not_isEmpty hw)]
    refine State.modLate_shows h (fun x hx => ?_) (Late.leaveFor_nearer q _) hshown
    rw [State.crossNoted_late] at hx
    exact State.enterDies_enters h (dieOf_mem_diesIn s.at_.core.isLt n) hx
  rw [State.cross_eq]
  split
  exacts [hviews, hviews]

/-- What copies wrote whose completion the strand has observed (R121). -/
theorem State.mem_crossed_observed {n : Nat} {w : Late} (hw : w ∈ s.late) (h : w.id ∈ s.me.observed)
    (hin : ∀ x ∈ w.cells, homeIn s.myCore n x.1 = true) : w.id ∈ s.crossed n 4 := State.mem_inScope hw h hin

end orders

/-! ## The fences that release -/

theorem exec_fenceRel (scope : BitVec 3) (s : State) :
    exec (.fenceRel scope) s = s.release scope.toNat fun u => .next (u.finish 4) := by rfl

theorem exec_fenceAr (scope : BitVec 3) (s : State) :
    exec (.fenceAr scope) s = s.release scope.toNat fun u => .next ((u.acquire scope.toNat).finish 4) := by rfl

theorem exec_fenceSc (scope : BitVec 3) (s : State) :
    exec (.fenceSc scope) s = s.release scope.toNat fun u => .next (((u.scPlace scope.toNat).acquire scope.toNat).finish 4) := by rfl

/-! ## Flush markers (R125) -/

section streams
variable {s : State}

/-- Flush markers change what the moving strand keeps of its streams, and nothing else of it. -/
theorem State.flushStreams_me (n : Nat) : ∃ ss, (s.flushStreams n).me = { s.me with streams := ss } := by
  unfold State.flushStreams
  dsimp only
  split
  · exact ⟨s.me.streams, rfl⟩
  · exact ⟨_, State.me_modMe _ _⟩

theorem State.flushStreams_marks {n : Nat} (hn : 4 ≤ n) {x : Stream} (hx : x ∈ s.me.streams) (hopen : x.sent ≠ x.acked)
    (hmark : x.marked ≠ x.sent) : OutMsg.flushMarker s.myCore s.myStrand x.pkg ∈ (s.flushStreams n).outbox := by
  have hx' : (x.sent != x.acked && x.marked != x.sent) = true := by simp [hopen, hmark]
  have hany : s.me.streams.any (fun x => x.sent != x.acked && x.marked != x.sent) = true := List.any_eq_true.2 ⟨x, hx, hx'⟩
  unfold State.flushStreams
  rw [if_neg (by rintro (h | h); exacts [by omega, by rw [hany] at h; cases h]), State.modMe_outbox]
  exact List.mem_append_right _ (List.mem_map_of_mem (f := fun x : Stream => OutMsg.flushMarker s.myCore s.myStrand x.pkg)
    (List.mem_filter.2 ⟨hx, hx'⟩))

/-- A release at GRP or SYS scope whose condition does not hold waits behind its flush markers. -/
theorem State.release_marks (n : Nat) (go : State → Out) (h1 : s.me.lostStream n = none) (h2 : s.me.relReady n = false) :
    s.release n go = .next ((s.flushStreams n).waitFor 3 0) := by
  unfold State.release
  rw [h1]
  simp [h2]

/-! ## Lost streams (R127) -/

/-- The moving strand takes a trap that is not fatal (R282). -/
theorem State.trapAt_own {cause : Nat} (path : Nat) (defer stream : Bool) (val resume : Word) (h : s.me.fatal cause = false) :
    s.trapAt s.myCore s.myStrand cause path defer stream val resume = s.modMe fun t => { t.finish 0 with
      pc := t.sys.tvec &&& ~~~3#64,
      sys := { t.sys with epc := resume, ecause := ecauseOf cause path defer stream, eval := val, intrap := true } } :=
  if_neg (by rw [show (s.strand s.myCore s.myStrand).fatal cause = false from h]; decide)

/-- A strand whose stores of a stream are settled, performed or not. -/
def Strand.settleStream (t : Strand) (x : Stream) : Strand :=
  { t.setStream ⟨x.pkg, x.sent, x.sent, x.sent, false⟩ with
    stores := t.stores.filter fun b => match b.dest with | some (.peer p _) => p != x.pkg | _ => true }

theorem Strand.settleStream_stores {t : Strand} {x : Stream} {b : Buffered} (h : b ∈ (t.settleStream x).stores) :
    b ∈ t.stores ∧ ∀ i, b.dest ≠ some (.peer x.pkg i) := by
  obtain ⟨hb, hkeep⟩ := List.mem_filter.1 h
  refine ⟨hb, fun i hi => ?_⟩
  rw [hi] at hkeep
  simp at hkeep

/-- The value that LINK_FAILED of a stream leaves in EVAL (R283). -/
def Stream.failValue (x : Stream) : Word := BitVec.ofNat 64 (x.pkg % 2 ^ 15 + x.acked.toNat * 2 ^ 32)

theorem State.streamFailed_eq (x : Stream) (h : s.me.fatal 21 = false) :
    s.streamFailed x = s.modMe fun t => { (t.settleStream x).finish 0 with
      pc := t.sys.tvec &&& ~~~3#64,
      sys := { t.sys with epc := s.me.pc, ecause := ecauseOf 21 0 false true, eval := x.failValue, intrap := true } } := by
  let u := s.modMe fun t => t.settleStream x
  have hme : u.me = s.me.settleStream x := s.me_modMe _
  have hcore : u.myCore = s.myCore := congrArg (·.core.val) (s.modMe_at_ _)
  have hstrand : u.myStrand = s.myStrand := congrArg (·.strand.val) (s.modMe_at_ _)
  have hfail : s.streamFailed x = u.trapAt s.myCore s.myStrand 21 0 false true x.failValue u.me.pc := rfl
  rw [hfail, ← hcore, ← hstrand, State.trapAt_own _ _ _ _ _ (by rw [hme]; exact h), hme]
  exact s.modMe_modMe _ _

end streams

/-! ## The statement -/

/-- Settles O13: the conditions are those of Table 5.1 (`Strand.relReady_iff`, `Strand.crossReady_iff`); every effect of a fence only orders
(`Orders`) and shows its late writes to the readers named (`State.acquire_shows`, `State.cross_shows`); and a lost stream traps as
`State.streamFailed_eq` says. -/
theorem fences : Obligations.Fences := by
  refine ⟨fun s scope p q => ?_, fun s n q w => ?_, fun s scope x hn hlost hf => ?_⟩
  · intro n returned performed crossed u waits
    have hacq : s.me.acqReady = true ↔ returned := s.me.acqReady_iff
    have hrel : s.me.relReady n = true ↔ performed := s.me.relReady_iff n
    have hcross : (p != 0 || s.me.crossReady) = true ↔ p ≠ 0 ∨ crossed := by rw [Bool.or_eq_true, bne_iff_ne, s.me.crossReady_iff]
    refine ⟨fun h => ?_, fun h => ?_, fun hl h => ?_, fun hn h => ?_, fun hn hl h => ?_, fun h => ?_, fun h => ?_⟩
    · exact ⟨_, if_pos (hacq.2 h), State.finish_wrote _ 4⟩
    · exact ⟨_, if_neg (hacq.not.2 h), s.waitFor_waits 3 0⟩
    · have hgo (go : State → Out) : s.release n go = go u := s.release_ready n go hl (hrel.2 h)
      exact ⟨⟨_, (exec_fenceRel scope s).trans (hgo _), State.finish_wrote _ 4⟩,
        ⟨_, (exec_fenceAr scope s).trans (hgo _), State.finish_wrote _ 4⟩,
        ⟨_, (exec_fenceSc scope s).trans (hgo _), State.finish_wrote _ 4⟩⟩
    · have hgo (go : State → Out) : s.release n go = .next (s.waitFor 3 0) :=
        s.release_waits n go hn (Bool.eq_false_iff.2 (hrel.not.2 h))
      exact ⟨⟨_, (exec_fenceRel scope s).trans (hgo _), s.waitFor_waits 3 0⟩,
        ⟨_, (exec_fenceAr scope s).trans (hgo _), s.waitFor_waits 3 0⟩,
        ⟨_, (exec_fenceSc scope s).trans (hgo _), s.waitFor_waits 3 0⟩⟩
    · obtain ⟨ss, hme⟩ := State.flushStreams_me (s := s) n
      have W := (s.flushStreams n).waitFor_waits 3 0
      have hgo := State.release_marks n (fun u => .next (u.finish 4)) hl (Bool.eq_false_iff.2 (hrel.not.2 h))
      refine ⟨_, (exec_fenceRel scope s).trans hgo, ?_, ?_, ?_, ?_, ?_, fun x hx hopen hmark => ?_⟩
      · rw [W.strand]
      · rw [W.strand]
      · rw [W.strand, hme]
      · rw [W.strand, hme]
      · rw [State.waitFor_mem, State.flushStreams_mem]
      · rw [State.waitFor_outbox]
        exact State.flushStreams_marks hn hx hopen hmark
    · exact ⟨_, if_pos (hcross.2 h), State.finish_wrote _ 4⟩
    · exact ⟨_, if_neg (hcross.not.2 h), s.waitFor_waits 3 0⟩
  · intro c inside shown quiet hw
    have hquiet {t : State} (h : Orders s t) : quiet t := ⟨h.mem, by rw [h.me], by rw [h.me], h.others, fun r x hx hr =>
      have ⟨y, hy, hn⟩ := h.noLater x hx
      ⟨y, hy, hn.id.symm, hn.lags hr⟩⟩
    refine ⟨hquiet (State.acquire_orders n), hquiet (State.noteRelease_orders n), hquiet (State.scPlace_orders n),
      hquiet (State.cross_orders n 4 q), fun h hin => ?_, fun h => ?_, State.acquire_dropsAway, State.noteRelease_after hw, fun h hin => ?_⟩
    · exact State.acquire_shows hw (State.mem_acquired hw (.inr ⟨h, hin⟩))
    · exact State.acquire_shows hw (State.mem_acquired hw (.inl h))
    · have hcrossed := State.mem_crossed_observed hw h hin
      exact ⟨State.cross_shows hw hcrossed fun _ => Late.leaveCache_shown, State.cross_shows hw hcrossed fun _ => Late.leaveEngines_shown⟩
  · have hme := (congrArg State.me (s.streamFailed_eq x hf)).trans (s.me_modMe _)
    refine ⟨_, (exec_fenceRel scope s).trans (s.release_lost _ _ x hlost), ?_, ?_, ?_, ?_, ?_, ?_, s.streamFailed_mem x,
      fun c k h => ?_, ?_, fun b hb => ?_⟩
    · rw [hme]
    · rw [hme]; rfl
    · rw [hme]; rfl
    · rw [hme]
    · rw [hme]
    · rw [hme]; rfl
    · rw [s.streamFailed_eq x hf]
      exact (s.modMe_onlyMe _).2.2 c k h
    · rw [hme]
      exact congrArg Stream.lost (Strand.stream_setStream s.me ⟨x.pkg, x.sent, x.sent, x.sent, false⟩)
    · rw [hme] at hb
      exact Strand.settleStream_stores hb

end Sys2Proof.Machine
end

section
/-!
SUPPORT. O41: the functions of R262 and VFRND, each of which is the lane rule of one source with its own function of an element (R146, R248,
R249, R261).
-/
namespace Sys2Proof.Machine

/-- An instruction that is the lane rule of one source completes with its function in each active lane (R249). -/
theorem State.lane1_runs {s : State} {i : Instr} {vd va : VReg} {ty : BitVec 4} {m : Bool} {f : Nat → Nat × Flags} {act : Nat → Bool}
    (hi : exec i s = s.lane1 vd va ty m f) (h : s.ctx.activity m = some act) :
    RunsTo i s (WroteLanes s · vd (tyBits ty.toNat) 1 act fun j => f (s.ctx.lane va (tyBits ty.toNat) j)) :=
  have ⟨t, ht, hw⟩ := s.lane1_wrote vd va ty m f act h
  ⟨t, hi.trans ht, hw⟩

section equations
variable (vd va : VReg) (ty : BitVec 4) (rm : BitVec 3) (sat m : Bool) (s : State)

theorem exec_vexp2 : exec (.vexp2 vd va ty rm sat m) s = s.lane1 vd va ty m fun x => exp2Bits ty.toNat x rm.toNat sat := by rfl

theorem exec_vlog2 : exec (.vlog2 vd va ty rm sat m) s = s.lane1 vd va ty m fun x => log2Bits ty.toNat x rm.toNat sat := by rfl

theorem exec_vsinpi : exec (.vsinpi vd va ty rm sat m) s = s.lane1 vd va ty m fun x => sinpiBits false ty.toNat x rm.toNat sat := by rfl

theorem exec_vcospi : exec (.vcospi vd va ty rm sat m) s = s.lane1 vd va ty m fun x => sinpiBits true ty.toNat x rm.toNat sat := by rfl

theorem exec_vfrnd : exec (.vfrnd vd va ty rm m) s = s.lane1 vd va ty m fun x => roundIntegral ty.toNat x rm.toNat := by rfl

end equations

/-- Settles O41: each of the five is the lane rule of one source (`exec_vexp2` to `exec_vfrnd`), which completes under any activity
(`State.lane1_runs`). -/
theorem vectorFunctions : Obligations.VectorFunctions := by
  intro s vd va ty rm sat m act hact n b put
  refine ⟨?_, ?_, ?_, ?_, ?_⟩
  · exact State.lane1_runs (exec_vexp2 vd va ty rm sat m s) hact
  · exact State.lane1_runs (exec_vlog2 vd va ty rm sat m s) hact
  · exact State.lane1_runs (exec_vsinpi vd va ty rm sat m s) hact
  · exact State.lane1_runs (exec_vcospi vd va ty rm sat m s) hact
  · exact State.lane1_runs (exec_vfrnd vd va ty rm m s) hact

end Sys2Proof.Machine
end

section
/-!
SUPPORT. The fields of an encoded word (Tables 7.2, 7.3, 7.5, 7.7 and 10.4): in each format, what the decoder reads of the word is what the
encoder has put there.
-/
namespace Sys2Proof.Machine
open Sys2Proof.Laws.F

/-- A bit-vector field of a word whose bits are those of x reads as x. -/
theorem ofNat_eq {n m : Nat} {x : BitVec n} (h : m % 2 ^ n = x.toNat) : BitVec.ofNat n m = x :=
  BitVec.eq_of_toNat_eq (by rw [BitVec.toNat_ofNat, h])

/-- A value in the low bits of a wider field is read from there. -/
theorem ofNat_narrow {n m k : Nat} {x : BitVec n} (hn : n ≤ m) (h : BitVec.ofNat m k = x.setWidth m) : BitVec.ofNat n k = x := by
  have e := congrArg (BitVec.setWidth n) h
  rwa [BitVec.setWidth_ofNat_of_le hn, BitVec.setWidth_setWidth_of_le _ hn, BitVec.setWidth_eq] at e

/-- A one-bit field of a word whose bit is b reads as b. -/
theorem bit_eq {w i : Nat} {b : Bool} (h : w / 2 ^ i % 2 = b.toNat) : bit w i = b := by
  unfold bit; rw [h]; cases b <;> rfl

/-! ## Format A -/

/-- The fields of format A (Table 7.2). -/
structure FieldsA (w op : Nat) (d a b : Reg) (func : Nat) : Prop where
  op : w / 2 ^ 26 = op
  func : w % 2 ^ 11 = func
  d : fD w = d
  a : fA w = a
  b : fB w = b

theorem wordA_fields {op func : Nat} (d a b : Reg) (hf : func < 2048) : FieldsA (wordA op d a b func) op d a b func := by
  have := d.isLt; have := a.isLt; have := b.isLt
  unfold wordA
  refine ⟨?_, ?_, ofNat_eq ?_, ofNat_eq ?_, ofNat_eq ?_⟩
  all_goals omega

section member
variable {w op func : Nat} {d a b : Reg} (h : FieldsA w op d a b func)
include h

theorem FieldsA.low4 : w % 16 = func % 16 := by have := h.func; omega

theorem FieldsA.low3 : w % 8 = func % 8 := by have := h.func; omega

theorem FieldsA.low2 : w % 4 = func % 4 := by have := h.func; omega

end member

/-- The region register of RGN.B, RGN.O, RGN.E and RGN.CLR stands in the low bits of d. -/
theorem FieldsA.q {w op func : Nat} {q : BitVec 4} {a b : Reg} (h : FieldsA w op (q.setWidth 5) a b func) :
    BitVec.ofNat 4 (w / 2 ^ 21) = q :=
  ofNat_narrow (by decide) h.d

/-- The fields of an atomic (Table 7.5). -/
structure FieldsAtom (w : Nat) (d a b : Reg) (code : Nat) (ar : Bool) (scope : BitVec 3) (wide : Bool) : Prop where
  op : w / 2 ^ 26 = 0x20
  code : w % 16 = code
  ar : bit w 9 = ar
  scope : BitVec.ofNat 3 (w / 2 ^ 6) = scope
  wide : bit w 4 = wide
  d : fD w = d
  a : fA w = a
  b : fB w = b

theorem atom_fields {code : Nat} (d a b : Reg) (wide ar : Bool) (scope : BitVec 3) (hc : code < 16) :
    FieldsAtom (wordA 0x20 d a b (atomFunc code wide scope ar)) d a b code ar scope wide := by
  have h := wordA_fields (op := 0x20) d a b (atomFunc_lt wide ar scope hc)
  have := bit_lt wide; have := bit_lt ar; have := scope.isLt
  refine ⟨h.op, ?_, bit_eq ?_, ofNat_eq ?_, bit_eq ?_, h.d, h.a, h.b⟩
  all_goals unfold wordA atomFunc; omega

/-- The fields of a hierarchical barrier (Table 7.5). -/
structure FieldsBar (w : Nat) (d a : Reg) (scope : BitVec 3) (id : BitVec 4) (member : Nat) : Prop where
  op : w / 2 ^ 26 = 0x22
  member : w % 4 = member
  scope : BitVec.ofNat 3 (w / 2 ^ 8) = scope
  id : BitVec.ofNat 4 (w / 2 ^ 4) = id
  d : fD w = d
  a : fA w = a

theorem bar_fields {member : Nat} (d a : Reg) (scope : BitVec 3) (id : BitVec 4) (hm : member < 4) :
    FieldsBar (wordA 0x22 d a 0 (scope.toNat * 2 ^ 8 + id.toNat * 2 ^ 4 + member)) d a scope id member := by
  have h := wordA_fields (op := 0x22) d a 0 (barFunc_lt (m := member) scope id (by omega))
  have := scope.isLt; have := id.isLt
  refine ⟨h.op, ?_, ofNat_eq ?_, ofNat_eq ?_, h.d, h.a⟩
  all_goals unfold wordA; omega

section tbInit
variable {w op : Nat} {d a b : Reg} {scope : BitVec 3} (h : FieldsA w op d a b (scope.toNat * 2 ^ 8))
include h

theorem FieldsA.tbMember : w % 8 = 0 := by have := h.func; omega

theorem FieldsA.tbScope : BitVec.ofNat 3 (w / 2 ^ 8) = scope :=
  ofNat_eq (by have := h.func; have := scope.isLt; omega)

end tbInit

/-! ## Formats I, B, M, J, N and F -/

/-- The fields of formats I and B (Table 7.2). -/
structure FieldsI (w op : Nat) (d a : Reg) (imm : Nat) : Prop where
  op : w / 2 ^ 26 = op
  d : fD w = d
  a : fA w = a
  imm : w % 2 ^ 16 = imm

theorem wordI_fields {op imm : Nat} (d a : Reg) (hi : imm < 2 ^ 16) : FieldsI (wordI op d a imm) op d a imm := by
  have := d.isLt; have := a.isLt
  unfold wordI
  refine ⟨?_, ofNat_eq ?_, ofNat_eq ?_, ?_⟩
  all_goals omega

theorem FieldsI.field {w op : Nat} {d a : Reg} {imm : BitVec 16} (h : FieldsI w op d a imm.toNat) : fImm w = imm := ofNat_eq h.imm

theorem FieldsI.member {w op k : Nat} {d a : Reg} {n : BitVec 6} (h : FieldsI w op d a (k * 2 ^ 14 + n.toNat)) : w / 2 ^ 14 % 4 = k := by
  have := h.imm; have := n.isLt; omega

theorem FieldsI.amount {w op k : Nat} {d a : Reg} {n : BitVec 6} (h : FieldsI w op d a (k * 2 ^ 14 + n.toNat)) : BitVec.ofNat 6 w = n :=
  ofNat_eq (by have := h.imm; have := n.isLt; omega)

/-- The fields of format M (Table 7.2). -/
structure FieldsM (w op : Nat) (d a : Reg) (imm : BitVec 12) (member : Nat) : Prop where
  op : w / 2 ^ 26 = op
  member : w % 16 = member
  d : fD w = d
  a : fA w = a
  imm : fImm12 w = imm

theorem wordM_fields {op member : Nat} (d a : Reg) (imm : BitVec 12) (hm : member < 16) :
    FieldsM (wordM op d a imm member) op d a imm member := by
  have := d.isLt; have := a.isLt; have := imm.isLt
  unfold wordM
  refine ⟨?_, ?_, ofNat_eq ?_, ofNat_eq ?_, ofNat_eq ?_⟩
  all_goals omega

/-- The fields of format J (Table 7.2). -/
structure FieldsJ (w op : Nat) (d : Reg) (off : BitVec 21) : Prop where
  op : w / 2 ^ 26 = op
  d : fD w = d
  off : BitVec.ofNat 21 w = off

theorem wordJ_fields (op : Nat) (d : Reg) (off : BitVec 21) : FieldsJ (wordJ op d off) op d off := by
  have := d.isLt; have := off.isLt
  unfold wordJ
  refine ⟨?_, ofNat_eq ?_, ofNat_eq ?_⟩
  all_goals omega

/-- The fields of SYSR and SYSW (Table 7.5). -/
structure FieldsN (w op : Nat) (d a : Reg) (num : BitVec 12) (member : Nat) : Prop where
  op : w / 2 ^ 26 = op
  member : w % 16 = member
  d : fD w = d
  a : fA w = a
  num : BitVec.ofNat 12 (w / 2 ^ 4) = num

theorem wordN_fields {op member : Nat} (d a : Reg) (num : BitVec 12) (hm : member < 16) :
    FieldsN (wordN op d a num member) op d a num member := by
  have := d.isLt; have := a.isLt; have := num.isLt
  unfold wordN
  refine ⟨?_, ?_, ofNat_eq ?_, ofNat_eq ?_, ofNat_eq ?_⟩
  all_goals omega

/-- The fields of format F (Table 7.2). -/
structure FieldsF (w : Nat) (scope : BitVec 3) (kind : Nat) (p q : BitVec 3) : Prop where
  op : w / 2 ^ 26 = 0x21
  kind : w / 2 ^ 20 % 8 = kind
  scope : BitVec.ofNat 3 (w / 2 ^ 23) = scope
  p : BitVec.ofNat 3 (w / 2 ^ 17) = p
  q : BitVec.ofNat 3 (w / 2 ^ 14) = q

theorem wordF_fields {kind : Nat} (scope p q : BitVec 3) (hk : kind < 8) : FieldsF (wordF scope kind p q) scope kind p q := by
  have := scope.isLt; have := p.isLt; have := q.isLt
  unfold wordF
  refine ⟨?_, ?_, ofNat_eq ?_, ofNat_eq ?_, ofNat_eq ?_⟩
  all_goals omega

/-! ## The two-word formats -/

/-- The fields of format L in its first word, and the second word. -/
structure FieldsL (w0 w1 : Nat) (d a : Reg) (func : Nat) (imm : BitVec 32) : Prop where
  op : w0 / 2 ^ 26 = 0x3E
  func : w0 % 2 ^ 16 = func
  d : fD w0 = d
  a : fA w0 = a
  imm : BitVec.ofNat 32 w1 = imm

theorem wordL_fields {func : Nat} (d a : Reg) (imm : BitVec 32) (hf : func < 2 ^ 16) :
    FieldsL (wordL d a func imm % 2 ^ 32) (wordL d a func imm / 2 ^ 32) d a func imm := by
  have := d.isLt; have := a.isLt; have := imm.isLt
  unfold wordL
  refine ⟨?_, ?_, ofNat_eq ?_, ofNat_eq ?_, ofNat_eq ?_⟩
  all_goals omega

/-- The fields of format T in its first word, and the second word (Table 7.3). -/
structure FieldsT (w0 w1 op sub : Nat) (h : TaskHead) (v1 : Nat) : Prop where
  op : w0 / 2 ^ 26 = op
  sub : w0 / 2 ^ 23 % 8 = sub
  head : TaskHead.decode w0 = h
  second : w1 = v1

theorem wordT_fields {op sub : Nat} (h : TaskHead) (v1 : Nat) (ho : op < 64) (hs : sub < 8) :
    FieldsT (wordT op sub h v1 % 2 ^ 32) (wordT op sub h v1 / 2 ^ 32) op sub h v1 := by
  obtain ⟨tok, pri, rbase, rcnt, wbase, wcnt⟩ := h
  have := tok.isLt; have := pri.isLt; have := rbase.isLt; have := rcnt.isLt; have := wbase.isLt; have := wcnt.isLt
  have head (w : Nat) : TaskHead.decode w = ⟨tok, pri, rbase, rcnt, wbase, wcnt⟩ ↔ BitVec.ofNat 5 (w / 2 ^ 18) = tok ∧
      BitVec.ofNat 2 (w / 2 ^ 16) = pri ∧ BitVec.ofNat 4 (w / 2 ^ 12) = rbase ∧ BitVec.ofNat 3 (w / 2 ^ 9) = rcnt ∧
      BitVec.ofNat 4 (w / 2 ^ 5) = wbase ∧ BitVec.ofNat 2 (w / 2 ^ 3) = wcnt := by simp only [TaskHead.decode, TaskHead.mk.injEq]
  simp only [wordT]
  refine ⟨?_, ?_, (head _).2 ⟨ofNat_eq ?_, ofNat_eq ?_, ofNat_eq ?_, ofNat_eq ?_, ofNat_eq ?_, ofNat_eq ?_⟩, ?_⟩
  all_goals omega

theorem drain_decode (f : DrainFields) : DrainFields.decode f.encode = f := by
  obtain ⟨fout, rm, sat, rs, cs, bi, rsf, csf, tgt, clr, acci⟩ := f
  have := fout.isLt; have := rm.isLt; have := clr.isLt; have := bit_lt sat; have := bit_lt rs; have := bit_lt cs
  have := bit_lt bi; have := bit_lt rsf; have := bit_lt csf; have := bit_lt tgt; have := bit_lt acci
  simp only [DrainFields.decode, DrainFields.encode, DrainFields.mk.injEq]
  refine ⟨ofNat_eq ?_, ofNat_eq ?_, bit_eq ?_, bit_eq ?_, bit_eq ?_, bit_eq ?_, bit_eq ?_, bit_eq ?_, bit_eq ?_, ofNat_eq ?_, bit_eq ?_⟩
  all_goals omega

theorem row_decode (f : RowFields) : RowFields.decode f.encode = f := by
  obtain ⟨opk, fin, fout, rm, sat, preg, causal⟩ := f
  have := opk.isLt; have := fin.isLt; have := fout.isLt; have := rm.isLt; have := preg.isLt; have := bit_lt sat
  have := bit_lt causal
  simp only [RowFields.decode, RowFields.encode, RowFields.mk.injEq]
  refine ⟨ofNat_eq ?_, ofNat_eq ?_, ofNat_eq ?_, ofNat_eq ?_, bit_eq ?_, ofNat_eq ?_, bit_eq ?_⟩
  all_goals omega

section second
variable (a b c : Reg)

theorem mm_fa (fa fb : BitVec 4) : BitVec.ofNat 4 ((fa.toNat * 2 ^ 28 + fb.toNat * 2 ^ 24) / 2 ^ 28) = fa :=
  ofNat_eq (by have := fa.isLt; have := fb.isLt; omega)

theorem mm_fb (fa fb : BitVec 4) : BitVec.ofNat 4 ((fa.toNat * 2 ^ 28 + fb.toNat * 2 ^ 24) / 2 ^ 24) = fb :=
  ofNat_eq (by have := fb.isLt; omega)

theorem one_first : BitVec.ofNat 5 (a.toNat * 2 ^ 27 / 2 ^ 27) = a :=
  ofNat_eq (by have := a.isLt; omega)

theorem two_first : BitVec.ofNat 5 ((a.toNat * 2 ^ 27 + b.toNat * 2 ^ 22) / 2 ^ 27) = a :=
  ofNat_eq (by have := a.isLt; have := b.isLt; omega)

theorem two_second : BitVec.ofNat 5 ((a.toNat * 2 ^ 27 + b.toNat * 2 ^ 22) / 2 ^ 22) = b :=
  ofNat_eq (by have := b.isLt; omega)

theorem cpr_first : BitVec.ofNat 5 ((a.toNat * 2 ^ 27 + b.toNat * 2 ^ 17) / 2 ^ 27) = a :=
  ofNat_eq (by have := a.isLt; have := b.isLt; omega)

theorem cpr_second : BitVec.ofNat 5 ((a.toNat * 2 ^ 27 + b.toNat * 2 ^ 17) / 2 ^ 17) = b :=
  ofNat_eq (by have := b.isLt; omega)

theorem three_first : BitVec.ofNat 5 ((a.toNat * 2 ^ 27 + b.toNat * 2 ^ 22 + c.toNat * 2 ^ 17) / 2 ^ 27) = a :=
  ofNat_eq (by have := a.isLt; have := b.isLt; have := c.isLt; omega)

theorem three_second : BitVec.ofNat 5 ((a.toNat * 2 ^ 27 + b.toNat * 2 ^ 22 + c.toNat * 2 ^ 17) / 2 ^ 22) = b :=
  ofNat_eq (by have := b.isLt; have := c.isLt; omega)

theorem three_third : BitVec.ofNat 5 ((a.toNat * 2 ^ 27 + b.toNat * 2 ^ 22 + c.toNat * 2 ^ 17) / 2 ^ 17) = c :=
  ofNat_eq (by have := c.isLt; omega)

end second

/-! ## Formats VA, VM and VC -/

/-- The fields of format VA (Table 7.7). -/
structure FieldsVA (w major : Nat) (vd va vb vc : VReg) (ty ty2 : BitVec 4) (rm : BitVec 3) (sat m : Bool) (low : Nat) : Prop where
  major : w / 2 ^ 56 = major
  vd : gV w 50 = vd
  va : gV w 44 = va
  vb : gV w 38 = vb
  vc : gV w 32 = vc
  ty : gT w 28 = ty
  ty2 : gT w 24 = ty2
  rm : BitVec.ofNat 3 (w / 2 ^ 21) = rm
  sat : bit w 20 = sat
  m : bit w 19 = m
  low : w % 2 ^ 19 = low

theorem wordVA_fields {major low : Nat} (vd va vb vc : VReg) (ty ty2 : BitVec 4) (rm : BitVec 3) (sat m : Bool) (hl : low < 2 ^ 19) :
    FieldsVA (wordVA major vd va vb vc ty ty2 rm sat m low) major vd va vb vc ty ty2 rm sat m low := by
  have := vd.isLt; have := va.isLt; have := vb.isLt; have := vc.isLt; have := ty.isLt; have := ty2.isLt; have := rm.isLt
  have := bit_lt sat; have := bit_lt m
  unfold wordVA
  refine ⟨?_, ofNat_eq ?_, ofNat_eq ?_, ofNat_eq ?_, ofNat_eq ?_, ofNat_eq ?_, ofNat_eq ?_, ofNat_eq ?_, bit_eq ?_, bit_eq ?_, ?_⟩
  all_goals omega

section registers
variable {w major low : Nat} {vd va vb vc : VReg} {ty ty2 : BitVec 4} {rm : BitVec 3} {sat m : Bool} {r : AReg}

/-- The address register of MCNT, MFIRST and AMOVV. -/
theorem FieldsVA.ad (h : FieldsVA w major (r.setWidth 6) va vb vc ty ty2 rm sat m low) : gT w 50 = r := ofNat_narrow (by decide) h.vd

/-- The address register of VSPLAT. -/
theorem FieldsVA.an (h : FieldsVA w major vd (r.setWidth 6) vb vc ty ty2 rm sat m low) : gT w 44 = r := ofNat_narrow (by decide) h.va

/-- The address register of VCMPRS. -/
theorem FieldsVA.ab (h : FieldsVA w major vd va (r.setWidth 6) vc ty ty2 rm sat m low) : gT w 38 = r := ofNat_narrow (by decide) h.vb

end registers

section low
variable {w major : Nat} {vd va vb vc : VReg} {ty ty2 : BitVec 4} {rm : BitVec 3} {sat m : Bool}

theorem FieldsVA.imm {imm : BitVec 16} (h : FieldsVA w major vd va vb vc ty ty2 rm sat m imm.toNat) : BitVec.ofNat 16 w = imm :=
  ofNat_eq (by have := h.low; have := imm.isLt; omega)

theorem FieldsVA.pred {pred : BitVec 3} (h : FieldsVA w major vd va vb vc ty ty2 rm sat m (pred.toNat * 2 ^ 16)) :
    BitVec.ofNat 3 (w / 2 ^ 16) = pred :=
  ofNat_eq (by have := h.low; have := pred.isLt; omega)

/-- The bit that tells a shift by an immediate amount from one by a register (R254). -/
theorem FieldsVA.byReg (h : FieldsVA w major vd va vb vc ty ty2 rm sat m 0) : bit w 15 = false :=
  bit_eq (by have := h.low; rw [Bool.toNat_false]; omega)

theorem FieldsVA.byImm {k : BitVec 5} (h : FieldsVA w major vd va vb vc ty ty2 rm sat m (0x8000 + k.toNat)) : bit w 15 = true :=
  bit_eq (by have := h.low; have := k.isLt; rw [Bool.toNat_true]; omega)

theorem FieldsVA.amount {k : BitVec 5} (h : FieldsVA w major vd va vb vc ty ty2 rm sat m (0x8000 + k.toNat)) : BitVec.ofNat 5 w = k :=
  ofNat_eq (by have := h.low; have := k.isLt; omega)

end low

/-- The fields of format VM (Table 7.7). -/
structure FieldsVM (w major : Nat) (vd : VReg) (abase aidx : AReg) (ty layout : BitVec 4) (m : Bool) (imm : Nat) : Prop where
  major : w / 2 ^ 56 = major
  vd : gV w 50 = vd
  abase : gT w 46 = abase
  aidx : gT w 42 = aidx
  ty : gT w 28 = ty
  layout : gT w 24 = layout
  m : bit w 19 = m
  low : w % 2 ^ 19 = imm

theorem wordVM_fields {major imm : Nat} (vd : VReg) (abase aidx : AReg) (ty layout : BitVec 4) (m : Bool) (hi : imm < 2 ^ 19) :
    FieldsVM (wordVM major vd abase aidx ty layout m imm) major vd abase aidx ty layout m imm := by
  have := vd.isLt; have := abase.isLt; have := aidx.isLt; have := ty.isLt; have := layout.isLt; have := bit_lt m
  unfold wordVM
  refine ⟨?_, ofNat_eq ?_, ofNat_eq ?_, ofNat_eq ?_, ofNat_eq ?_, ofNat_eq ?_, bit_eq ?_, ?_⟩
  all_goals omega

section low
variable {w major : Nat} {vd : VReg} {abase aidx : AReg} {ty layout : BitVec 4} {m : Bool}

theorem FieldsVM.imm {imm : BitVec 16} (h : FieldsVM w major vd abase aidx ty layout m imm.toNat) : BitVec.ofNat 16 w = imm :=
  ofNat_eq (by have := h.low; have := imm.isLt; omega)

theorem FieldsVM.index {vi : VReg} (h : FieldsVM w major vd abase aidx ty layout m vi.toNat) : BitVec.ofNat 6 w = vi :=
  ofNat_eq (by have := h.low; have := vi.isLt; omega)

end low

/-- The fields of format VC (Table 7.7). -/
structure FieldsVC (w major : Nat) (ad aa ab : AReg) (imm : Nat) : Prop where
  major : w / 2 ^ 56 = major
  ad : gT w 52 = ad
  aa : gT w 48 = aa
  ab : gT w 44 = ab
  low : w % 2 ^ 44 = imm

theorem wordVC_fields {major imm : Nat} (ad aa ab : AReg) (hi : imm < 2 ^ 44) :
    FieldsVC (wordVC major ad aa ab imm) major ad aa ab imm := by
  have := ad.isLt; have := aa.isLt; have := ab.isLt
  unfold wordVC
  refine ⟨?_, ofNat_eq ?_, ofNat_eq ?_, ofNat_eq ?_, ?_⟩
  all_goals omega

theorem FieldsVC.imm {w major : Nat} {ad aa ab : AReg} {imm : BitVec 32} (h : FieldsVC w major ad aa ab imm.toNat) :
    BitVec.ofNat 32 w = imm :=
  ofNat_eq (by have := h.low; have := imm.isLt; omega)

theorem FieldsVC.amount {w major : Nat} {ad aa ab : AReg} {n : BitVec 6} (h : FieldsVC w major ad aa ab n.toNat) : BitVec.ofNat 6 w = n :=
  ofNat_eq (by have := h.low; have := n.isLt; omega)

end Sys2Proof.Machine
end

section
/-!
SUPPORT. Words and instructions (R149 to R166): an instruction is decoded from its encoding, and what is decoded of a word encodes as the
word.
-/
namespace Sys2Proof.Machine
open Sys2Proof.Laws.F

/-! ## Words that are accepted -/

/-- A word whose fields give a well-formed instruction that it encodes is accepted as that instruction (R153, R155). -/
theorem accept_encode {i : Instr} (hw : i.wellFormed = true) : accept i.encode (.ok i) = .instr i := by
  have hp : i.problem = none := by simpa [Instr.wellFormed] using hw
  simp only [accept, hp, if_true]

/-- The decoder gives a control-core instruction back from the two words of its encoding. -/
def ReadsBack (i : Instr) : Prop := decodeControl (i.encode % 2 ^ 32) (i.encode / 2 ^ 32) = .instr i

/-- An opcode of the one-word forms (R149). -/
def shortOp (op : Nat) : Bool := decide (op < 0x29 ∨ (0x2C < op ∧ op < 0x3E))

/-- An opcode of the two-word forms (R149). -/
def longOp (op : Nat) : Bool := decide ((0x29 ≤ op ∧ op ≤ 0x2C) ∨ op = 0x3E)

theorem shortOp_lt {op : Nat} (h : shortOp op = true) : op < 64 := by
  have := of_decide_eq_true h; omega

theorem longOp_lt {op : Nat} (h : longOp op = true) : op < 64 := by
  have := of_decide_eq_true h; omega

theorem isLongWord_op (w : Nat) : isLongWord w = longOp (w / 2 ^ 26) := rfl

theorem longOp_of_short {op : Nat} (h : shortOp op = true) : longOp op = false := by
  have := of_decide_eq_true h
  exact decide_eq_false (by omega)

/-- A one-word instruction is read back when the fields of its word give it. -/
theorem ReadsBack.ofShort {i : Instr} {w op : Nat} (hw : i.wellFormed = true) (he : i.encode = w) (hop : w / 2 ^ 26 = op)
    (hs : shortOp op = true) (hlt : w < 2 ^ 32) (hr : readControl w 0 = .ok i) : ReadsBack i := by
  subst he hop
  unfold ReadsBack decodeControl
  rw [Nat.mod_eq_of_lt hlt, Nat.div_eq_of_lt hlt, isLongWord_op, longOp_of_short hs, hr]
  exact accept_encode hw

/-- A two-word instruction is read back when the fields of its words give it. -/
theorem ReadsBack.ofLong {i : Instr} {w op : Nat} (hw : i.wellFormed = true) (he : i.encode = w) (hop : w % 2 ^ 32 / 2 ^ 26 = op)
    (hl : longOp op = true) (hr : readControl (w % 2 ^ 32) (w / 2 ^ 32) = .ok i) : ReadsBack i := by
  subst he hop
  unfold ReadsBack decodeControl
  rw [isLongWord_op, hl, hr, if_pos rfl, Nat.mod_add_div']
  exact accept_encode hw

/-! ## The formats -/

section formats
variable {i : Instr} (hw : i.wellFormed = true)
include hw

theorem ReadsBack.ofA {op func : Nat} {d a b : Reg} (he : i.encode = wordA op d a b func) (hs : shortOp op = true) (hf : func < 2048)
    (hr : ∀ w, FieldsA w op d a b func → readControl w 0 = .ok i) : ReadsBack i :=
  have h := wordA_fields d a b hf
  .ofShort hw he h.op hs (wordA_lt d a b (shortOp_lt hs) hf) (hr _ h)

theorem ReadsBack.ofAtom {code : Nat} {d a b : Reg} {ar wide : Bool} {scope : BitVec 3}
    (he : i.encode = wordA 0x20 d a b (atomFunc code wide scope ar)) (hc : code < 16)
    (hr : ∀ w, FieldsAtom w d a b code ar scope wide → readControl w 0 = .ok i) : ReadsBack i :=
  have h := atom_fields d a b wide ar scope hc
  .ofShort hw he h.op rfl (wordA_lt d a b (small rfl) (atomFunc_lt wide ar scope hc)) (hr _ h)

theorem ReadsBack.ofBar {member : Nat} {d a : Reg} {scope : BitVec 3} {id : BitVec 4}
    (he : i.encode = wordA 0x22 d a 0 (scope.toNat * 2 ^ 8 + id.toNat * 2 ^ 4 + member)) (hm : member < 4)
    (hr : ∀ w, FieldsBar w d a scope id member → readControl w 0 = .ok i) : ReadsBack i :=
  have h := bar_fields d a scope id hm
  .ofShort hw he h.op rfl (wordA_lt d a 0 (small rfl) (barFunc_lt scope id (by omega))) (hr _ h)

theorem ReadsBack.ofI {op imm : Nat} {d a : Reg} (he : i.encode = wordI op d a imm) (hs : shortOp op = true) (hi : imm < 2 ^ 16)
    (hr : ∀ w, FieldsI w op d a imm → readControl w 0 = .ok i) : ReadsBack i :=
  have h := wordI_fields d a hi
  .ofShort hw he h.op hs (wordI_lt d a (shortOp_lt hs) hi) (hr _ h)

theorem ReadsBack.ofM {op member : Nat} {d a : Reg} {imm : BitVec 12} (he : i.encode = wordM op d a imm member) (hs : shortOp op = true)
    (hm : member < 16) (hr : ∀ w, FieldsM w op d a imm member → readControl w 0 = .ok i) : ReadsBack i :=
  have h := wordM_fields d a imm hm
  .ofShort hw he h.op hs (wordM_lt d a imm (shortOp_lt hs) hm) (hr _ h)

theorem ReadsBack.ofJ {op : Nat} {d : Reg} {off : BitVec 21} (he : i.encode = wordJ op d off) (hs : shortOp op = true)
    (hr : ∀ w, FieldsJ w op d off → readControl w 0 = .ok i) : ReadsBack i :=
  have h := wordJ_fields op d off
  .ofShort hw he h.op hs (wordJ_lt d off (shortOp_lt hs)) (hr _ h)

theorem ReadsBack.ofN {op member : Nat} {d a : Reg} {num : BitVec 12} (he : i.encode = wordN op d a num member) (hs : shortOp op = true)
    (hm : member < 16) (hr : ∀ w, FieldsN w op d a num member → readControl w 0 = .ok i) : ReadsBack i :=
  have h := wordN_fields d a num hm
  .ofShort hw he h.op hs (wordN_lt d a num (shortOp_lt hs) hm) (hr _ h)

theorem ReadsBack.ofF {kind : Nat} {scope p q : BitVec 3} (he : i.encode = wordF scope kind p q) (hk : kind < 8)
    (hr : ∀ w, FieldsF w scope kind p q → readControl w 0 = .ok i) : ReadsBack i :=
  have h := wordF_fields scope p q hk
  .ofShort hw he h.op rfl (wordF_lt scope p q hk) (hr _ h)

theorem ReadsBack.ofL {func : Nat} {d a : Reg} {imm : BitVec 32} (he : i.encode = wordL d a func imm) (hf : func < 2 ^ 16)
    (hr : ∀ w w1, FieldsL w w1 d a func imm → readControl w w1 = .ok i) : ReadsBack i :=
  have h := wordL_fields d a imm hf
  .ofLong hw he h.op rfl (hr _ _ h)

theorem ReadsBack.ofT {op sub v : Nat} {t : TaskHead} (he : i.encode = wordT op sub t v) (hl : longOp op = true) (hs : sub < 8)
    (hr : ∀ w w1, FieldsT w w1 op sub t v → readControl w w1 = .ok i) : ReadsBack i :=
  have h := wordT_fields t v (longOp_lt hl) hs
  .ofLong hw he h.op hl (hr _ _ h)

end formats

/-! ## The instructions, by the tables that give their opcodes -/

/-- Settles O32. Each group of instructions names its format, the bounds of the fixed fields, and then how the fields are read: the opcode
gives the table, the member code gives its row, and each operand is its field. A vector instruction is excluded, and an event row is not
well-formed. -/
theorem controlRoundTrip : Obligations.ControlRoundTrip := by
  intro i hw hc
  have hword : (!i.isVector && i.wellFormed) = true := by rw [hc, hw]; rfl
  change ReadsBack i
  cases i with
  | add | sub | and | or | xor | andn | sll | srl | sra | ror | slt | sltn | min | max | minn | maxn | mul | mulh | mulhn | div | divn |
  rem | remn | clz | ctz | popc | brev | bswap | clmul | clmulh | addw | subw | sllw | srlw | sraw | exts | extz | seq | sne =>
    exact .ofA hw rfl rfl (small rfl) fun w h => by rw [readControl, h.op, readInteger, h.func, h.d, h.a, h.b]; rfl
  | addi | andi | ori | xori | slti | sltni | lih | addpc | beq | bne | blt | bge | bltn | bgen | jalr =>
    exact .ofI hw rfl rfl (BitVec.isLt _) fun w h => by rw [readControl, h.op, h.d, h.a, h.field]; rfl
  | slli | srli | srai | rori =>
    exact .ofI hw rfl rfl (shamt_lt _ (small rfl)) fun w h => by rw [readControl, h.op, readShift, h.member, h.d, h.a, h.amount]; rfl
  | jal => exact .ofJ hw rfl rfl fun w h => by rw [readControl, h.op, h.d, h.off]; rfl
  | ldI8 | ldI16 | ldI32 | ld64 | ldN8 | ldN16 | ldN32 =>
    exact .ofM hw rfl rfl (small rfl) fun w h => by rw [readControl, h.op, readLoad, h.member, h.d, h.a, h.imm]; rfl
  | st8 | st16 | st32 | st64 | st64F =>
    exact .ofM hw rfl rfl (small rfl) fun w h => by rw [readControl, h.op, readStore, h.member, h.d, h.a, h.imm]; rfl
  | atomAdd | atomAnd | atomOr | atomXor | atomXchg | atomCas | atomMin | atomMax | atomMinn | atomMaxn | atomFadd | atomFmin | atomFmax |
  atomIncw | atomAddb =>
    exact .ofAtom hw rfl (small rfl) fun w h => by rw [readControl, h.op, readAtomic, h.code, h.d, h.a, h.b, h.ar, h.scope, h.wide]; rfl
  | fenceAcq | fenceRel | fenceAr | fenceSc | fenceX =>
    exact .ofF hw rfl (small rfl) fun w h => by rw [readControl, h.op, readFence, h.kind, h.scope, h.p, h.q]; rfl
  | barArv | barWait | barSync | barCfg =>
    exact .ofBar hw rfl (small rfl) fun w h => by rw [readControl, h.op, readBarrier, h.member, h.d, h.a, h.scope, h.id]; rfl
  | tbInit => exact .ofA hw rfl rfl (tbFunc_lt _) fun w h => by rw [readControl, h.op, readTb, h.tbMember, h.d, h.a, h.b, h.tbScope]; rfl
  | tbExpect | tbArv | tbWait | tbTest | tbInval | tbName =>
    exact .ofA hw rfl rfl (small rfl) fun w h => by rw [readControl, h.op, readTb, h.low3, h.d, h.a, h.b]; rfl
  | tkWait | tkTest | tkAfter | tbAfter =>
    exact .ofA hw rfl rfl (small rfl) fun w h => by rw [readControl, h.op, readToken, h.low2, h.d, h.a, h.b]; rfl
  | bufDef | bufUndef => exact .ofA hw rfl rfl (small rfl) fun w h => by rw [readControl, h.op, readBuffer, h.func, h.d, h.a, h.b]; rfl
  | rgnB | rgnO | rgnE | rgnClr =>
    exact .ofA hw rfl rfl (small rfl) fun w h => by rw [readControl, h.op, readBuffer, h.func, h.q, h.a, h.b]; rfl
  | mm =>
    exact .ofT hw rfl rfl (small rfl) fun w w1 h => by rw [readControl, h.op, readMatrix, h.sub, h.head, h.second, mm_fa, mm_fb]; rfl
  | mmd =>
    exact .ofT hw rfl rfl (small rfl) fun w w1 h => by rw [readControl, h.op, readMatrix, h.sub, h.head, h.second, drain_decode]; rfl
  | mmz => exact .ofT hw rfl rfl (small rfl) fun w w1 h => by rw [readControl, h.op, readMatrix, h.sub, h.head]; rfl
  | xp => exact .ofT hw rfl rfl (small rfl) fun w w1 h => by rw [readControl, h.op, readEngine, h.sub, h.head]; rfl
  | row =>
    exact .ofT hw rfl rfl (small rfl) fun w w1 h => by rw [readControl, h.op, readEngine, h.sub, h.head, h.second, row_decode]; rfl
  | vrun =>
    exact .ofT hw rfl rfl (small rfl) fun w w1 h => by
      rw [readControl, h.op, readEngine, h.sub, h.head, h.second, two_first, two_second]; rfl
  | cp | cpW | cpG | cpS | cpF =>
    exact .ofT hw rfl rfl (small rfl) fun w w1 h => by
      rw [readControl, h.op, readCopy, h.sub, h.head, h.second, two_first, two_second]; rfl
  | cpR =>
    exact .ofT hw rfl rfl (small rfl) fun w w1 h => by
      rw [readControl, h.op, readCopy, h.sub, h.head, h.second, cpr_first, cpr_second]; rfl
  | taskRpost =>
    exact .ofT hw rfl rfl (small rfl) fun w w1 h => by
      rw [readControl, h.op, readPost, h.sub, h.head, h.second, three_first, three_second, three_third]; rfl
  | taskRstat =>
    exact .ofT hw rfl rfl (small rfl) fun w w1 h => by rw [readControl, h.op, readPost, h.sub, h.head, h.second, one_first]; rfl
  | lzDef | lzResv | lzRel | lzStat | lzUndef =>
    exact .ofA hw rfl rfl (small rfl) fun w h => by rw [readControl, h.op, readLanding, h.func, h.d, h.a, h.b]; rfl
  | gridDef | gridBc | gridStep | gridStat | gridUndef =>
    exact .ofA hw rfl rfl (small rfl) fun w h => by rw [readControl, h.op, readGrid, h.func, h.d, h.a, h.b]; rfl
  | ecall | trap | eret | safept | ckpt | spawn | endStrand | yield | halt | waitev =>
    exact .ofA hw rfl rfl (small rfl) fun w h => by rw [readControl, h.op, readSystem, h.low4, h.d, h.a, h.b]; rfl
  | sysr | sysw => exact .ofN hw rfl rfl (small rfl) fun w h => by rw [readControl, h.op, readSystem, h.member, h.d, h.a, h.num]; rfl
  | accAlloc | accFree | memCommit | memDecommit | traceMark | stepEnd =>
    exact .ofA hw rfl rfl (small rfl) fun w h => by rw [readControl, h.op, readTile, h.func, h.d, h.a, h.b]; rfl
  | li | lihi | addl | jall =>
    exact .ofL hw rfl (small rfl) fun w w1 h => by rw [readControl, h.op, readLong, h.func, h.d, h.a, h.imm]; rfl
  | _ => exact absurd hword Bool.false_ne_true

/-! ## Vector words -/

section formats
variable {i : Instr} (hw : i.wellFormed = true)
include hw

theorem decodeVector_ofRead {w : Nat} (he : i.encode = w) (hr : readVector w = .ok i) : decodeVector i.encode = .instr i := by
  subst he
  unfold decodeVector
  rw [hr]
  exact accept_encode hw

theorem decodeVector_ofVA {major low : Nat} {vd va vb vc : VReg} {ty ty2 : BitVec 4} {rm : BitVec 3} {sat m : Bool}
    (he : i.encode = wordVA major vd va vb vc ty ty2 rm sat m low) (hl : low < 2 ^ 19)
    (hr : ∀ w, FieldsVA w major vd va vb vc ty ty2 rm sat m low → readVector w = .ok i) : decodeVector i.encode = .instr i :=
  decodeVector_ofRead hw he (hr _ (wordVA_fields vd va vb vc ty ty2 rm sat m hl))

theorem decodeVector_ofVM {major imm : Nat} {vd : VReg} {abase aidx : AReg} {ty layout : BitVec 4} {m : Bool}
    (he : i.encode = wordVM major vd abase aidx ty layout m imm) (hi : imm < 2 ^ 19)
    (hr : ∀ w, FieldsVM w major vd abase aidx ty layout m imm → readVector w = .ok i) : decodeVector i.encode = .instr i :=
  decodeVector_ofRead hw he (hr _ (wordVM_fields vd abase aidx ty layout m hi))

theorem decodeVector_ofVC {major imm : Nat} {ad aa ab : AReg} (he : i.encode = wordVC major ad aa ab imm) (hi : imm < 2 ^ 44)
    (hr : ∀ w, FieldsVC w major ad aa ab imm → readVector w = .ok i) : decodeVector i.encode = .instr i :=
  decodeVector_ofRead hw he (hr _ (wordVC_fields ad aa ab hi))

end formats

/-- Settles O33. Each group of instructions names its format, the bound of what stands in its low bits, and then how the fields are read: the
major opcode gives the row of its table, and each operand is its field. -/
theorem vectorRoundTrip : Obligations.VectorRoundTrip := by
  intro i hw hc
  cases i with
  | vadd | vsub | vmul | vmulh | vmad | vmin | vmax | vabs | vneg | vand | vor | vxor | vnot | vadds | vsubs | vavg | vclz | vpopc |
  vclmul | vclmulh | vmulw | vaddw | vdot4 =>
    exact decodeVector_ofVA hw rfl (small rfl) fun w h => by
      rw [readVector, readLane, readInt, h.major, h.vd, h.va, h.vb, h.vc, h.ty, h.ty2, h.sat, h.m]; rfl
  | vsll | vsrl | vsra =>
    exact decodeVector_ofVA hw rfl (small rfl) fun w h => by
      rw [readVector, readLane, readInt, h.major, h.vd, h.va, h.vb, h.ty, h.m, h.byReg]; rfl
  | vsllImm | vsrlImm | vsraImm =>
    exact decodeVector_ofVA hw rfl (shift_lt _) fun w h => by
      rw [readVector, readLane, readInt, h.major, h.vd, h.va, h.ty, h.m, h.byImm, h.amount]; rfl
  | vfadd | vfsub | vfmul | vfma | vfms | vfnma | vfmin | vfmax | vfminp | vfmaxp | vfabs | vfneg | vfcpys | vfdiv | vfsqrt | vexp2 |
  vlog2 | vrcp | vrsqrt | vsinpi | vcospi | vfrnd | vfclass | vfscale | vcvt | vcvtw | vcvtn =>
    exact decodeVector_ofVA hw rfl (small rfl) fun w h => by
      rw [readVector, readLane, readFloat, h.major, h.vd, h.va, h.vb, h.vc, h.ty, h.ty2, h.rm, h.sat, h.m]; rfl
  | vcmp =>
    exact decodeVector_ofVA hw rfl (pred_lt _) fun w h => by
      rw [readVector, readLane, readMask, h.major, h.va, h.vb, h.ty, h.m, h.pred]; rfl
  | mpush | minv | mand | mor | mandn | mpop =>
    exact decodeVector_ofVA hw rfl (small rfl) fun w h => by rw [readVector, readLane, readMask, h.major, h.va, h.ty, h.m]; rfl
  | mcnt | mfirst =>
    exact decodeVector_ofVA hw rfl (small rfl) fun w h => by rw [readVector, readLane, readMask, h.major, h.ad, h.ty]; rfl
  | mld | mst =>
    exact decodeVector_ofVM hw rfl (imm_lt _) fun w h => by rw [readVector, readLane, readMask, h.major, h.abase, h.aidx, h.imm]; rfl
  | vbcast | vrot | vslide =>
    exact decodeVector_ofVA hw rfl (imm_lt _) fun w h => by
      rw [readVector, readLane, readMove, h.major, h.vd, h.va, h.vb, h.ty, h.m, h.imm]; rfl
  | vsplat =>
    exact decodeVector_ofVA hw rfl (small rfl) fun w h => by rw [readVector, readLane, readMove, h.major, h.vd, h.an, h.ty, h.m]; rfl
  | vcmprs =>
    exact decodeVector_ofVA hw rfl (small rfl) fun w h => by rw [readVector, readLane, readMove, h.major, h.vd, h.va, h.ab, h.ty]; rfl
  | vshuf | vzip | vuzp | vexpnd | viota | vsel | vmov | vrsum | vrmax | vrmin | vrxor | vrfsum | vrfmax =>
    exact decodeVector_ofVA hw rfl (small rfl) fun w h => by
      rw [readVector, readLane, readMove, h.major, h.vd, h.va, h.vb, h.ty, h.rm, h.sat, h.m]; rfl
  | vld | vst | vlds | vsts | vldb =>
    exact decodeVector_ofVM hw rfl (imm_lt _) fun w h => by
      rw [readVector, readLane, readMem, h.major, h.vd, h.abase, h.aidx, h.ty, h.layout, h.m, h.imm]; rfl
  | vgath | vscat =>
    exact decodeVector_ofVM hw rfl (idx_lt _) fun w h => by
      rw [readVector, readLane, readMem, h.major, h.vd, h.abase, h.aidx, h.ty, h.layout, h.m, h.index]; rfl
  | aadd => exact decodeVector_ofVC hw rfl (small rfl) fun w h => by rw [readVector, readLane, readMem, h.major, h.ad, h.aa, h.ab]; rfl
  | ali | aaddi =>
    exact decodeVector_ofVC hw rfl (off_lt _) fun w h => by rw [readVector, readLane, readMem, h.major, h.ad, h.aa, h.imm]; rfl
  | amul | vend => exact decodeVector_ofVC hw rfl (small rfl) fun w h => by rw [readVector, readSteer, h.major, h.ad, h.aa, h.ab]; rfl
  | ashl => exact decodeVector_ofVC hw rfl (amount_lt _) fun w h => by rw [readVector, readSteer, h.major, h.ad, h.aa, h.amount]; rfl
  | amovv => exact decodeVector_ofVA hw rfl (imm_lt _) fun w h => by rw [readVector, readSteer, h.major, h.ad, h.va, h.ty, h.imm]; rfl
  | vloop | vj | vbz | vbnz | abne | vtrap =>
    exact decodeVector_ofVC hw rfl (off_lt _) fun w h => by rw [readVector, readSteer, h.major, h.ad, h.aa, h.ab, h.imm]; rfl
  | _ => exact absurd hc Bool.false_ne_true

/-! ## What is decoded of a word -/

/-- What is accepted of a word is well-formed and encodes as the word (R153, R155). -/
theorem encode_of_accept {w : Nat} {r : Except Illegal Instr} {i : Instr} (h : accept w r = .instr i) :
    i.wellFormed = true ∧ i.encode = w := by
  cases r with
  | error e => exact Decoded.noConfusion h
  | ok j =>
    unfold accept at h
    cases hp : j.problem with
    | some e => simp only [hp, reduceCtorEq] at h
    | none =>
      simp only [hp] at h
      split at h
      · rename_i he
        obtain rfl := Decoded.instr.inj h
        exact ⟨by rw [Instr.wellFormed, hp]; rfl, he⟩
      · exact Decoded.noConfusion h

/-- Settles O34: either decoder accepts an instruction of its own word only. -/
theorem decodedIsEncoding : Obligations.DecodedIsEncoding :=
  ⟨fun _ _ _ _ _ h => encode_of_accept h, fun _ _ h => encode_of_accept h⟩

/-- Settles O31: each word is the encoding of its instruction, which decoding gives back. -/
theorem exampleWordsDecode : Obligations.ExampleWordsDecode :=
  ⟨controlRoundTrip (.tkWait 5 20) rfl rfl, controlRoundTrip (.tkTest 5 20) rfl rfl, controlRoundTrip (.tkAfter 20) rfl rfl,
    controlRoundTrip (.tbAfter 6 7) rfl rfl, controlRoundTrip (.rgnB 3 6 7) rfl rfl, controlRoundTrip (.rgnO 2 6) rfl rfl⟩

end Sys2Proof.Machine
end

section
/-!
SUPPORT. The turn of a vector context and of the part itself (R15, R151 to R153): the fetch of a vector word from this package, and the step
around it.
-/
namespace Sys2Proof.Machine

variable {s : State}

/-! ## The fetch of a vector word -/

/-- A change of a core that leaves its partition leaves every translation. -/
theorem State.translate_setCore (s : State) (c : Nat) (x : Core) (hpartno : x.partno = (s.core c).partno) (d space : Nat) (super : Bool)
    (path acc va : Nat) : (s.setCore c x).translate d space super path acc va = s.translate d space super path acc va := by
  have hpart := s.core_setCore_keeps Core.partno hpartno
  have hsame (w : Nat) : (s.setCore c x).samePart d w = s.samePart d w := by
    unfold State.samePart
    rw [hpart, hpart]
  obtain ⟨cs, hcs⟩ := s.setCore_only c x
  unfold State.translate
  simp only [hsame]
  rw [hcs]
  rfl

theorem State.readNat_setCore (s : State) (c : Nat) (x : Core) (k n : Nat) : (s.setCore c x).readNat k n = s.readNat k n := by
  obtain ⟨cs, hcs⟩ := s.setCore_only c x
  rw [hcs]
  rfl

variable (s) in
/-- The word of the context that moves, in the VRUN t, lies at a key of this package: its address translates to the key, nothing there is
poisoned, no soft error lies latent, and the context holds no line of code. -/
structure State.VectorWordAt (t : Task) (key : Nat) : Prop where
  sound : s.softErrors = []
  uncached : s.ctx.code = []
  place : ∃ mode, s.translate s.myCore (s.here.strand t.ring).sys.spaceid.toNat (s.here.strand t.ring).sys.super 1 accFetch
    s.ctx.pc.toNat = .to (.here key) mode
  clean : s.poisoned key 8 = false

/-- A change of a core that leaves its strands, contexts and partition leaves where the word lies. -/
theorem State.VectorWordAt.setCore {t : Task} {key : Nat} (h : s.VectorWordAt t key) (c : Nat) {x : Core}
    (hstrands : x.strands = (s.core c).strands) (hctxs : x.ctxs = (s.core c).ctxs) (hpartno : x.partno = (s.core c).partno) :
    (s.setCore c x).VectorWordAt t key := by
  obtain ⟨hsound, huncached, ⟨mode, hplace⟩, hclean⟩ := h
  have hctx : (s.setCore c x).ctx = s.ctx := by
    unfold State.ctx State.here State.myCore
    simp only [s.setCore_at_, s.core_setCore_keeps Core.ctxs hctxs]
  have hstrand : (s.setCore c x).here.strand t.ring = s.here.strand t.ring := by
    unfold State.here State.myCore Core.strand
    simp only [s.setCore_at_, s.core_setCore_keeps Core.strands hstrands]
  refine ⟨by rw [s.setCore_softErrors]; exact hsound, by rw [hctx]; exact huncached, ⟨mode, ?_⟩,
    by rw [s.poisoned_setCore]; exact hclean⟩
  rw [hctx, hstrand, s.translate_setCore c x hpartno, State.myCore, s.setCore_at_]
  exact hplace

theorem State.fetchVector_here {t : Task} {key : Nat} (go : Nat → State → Out) (h : s.VectorWordAt t key) :
    s.fetchVector t go = go (s.readNat key 8) s := by
  obtain ⟨hsound, huncached, ⟨mode, hplace⟩, hclean⟩ := h
  have bytes : s.fetchAt s.myCore (s.here.strand t.ring).sys.spaceid.toNat (s.here.strand t.ring).sys.super 1 s.ctx.pc.toNat 8 s.ctx.code =
      .bytes (s.bytes key 8) := by
    simp [State.fetchAt, hplace, s.detect_none _ _ hsound, hclean, huncached, State.codeByte_uncached, State.bytes]
  have found : s.fetchDetect s.myCore (s.here.strand t.ring).sys.spaceid.toNat (s.here.strand t.ring).sys.super 1 s.ctx.pc.toNat 8 = s := by
    simp [State.fetchDetect, hsound]
  unfold State.fetchVector
  simp only [bytes, found]
  rfl

/-! ## What a vector word does -/

theorem runVector_instr {w : Nat} {i : Instr} (h : decodeVector w = .instr i) : runVector w s = exec i s := by
  unfold runVector; rw [h]

theorem runVector_illegal {w : Nat} {e : Illegal} (h : decodeVector w = .illegal e) :
    runVector w s = exec (.illegalWord true (BitVec.ofNat 64 w)) s := by
  unfold runVector; rw [h]

/-! ## The turn -/

variable (s) in
/-- The context whose turn it is. -/
def State.atCtx (c : Fin 260) (x : Fin 16) : State := { s with at_ := ⟨c, 0, x⟩ }

variable (s) in
/-- The context whose turn it is, noted in the round-robin order. -/
def State.ctxIssued : State := s.modCore s.myCore fun z => { z with lastCtx := s.at_.ctx.val }

theorem step_ctx {c : Fin 260} {x : Fin 16} (h : s.turn = some (.ctx c x)) : step s = endOf (stepCtx (s.atCtx c x)) := by
  unfold step
  split
  case h_3 c' x' e =>
    obtain ⟨rfl, rfl⟩ : c' = c.val ∧ x' = x.val := by simpa using e.symm.trans h
    exact dif_pos ⟨c.isLt, x.isLt⟩
  all_goals
    rename_i e
    exact absurd (h.symm.trans e) (by simp)

theorem step_event {e : Instr} (h : s.turn = some (.event e)) : step s = if e.isEvent then endOf (exec e s) else .next s.endStep := by
  unfold step
  rw [h]

theorem step_none (h : s.turn = none) : step s = endOf (.next s) := by
  unfold step
  rw [h]
  rfl

/-- The word of a context whose turn is used is fetched and run. -/
theorem stepCtx_moves {t : Task} {key : Nat} (htask : s.ctxTask = some t) (hpow : s.power.on = true) (hissued : t.state = .issued)
    (hfirst : s.ctxInTurn s.myCore s.at_.ctx.val = true) (hw : s.VectorWordAt t key) :
    stepCtx s = runVector (s.readNat key 8) s.ctxIssued := by
  have hw' : s.ctxIssued.VectorWordAt t key := hw.setCore s.myCore rfl rfl rfl
  have hread : s.ctxIssued.readNat key 8 = s.readNat key 8 := s.readNat_setCore _ _ _ _
  unfold stepCtx
  simp only [htask, hpow, hissued, hfirst, beq_self_eq_true, Bool.and_self, if_true]
  exact (State.fetchVector_here runVector hw').trans (by rw [hread])

theorem stepCtx_idle (h : s.ctxTask = none) : stepCtx s = .next s := by
  unfold stepCtx
  rw [h]

/-- A turn that no context can use lets time pass. -/
theorem stepCtx_passes (h : s.power.on = false ∨ s.ctxInTurn s.myCore s.at_.ctx.val = false) : stepCtx s = .next s := by
  unfold stepCtx
  split
  · rfl
  · rcases h with h | h <;> simp [h]

/-! ## The statement -/

/-- Settles O36: the turn of a context is the fetch of its word (`State.fetchVector_here`), run as what it decodes to; a turn that it cannot
use passes; and a row of events runs as itself. -/
theorem stepRunsOthers : Obligations.StepRunsOthers := by
  constructor
  · intro s c x key mode t u y k w v
    refine ⟨?_, ?_, ?_, step_none⟩
    · intro hturn hpow hsoft htask hissued hfirst hcode hplace hclean
      have hw : u.VectorWordAt t key := ⟨hsoft, hcode, ⟨mode, hplace⟩, hclean⟩
      have hstep : step s = endOf (runVector w v) := by
        rw [step_ctx hturn]
        exact congrArg endOf (stepCtx_moves (s := u) htask hpow hissued hfirst hw)
      refine ⟨fun i hi => ?_, fun e he => ?_⟩
      · rw [hstep, runVector_instr hi]
      · rw [hstep, runVector_illegal he]
    · intro hturn hidle
      rw [step_ctx hturn]
      exact congrArg endOf (stepCtx_idle hidle)
    · intro hturn hpass
      rw [step_ctx hturn]
      exact congrArg endOf (stepCtx_passes (s := u) hpass)
  · intro s e hturn
    rw [step_event hturn]
    exact ⟨fun he => if_pos he, fun he => if_neg (by rw [he]; exact Bool.false_ne_true)⟩

end Sys2Proof.Machine
end

section
/-!
SUPPORT. Traps (R153, R282 to R284): a trap that is fatal, the return from a handler, and the instructions that raise traps.
-/
namespace Sys2Proof.Machine

variable {s : State}

/-! ## Fatal traps -/

/-- When a trap is fatal (R282). -/
theorem Strand.fatal_iff (t : Strand) (c : Nat) : t.fatal c = true ↔ c = 22 ∨ c = 23 ∨ t.sys.tvec = 0 ∨ t.sys.intrap = true := by
  simp only [Strand.fatal, Cause.poison, Cause.watchdog, Bool.or_eq_true, beq_iff_eq, or_assoc]

theorem State.trap_fatal {cause : Nat} (v : Word) (h : s.me.fatal cause = true) :
    s.trap cause v = s.stopStrand s.myCore s.myStrand cause v s.me.pc := if_pos h

/-- What the fatal stop of the strand that moves leaves: the strand STOPPED where it stood, its core's scratchpad frozen, and its launch
failed with this failure unless it has one (R30, R80, R415, R420). -/
structure FatallyStopped (s t : State) (f : Failure) : Prop where
  state : t.me.state = .stopped
  cause : t.me.stopCause = some (f.cause, f.val, f.resume)
  frozen : t.here.frozen = true
  regs : t.me.regs = s.me.regs
  sys : t.me.sys = s.me.sys
  pc : t.me.pc = s.me.pc
  mem : t.mem = s.mem
  strands : s.sameStrands t
  launches : t.launches = s.launches.map fun l => if some l.id = s.me.launch then l.stop f else l

theorem State.stopStrand_frozen (cause : Nat) (v resume : Word) : (s.stopStrand s.myCore s.myStrand cause v resume).here.frozen = true := by
  have hc : s.at_.core.val < 260 := s.at_.core.isLt
  unfold State.stopStrand State.here State.myCore
  simp only [State.modCore_at_]
  exact congrArg Core.frozen (s.core_modCore_self _ _ hc)

theorem State.stopStrand_sameStrands (cause : Nat) (v resume : Word) : s.sameStrands (s.stopStrand s.myCore s.myStrand cause v resume) := by
  intro c k h
  have hcore (f : Core → Core) : (s.modCore s.myCore f).core c = if c = s.myCore then f (s.core c) else s.core c := by
    by_cases hc : c = s.myCore
    · subst hc
      rw [if_pos rfl]
      exact s.core_modCore_self _ f s.at_.core.isLt
    · rw [if_neg hc, s.core_modCore_ne _ _ f hc]
  refine (congrArg (fun x : Core => x.strand k) (hcore _)).trans ?_
  split
  · rename_i hc
    exact Core.strand_setStrand_ne (s.core c) _ _ _ fun hk => h ⟨hc, hk⟩
  · rfl

theorem State.stopStrand_stopped (cause : Nat) (v resume : Word) :
    FatallyStopped s (s.stopStrand s.myCore s.myStrand cause v resume) ⟨cause, true, v, resume⟩ := by
  have hme := s.me_stopStrand cause v resume
  have hlaunches : (s.stopStrand s.myCore s.myStrand cause v resume).launches =
      s.launches.map fun l => if some l.id = s.me.launch then l.stop ⟨cause, true, v, resume⟩ else l := by
    unfold State.stopStrand
    simp only [State.modCore_launches]
    rfl
  exact ⟨by rw [hme], by rw [hme], State.stopStrand_frozen cause v resume, by rw [hme], by rw [hme], by rw [hme],
    s.stopStrand_mem _ _ _ _ _, State.stopStrand_sameStrands cause v resume, hlaunches⟩

/-- The launch of a strand that has stopped fatally fails, with its first failure (R415, R420). -/
theorem FatallyStopped.launch {t : State} {f : Failure} (h : FatallyStopped s t f) {l : Launch} (hl : l ∈ s.launches)
    (hid : some l.id = s.me.launch) : ∃ m ∈ t.launches, m.id = l.id ∧ m.stopping = true ∧ m.failure = some (l.failure.getD f) := by
  refine ⟨l.stop f, ?_, rfl, rfl, rfl⟩
  rw [h.launches]
  exact List.mem_map.2 ⟨l, hl, if_pos hid⟩

/-! ## The return (R284) -/

/-- A strand after ERET. -/
def Strand.returned (t : Strand) : Strand := { t.finish 0 with pc := t.sys.epc &&& ~~~3#64, sys := { t.sys with intrap := false } }

theorem State.me_eret : s.eret.me = s.me.returned := s.me_modMe _

/-! ## The instructions (R153, R283, R284) -/

theorem exec_ecall (a : Reg) : exec (.ecall a) s = .next (s.trap Cause.ecall (s.reg a)) := rfl

theorem exec_trap_zero {a : Reg} (b : Reg) (h : s.reg a = 0) : exec (.trap a b) s = .next (s.finish 4) := if_pos h

theorem exec_trap_nonzero {a : Reg} (b : Reg) (h : s.reg a ≠ 0) : exec (.trap a b) s = .next (s.trap Cause.trap (s.reg b)) := if_neg h

theorem exec_eret_inside (h : s.me.sys.intrap = true) : exec .eret s = .next s.eret := if_pos h

theorem exec_eret_outside (h : s.me.sys.intrap = false) : exec .eret s = .next (s.trap Cause.illegal s.ir) :=
  if_neg (by rw [h]; exact Bool.false_ne_true)

/-- A word that encodes nothing raises ILLEGAL with its low 32 bits as the value (R153, R283). -/
theorem exec_illegalWord_strand (w : Word) : exec (.illegalWord false w) s = .next (s.trap Cause.illegal (w &&& 0xFFFFFFFF#64)) := by
  have hlow : BitVec.ofNat 64 (w.toNat % 2 ^ 32) = w &&& 0xFFFFFFFF#64 := by
    apply BitVec.eq_of_toNat_eq
    rw [BitVec.toNat_and, BitVec.toNat_ofNat, BitVec.toNat_ofNat]
    have hmask : 0xFFFFFFFF % 2 ^ 64 = 2 ^ 32 - 1 := by decide
    rw [hmask, Nat.and_two_pow_sub_one_eq_mod]
    omega
  rw [← hlow]
  rfl

/-- Settles O23: the instructions raise the traps that `State.trap_trapped` and `State.stopStrand_stopped` describe, or return. -/
theorem traps : Obligations.Traps := by
  refine ⟨fun s a b w => ⟨?_, ?_, ?_, ?_, ?_, ?_⟩, Strand.fatal_iff, fun s a hf => ?_⟩
  · intro hf
    exact ⟨_, exec_ecall a, s.trap_trapped 7 _ hf (by decide)⟩
  · intro ha
    exact ⟨_, exec_trap_zero b ha, s.finish_wrote 4⟩
  · intro ha hf
    exact ⟨_, exec_trap_nonzero b ha, s.trap_trapped 8 _ hf (by decide)⟩
  · intro hf
    exact ⟨_, exec_illegalWord_strand w, s.trap_trapped 1 _ hf (by decide)⟩
  · intro hout hf
    exact ⟨_, exec_eret_outside hout, s.trap_trapped 1 _ hf (by decide)⟩
  · intro hin
    refine ⟨_, exec_eret_inside hin, s.modMe_onlyMe _, ?_⟩
    rw [State.me_eret]
    exact ⟨rfl, rfl, rfl, rfl, rfl, rfl, rfl⟩
  · have h : FatallyStopped s (s.trap 7 (s.reg a)) ⟨7, true, s.reg a, s.me.pc⟩ := by
      rw [State.trap_fatal _ hf]
      exact State.stopStrand_stopped _ _ _
    exact ⟨_, exec_ecall a, h.state, h.cause, h.frozen, h.regs, h.sys, h.pc, h.mem, h.strands, fun l hl hid => h.launch hl hid⟩

end Sys2Proof.Machine
end

section
/-!
SUPPORT. The values of the integer operations (R171 to R182): each as the exact number, the quotient or the bits that the statements name.
-/
namespace Sys2Proof.Machine

/-! ## Exact values -/

theorem ofInt_toNat (x : Word) : BitVec.ofInt 64 (x.toNat : Int) = x := by rw [BitVec.ofInt_natCast, BitVec.ofNat_toNat, BitVec.setWidth_eq]

theorem add_exact (x y : Word) : x + y = BitVec.ofInt 64 (x.toNat + y.toNat) := by
  rw [BitVec.ofInt_add, ofInt_toNat, ofInt_toNat]

theorem sub_exact (x y : Word) : x - y = BitVec.ofInt 64 (x.toNat - y.toNat) := by
  rw [Int.sub_eq_add_neg, BitVec.ofInt_add, BitVec.ofInt_neg, ofInt_toNat, ofInt_toNat, BitVec.sub_eq_add_neg]

theorem mul_exact (x y : Word) : x * y = BitVec.ofInt 64 (x.toInt * y.toInt) := by
  rw [BitVec.ofInt_mul, BitVec.ofInt_toInt, BitVec.ofInt_toInt]

/-- An address or an operand with a signed immediate of any width added. -/
theorem add_signExtend_exact {n : Nat} (x : Word) (k : BitVec n) : x + k.signExtend 64 = BitVec.ofInt 64 (x.toNat + k.toInt) := by
  rw [BitVec.ofInt_add, ofInt_toNat]; rfl

/-- The target of a branch or a jump: so many words of 4 bytes from an address. -/
theorem add_words_exact {n : Nat} (x : Word) (k : BitVec n) : x + k.signExtend 64 * 4 = BitVec.ofInt 64 (x.toNat + k.toInt * 4) := by
  rw [BitVec.ofInt_add, BitVec.ofInt_mul, ofInt_toNat]; rfl

theorem imm16_high_exact (k : BitVec 16) : imm16 k <<< 16 = BitVec.ofInt 64 (k.toInt * 2 ^ 16) := by
  rw [BitVec.ofInt_mul, BitVec.shiftLeft_eq_mul_twoPow]; rfl

theorem append_low32_exact (l : BitVec 32) (x : Word) : l ++ low32 x = BitVec.ofNat 64 (l.toNat * 2 ^ 32 + x.toNat % 2 ^ 32) := by
  apply BitVec.eq_of_toNat_eq
  have hl := l.isLt
  have hlow : x.toNat % 2 ^ 32 < 2 ^ 32 := Nat.mod_lt _ (by decide)
  rw [BitVec.toNat_append, low32, BitVec.toNat_setWidth, ← Nat.shiftLeft_add_eq_or_of_lt hlow, Nat.shiftLeft_eq, BitVec.toNat_ofNat]
  omega

theorem toInt_eq_sextInt {n : Nat} (z : BitVec n) : z.toInt = sextInt z.toNat n := by
  rw [BitVec.toInt_eq_toNat_cond, sextInt, Nat.mod_eq_of_lt z.isLt]

theorem sextInt_mod (x n : Nat) : sextInt (x % 2 ^ n) n = sextInt x n := by
  rw [sextInt, sextInt, Nat.mod_mod]

/-- The result of a W member: the number modulo 2^32, sign-extended (R172). -/
theorem wResult_ofNat (v : Nat) : wResult (BitVec.ofNat 32 v) = BitVec.ofInt 64 (sextInt v 32) := by
  rw [wResult, BitVec.signExtend.eq_1, toInt_eq_sextInt, BitVec.toNat_ofNat, sextInt_mod]

theorem wResult_exact {z : BitVec 32} {v : Nat} (h : z.toNat = v % 2 ^ 32) : wResult z = BitVec.ofInt 64 (sextInt v 32) := by
  rw [← wResult_ofNat]
  exact congrArg wResult (BitVec.eq_of_toNat_eq (h.trans (BitVec.toNat_ofNat _ _).symm))

theorem toNat_low32 (x : Word) : (low32 x).toNat = x.toNat % 2 ^ 32 := BitVec.toNat_setWidth _ _

theorem addw_exact (x y : Word) :
    wResult (low32 x + low32 y) = BitVec.ofInt 64 (sextInt (((x.toNat : Int) + y.toNat) % 2 ^ 64).toNat 32) := by
  apply wResult_exact
  rw [BitVec.toNat_add, toNat_low32, toNat_low32]
  omega

theorem subw_exact (x y : Word) :
    wResult (low32 x - low32 y) = BitVec.ofInt 64 (sextInt (((x.toNat : Int) - y.toNat) % 2 ^ 64).toNat 32) := by
  apply wResult_exact
  rw [BitVec.toNat_sub, toNat_low32, toNat_low32]
  omega

/-! ## Shifts and rotations -/

theorem shiftLeft_exact (x : Word) (n : Nat) : x <<< n = BitVec.ofNat 64 (x.toNat * 2 ^ n) :=
  BitVec.eq_of_toNat_eq (by rw [BitVec.toNat_shiftLeft, Nat.shiftLeft_eq, BitVec.toNat_ofNat])

theorem ushiftRight_exact (x : Word) (n : Nat) : x >>> n = BitVec.ofNat 64 (x.toNat / 2 ^ n) :=
  BitVec.eq_of_toNat_eq (by
    rw [BitVec.toNat_ushiftRight, Nat.shiftRight_eq_div_pow, BitVec.toNat_ofNat,
      Nat.mod_eq_of_lt (Nat.lt_of_le_of_lt (Nat.div_le_self _ _) x.isLt)])

theorem toInt_sshiftRight_div {w : Nat} (x : BitVec w) (n : Nat) : (x.sshiftRight n).toInt = x.toInt / 2 ^ n := by
  rw [BitVec.toInt_sshiftRight, Int.shiftRight_eq_div_pow]; norm_cast

theorem sshiftRight_exact (x : Word) (n : Nat) : x.sshiftRight n = BitVec.ofInt 64 (x.toInt / 2 ^ n) := by
  rw [← toInt_sshiftRight_div, BitVec.ofInt_toInt]

/-- The two parts of a rotation share no bit, so that their union is their sum. -/
theorem rotateRight_exact (x : Word) {n : Nat} (hn : n < 64) :
    x.rotateRight n = BitVec.ofNat 64 (x.toNat / 2 ^ n + x.toNat * 2 ^ (64 - n)) := by
  have hapart : x >>> n &&& x <<< (64 - n) = 0#64 := by
    refine BitVec.eq_of_getLsbD_eq fun i hi => ?_
    rw [BitVec.getLsbD_and, BitVec.getLsbD_ushiftRight, BitVec.getLsbD_shiftLeft, BitVec.getLsbD_zero]
    by_cases h : i < 64 - n
    · simp [h]
    · rw [BitVec.getLsbD_of_ge x (n + i) (by omega), Bool.false_and]
  rw [BitVec.rotateRight_def, Nat.mod_eq_of_lt hn, ← BitVec.add_eq_or_of_and_eq_zero _ _ hapart, ushiftRight_exact, shiftLeft_exact,
    BitVec.ofNat_add]

theorem sllw_exact (x : Word) (n : Nat) : wResult (low32 x <<< n) = BitVec.ofInt 64 (sextInt (x.toNat * 2 ^ n) 32) :=
  wResult_exact (by rw [BitVec.toNat_shiftLeft, toNat_low32, Nat.shiftLeft_eq, Nat.mod_mul_mod])

theorem srlw_exact (x : Word) (n : Nat) : wResult (low32 x >>> n) = BitVec.ofInt 64 (sextInt (x.toNat % 2 ^ 32 / 2 ^ n) 32) := by
  apply wResult_exact
  rw [BitVec.toNat_ushiftRight, toNat_low32, Nat.shiftRight_eq_div_pow]
  exact (Nat.mod_eq_of_lt (Nat.lt_of_le_of_lt (Nat.div_le_self _ _) (Nat.mod_lt _ (by decide)))).symm

theorem sraw_exact (x : Word) (n : Nat) : wResult ((low32 x).sshiftRight n) = BitVec.ofInt 64 (sextInt x.toNat 32 / 2 ^ n) := by
  rw [wResult, BitVec.signExtend.eq_1, toInt_sshiftRight_div, toInt_eq_sextInt, toNat_low32, sextInt_mod]

/-! ## Bits -/

theorem imm16_bit (k : BitVec 16) {i : Nat} (hi : i < 64) : (imm16 k).getLsbD i = k.getLsbD (min i 15) := by
  rw [imm16, BitVec.getLsbD_signExtend, decide_eq_true hi, Bool.true_and]
  split
  · rw [Nat.min_eq_left (by omega)]
  · rw [Nat.min_eq_right (by omega)]; exact BitVec.msb_eq_getLsbD_last k

theorem revBits_lt (x n : Nat) : revBits x n < 2 ^ n := by
  induction n generalizing x with
  | zero => exact Nat.one_pos
  | succ n ih =>
    have hrest := ih (x / 2)
    have hone : x % 2 * 2 ^ n ≤ 1 * 2 ^ n := Nat.mul_le_mul_right _ (by omega)
    rw [revBits, Nat.pow_succ]
    omega

theorem revBits_testBit (x : Nat) {n i : Nat} (hi : i < n) : (revBits x n).testBit i = x.testBit (n - 1 - i) := by
  induction n generalizing x with
  | zero => omega
  | succ n ih =>
    rw [revBits, Nat.mul_comm, Nat.testBit_two_pow_mul_add _ (revBits_lt (x / 2) n)]
    split
    · rename_i h
      have hsucc : n + 1 - 1 - i = (n - 1 - i).succ := by omega
      rw [ih (x / 2) h, hsucc, Nat.testBit_succ]
    · have hlast : i = n := by omega
      subst hlast
      simp [Nat.testBit_zero]

theorem leNat_testBit (bs : List Byte) (i : Nat) : (leNat bs).testBit i = (bs.getD (i / 8) 0).getLsbD (i % 8) := by
  induction bs generalizing i with
  | nil => simp [leNat]
  | cons b bs ih =>
    rw [leNat, Nat.add_comm, show 256 = 2 ^ 8 from rfl, Nat.testBit_two_pow_mul_add _ b.isLt]
    split
    · rename_i h
      rw [Nat.div_eq_of_lt h, Nat.mod_eq_of_lt h]; rfl
    · have hdiv : i / 8 = (i - 8) / 8 + 1 := by omega
      have hmod : i % 8 = (i - 8) % 8 := by omega
      rw [ih, hdiv, hmod, List.getD_cons_succ]

theorem bswap_bit (x : Word) {i : Nat} (hi : i < 64) : (bswap x).getLsbD i = x.getLsbD (8 * (7 - i / 8) + i % 8) := by
  have hbyte : (leBytes 8 x.toNat).reverse.getD (i / 8) 0 = BitVec.ofNat 8 (x.toNat / 2 ^ (8 * (7 - i / 8))) := by
    have hlen := leBytes_length 8 x.toNat
    rw [List.getD_eq_getElem?_getD, List.getElem?_reverse (by omega), ← List.getD_eq_getElem?_getD, hlen]
    exact leBytes_getD 8 x.toNat (7 - i / 8) (by omega)
  rw [bswap, BitVec.getLsbD_ofNat, leNat_testBit, hbyte, BitVec.getLsbD_ofNat, Nat.testBit_div_two_pow, decide_eq_true hi,
    decide_eq_true (Nat.mod_lt i (by decide)), Nat.add_comm (i % 8)]
  rfl

/-! ## Bit counts -/

/-- CLZ: c leading zeros of m bits place the number below 2^(m - c), and at its half or above. -/
theorem clzFrom_spec {x m : Nat} (h : x < 2 ^ m) :
    clzFrom x m ≤ m ∧ x < 2 ^ (m - clzFrom x m) ∧ (clzFrom x m < m → 2 ^ (m - 1 - clzFrom x m) ≤ x) := by
  induction m with
  | zero => exact ⟨Nat.le_refl _, h, fun hlt => absurd hlt (Nat.lt_irrefl _)⟩
  | succ m ih =>
    have hpow : 2 ^ (m + 1) = 2 * 2 ^ m := by rw [Nat.pow_succ, Nat.mul_comm]
    by_cases hbit : x / 2 ^ m % 2 = 1
    · have hge : 2 ^ m ≤ x := by
        by_contra hlt
        rw [Nat.div_eq_of_lt (by omega)] at hbit
        omega
      rw [clzFrom, if_pos hbit]
      exact ⟨Nat.zero_le _, h, fun _ => hge⟩
    · have hlt : x < 2 ^ m := by
        have hq : x / 2 ^ m < 2 := Nat.div_lt_of_lt_mul (by omega)
        refine (Nat.div_eq_zero_iff_lt (Nat.two_pow_pos m)).1 ?_
        generalize x / 2 ^ m = q at hq hbit ⊢
        omega
      obtain ⟨hle, hupper, hlower⟩ := ih hlt
      rw [clzFrom, if_neg hbit]
      refine ⟨by omega, ?_, fun hc => ?_⟩
      · rw [Nat.add_sub_add_right]; exact hupper
      · rw [show m + 1 - 1 - (clzFrom x m + 1) = m - 1 - clzFrom x m by omega]; exact hlower (by omega)

/-- CTZ: c trailing zeros of m bits make the number a multiple of 2^c, whose quotient is odd unless every bit is zero. -/
theorem ctzFrom_spec (x m : Nat) : ctzFrom x m ≤ m ∧ x % 2 ^ ctzFrom x m = 0 ∧ (ctzFrom x m < m → x / 2 ^ ctzFrom x m % 2 = 1) := by
  induction m generalizing x with
  | zero => exact ⟨Nat.le_refl _, Nat.mod_one x, fun hlt => absurd hlt (Nat.lt_irrefl _)⟩
  | succ m ih =>
    by_cases hodd : x % 2 = 1
    · rw [ctzFrom, if_pos hodd]
      exact ⟨Nat.zero_le _, Nat.mod_one x, fun _ => by rw [Nat.pow_zero, Nat.div_one]; exact hodd⟩
    · obtain ⟨hle, hmul, hquot⟩ := ih (x / 2)
      rw [ctzFrom, if_neg hodd]
      refine ⟨by omega, ?_, fun hc => ?_⟩
      · rw [Nat.pow_succ, Nat.mul_comm, Nat.mod_mul, hmul]; omega
      · rw [Nat.pow_succ, Nat.mul_comm, ← Nat.div_div_eq_div_mul]; exact hquot (by omega)

theorem popFrom_eq (x m : Nat) : popFrom x m = ((List.range m).filter x.testBit).length := by
  induction m generalizing x with
  | zero => rfl
  | succ m ih =>
    rw [popFrom, ih, List.range_succ_eq_map, List.filter_cons, List.filter_map, Nat.testBit_zero]
    have hshift : x.testBit ∘ Nat.succ = (x / 2).testBit := funext fun i => Nat.testBit_succ x i
    rw [hshift]
    by_cases hodd : x % 2 = 1
    · simp [hodd, Nat.add_comm]
    · simp [show x % 2 = 0 by omega]

/-! ## Widths -/

theorem sextInt_bit (x : Nat) {w : Nat} (hw : 0 < w) :
    sextInt x w = if x.testBit (w - 1) then ((x % 2 ^ w : Nat) : Int) - 2 ^ w else ((x % 2 ^ w : Nat) : Int) := by
  obtain ⟨n, rfl⟩ : ∃ n, w = n + 1 := ⟨w - 1, by omega⟩
  have hpow : 2 ^ (n + 1) = 2 * 2 ^ n := by rw [Nat.pow_succ, Nat.mul_comm]
  have hsplit : x % 2 ^ (n + 1) = x % 2 ^ n + 2 ^ n * (x / 2 ^ n % 2) := by rw [Nat.pow_succ, Nat.mod_mul]
  have hlow : x % 2 ^ n < 2 ^ n := Nat.mod_lt _ (Nat.two_pow_pos n)
  rw [sextInt, Nat.add_sub_cancel, Nat.testBit_eq_decide_div_mod_eq]
  by_cases hbit : x / 2 ^ n % 2 = 1
  · rw [hbit] at hsplit
    simp only [hbit, decide_true, if_true]
    rw [if_neg (by omega)]
    push_cast
    rfl
  · rw [show x / 2 ^ n % 2 = 0 by omega] at hsplit
    simp only [hbit, decide_false, Bool.false_eq_true, if_false]
    rw [if_pos (by omega)]

theorem extBits_zero (signed : Bool) (a : Word) {b : Word} (h : b.toNat % 128 = 0) : extBits signed a b = 0 := by
  rw [extBits]; exact if_pos h

theorem extBits_full (signed : Bool) (a : Word) {b : Word} (h : 64 ≤ b.toNat % 128) : extBits signed a b = a := by
  rw [extBits]
  exact (if_neg (by omega)).trans (if_pos h)

theorem extBits_narrow (signed : Bool) (a : Word) {b : Word} (h0 : 0 < b.toNat % 128) (h64 : b.toNat % 128 < 64) :
    extBits signed a b = if signed then BitVec.ofInt 64 (sextInt a.toNat (b.toNat % 128))
      else BitVec.ofNat 64 (a.toNat % 2 ^ (b.toNat % 128)) := by
  rw [extBits]
  exact (if_neg (by omega)).trans (if_neg (by omega))

/-! ## Carry-less products -/

/-- The pairs of one bits whose places sum to i, of which a carry-less product's bit i is the parity (R173). -/
def clmulPairs (x y n i : Nat) : List Nat := (List.range n).filter fun j => y.testBit j && decide (j ≤ i) && x.testBit (i - j)

theorem clmulFrom_testBit (x y n i : Nat) : (clmulFrom x y n).testBit i = ((clmulPairs x y n i).length % 2 == 1) := by
  induction n with
  | zero => simp [clmulFrom, clmulPairs]
  | succ n ih =>
    have hterm : (if y / 2 ^ n % 2 = 1 then x * 2 ^ n else 0).testBit i = (y.testBit n && decide (n ≤ i) && x.testBit (i - n)) := by
      rw [Nat.testBit_eq_decide_div_mod_eq (x := y)]
      split
      · simp [*, Nat.testBit_mul_two_pow]
      · simp [*]
    have hpairs : (clmulPairs x y (n + 1) i).length =
        (clmulPairs x y n i).length + if y.testBit n && decide (n ≤ i) && x.testBit (i - n) then 1 else 0 := by
      rw [clmulPairs, List.range_succ, List.filter_append, List.length_append, List.filter_singleton]
      cases y.testBit n && decide (n ≤ i) && x.testBit (i - n) <;> rfl
    rw [clmulFrom, Nat.testBit_xor, ih, hterm, hpairs]
    cases y.testBit n && decide (n ≤ i) && x.testBit (i - n)
    · simp
    · rcases Nat.mod_two_eq_zero_or_one (clmulPairs x y n i).length with h | h <;> simp [Nat.add_mod, h]

/-! ## Quotients and remainders -/

theorem divS_exact {x y : Word} (hy : y ≠ 0) (hw : ¬ (x.toInt = -2 ^ 63 ∧ y.toInt = -1)) :
    divS x y = BitVec.ofInt 64 (x.toInt.tdiv y.toInt) := by
  rw [divS, if_neg hy]; exact if_neg hw

theorem remS_exact {x y : Word} (hy : y ≠ 0) (hw : ¬ (x.toInt = -2 ^ 63 ∧ y.toInt = -1)) :
    remS x y = BitVec.ofInt 64 (x.toInt.tmod y.toInt) := by
  rw [remS, if_neg hy, Int.tmod_def, Int.mul_comm y.toInt]; exact if_neg hw

theorem not_zero_of_toInt {y : Word} (h : y.toInt = -1) : y ≠ 0 := by
  rintro rfl; exact absurd h (by decide)

theorem divS_wraps {x y : Word} (hw : x.toInt = -2 ^ 63 ∧ y.toInt = -1) : divS x y = x := by
  rw [divS, if_neg (not_zero_of_toInt hw.2)]; exact if_pos hw

theorem remS_wraps {x y : Word} (hw : x.toInt = -2 ^ 63 ∧ y.toInt = -1) : remS x y = 0 := by
  rw [remS, if_neg (not_zero_of_toInt hw.2)]; exact if_pos hw

theorem divU_exact {x y : Word} (hy : y ≠ 0) : divU x y = BitVec.ofNat 64 (x.toNat / y.toNat) := if_neg hy

theorem remU_exact {x y : Word} (hy : y ≠ 0) : remU x y = BitVec.ofNat 64 (x.toNat % y.toNat) := by
  rw [Nat.mod_def, Nat.mul_comm]; exact if_neg hy

/-! ## Targets -/

theorem three_bit (i : Nat) : (3#64).getLsbD i = decide (i < 2) := by
  rw [BitVec.getLsbD_ofNat]
  rcases i with - | - | i <;> simp [Nat.testBit_succ]

/-- Clearing the bits [1:0] rounds down to a multiple of 4. -/
theorem and_not_three (x : Word) : x &&& ~~~3#64 = BitVec.ofNat 64 (x.toNat / 4 * 4) := by
  have hshift : x &&& ~~~3#64 = x >>> 2 <<< 2 := by
    refine BitVec.eq_of_getLsbD_eq fun i hi => ?_
    rw [BitVec.getLsbD_and, BitVec.getLsbD_not, three_bit, BitVec.getLsbD_shiftLeft, BitVec.getLsbD_ushiftRight]
    by_cases h2 : i < 2
    · simp [h2]
    · rw [Nat.add_sub_cancel' (by omega)]
      simp [h2, hi]
  apply BitVec.eq_of_toNat_eq
  rw [hshift, BitVec.toNat_shiftLeft, BitVec.toNat_ushiftRight, BitVec.toNat_ofNat, Nat.shiftLeft_eq, Nat.shiftRight_eq_div_pow]

theorem jalr_target (x : Word) (k : BitVec 16) :
    (x + imm16 k) &&& ~~~3#64 = BitVec.ofInt 64 (((x.toNat : Int) + k.toInt) / 4 * 4) := by
  apply BitVec.eq_of_toNat_eq
  rw [imm16, add_signExtend_exact, and_not_three, BitVec.toNat_ofInt, BitVec.toNat_ofNat, BitVec.toNat_ofInt]
  omega

/-! ## Comparisons -/

theorem ult_imm16_iff (x : Word) (k : BitVec 16) : x.ult (imm16 k) = true ↔ (x.toNat : Int) < k.toInt % 2 ^ 64 := by
  rw [BitVec.ult_iff_toNat_lt, imm16, BitVec.signExtend.eq_1, BitVec.toNat_ofInt]
  omega

theorem not_slt_iff (x y : Word) : (!x.slt y) = true ↔ x.toInt ≥ y.toInt := by
  rw [Bool.not_eq_true', Bool.eq_false_iff, ne_eq, BitVec.slt_iff_toInt_lt, Int.not_lt]

theorem not_ult_iff (x y : Word) : (!x.ult y) = true ↔ x.toNat ≥ y.toNat := by
  rw [Bool.not_eq_true', Bool.eq_false_iff, ne_eq, BitVec.ult_iff_toNat_lt, Nat.not_lt]

end Sys2Proof.Machine
end

section
/-!
SUPPORT. The integer operations, divisions, branches and jumps (R167 to R182): an instruction that ends in a shared way writes the value of
its operation.
-/
namespace Sys2Proof.Machine

/-! ## Instructions that end in a shared way -/

section runs
variable {s : State} {i : Instr} {d : Reg} {v w x y : Word} {n : Nat} {p : Prop} {c : Bool}

theorem State.result_runs (hi : exec i s = .next (s.result d v n)) (hv : v = w) : RunsTo i s (Wrote s · d w n) :=
  ⟨_, hi, hv ▸ s.result_wrote d v n⟩

theorem State.arith_runs (hr : s.residue = 0) (hi : exec i s = .next (s.arith d v n)) (hv : v = w) : RunsTo i s (Wrote s · d w n) :=
  ⟨_, hi, hv ▸ s.arith_wrote d v n hr⟩

theorem State.multiply_runs (hr : s.residue = 0) (hi : exec i s = .next (s.multiply d v)) (hv : v = w) :
    RunsTo i s (WroteLater s · d w .latency 4) :=
  ⟨_, hi, hv ▸ s.multiply_wroteLater d v hr⟩

/-- A result that is described bit by bit. -/
theorem State.bits_run {f : Nat → Bool} (hi : exec i s = .next (s.result d v 4)) (hv : ∀ j < 64, v.getLsbD j = f j) :
    RunsTo i s fun t => ∃ v, Wrote s t d v 4 ∧ ∀ j, j < 64 → v.getLsbD j = f j :=
  ⟨_, hi, v, s.result_wrote d v 4, hv⟩

theorem State.product_bits_run {f : Nat → Bool} (hr : s.residue = 0) (hi : exec i s = .next (s.multiply d v))
    (hv : ∀ j < 64, v.getLsbD j = f j) :
    RunsTo i s fun t => ∃ v, WroteLater s t d v .latency 4 ∧ ∀ j, j < 64 → v.getLsbD j = f j :=
  ⟨_, hi, v, s.multiply_wroteLater d v hr, hv⟩

/-- A result chosen by a condition. -/
theorem State.choice_runs (hi : exec i s = .next (s.result d (if c then x else y) 4)) (hc : c = true ↔ p) :
    RunsTo i s fun t => (p → Wrote s t d x 4) ∧ (¬ p → Wrote s t d y 4) := by
  refine ⟨_, hi, fun hp => ?_, fun hp => ?_⟩
  · rw [if_pos (hc.2 hp)]; exact s.result_wrote d x 4
  · rw [if_neg (mt hc.1 hp)]; exact s.result_wrote d y 4

/-- An extension from a width, by the range in which the width lies (R175). -/
theorem State.width_runs {signed : Bool} (hi : exec i s = .next (s.result d (extBits signed x y) 4))
    (hv : 0 < y.toNat % 128 → y.toNat % 128 < 64 → extBits signed x y = v) :
    RunsTo i s fun t => (y.toNat % 128 = 0 → Wrote s t d 0 4) ∧ (64 ≤ y.toNat % 128 → Wrote s t d x 4) ∧
      (0 < y.toNat % 128 → y.toNat % 128 < 64 → Wrote s t d v 4) := by
  refine ⟨_, hi, fun h => ?_, fun h => ?_, fun h0 h64 => ?_⟩
  · rw [extBits_zero signed x h]; exact s.result_wrote d 0 4
  · rw [extBits_full signed x h]; exact s.result_wrote d x 4
  · rw [hv h0 h64]; exact s.result_wrote d v 4

theorem State.divide_writes (hr : s.residue = 0) (hb : s.dividerBusy = false) (hv : v = w) : WroteLater s (s.divide d v) d w .divider 4 :=
  hv ▸ s.divide_wroteLater d v hr hb

theorem State.divide_waits (hi : exec i s = .next (s.divide d v)) (hb : s.dividerBusy = true) : RunsTo i s (Waits s · 15 3) :=
  ⟨_, hi.trans (congrArg _ (if_pos hb)), s.waitFor_waits 15 3⟩

theorem State.branch_runs {off : BitVec 16} (hi : exec i s = .next (s.branch c off)) (hc : c = true ↔ p) :
    RunsTo i s fun t => (p → Jumped s t 0 0 (BitVec.ofInt 64 (s.me.pc.toNat + off.toInt * 4))) ∧ (¬ p → Wrote s t 0 0 4) := by
  obtain ⟨htaken, hpast⟩ := s.branch_goes c off
  refine ⟨_, hi, fun hp => ?_, fun hp => ?_⟩
  · rw [← add_words_exact]; exact htaken (hc.2 hp)
  · exact hpast (Bool.eq_false_iff.2 (mt hc.1 hp))

theorem State.link_runs (hi : exec i s = .next (s.link d n v)) (hv : v = w) :
    RunsTo i s (Jumped s · d (BitVec.ofInt 64 (s.me.pc.toNat + n)) w) := by
  have hnext : BitVec.ofInt 64 (s.me.pc.toNat + n) = s.me.pc + BitVec.ofNat 64 n := by
    rw [BitVec.ofInt_add, ofInt_toNat, BitVec.ofInt_natCast]
  rw [hnext, ← hv]
  exact ⟨_, hi, s.link_jumped d n v⟩

end runs

/-! ## The statements -/

/-- Settles O1: each result is the exact number modulo 2^64, or modulo 2^32 for a W member. -/
theorem sumsAndConstants : Obligations.SumsAndConstants := by
  refine ⟨fun s d a b k l hr => ⟨?_, ?_, ?_, ?_, ?_, ?_, ?_⟩, fun s d a k l => ⟨?_, ?_, ?_⟩⟩
  · exact State.arith_runs hr rfl (add_exact _ _)
  · exact State.arith_runs hr rfl (sub_exact _ _)
  · exact State.arith_runs hr rfl (addw_exact _ _)
  · exact State.arith_runs hr rfl (subw_exact _ _)
  · exact State.arith_runs hr rfl (add_signExtend_exact _ k)
  · exact State.arith_runs hr rfl (add_signExtend_exact _ l)
  · exact State.arith_runs hr rfl (add_words_exact _ k)
  · exact State.result_runs rfl (imm16_high_exact k)
  · exact State.result_runs rfl rfl
  · exact State.result_runs rfl (append_low32_exact l _)

/-- Settles O2: the bits of each result, and the shifts as multiplications and floors of quotients. -/
theorem bitwiseAndShifts : Obligations.BitwiseAndShifts := by
  refine ⟨fun s d a b k => ⟨?_, ?_, ?_, ?_, ?_, ?_, ?_, ?_, ?_⟩, fun s d a b k hr => ?_⟩
  · exact State.bits_run rfl fun j _ => BitVec.getLsbD_and
  · exact State.bits_run rfl fun j _ => BitVec.getLsbD_or
  · exact State.bits_run rfl fun j _ => BitVec.getLsbD_xor
  · exact State.bits_run rfl fun j hj => by
      rw [BitVec.getLsbD_and, BitVec.getLsbD_not, decide_eq_true hj, Bool.true_and]
  · exact State.bits_run rfl fun j hj => by rw [BitVec.getLsbD_and, imm16_bit k hj]
  · exact State.bits_run rfl fun j hj => by rw [BitVec.getLsbD_or, imm16_bit k hj]
  · exact State.bits_run rfl fun j hj => by rw [BitVec.getLsbD_xor, imm16_bit k hj]
  · exact State.bits_run rfl fun j hj => by
      rw [BitVec.getLsbD_ofNat, decide_eq_true hj, Bool.true_and, revBits_testBit _ hj]; rfl
  · exact State.bits_run rfl fun j hj => bswap_bit _ hj
  · have hn : (s.reg b).toNat % 64 < 64 := Nat.mod_lt _ (by decide)
    refine ⟨?_, ?_, ?_, ?_, ?_, ?_, ?_, ?_, ?_, ?_, ?_⟩
    · exact State.arith_runs hr rfl (shiftLeft_exact _ _)
    · exact State.arith_runs hr rfl (ushiftRight_exact _ _)
    · exact State.arith_runs hr rfl (sshiftRight_exact _ _)
    · exact State.arith_runs hr rfl (rotateRight_exact _ hn)
    · exact State.arith_runs hr rfl (shiftLeft_exact _ _)
    · exact State.arith_runs hr rfl (ushiftRight_exact _ _)
    · exact State.arith_runs hr rfl (sshiftRight_exact _ _)
    · exact State.arith_runs hr rfl (rotateRight_exact _ k.isLt)
    · exact State.arith_runs hr rfl (sllw_exact _ _)
    · exact State.arith_runs hr rfl (srlw_exact _ _)
    · exact State.arith_runs hr rfl (sraw_exact _ _)

/-- Settles O3: each condition as a comparison of numbers, and the counts by `clzFrom_spec`, `ctzFrom_spec` and `popFrom_eq`. -/
theorem comparisonsAndCounts : Obligations.ComparisonsAndCounts := by
  refine ⟨fun s d a b k => ⟨?_, ?_, ?_, ?_, ?_, ?_, ?_, ?_, ?_, ?_⟩, fun s d a => ⟨?_, ?_, ?_⟩⟩
  · exact State.choice_runs rfl BitVec.slt_iff_toInt_lt
  · exact State.choice_runs rfl BitVec.ult_iff_toNat_lt
  · refine State.choice_runs rfl ?_
    rw [BitVec.slt_iff_toInt_lt, imm16, BitVec.toInt_signExtend_of_le (by decide)]
  · exact State.choice_runs rfl (ult_imm16_iff _ k)
  · exact State.choice_runs rfl beq_iff_eq
  · exact State.choice_runs rfl bne_iff_ne
  · exact State.choice_runs rfl BitVec.sle_iff_toInt_le
  · exact State.choice_runs rfl BitVec.sle_iff_toInt_le
  · exact State.choice_runs rfl BitVec.ule_iff_toNat_le
  · exact State.choice_runs rfl BitVec.ule_iff_toNat_le
  · obtain ⟨hle, hupper, hlower⟩ := clzFrom_spec (s.reg a).isLt
    exact ⟨_, rfl, _, s.result_wrote d _ 4, hle, hupper, hlower⟩
  · exact ⟨_, rfl, _, s.result_wrote d _ 4, ctzFrom_spec _ 64⟩
  · exact State.result_runs rfl (congrArg _ (popFrom_eq _ 64))

/-- Settles O4: the three ranges of the width. -/
theorem widthExtension : Obligations.WidthExtension := by
  refine fun s d a b => ⟨State.width_runs rfl fun h0 h64 => ?_, State.width_runs rfl fun h0 h64 => ?_⟩
  · rw [extBits_narrow true _ h0 h64, if_pos rfl, sextInt_bit _ h0]
    rfl
  · exact extBits_narrow false _ h0 h64

/-- Settles O5: the exact products, and the carry-less ones by `clmulFrom_testBit`. -/
theorem productResults : Obligations.ProductResults := by
  refine fun s d a b hr => ⟨?_, ?_, ?_, ?_, ?_⟩
  · exact State.multiply_runs hr rfl (mul_exact _ _)
  · exact State.multiply_runs hr rfl rfl
  · exact State.multiply_runs hr rfl rfl
  · refine State.product_bits_run hr rfl fun j hj => ?_
    rw [BitVec.getLsbD_ofNat, decide_eq_true hj, Bool.true_and]
    exact clmulFrom_testBit _ _ 64 j
  · refine State.product_bits_run hr rfl fun j hj => ?_
    rw [BitVec.getLsbD_ofNat, decide_eq_true hj, Bool.true_and, Nat.testBit_div_two_pow, Nat.add_comm]
    exact clmulFrom_testBit _ _ 64 (64 + j)

/-- Settles O6: every divisor has its quotient and remainder, and a busy divider makes the strand wait. -/
theorem divisionResults : Obligations.DivisionResults := by
  refine fun s d a b => ⟨fun hr hb => ⟨?_, ?_, ?_, ?_⟩, fun hb => ⟨?_, ?_, ?_, ?_⟩⟩
  · exact ⟨_, rfl, fun hy => State.divide_writes hr hb (if_pos hy), fun hw => State.divide_writes hr hb (divS_wraps hw),
      fun hy hw => State.divide_writes hr hb (divS_exact hy hw)⟩
  · exact ⟨_, rfl, fun hy => State.divide_writes hr hb (if_pos hy), fun hw => State.divide_writes hr hb (remS_wraps hw),
      fun hy hw => State.divide_writes hr hb (remS_exact hy hw)⟩
  · exact ⟨_, rfl, fun hy => State.divide_writes hr hb (if_pos hy), fun hy => State.divide_writes hr hb (divU_exact hy)⟩
  · exact ⟨_, rfl, fun hy => State.divide_writes hr hb (if_pos hy), fun hy => State.divide_writes hr hb (remU_exact hy)⟩
  all_goals exact State.divide_waits rfl hb

/-- Settles O8: the conditions as comparisons of numbers, and the targets as exact addresses. -/
theorem branchesAndJumps : Obligations.BranchesAndJumps := by
  refine ⟨fun s a b off => ⟨?_, ?_, ?_, ?_, ?_, ?_⟩, fun s d a k o l => ⟨?_, ?_, ?_⟩⟩
  · exact State.branch_runs rfl beq_iff_eq
  · exact State.branch_runs rfl bne_iff_ne
  · exact State.branch_runs rfl BitVec.slt_iff_toInt_lt
  · exact State.branch_runs rfl (not_slt_iff _ _)
  · exact State.branch_runs rfl BitVec.ult_iff_toNat_lt
  · exact State.branch_runs rfl (not_ult_iff _ _)
  · exact State.link_runs rfl (add_words_exact _ o)
  · exact State.link_runs rfl (jalr_target _ k)
  · exact State.link_runs rfl (add_words_exact _ l)

end Sys2Proof.Machine
end

section
/-!
SUPPORT. Loads (R98, R109, R184, R185, R187): the value that a load binds from memory, from its strand's own latest store, and from a page with
C = 0.
-/
namespace Sys2Proof.Machine

/-! ## What a load binds -/

section loads
variable {s t : State} {a : Acc} {d : Reg} {v : Word}

theorem Strand.mark_access_pend (t : Strand) (d : Reg) {k : PendKind} (h : k.isAccess = true) :
    (t.mark d k).pend = t.pend ++ [⟨d, k⟩] := by
  unfold Strand.mark
  rw [if_neg (by simp [h])]

/-- A result that an access awaits is a load's. -/
theorem WroteLater.loaded {k : PendKind} (h : WroteLater s t d v k 4) (hk : k.isAccess = true) : Loaded s t d v where
  frame := h.frame
  strand := by
    have hread : t.me.read = s.me.read := by rw [show t.me = _ from h.strand]
    rw [← hread]
    exact h.strand
  value := h.value
  pending hd := by
    rw [Strand.pending, h.pend, Strand.mark_access_pend _ _ hk]
    exact Bool.and_eq_true_iff.2 ⟨bne_iff_ne.2 hd, by simp⟩
  others r hr := by
    have hne : (d == r) = false := beq_eq_false_iff_ne.2 (Ne.symm hr)
    rw [Strand.pending, Strand.pending, h.pend, Strand.mark_access_pend _ _ hk, List.any_append, List.any_cons, hne]
    simp
  pc := h.pc
  state := h.state

/-- A load that meets no poison and waits for no atomic binds the strand's own stores in flight over what its core sees of memory. -/
theorem State.access_binds {signed : Bool} {key : Nat} (ho : a.op = .load d signed) (h : Reaches s accRead a.va a.size key)
    (hp : s.poisoned key a.size = false) (hw : s.loadWaits (.here key) a.va a.size = none) :
    Loaded s (s.access a) d (extendLoad a.size signed (s.loadValue s.myCore s.myStrand key a.va a.size none)) := by
  have hk : a.kind = accRead := by simp [Acc.kind, ho]
  obtain ⟨mode, hm, he⟩ := State.access_here a key (hk ▸ h)
  obtain ⟨rs, hr⟩ := s.noteRead_me key a.size
  rw [he]
  unfold State.accessAt
  simp only [ho, State.countMigrate_other s _ _ _ _ hm, hw, Strand.hostStoreHeld]
  unfold State.loadHere
  simp only [State.detect_none s _ _ h.sound, hp, hr, State.modMe_modMe]
  exact State.loaded s rs a d _ key a.size true

/-- A load of a page with C = 0 gives zero (R98). -/
theorem State.access_zero {signed : Bool} (ho : a.op = .load d signed) (ha : a.va % a.size = 0) (ht : s.myTranslate accRead a.va = .zero) :
    Loaded s (s.access a) d 0 := by
  have hk : a.kind = accRead := by simp [Acc.kind, ho]
  have he : s.access a = (s.setLater d 0 (.load a (.here (2 ^ 62)) false)).finish 4 := by
    unfold State.access
    simp only [ha, ne_eq, not_true_eq_false, if_false, hk, ht, ho]
  rw [he]
  exact (s.setLater_wroteLater d 0 _ 4).loaded rfl

theorem State.mySeen_lt (key n : Nat) : s.mySeen key n < 2 ^ (8 * n) := by
  have h := leNat_lt ((List.range n).map fun i => s.seenByte (.scl s.myCore) (key + i))
  rwa [List.length_map, List.length_range] at h

theorem extendLoad_plain {n v : Nat} (h : v < 2 ^ (8 * n)) : extendLoad n false v = BitVec.ofNat 64 v := by
  rw [extendLoad, if_neg Bool.false_ne_true, Nat.mod_eq_of_lt h]

/-- A load of what memory shows, from a place that the strand's own stores do not touch. -/
theorem State.load_runs {i : Instr} {n key : Nat} {signed : Bool} {r : Reg} {k : BitVec 12} (hi : exec i s = .next (s.load n signed d r k))
    (h : ReadsMemory s accRead (s.reg r + k.signExtend 64).toNat n key) :
    RunsTo i s (Loaded s · d (extendLoad n signed (s.mySeen key n))) :=
  ⟨_, hi, State.access_loaded ⟨s.me.pc, _, n, .load d signed⟩ d signed key rfl h⟩

theorem State.load_signed_runs {i : Instr} {n key : Nat} {r : Reg} {k : BitVec 12} (hi : exec i s = .next (s.load n true d r k))
    (h : ReadsMemory s accRead (s.reg r + k.signExtend 64).toNat n key) :
    RunsTo i s (Loaded s · d (BitVec.ofInt 64 (sextInt (s.mySeen key n) (8 * n)))) :=
  State.load_runs hi h

theorem State.load_plain_runs {i : Instr} {n key : Nat} {r : Reg} {k : BitVec 12} (hi : exec i s = .next (s.load n false d r k))
    (h : ReadsMemory s accRead (s.reg r + k.signExtend 64).toNat n key) : RunsTo i s (Loaded s · d (BitVec.ofNat 64 (s.mySeen key n))) :=
  extendLoad_plain (s.mySeen_lt key n) ▸ State.load_runs hi h

/-! ## The strand's own latest store (R109) -/

/-- Of the stores that cover a byte, the last in the buffer gives it. -/
theorem forwardByte_latest {b : Buffered} {k va o : Nat} {flush : Bool} (ho : b.offset k va = some o) (hop : b.acc.op = .store v flush)
    (bs : List Buffered) (x : Byte) : forwardByte none (bs ++ [b]) k va x = BitVec.ofNat 8 (v.toNat / 2 ^ (8 * o)) := by
  induction bs generalizing x with
  | nil => simp [forwardByte, ho, hop]
  | cons c bs ih => exact ih _

theorem Buffered.offset_here {b : Buffered} {key i : Nat} (va : Nat) (hd : b.dest = some (.here key)) (hi : i < b.acc.size) :
    b.offset (key + i) va = some i := by
  simp [Buffered.offset, hd, destKey, hi]

theorem leBytes_eq_map (n v : Nat) : leBytes n v = (List.range n).map fun i => BitVec.ofNat 8 (v / 2 ^ (8 * i)) := by
  refine List.ext_getElem (by simp [leBytes_length]) fun i h _ => ?_
  have hi : i < n := by rwa [leBytes_length] at h
  have hbyte := leBytes_getD n v i hi
  rw [List.getD_eq_getElem _ _ h] at hbyte
  simpa using hbyte

/-- A load of exactly the bytes of the last store in the buffer binds that store's value. -/
theorem State.loadValue_latest {key va : Nat} {b : Buffered} {bs : List Buffered} {flush : Bool} (hs : s.me.stores = bs ++ [b])
    (hd : b.dest = some (.here key)) (hop : b.acc.op = .store v flush) :
    s.loadValue s.myCore s.myStrand key va b.acc.size none = v.toNat % 2 ^ (8 * b.acc.size) := by
  have hbytes : (List.range b.acc.size).map
      (fun i => forwardByte none s.me.stores (key + i) (va + i) (s.seenByte (.scl s.myCore) (key + i))) = leBytes b.acc.size v.toNat := by
    rw [leBytes_eq_map, hs]
    refine List.map_congr_left fun i hi => ?_
    exact forwardByte_latest (Buffered.offset_here _ hd (List.mem_range.1 hi)) hop bs _
  rw [← leNat_leBytes, ← hbytes]
  rfl

end loads

/-- Settles O9: a load binds what its core sees of memory, its strand's own latest store to the same bytes, or zero. -/
theorem loads : Obligations.Loads := by
  refine ⟨fun s d a k key => ⟨?_, ?_, ?_, ?_, ?_, ?_, ?_⟩, ?_, fun s d a k ht ha => ?_⟩
  · exact State.load_signed_runs rfl
  · exact State.load_signed_runs rfl
  · exact State.load_signed_runs rfl
  · exact State.load_plain_runs rfl
  · exact State.load_plain_runs rfl
  · exact State.load_plain_runs rfl
  · exact State.load_plain_runs rfl
  · intro s d a k key b bs v flush va hreach hpoison hfree hstores _ hdest hsize hop
    have hbound := State.access_binds (a := ⟨s.me.pc, va, 8, .load d false⟩) rfl hreach hpoison hfree
    have hlatest := State.loadValue_latest (va := va) hstores hdest hop
    rw [hsize] at hlatest
    have hv : extendLoad 8 false (s.loadValue s.myCore s.myStrand key va 8 none) = v := by
      rw [hlatest, Nat.mod_eq_of_lt v.isLt, extendLoad_plain v.isLt, BitVec.ofNat_toNat, BitVec.setWidth_eq]
    exact ⟨_, rfl, hv ▸ hbound⟩
  · exact ⟨_, rfl, State.access_zero (a := ⟨s.me.pc, _, 8, .load d false⟩) rfl ha ht⟩

end Sys2Proof.Machine
end

section
/-!
SUPPORT. Stores (R108, R109, R189): how a store enters its buffer and is performed at its home, and that no late write keeps its bytes
from the readers of its die.
-/
namespace Sys2Proof.Machine

/-! ## Late writes at the cells that a store writes (R108) -/

/-- x is the late write w to the same cells, with no reader more to reach. -/
structure Late.Settles (w x : Late) : Prop extends w.Nearer x where
  cells : x.cells = w.cells

theorem Late.Settles.refl (w : Late) : w.Settles w := ⟨.refl w, rfl⟩

theorem Late.Settles.trans {w x y : Late} (h : w.Settles x) (g : x.Settles y) : w.Settles y :=
  ⟨h.toNearer.trans g.toNearer, g.cells.trans h.cells⟩

theorem Late.Settles.touches {w x : Late} (h : w.Settles x) (k n : Nat) : x.touches k n = w.touches k n := by
  rw [Late.touches, Late.touches, h.cells]

/-- A late write has reached every data cache of a die, and its view. -/
def Late.reached (w : Late) (die : Nat) : Prop := die ∉ w.dies ∧ ∀ c ∈ w.caches, dieOf c ≠ die

theorem Late.Settles.reached {w x : Late} (h : w.Settles x) {die : Nat} (hw : w.reached die) : x.reached die :=
  ⟨fun hd => hw.1 (h.dies hd), fun c hc => hw.2 c (h.caches hc)⟩

theorem Late.reached.lags {w : Late} {c : Nat} (h : w.reached (dieOf c)) : w.lags (.scl c) = false := by
  rw [Bool.eq_false_iff, ne_eq, Late.lags_scl]
  exact fun hl => hl.elim h.1 fun hc => h.2 c hc rfl

/-- No late write to a key is late for a reader of a die. -/
def State.shownAt (s : State) (die k : Nat) : Prop := ∀ x ∈ s.late, x.touches k 1 = true → x.reached die

/-- Every late write of t is one of s, settled further. -/
def State.settlesTo (s t : State) : Prop := ∀ x ∈ t.late, ∃ w ∈ s.late, w.Settles x

theorem State.settlesTo.shownAt {s t : State} (h : s.settlesTo t) {die k : Nat} (hs : s.shownAt die k) : t.shownAt die k :=
  fun x hx ht =>
  have ⟨w, hw, hwx⟩ := h x hx
  hwx.reached (hs w hw (hwx.touches k 1 ▸ ht))

/-- Where no late write is late for its die, a core sees what the home holds. -/
theorem State.shownAt.seenByte {s : State} {c k : Nat} (h : s.shownAt (dieOf c) k) : s.seenByte (.scl c) k = s.byte k := by
  have hnone : s.late.findSome? (fun w => if w.lags (.scl c) then w.cells.find? (·.1 == k) else none) = none := by
    refine List.findSome?_eq_none_iff.2 fun w hw => ?_
    split
    · rename_i hl
      refine List.find?_eq_none.2 fun x hx hk => ?_
      have hk : x.1 = k := eq_of_beq hk
      have htouch : w.touches k 1 = true := List.any_eq_true.2 ⟨x, hx, by simp [hk]⟩
      exact absurd ((h w hw htouch).lags.symm.trans hl) Bool.false_ne_true
    · rfl
  rw [State.seenByte, hnone]

section settle
variable (s : State)

/-- Entering views of dies settles, and those wanted are late for these dies no more. -/
theorem State.enterDies_settles {ds : List Nat} {want : Late → Bool} {x : Late} (h : x ∈ (s.enterDies ds want).late) :
    ∃ w ∈ s.late, w.Settles x ∧ (want w = true → ∀ d ∈ ds, d ∉ x.dies) := by
  unfold State.enterDies at h
  split at h
  · rename_i he
    rw [List.isEmpty_iff.1 he] at h
    exact absurd h List.not_mem_nil
  · obtain ⟨w, hw, rfl⟩ := State.mem_modLate h
    refine ⟨w, hw, ?_⟩
    by_cases hin : (lateClosure s.late want).any (·.id == w.id) = true
    · rw [if_pos hin]
      refine ⟨⟨⟨rfl, List.filter_subset_self _, ?_, List.Subset.refl _⟩, rfl⟩, fun _ d hd hmem => ?_⟩
      · dsimp only
        split
        exacts [List.filter_subset_self _, List.Subset.refl _]
      · have hout := (List.mem_filter.1 hmem).2
        simp [hd] at hout
    · rw [if_neg hin]
      exact ⟨.refl w, fun hwant => absurd (List.any_eq_true.2 ⟨w, mem_lateClosure hw hwant, beq_self_eq_true w.id⟩) hin⟩

/-- A write of a strand's store settles those to the key for its die, and settles the others no less than they were. -/
theorem State.settleFor_settles (c die k : Nat) :
    s.settlesTo (s.settleFor (.scl c) die k 1) ∧ (s.settleFor (.scl c) die k 1).shownAt die k := by
  have inv (x : Late) (hx : x ∈ (s.settleFor (.scl c) die k 1).late) :
      ∃ w ∈ s.late, w.Settles x ∧ (x.touches k 1 = true → x.reached die) := by
    obtain ⟨y, hy, rfl⟩ := State.mem_modLate hx
    obtain ⟨w, hw, hwy, henters⟩ := s.enterDies_settles hy
    refine ⟨w, hw, ?_⟩
    split
    · rename_i ht
      refine ⟨hwy.trans ⟨⟨rfl, List.Subset.refl _, List.filter_subset_self _, List.Subset.refl _⟩, rfl⟩, fun _ => ⟨?_, fun e he => ?_⟩⟩
      · exact henters (hwy.touches k 1 ▸ ht) die (List.mem_singleton.2 rfl)
      · exact bne_iff_ne.1 (List.mem_filter.1 he).2
    · rename_i ht
      exact ⟨hwy, fun h => absurd h ht⟩
  refine ⟨fun x hx => ?_, fun x hx => ?_⟩
  · obtain ⟨w, hw, hwx, -⟩ := inv x hx
    exact ⟨w, hw, hwx⟩
  · obtain ⟨-, -, -, hreach⟩ := inv x hx
    exact hreach

theorem State.foldl_settleFor_settles (c die : Nat) (ks : List Nat) (s : State) :
    s.settlesTo (ks.foldl (fun s k => s.settleFor (.scl c) die k 1) s) ∧
      ∀ k ∈ ks, (ks.foldl (fun s k => s.settleFor (.scl c) die k 1) s).shownAt die k := by
  induction ks generalizing s with
  | nil => exact ⟨fun x hx => ⟨x, hx, .refl x⟩, fun k hk => absurd hk List.not_mem_nil⟩
  | cons k ks ih =>
    obtain ⟨hfirst, hshown⟩ := s.settleFor_settles c die k
    obtain ⟨hrest, hall⟩ := ih (s.settleFor (.scl c) die k 1)
    refine ⟨fun x hx => ?_, fun j hj => ?_⟩
    · obtain ⟨y, hy, hyx⟩ := hrest x hx
      obtain ⟨w, hw, hwy⟩ := hfirst y hy
      exact ⟨w, hw, hwy.trans hyx⟩
    · rcases List.mem_cons.1 hj with rfl | hj
      exacts [hrest.shownAt hshown, hall j hj]

theorem staleDies_other (die k : Nat) : die ∉ staleDies die k := by
  unfold staleDies
  split
  · simp
  · exact List.not_mem_nil

/-- A strand's store, performed at its home, is late for no reader of its die. -/
theorem State.noteLate_shown (c die : Nat) (clock : List Nat) {ks : List Nat} {k : Nat} (hk : k ∈ ks) :
    (s.noteLate (.scl c) die clock ks).shownAt die k := by
  match ks, hk with
  | j :: ks, hk =>
    have hfold := (State.foldl_settleFor_settles c die (j :: ks) s).2 k hk
    refine iteInduction (motive := fun u : State => u.shownAt die k) (fun _ => hfold) fun _ x hx ht => ?_
    rcases List.mem_append.1 hx with hx | hx
    · exact hfold x hx ht
    · rw [List.mem_singleton.1 hx]
      exact ⟨staleDies_other die j, fun e he => by simp [State.staleCaches] at he⟩

theorem State.putMem_late (k n : Nat) (m : List Host.Cell) : (s.putMem k n m).late = s.late := by
  unfold State.putMem State.latchDisp
  split <;> rfl

theorem State.lateBytes_shown (c die : Nat) (clock : List Nat) {k j : Nat} {bs : List Byte} (h : k ≤ j) (hj : j < k + bs.length) :
    (s.lateBytes (.scl c) die clock k bs).shownAt die j := by
  unfold State.shownAt
  rw [show (s.lateBytes (.scl c) die clock k bs).late = _ from State.putMem_late _ _ _ _]
  exact s.noteLate_shown c die clock (List.mem_map.2 ⟨j - k, List.mem_range.2 (by omega), by omega⟩)

end settle

/-! ## A buffered store at its home (R189) -/

section perform
variable {s : State} {c k idx key : Nat} {b : Buffered} {v : Word} {flush : Bool}

theorem Strand.behindLoad_none {t : Strand} (h : t.heldLoads = []) (b : Buffered) : t.behindLoad b = false := by
  refine List.any_eq_false.2 fun p hp => ?_
  have hnone := List.filterMap_eq_nil_iff.1 h p hp
  split
  · rename_i f a hk
    rw [hk] at hnone
    exact absurd hnone (Option.some_ne_none f)
  · exact Bool.false_ne_true

/-- An entry with a place here that nothing before it holds may be performed. -/
theorem State.performable_here (hb : (s.strand c k).stores[idx]? = some b) (hd : b.dest = some (.here key))
    (hheld : (s.strand c k).heldLoads = []) (hplaces : ∀ x ∈ (s.strand c k).stores, ∃ j, x.dest = some (.here j))
    (halone : ∀ x ∈ (s.strand c k).stores.take idx, x.touches key b.acc.va b.acc.size = false)
    (hfirst : s.issuedBefore c k key b.acc.size b.issued = false) : s.performable c k idx = some (b, key) := by
  have hbefore : ((s.strand c k).stores.take idx).any (fun e => e.held || e.touches key b.acc.va b.acc.size) = false := by
    refine List.any_eq_false.2 fun x hx => ?_
    obtain ⟨j, hj⟩ := hplaces x (List.mem_of_mem_take hx)
    simp [Buffered.held, hj, halone x hx]
  unfold State.performable
  simp only [hb, hd, Strand.behindLoad_none hheld, hfirst, hbefore, Bool.or_false, Bool.false_eq_true, if_false]

theorem State.frozenAt_modStrand (f : Strand → Strand) (d : Dest) : (s.modStrand c k f).frozenAt d = s.frozenAt d := by
  have hfrozen (e : Nat) : ((s.modStrand c k f).core e).frozen = (s.core e).frozen := by rw [(s.modStrand_onlyTraced c k f).core]
  simp only [State.frozenAt, hfrozen]

theorem State.tagAt_modStrand (f : Strand → Strand) (d : Dest) (n : Nat) : (s.modStrand c k f).tagAt d n = s.tagAt d n := by
  simp only [State.tagAt, State.tagged, State.modStrand_live]

theorem State.touchesPort_modStrand (f : Strand → Strand) (j n : Nat) : (s.modStrand c k f).touchesPort j n = s.touchesPort j n := by
  simp only [State.touchesPort, State.hasRecords, State.modStrand_marten]

theorem State.strandWrites_eq (clock : List Nat) (bs : List Byte) : ∃ g : Strand → List Nat, s.strandWrites c k key clock bs =
    (s.lateBytes (.scl c) (dieOf c) clock key bs).modStrand c k fun t => { t with wrote := g t } := by
  unfold State.strandWrites
  dsimp only
  split
  · exact ⟨Strand.wrote, (State.modStrand_id _ c k).symm⟩
  · exact ⟨_, rfl⟩

/-- A store that nothing refuses leaves its buffer and writes its bytes. -/
theorem State.performBuffered_store (hop : b.acc.op = .store v flush) (hsound : s.softErrors = [])
    (hthawed : s.frozenAt (.here key) = false) (htag : s.tagAt (.here key) b.acc.size = false) :
    s.performBuffered c k idx b key = (s.dropStore c k idx).strandWrites c k key b.clock (leBytes b.acc.size v.toNat) := by
  have hclean : (s.dropStore c k idx).detect key b.acc.size = s.dropStore c k idx :=
    State.detect_none _ _ _ (by rw [State.dropStore, State.modStrand_softErrors, hsound])
  have hopen : (s.dropStore c k idx).writeRefusal key b.acc.size = none := by
    rw [State.writeRefusal, State.dropStore, State.frozenAt_modStrand, State.tagAt_modStrand, hthawed, htag]
    rfl
  unfold State.performBuffered
  simp only [hclean, hopen, hop]

variable (s c k idx key b v) in
/-- A store has left its buffer and written its bytes. -/
def State.storeDone : State :=
  (s.dropStore c k idx).lateBytes (.scl c) (dieOf c) b.clock key (leBytes b.acc.size v.toNat)

theorem State.storeDone_strand (c' k' : Nat) : (s.storeDone c k idx key b v).strand c' k' = (s.dropStore c k idx).strand c' k' :=
  (State.lateBytes_onlyMem _ _ _ _ _ _).strand c' k'

theorem State.storeDone_me (hc : c < 260) (hk : k < 4) :
    (s.storeDone c k idx key b v).strand c k = { s.strand c k with stores := (s.strand c k).stores.eraseIdx idx } :=
  (State.storeDone_strand c k).trans (s.strand_modStrand_self _ hc hk)

theorem State.storeDone_bytes (hm : s.memOk) (hport : s.touchesPort key b.acc.size = false) :
    WroteBytes s (s.storeDone c k idx key b v) key b.acc.size (some v.toNat) := by
  intro j
  have hdropped : (s.dropStore c k idx).memOk := State.memOk_of_mem (s.modStrand_mem c k _) hm
  have hport' : (s.dropStore c k idx).touchesPort key (leBytes b.acc.size v.toNat).length = false := by
    rw [leBytes_length]
    exact (s.touchesPort_modStrand _ key _).trans hport
  rw [State.byte, State.storeDone, State.lateBytes_mem, State.get_storeBytes _ key j _ hdropped hport', leBytes_length]
  dsimp only
  split
  · exact leBytes_getD _ _ _ (by omega)
  · exact congrArg (Memory.get · j) (s.modStrand_mem c k _)

/-- With every place here, the entries left behind it send nothing. -/
theorem State.storeDone_sends (hc : c < 260) (hk : k < 4) (hplaces : ∀ x ∈ (s.strand c k).stores, ∃ j, x.dest = some (.here j)) :
    ∃ g : Strand → List Nat,
      ((s.dropStore c k idx).strandWrites c k key b.clock (leBytes b.acc.size v.toNat)).sendReady c k =
        ((s.storeDone c k idx key b v).modStrand c k fun t => { t with wrote := g t }).modStrand c k fun t =>
          { t with stores := (s.strand c k).stores.eraseIdx idx } := by
  obtain ⟨g, hg⟩ := State.strandWrites_eq (s := s.dropStore c k idx) (c := c) (k := k) (key := key) b.clock (leBytes b.acc.size v.toNat)
  refine ⟨g, ?_⟩
  have hstores : (((s.storeDone c k idx key b v).modStrand c k fun t => { t with wrote := g t }).strand c k).stores =
      (s.strand c k).stores.eraseIdx idx := by
    rw [State.strand_modStrand_self _ _ hc hk, State.storeDone_me hc hk]
  rw [hg, State.sendReady, ← State.storeDone, hstores]
  exact State.sendFrom_here _ _ _ _ _ fun x hx => hplaces x (List.mem_of_mem_eraseIdx hx)

/-- The bytes of a store are there, they are seen at once on its die, and its strand has lost the entry. -/
theorem State.performed_store (hc : c < 260) (hk : k < 4) (hm : s.memOk) (hport : s.touchesPort key b.acc.size = false)
    (hplaces : ∀ x ∈ (s.strand c k).stores, ∃ j, x.dest = some (.here j)) :
    let t := ((s.dropStore c k idx).strandWrites c k key b.clock (leBytes b.acc.size v.toNat)).sendReady c k
    WroteBytes s t key b.acc.size (some v.toNat) ∧
      t.strand c k = { s.strand c k with stores := (s.strand c k).stores.eraseIdx idx, wrote := (t.strand c k).wrote } ∧
      (∀ c' k', ¬ (c' = c ∧ k' = k) → t.strand c' k' = s.strand c' k') ∧
      ∀ w j, dieOf w = dieOf c → key ≤ j → j < key + b.acc.size → t.seenByte (.scl w) j = t.byte j := by
  obtain ⟨g, hsend⟩ := State.storeDone_sends (b := b) (v := v) (key := key) (idx := idx) hc hk hplaces
  dsimp only
  rw [hsend]
  generalize ht : State.modStrand _ c k (fun t => { t with stores := (s.strand c k).stores.eraseIdx idx }) = t
  have hmem : t.mem = (s.storeDone c k idx key b v).mem := by rw [← ht, State.modStrand_mem, State.modStrand_mem]
  have hlate : t.late = (s.storeDone c k idx key b v).late := by rw [← ht, State.modStrand_late, State.modStrand_late]
  refine ⟨fun j => ?_, ?_, fun c' k' hne => ?_, fun w j hw hlo hhi => ?_⟩
  · exact (congrArg (Memory.get · j) hmem).trans (State.storeDone_bytes hm hport j)
  · rw [← ht, State.strand_modStrand_self _ _ hc hk, State.strand_modStrand_self _ _ hc hk, State.storeDone_me hc hk]
  · rw [← ht, State.strand_modStrand_ne _ _ hne, State.strand_modStrand_ne _ _ hne, State.storeDone_strand, State.dropStore,
      State.strand_modStrand_ne _ _ hne]
  · have hshown : (s.storeDone c k idx key b v).shownAt (dieOf w) j := by
      rw [hw]
      exact State.lateBytes_shown _ c (dieOf c) b.clock hlo (by rw [leBytes_length]; exact hhi)
    exact State.shownAt.seenByte fun x hx => hshown x (hlate ▸ hx)

end perform

/-! ## The statement -/

/-- A store instruction whose access passes its checks (R184, R185). -/
theorem State.store_runs {s : State} {i : Instr} {n key : Nat} {flush : Bool} {d r : Reg} {k : BitVec 12}
    (hi : exec i s = .next (s.store n flush d r k))
    (h : Reaches s accWrite (s.reg r + k.signExtend 64).toNat n key ∧ s.writable key n ∧
      ∀ b ∈ s.me.stores, ∃ j, b.dest = some (.here j)) :
    RunsTo i s (Stored s · ⟨s.me.pc, (s.reg r + k.signExtend 64).toNat, n, .store (s.reg d) flush⟩ key) := by
  obtain ⟨hreach, hwritable, hplaces⟩ := h
  exact ⟨_, hi, State.access_stored _ _ flush key rfl hreach hwritable hplaces⟩

/-- Settles O10: a store enters its buffer with its place, and is performed at its home from there. -/
theorem stores : Obligations.Stores := by
  refine ⟨fun s d a k key => ⟨?_, ?_, ?_, ?_, ?_⟩, ?_⟩
  · exact State.store_runs rfl
  · exact State.store_runs rfl
  · exact State.store_runs rfl
  · exact State.store_runs rfl
  · exact State.store_runs rfl
  · intro s c k idx key b v flush hm hsound hc hk hb hd hop hheld hplaces halone hfirst hthawed htag hport
    have hperform := State.performable_here hb hd hheld hplaces halone hfirst
    have hstore := State.performBuffered_store (k := k) (c := c) (idx := idx) hop hsound hthawed htag
    refine ⟨_, ?_, State.performed_store hc hk hm hport hplaces⟩
    simp only [exec, execAccessPerformedAtHome, hperform, hstore]

end Sys2Proof.Machine
end

section
/-!
SUPPORT. Accesses that stop (R31, R101, R186, R188, R191): the checks in their order, the wait for tags, and the accesses that an open fault
holds.
-/
namespace Sys2Proof.Machine

/-! ## The checks of an access (R186, R191) -/

section checks
variable {s : State} {a : Acc}

theorem State.access_misaligned (h : a.va % a.size ≠ 0) : s.access a = s.trap Cause.misalign (BitVec.ofNat 64 a.va) := if_pos h

theorem State.access_fails {c : Nat} (h : a.va % a.size = 0) (ht : s.myTranslate a.kind a.va = .fail c) :
    s.access a = s.trap c (BitVec.ofNat 64 a.va) := by
  unfold State.access
  simp only [h, ht, ne_eq, not_true_eq_false, if_false]

theorem State.access_held {kind level ipa : Nat} (h : a.va % a.size = 0) (ht : s.myTranslate a.kind a.va = .open kind level ipa) :
    s.access a = s.holdAccess a kind level ipa := by
  unfold State.access
  simp only [h, ht, ne_eq, not_true_eq_false, if_false]

theorem State.access_reaches {d : Dest} {mode : Nat} (h : a.va % a.size = 0) (ht : s.myTranslate a.kind a.va = .to d mode) :
    s.access a = s.accessAt a d mode := by
  unfold State.access
  simp only [h, ht, ne_eq, not_true_eq_false, if_false]

theorem State.access_traps {c : Nat} {va : Word} (hva : a.va = va.toNat) (he : s.access a = s.trap c (BitVec.ofNat 64 a.va))
    (hf : s.me.fatal c = false) (hc : c < 256) : Trapped s (s.access a) c va := by
  rw [he, hva, BitVec.ofNat_toNat, BitVec.setWidth_eq]
  exact s.trap_trapped c va hf hc

/-- A strand that waits for tags (R31, R188). -/
def Strand.readsTags (t : Strand) : Strand :=
  { t with tagsRead := true, state := .wait, reason := 15, obj := 2, waited := if t.state == .wait && t.reason == 15 then t.waited else 0 }

theorem State.readTags_reads : ReadsTags s s.readTags := by
  have he : s.readTags = s.modMe Strand.readsTags := s.modMe_modMe _ _
  exact ⟨he ▸ s.modMe_onlyMe _, by rw [he, State.me_modMe]; rfl⟩

section store
variable {v : Word} {flush : Bool} {d : Dest} {mode : Nat}

theorem State.store_frozen (ho : a.op = .store v flush) (hz : s.frozenAt d = true) :
    s.accessAt a d mode = s.trap Cause.protect (BitVec.ofNat 64 a.va) := by
  unfold State.accessAt
  simp only [ho, hz, if_true]

theorem State.store_readsTags (ho : a.op = .store v flush) (hz : s.frozenAt d = false) (hn : s.needsTags d = true) :
    s.accessAt a d mode = s.readTags := by
  unfold State.accessAt
  simp only [ho, hz, hn, Bool.false_eq_true, if_false, if_true]

theorem State.store_tagged (ho : a.op = .store v flush) (hz : s.frozenAt d = false) (hn : s.needsTags d = false)
    (ht : s.tagAt d a.size = true) :
    s.accessAt a d mode = s.trap Cause.barrierStore (BitVec.ofNat 64 a.va) := by
  unfold State.accessAt
  simp only [ho, hz, hn, ht, Bool.false_eq_true, if_false, if_true]

end store

section atomic
variable {code : Nat} {d r b : Reg} {ar wide : Bool} {scope : BitVec 3}

variable (s code d r b ar wide scope) in
/-- The access of an atomic (R192). -/
def State.atomicAcc : Acc := ⟨s.me.pc, (s.reg r).toNat, if wide then 8 else 4, .atomic code d (s.reg b) (s.reg d) ar scope.toNat⟩

/-- An atomic that waits for tags or fails a check does so before it waits for any release (R113, R191). -/
theorem State.atomic_accesses (ha : s.me.arrived = false)
    (h : s.atomicTags (s.atomicAcc code d r b ar wide scope) = true ∨
      s.refusesAtomic (s.atomicAcc code d r b ar wide scope) code ar = true) :
    s.atomic code d r b ar scope wide = .next (s.access (s.atomicAcc code d r b ar wide scope)) := by
  have hstop : (ar && !s.atomicTags (s.atomicAcc code d r b ar wide scope) &&
      !s.refusesAtomic (s.atomicAcc code d r b ar wide scope) code ar) = false := by
    rcases h with h | h <;> simp [h]
  unfold State.atomic
  rw [ha]
  exact (if_neg Bool.false_ne_true).trans (if_neg (Bool.eq_false_iff.1 hstop))

theorem State.refusesAtomic_misaligned (h : a.va % a.size ≠ 0) : s.refusesAtomic a code ar = true := by
  simp [State.refusesAtomic, h]

theorem State.refusesAtomic_fails {c : Nat} (ht : s.myTranslate a.kind a.va = .fail c) : s.refusesAtomic a code ar = true := by
  simp [State.refusesAtomic, ht]

theorem State.atomicTags_needed {p : Dest} {mode : Nat} (ht : s.myTranslate a.kind a.va = .to p mode) (hn : s.needsTags p = true) :
    s.atomicTags a = true := by
  simp [State.atomicTags, ht, hn]

theorem State.atomic_readsTags {x e : Word} {mode sc : Nat} {p : Dest} (ho : a.op = .atomic code d x e ar sc) (hz : s.frozenAt p = false)
    (hn : s.needsTags p = true) : s.accessAt a p mode = s.readTags := by
  unfold State.accessAt
  simp only [ho, hz, hn, Bool.not_false, Bool.and_self, if_true]

end atomic
end checks

/-! ## Accesses that an open fault holds (R101) -/

section held
variable (s : State) (a : Acc) (kind level ipa : Nat)

/-- A fault is open on an access, the strand has gone on, and neither memory nor a register has changed. -/
structure HeldAt (s t : State) (a : Acc) (kind : Nat) : Prop where
  fault : ∃ f : OpenFault, t.faults = s.faults ++ [f] ∧ f.va = a.va ∧ f.kind = kind ∧ f.acc = accField a.kind
  mem : t.mem = s.mem
  regs : t.me.regs = s.me.regs
  pc : t.me.pc = s.me.pc + 4
  state : t.me.state = .run

/-- What the fault does to the strand before it goes on leaves its registers and its place. -/
theorem State.openFault_held (g : Strand → Strand) (hregs : ∀ t, (g t).regs = t.regs) (hpc : ∀ t, (g t).pc = t.pc) :
    let t := ((s.openFault (.scl s.myCore s.myStrand a) s.myCore s.me.sys.spaceid.toNat 0 a.kind a.va kind level ipa).modMe g).finish 4
    t.me = (g s.me).finish 4 ∧ HeldAt s t a kind := by
  generalize hu : s.openFault (.scl s.myCore s.myStrand a) s.myCore s.me.sys.spaceid.toNat 0 a.kind a.va kind level ipa = u
  have hme : ((u.modMe g).finish 4).me = (g s.me).finish 4 := by
    rw [State.finish, State.me_modMe, State.me_modMe, ← hu]
    rfl
  have hopen : ∃ f : OpenFault, u.faults = s.faults ++ [f] ∧ f.va = a.va ∧ f.kind = kind ∧ f.acc = accField a.kind := by
    rw [← hu]
    exact ⟨_, rfl, rfl, rfl, rfl⟩
  refine ⟨hme, ?_, ?_, ?_, ?_, ?_⟩
  · rw [State.finish, State.modMe_faults, State.modMe_faults]; exact hopen
  · rw [State.finish, State.modMe_mem, State.modMe_mem, ← hu]; rfl
  · rw [hme]; exact hregs s.me
  · rw [hme]; exact congrArg (· + 4) (hpc s.me)
  · rw [hme]; rfl

theorem State.load_held {d : Reg} {signed : Bool} (ho : a.op = .load d signed) :
    HeldAt s (s.holdAccess a kind level ipa) a kind ∧ (d ≠ 0 → (s.holdAccess a kind level ipa).me.pending d = true) := by
  have he : s.holdAccess a kind level ipa =
      ((s.openFault (.scl s.myCore s.myStrand a) s.myCore s.me.sys.spaceid.toNat 0 a.kind a.va kind level ipa).modMe
        fun t => t.mark d (.fault s.nextFault a)).finish 4 := by
    unfold State.holdAccess State.finishAtomic
    simp only [ho]
  have hregs (t : Strand) : (t.mark d (.fault s.nextFault a)).regs = t.regs := by rw [t.mark_rest]
  have hpc (t : Strand) : (t.mark d (.fault s.nextFault a)).pc = t.pc := by rw [t.mark_rest]
  obtain ⟨hme, hheld⟩ := s.openFault_held a kind level ipa _ hregs hpc
  rw [← he] at hme hheld
  refine ⟨hheld, fun hd => ?_⟩
  rw [hme]
  show (d != 0 && ((s.me.mark d (.fault s.nextFault a)).pend.any fun p => p.reg == d)) = true
  rw [Strand.mark_access_pend _ _ rfl]
  exact Bool.and_eq_true_iff.2 ⟨bne_iff_ne.2 hd, by simp⟩

theorem State.store_held {v : Word} {flush : Bool} (ho : a.op = .store v flush) :
    HeldAt s (s.holdAccess a kind level ipa) a kind ∧
      ∃ b : Buffered, (s.holdAccess a kind level ipa).me.stores = s.me.stores ++ [b] ∧ b.dest = none := by
  obtain ⟨b, hb, he⟩ : ∃ b : Buffered, b.dest = none ∧ s.holdAccess a kind level ipa =
      ((s.openFault (.scl s.myCore s.myStrand a) s.myCore s.me.sys.spaceid.toNat 0 a.kind a.va kind level ipa).modMe
        fun t => { t with stores := t.stores ++ [b] }).finish 4 := by
    unfold State.holdAccess State.finishAtomic
    simp only [ho]
    exact ⟨_, rfl, rfl⟩
  obtain ⟨hme, hheld⟩ := s.openFault_held a kind level ipa
    (fun t => { t with stores := t.stores ++ [b] }) (fun _ => rfl) (fun _ => rfl)
  rw [← he] at hme hheld
  exact ⟨hheld, b, by rw [hme]; rfl, hb⟩

end held

/-! ## The instructions -/

/-- The access of an LD.64 (R184, R185). -/
def State.ld64Acc (s : State) (d a : Reg) (k : BitVec 12) : Acc := ⟨s.me.pc, (s.ea a k).toNat, 8, .load d false⟩

/-- The access of an ST.64. -/
def State.st64Acc (s : State) (d a : Reg) (k : BitVec 12) : Acc := ⟨s.me.pc, (s.ea a k).toNat, 8, .store (s.reg d) false⟩

section instructions
variable {s : State} {d a b : Reg} {k : BitVec 12} {scope : BitVec 3} {ar : Bool} {P : State → Prop}

theorem State.ld64_runs (h : P (s.access (s.ld64Acc d a k))) : RunsTo (.ld64 d a k) s P := ⟨_, rfl, h⟩

theorem State.st64_runs (h : P (s.access (s.st64Acc d a k))) : RunsTo (.st64 d a k) s P := ⟨_, rfl, h⟩

theorem State.atomAdd_runs (ha : s.me.arrived = false)
    (hstop : s.atomicTags (s.atomicAcc 0 d a b ar true scope) = true ∨ s.refusesAtomic (s.atomicAcc 0 d a b ar true scope) 0 ar = true)
    (h : P (s.access (s.atomicAcc 0 d a b ar true scope))) : RunsTo (.atomAdd d a b ar scope true) s P :=
  ⟨_, State.atomic_accesses ha hstop, h⟩

end instructions

/-! ## The statement -/

/-- Settles O11: an access stops at its first failing check, reads tags before it writes a scratchpad, and is held by an open fault. -/
theorem accessStops : Obligations.AccessStops := by
  refine ⟨fun s d a b k c key mode scope ar => ⟨fun hf h => ⟨?_, ?_⟩, fun hf ha h => ?_, fun hf hc h => ⟨fun ht => ?_, fun ht => ?_⟩,
    fun hf hc ha h ht => ?_, fun hf h _ ht hz => ?_, fun hf h _ ht hz hn htag => ?_, fun hz hn => ⟨fun h ht => ?_, fun ha h ht => ?_⟩⟩,
    fun s d a k kind level ipa h => ⟨fun ht => ?_, fun ht => ?_⟩⟩
  · exact State.ld64_runs (State.access_traps rfl (State.access_misaligned h) hf (by decide))
  · exact State.st64_runs (State.access_traps rfl (State.access_misaligned h) hf (by decide))
  · exact State.atomAdd_runs ha (.inr (State.refusesAtomic_misaligned h))
      (State.access_traps rfl (State.access_misaligned h) hf (by decide))
  · exact State.ld64_runs (State.access_traps rfl (State.access_fails h ht) hf hc)
  · exact State.st64_runs (State.access_traps rfl (State.access_fails h ht) hf hc)
  · exact State.atomAdd_runs ha (.inr (State.refusesAtomic_fails ht)) (State.access_traps rfl (State.access_fails h ht) hf hc)
  · exact State.st64_runs (State.access_traps rfl ((State.access_reaches h ht).trans (State.store_frozen rfl hz)) hf (by decide))
  · exact State.st64_runs
      (State.access_traps rfl ((State.access_reaches h ht).trans (State.store_tagged rfl hz hn htag)) hf (by decide))
  · refine State.st64_runs ?_
    rw [State.access_reaches (a := s.st64Acc d a k) h ht, State.store_readsTags rfl hz hn]
    exact State.readTags_reads
  · refine State.atomAdd_runs ha (.inl (State.atomicTags_needed ht hn)) ?_
    rw [State.access_reaches (a := s.atomicAcc 0 d a b ar true scope) h ht, State.atomic_readsTags rfl hz hn]
    exact State.readTags_reads
  · refine State.ld64_runs ?_
    rw [State.access_held (a := s.ld64Acc d a k) h ht]
    obtain ⟨⟨hfault, hmem, hregs, hpc, hstate⟩, hpend⟩ := s.load_held (s.ld64Acc d a k) kind level ipa rfl
    exact ⟨hfault, hpend, hmem, hregs, hpc, hstate⟩
  · refine State.st64_runs ?_
    rw [State.access_held (a := s.st64Acc d a k) h ht]
    obtain ⟨⟨hfault, hmem, hregs, hpc, hstate⟩, hstores⟩ := s.store_held (s.st64Acc d a k) kind level ipa rfl
    exact ⟨hfault, hstores, hmem, hregs, hpc, hstate⟩

end Sys2Proof.Machine
end
